-- ==== Sys2Proof/Word.lean ====
section
/-! DEFINITION. The word types of the register space: 32-bit registers (R34) and the bytes of the memories. -/
namespace Sys2Proof

/-- A register of the internal space, 32 bits wide (R34). -/
abbrev Word := BitVec 32

/-- A byte of Pasture, DRAM or the NVM. -/
abbrev Byte := BitVec 8

end Sys2Proof
end

