-- ==== Sys2Proof/Syntax.lean ====
section
/-! DEFINITION. The commands of the block: one constructor for each row of the opcode table, with the operands that the
row's rule gives it. A command is an access that a party makes, an event on a pin or a link, or a step of one of the
device's own engines, whose time has come. -/
namespace Sys2Proof

/-- A party that reaches register pages (R43, R44): the two worlds of the control cores, a manager on an upstream port
and a paddock. A debugger access counts as the world whose enable permits it (R494). -/
inductive Party where
  | fold
  | field
  | manager (u : Fin 2)
  | paddock (p : Fin 512)
deriving DecidableEq, Repr

/-- Widths of a register access in bytes (R37). -/
inductive Width where
  | b1 | b2 | b4 | b8
deriving DecidableEq, Repr

/-- What the waves of one draw or dispatch do to memory: the flock they run on, the reads (address, bytes), the stores in
the order they take effect, the Fleece images read (set, binding), the waves that it brings to each core (R256), and the tiles
that its fragments reach, counted in row order of the pass. What a shader computes is the shader's, which SPIR-V defines; the
device's rules for these accesses are R263, R268 and R299. -/
structure ShaderRun where
  flock : Fin 4
  loads : List (Nat × Nat)
  stores : List (Nat × List Byte)
  images : List (Fin 4 × Fin 64)
  waves : List (Fin 24 × Nat) := []
  tiles : List Nat := []
deriving DecidableEq, Repr

/-- The architectural registers of a control core, as far as the switches of R477–R479 move them: the program counter, the mode
(3 M, 1 S, 0 U), x1 to x31, f0 to f31 and fcsr. -/
structure CoreFile where
  pc : BitVec 64 := 0
  mode : Fin 4 := 3
  x : List (BitVec 64) := []
  f : List (BitVec 64) := []
  fcsr : Word := 0
deriving DecidableEq, Repr

/-- A requester of the isochronous lane, with what makes it urgent (R583, R584): a layer pipe, and what has been fetched of its
next line in sixteenths; a camera stream, and whether its DRAM write buffer is more than half full; a writeback engine, and the
pixels that wait in its queue. -/
inductive IsoSrc where
  | pipe (i : Fin 64) (part : Nat)
  | stream (n : Fin 16) (half : Bool)
  | wb (k : Fin 2) (pixels : Nat)
deriving DecidableEq, Repr

/-- A request to a bank of Pasture (R544, R548): its tier, its requester number within the tier, its world, and the fabric cycles
that it has waited; it writes `v`, or reads `bytes` bytes. -/
structure PastReq where
  tier : Fin 4
  num : Nat
  fold : Bool
  off : BitVec 25
  bytes : Nat
  v : Option (List Byte)
  waited : Nat
deriving DecidableEq, Repr

/-- Where a request stands in the arbitration (R548, R549): its requester number within the tier, the fabric cycles that it has
waited, and the requests that stand at their banks with it. -/
structure PastTurn where
  num : Nat
  waited : Nat
  others : List PastReq
deriving DecidableEq, Repr

/-- A shader core whose register file or local memory failed, and the errors it has corrected since the one before (R297, R300). -/
structure CoreFail where
  core : Fin 24
  corrected : BitVec 16
deriving DecidableEq, Repr

inductive Instr where
  /-- REGISTER_WRITE (R53). A write to a register that has no row of its own takes effect according to its access type, after the ownership, lock and width checks. -/
  | registerWrite (who : Party) (addr : BitVec 32) (w : Width) (v : BitVec 64) (sense : Nat)
  /-- UNMAPPED_ACCESS (R35). An access to an address in no page reads 0, is dropped, records UNMAPPED_ADDR and UNMAPPED_INFO and raises UNMAPPED_ACCESS. -/
  | unmappedAccess (fold write : Bool) (addr : BitVec 32)
  /-- SEQUENCE_CLEAR (R56). A write to an SQ register clears the masked event bits if its SEQ matches, or else increments the stale-clear counter. -/
  | sequenceClear (who : Party) (addr : BitVec 32) (v : Word)
  /-- GP_WRITE (R59). A write to a GP register holds its value pending and fails any earlier pending value. -/
  | gpWrite (who : Party) (addr : BitVec 32) (v : Word)
  /-- GUARD_WRITE (R59). A write of the complement to GUARD makes the pending GP value effective, or fails and raises GUARD_FAIL. -/
  | guardWrite (who : Party) (addr : BitVec 32) (v : Word)
  /-- GUARD_WINDOW_EXPIRY (R59). 256 cycles pass after a GP write without its GUARD write, so the pending value is discarded and GUARD_FAIL is raised. -/
  | guardWindowExpiry (page : BitVec 32)
  /-- HOLD_WRITE (R48). A Fold-world write sets or clears a block's HOLD bit. -/
  | holdWrite (who : Party) (p : BitVec 32) (on : Bool)
  /-- HELD_REQUESTS_ACT (R492). Once HOLD has cleared in every page of a block, its latched clock and power requests act within 1 µs. -/
  | heldRequestsAct (code : Byte)
  /-- PARITY_SCRUB (R62). Every 1 ms the scrubber checks the configuration parity of every page and records mismatches. -/
  | parityScrub
  /-- DALE_OUT_OF_RESET (R96). After 1 ms of debounce from the last supply valid, the Dale die leaves reset and the Sheepdog runs its self-test and reads the fuses. -/
  | daleOutOfReset
  /-- SELF_TEST_DONE (R96). The Sheepdog's lockstep self-test completes, the tether trains and the Fell die enters its load state. -/
  | selfTestDone (fails : List (Fin 64 × Nat))
  /-- TETHER_TRAINED (R513). Tether training completes on all lanes or on one whole half of each direction. -/
  | tetherTrained (up down : Nat)
  /-- HEADER_READ (R88). The header, section table, manifest and signature of the slot are read and checked, and 8D-8D-8D mode is entered. -/
  | headerRead (garbled : Bool)
  /-- SIGNATURE_VERIFIED (R86). ECDSA verification of the image signature completes. -/
  | signatureVerified
  /-- GROUP1_READ (R96). Group 1 has been read, hashed and stored, its checks complete, and KEYS and WHISTLE are applied on the Dale die. -/
  | group1Read (nF : List (Fin 16 × Nat))
  /-- NVM_READ_ERROR (R86). An NVM read error stops the reading, and the checks whose data was read are completed to choose the reason. -/
  | nvmReadError (read : Nat)
  /-- RECOVERY_ATTEMPT (R103). 2 s after the previous attempt, the Sheepdog tries slots A and B again in 1S mode, unless XSPI_CS_N is low. -/
  | recoveryAttempt (csLow : Bool)
  /-- FELL_RELEASED (R96). Any life-cycle transition is carried out, the control cores start FELL_FW and group 2 starts streaming into Pasture. -/
  | fellReleased
  /-- FIRMWARE_CONFIGURED (R96). The firmware has applied the image's configuration sections, starts the Fold part, DRAM training and PCIe link training. -/
  | firmwareConfigured
  /-- GROUP2_SECTION_CHECK (R89). A group-2 section finishes reading and is checked, reread once, taken from the other slot or marked SECTION_LATE. -/
  | group2SectionCheck (garbled : Bool)
  /-- FIRST_SAFE_PICTURE (R96). The last active line of the first frame has left every first-picture port, and T_SAFE and FIRST_PICTURE are set. -/
  | firstSafePicture
  /-- DRAM_TRAINED (R440). DRAM training completes, the frame ownership table is set, group 2 moves into DRAM, the Field part starts and the GPU is enabled. -/
  | dramTrained
  /-- FULL_COMPOSITION (R96). Bellwether contexts are bound and every head composes all its layers, and T_FULL, FULL_COMPOSITION and any SVN advance follow. -/
  | fullComposition
  /-- READ_PAGE (R108). The NVM command reads 256 bytes from NVM_ADDR into the page buffer. -/
  | readPage (who : Party)
  /-- PROGRAM_PAGE (R108). The NVM command programs the page buffer to NVM_ADDR. -/
  | programPage (who : Party)
  /-- ERASE_SECTOR (R108). The NVM command erases the 64 KiB sector at NVM_ADDR. -/
  | eraseSector (who : Party)
  /-- VERIFY_A (R108). The NVM command runs the full start check of slot A without starting it. -/
  | verifyA (who : Party)
  /-- VERIFY_B (R108). The NVM command runs the full start check of slot B without starting it. -/
  | verifyB (who : Party)
  /-- NVM_CMD_DONE (R108). An NVM command ends, LAST_RESULT is set and DONE is raised. -/
  | nvmCmdDone (error : Bool)
  /-- NVM_CMD_RESUME (R109). An NVM command that waited for a Cairn export starts once the export ends. -/
  | nvmCmdResume
  /-- COMMIT (R119). A write of COMMIT bit 0 commits the staged state of every pipe of the writer on that head, numbering and checking it. -/
  | commit (who : Party) (p : Fin 64)
  /-- LINE_TRIG_COMMIT (R188). A write of COMMIT with LINE_TRIG commits appearance changes to apply at line TRIG_LINE, or is refused as a whole. -/
  | lineTrigCommit (who : Party) (p : Fin 64) (line : BitVec 13)
  /-- DISABLED_HEAD_COMMIT_APPLY (R124). A commit to a disabled head applies within 1 µs, sets COMMIT_APPLIED and releases surfaces no longer read. -/
  | disabledHeadCommitApply (h : Fin 8)
  /-- PIPE_RESTART (R170). A write of CTRL.RESTART ends a pipe's isolation and it shows its last active configuration from the next frame start. -/
  | pipeRestart (who : Party) (p : Fin 64)
  /-- COEF_DATA_WRITE (R164). A write to COEF_DATA stores a tap pair and advances the tap index and phase. -/
  | coefDataWrite (who : Party) (p : Fin 64) (v : Word)
  /-- PIPE_FETCH (R319). A layer pipe's fetch of a line of its turned source, or of a display line for DIRECT, completes after the ownership check. -/
  | pipeFetch (p : Fin 64) (line : Nat)
  /-- LAST_LINE_FETCHED (R160). The last line of a frame has been fetched, so replaced surfaces are released and RELEASED_SEQ advances. -/
  | lastLineFetched (h : Fin 8)
  /-- SHEPHERD_DEMOTE_C (R153). The lead, in sixteenths of a line, has stayed below LEAD_MIN for HOLD_CYC × 8 cycles. -/
  | shepherdDemoteC (h : Fin 8) (part : Fin 16)
  /-- SHEPHERD_DEMOTE_O (R153). O_DELAY × 64 cycles after the first step, with the lead over the remaining layers. -/
  | shepherdDemoteO (h : Fin 8) (part : Fin 16)
  /-- LUT_DATA_WRITE (R151). A write to LUT_DATA loads an entry into the inactive bank and increments LUT_INDEX, or is dropped while a swap is pending. -/
  | lutDataWrite (who : Party) (v : Word)
  /-- LUT_DATA_READ (R171). A read of LUT_DATA returns the inactive bank's entry and increments LUT_INDEX. -/
  | lutDataRead (who : Party)
  /-- COLOUR_SWAP_REQUEST (R151). A write of 1 to COLOUR_CTRL.SWAP requests a bank swap at the head's next frame start. -/
  | colourSwapRequest (who : Party) (h : Fin 8)
  /-- WB_ARM (R156). A write to WB_ARM applies the writeback settings at the captured head's next frame start, or is refused. -/
  | wbArm (who : Party) (k : Fin 2)
  /-- WB_FRAME_DONE (R156). The last line of a captured frame and any Fleece header are written, so DONE, WB_FRAME and LAST_BUF are set. -/
  | wbFrameDone (k : Fin 2)
  /-- HEAD_ENABLE (R178). A write of ENABLE 1 to a disabled head checks timing, sync source and summed pixel clock, and starts the head or refuses it. -/
  | headEnable (who : Party) (h : Fin 8)
  /-- HEAD_DISABLE (R180). A write of ENABLE 0 takes effect at the end of the current frame, stopping the port's stream and the pixel clock. -/
  | headDisable (who : Party) (h : Fin 8)
  /-- PIXEL_PLL_LOCKED (R180). An enabled head's pixel PLL locks and the head starts its first frame. -/
  | pixelPllLocked (h : Fin 8)
  /-- PLL_UNLOCK (R211). A head's pixel PLL loses lock and PLL_UNLOCK is raised. -/
  | pllUnlock (h : Fin 8)
  /-- HEAD_RESTART (R212). A write of HEAD_CTRL.RESTART ends the head's isolation from the next frame start. -/
  | headRestart (who : Party) (h : Fin 8)
  /-- FRAME_BEGIN (R181). At the start of line −Vb the head increments FRAME_COUNT and starts run-ahead prefetch for the coming frame. -/
  | frameBegin (h : Fin 8)
  /-- FRAME_START (R181). At line 0 latched commits, bank swaps, window commits and new enables take effect and demotions end. -/
  | frameStart (h : Fin 8)
  /-- LINE_START (R181). The line, its pixels that underrun (R198), and the writeback engines that cannot take it (R158). -/
  | lineStart (h : Fin 8) (line : Int) (under : List Nat) (wbOver : List (Fin 2))
  /-- SYNC_OUT_PULSE_END (R199). WIDTH_US after its start the SYNC_OUT pulse ends. -/
  | syncOutPulseEnd (h : Fin 8) (pin : Fin 2)
  /-- SYNC_EDGE (R193). The crystal cycles since the previous edge, and the pixel clocks of the hold or of the skip (R193). -/
  | syncEdge (h : Fin 8) (period : Nat) (phase : Nat)
  /-- SYNC_TIMEOUT (R195). No sync edge arrives within 1.5 × P₀ of the previous one, which is a loss. -/
  | syncTimeout (h : Fin 8)
  /-- CUT_HOLD (R193). A hold lasts longer than 2.5 % of Tf and ends without an edge. -/
  | cutHold (h : Fin 8)
  /-- PORT_SOURCE_CHANGE (R200). A write to PORT_CTRL source fields stops the stream and connects the new head at its next frame begin, or sets SRC_REFUSED. -/
  | portSourceChange (who : Party) (n : Fin 8) (en : Bool) (h : Fin 8)
  /-- RETRAIN (R203). A write of PORT_CTRL.RETRAIN starts link training from the top and ends isolation. -/
  | retrain (who : Party) (n : Fin 8)
  /-- LINK_TRAINING_DONE (R202). The rate code, the lane code (1, 2 or 4 lanes) and whether the sink reports MSA_TIMING_PAR_IGNORED. -/
  | linkTrainingDone (n : Fin 8) (ok : Bool) (rate : Fin 6) (lanes : Fin 3) (msaIgnore : Bool)
  /-- TRAIN_RETRY (R202). 1 s after a failed training with HPD high, the port trains again from the top. -/
  | trainRetry (n : Fin 8)
  /-- HPD_UNPLUG (R203). HPD stays low for 2 ms, so the port stops its stream and sets HPD_UNPLUG. -/
  | hpdUnplug (n : Fin 8)
  /-- HPD_PLUG (R203). HPD rises after an unplug, so the port sets HPD_PLUG and trains. -/
  | hpdPlug (n : Fin 8)
  /-- IRQ_HPD (R203). Whether the sink reports loss of lock. -/
  | irqHpd (n : Fin 8) (lost : Bool)
  /-- AUX_CMD (R204). A write to AUX_CMD with GO starts an AUX transaction, or is refused while busy or with an unknown request. -/
  | auxCmd (who : Party) (n : Fin 8) (v : Word)
  /-- AUX_DONE (R204). RESULT 0 to 2, the sink's reply, the bytes it took or sent, and the data of a read. -/
  | auxDone (n : Fin 8) (result : Fin 3) (reply : Fin 3) (count : Fin 17) (bytes : List Byte)
  /-- SHORT (R205). A lane, or AUX as lane 4, shorted to ground or to the supply. -/
  | short (n : Fin 8) (lane : Fin 5) (supply : Bool)
  /-- SHORT_RETEST (R205). The shorts found: lanes 0 to 3 and AUX, each 0 none, 1 to ground, 2 to supply. -/
  | shortRetest (n : Fin 8) (kinds : List (Fin 3))
  /-- CSI_PORT_ENABLE (R218). A write to CSI_CTRL enables a CSI port or refuses it for lane order, rate or lanes. -/
  | csiPortEnable (who : Party) (p : Fin 4) (v : Word)
  /-- CSI_RESTART (R249). A write of CSI_CTRL.RESTART ends the port's isolation. -/
  | csiRestart (who : Party) (p : Fin 4)
  /-- CSI_ULPS (R217). The lanes enter or leave ULPS. -/
  | csiUlps (p : Fin 4) (enter : Bool)
  /-- CSI_FS (R219). A frame-start packet of a port and virtual channel; `hdr` is 0 for a good header, 1 for a corrected one, 2 for another error. -/
  | csiFs (p : Fin 4) (vc : Nat) (hdr : Nat)
  /-- CSI_LONG_PACKET (R220). A long packet with its header check, payload check, the fabric cycles since its frame's FS and its payload. -/
  | csiLongPacket (p : Fin 4) (vc dt hdr : Nat) (crcOk : Bool) (t : Nat) (payload : List Byte)
  /-- CSI_FE (R226). A frame-end packet closes the stream's frame, completing it or marking it incomplete, and updates the frame CRC. -/
  | csiFe (p : Fin 4) (vc : Nat) (hdr : Nat)
  /-- STREAM_ENABLE (R225). A write to STREAM_CTRL enables a stream after its checks, or clears ENABLE to take effect at the next FS. -/
  | streamEnable (who : Party) (n : Fin 16) (v : Word)
  /-- STREAM_LOST (R247). No FS arrives within 1.5 × FRAME_PERIOD, so direct layers hold and synced heads lose lock. -/
  | streamLost (n : Fin 16)
  /-- STREAM_RESTART (R249). A write of STREAM_CTRL.RESTART restarts an isolated stream at the next FS. -/
  | streamRestart (who : Party) (n : Fin 16)
  /-- DW_APPLY (R238). A write of DW_APPLY bit 0 requests a new mesh to be checked and applied at the next FS. -/
  | dwApply (who : Party) (n : Fin 8)
  /-- DW_RESTART (R254). A write of DW_APPLY bit 31 restarts an isolated dewarp engine. -/
  | dwRestart (who : Party) (n : Fin 8)
  /-- DW_LINE_BEGIN (R239). The engine begins its next output line, after a wait for a free slot or without. -/
  | dwLineBegin (n : Fin 8) (waited : Bool)
  /-- DW_LINE_VISIBLE (R239). 2 × W_out + 96 cycles after it began, a dewarp output line becomes visible to readers. -/
  | dwLineVisible (n : Fin 8)
  /-- CTX_ENABLE (R262). A write of CTX_CTRL.ENABLE 1 takes an OFF context to IDLE or faults it with reason QUEUE. -/
  | ctxEnable (who : Party) (n : Fin 64)
  /-- CTX_DISABLE (R298). A write that clears ENABLE completes started packets, stops fetching and moves the context to OFF. -/
  | ctxDisable (who : Party) (n : Fin 64)
  /-- QUEUE_WPTR (R263). A write of QUEUE_WPTR rings the doorbell and moves an idle context to READY. -/
  | queueWptr (who : Party) (n : Fin 64) (v : BitVec 20)
  /-- NOP (R264). A NOP packet is skipped. -/
  | nop (n : Fin 64)
  /-- PIPELINE (R271). A PIPELINE packet is taken; before a call of R283 the front end looks up the pipelines that follow. -/
  | pipeline (n : Fin 64)
  /-- BIND_RESOURCES (R268). A BIND_RESOURCES packet binds a resource table to a descriptor set. -/
  | bindResources (n : Fin 64)
  /-- PUSH (R264). A PUSH packet sets push-constant words. -/
  | push (n : Fin 64)
  /-- PASS_BEGIN (R275). A PASS_BEGIN packet opens a render pass after checking its attachments. -/
  | passBegin (n : Fin 64)
  /-- PASS_END (R277). The last tile is done, with the tiles that flocks 0 to 2 rendered; flock 3 rendered the rest. -/
  | passEnd (n : Fin 64) (t0 t1 t2 : Nat)
  /-- DRAW (R265). The pens that the binner needs for it, and its estimate for the rest of the pass. -/
  | draw (n : Fin 64) (run : ShaderRun) (pens need : Nat)
  /-- DRAW_INDEXED (R265). As DRAW. -/
  | drawIndexed (n : Fin 64) (run : ShaderRun) (pens need : Nat)
  /-- DRAW_INDIRECT (R265). As DRAW. -/
  | drawIndirect (n : Fin 64) (run : ShaderRun) (pens need : Nat)
  /-- DISPATCH (R265). A DISPATCH packet issues a compute grid outside a pass. -/
  | dispatch (n : Fin 64) (run : ShaderRun)
  /-- DISPATCH_INDIRECT (R265). A DISPATCH_INDIRECT packet issues a compute grid whose size lies in memory. -/
  | dispatchIndirect (n : Fin 64) (run : ShaderRun)
  /-- BARRIER (R265). A BARRIER packet makes selected earlier writes visible before later reads. -/
  | barrier (n : Fin 64)
  /-- FENCE_SIGNAL (R265). A FENCE_SIGNAL packet writes the fence value once earlier work is visible, optionally raising FENCE. -/
  | fenceSignal (n : Fin 64)
  /-- FENCE_WAIT (R265). A FENCE_WAIT packet holds the context in WAITING until the fence reaches its value. -/
  | fenceWait (n : Fin 64)
  /-- FENCE_RECHECK (R265). Every 10 µs, and at every FENCE_SIGNAL, waiting fences are read again and met waits end. -/
  | fenceRecheck
  /-- PEN_RING (R265). A PEN_RING packet replaces the context's pen ring registers. -/
  | penRing (n : Fin 64)
  /-- WAIT_CALL (R283). A WAIT_CALL packet holds a Bellwether queue until a deadline call, or faults any other context. -/
  | waitCall (n : Fin 64)
  /-- LAYER_COMMIT (R266). A LAYER_COMMIT packet waits for earlier work, writes staged pipe registers and commits as the context's owner. -/
  | layerCommit (n : Fin 64)
  /-- TRANSLATION_DONE (R272). Entries evicted to make room, and the first refused item of a module that fails validation. -/
  | translationDone (n : Fin 64) (evict : Nat) (refused : Option (BitVec 16))
  /-- TRANSLATION_TIMEOUT (R274). A translation not completed within 100 ms faults its context with reason SHADER. -/
  | translationTimeout (n : Fin 64)
  /-- PREEMPT_SAVE_DONE (R286). The cores saved and the bytes of their state. -/
  | preemptSaveDone (n : Fin 64) (cores : List (Fin 24 × Nat))
  /-- TILE_STOP_TIMEOUT (R286). A fragment tile has not ended 24 µs after the stop request, so its waves are discarded and the tile is redone later. -/
  | tileStopTimeout (n : Fin 64) (f : Fin 4)
  /-- BELLWETHER_FIRST_WAVE (R284). The fabric cycles since the call. -/
  | bellwetherFirstWave (n : Fin 64) (lat : Word)
  /-- PREEMPT_RESTORE_DONE (R287). Saved waves are restored once no level-0 waves remain on the core, and the context returns to RUNNING. -/
  | preemptRestoreDone (n : Fin 64)
  /-- CTX_CMD_RESET (R262). CTX_CMD.RESET discards waves, pass and pens and returns the context to OFF with its pointers at 0. -/
  | ctxCmdReset (who : Party) (n : Fin 64)
  /-- PREEMPT_SAVE (R289). CTX_CMD.PREEMPT_SAVE stops the context and writes its state to the save area, or drains it if there is none. -/
  | preemptSave (who : Party) (n : Fin 64)
  /-- CTX_SAVE_DONE (R289). The KiB of state written. -/
  | ctxSaveDone (n : Fin 64) (kib : Nat)
  /-- CTX_DRAIN_DONE (R289). A drained context has completed its queue to the recorded write pointer and enters IDLE. -/
  | ctxDrainDone (n : Fin 64)
  /-- RESUME (R289). CTX_CMD.RESUME restores a saved context to READY. -/
  | resume (who : Party) (n : Fin 64)
  /-- CTX_RESTART (R262). A write of CTX_CTRL.RESTART takes an isolated context to OFF. -/
  | ctxRestart (who : Party) (n : Fin 64)
  /-- PEN_WPTR (R279). A write of PEN_WPTR supplies pens and resumes binning for a starved context. -/
  | penWptr (who : Party) (n : Fin 64) (v : BitVec 16)
  /-- PEN_TIMEOUT (R279). No pen arrives within PEN_CFG.TIMEOUT, so the GPU makes a partial render. -/
  | penTimeout (n : Fin 64)
  /-- PARTIAL_RENDER (R280). The tiles as in PASS_END. -/
  | partialRender (n : Fin 64) (t0 t1 t2 : Nat)
  /-- RUN_LIMIT_TIMEOUT (R298). A draw or dispatch runs longer than RUN_LIMIT and faults with reason TIMEOUT. -/
  | runLimitTimeout (n : Fin 64)
  /-- GPU_LEVEL_WINDOW (R292). Busy issue slots among the issue slots of the window. -/
  | gpuLevelWindow (busy slots : Nat)
  /-- LEVEL_DEFERRAL_END (R292). A deferred level fall takes effect when no call is outstanding or after 20 ms. -/
  | levelDeferralEnd
  /-- VOLTAGE_RAMP_DONE (R292). The voltage ramp of a raise completes and the GPU switches to the higher clock. -/
  | voltageRampDone
  /-- VFG_SETTLE (R606). VDD_FG as measured, in mV. -/
  | vfgSettle (mv : Nat)
  /-- THROTTLE (R293). The temperature in °C, signed. -/
  | throttle (temp : BitVec 8)
  /-- CAP_RISE (R293). Below THROTTLE − 5 °C the thermal cap rises one level every 100 ms. -/
  | capRise (temp : BitVec 8)
  /-- THERMAL_TRIP (R293). At the junction limit the GPU drops to level 0 and raises THERMAL_TRIP. -/
  | thermalTrip (temp : BitVec 8)
  /-- FLOCK_POWER_DOWN (R294). A flock with no work for 1 ms powers itself down. -/
  | flockPowerDown (f : Fin 4)
  /-- FLOCK_WAKE (R294). A powered-down flock wakes when work arrives. -/
  | flockWake (f : Fin 4)
  /-- CORE_ERR (R297). The context of the wave, and the core. -/
  | coreErr (n : Fin 64) (fail : CoreFail)
  /-- GPU_RESTART (R296). A write of GPU_CTRL.RESTART ends the GPU's isolation. -/
  | gpuRestart (who : Party)
  /-- CHK_COMMIT (R317). A write of CHK_COMMIT bit 0 commits the staged window state to apply at the next frame start after the window. -/
  | chkCommit (who : Party) (h : Fin 8)
  /-- CHK_RESTART (R325). A write of CHK_COMMIT bit 31 ends the CHK page's isolation. -/
  | chkRestart (who : Party) (h : Fin 8)
  /-- WINDOW_EVAL (R312). Eight cycles after its last pixel a check window's CRC is compared, updating RUN, MISS and LAST_CRC. -/
  | windowEval (h : Fin 8) (w : Fin 16)
  /-- FAIL_CLEAR (R315). A write of FAIL_CLEAR clears window latches and returns RUN to 0. -/
  | failClear (who : Party) (h : Fin 8) (v : BitVec 16)
  /-- LG_ENABLE (R331). A write of LG_CTRL.ENABLE takes a Laiga port from OFF to ALIGN or back to OFF. -/
  | lgEnable (who : Party) (n : Fin 8) (v : Word)
  /-- LG_RESTART (R331). A write of LG_CTRL.RESTART takes an isolated Laiga port to OFF. -/
  | lgRestart (who : Party) (n : Fin 8) (v : Word)
  /-- UPLINK_ALIGNED (R330). Four error-free IDLE pairs align the uplink, inverting the pair if needed, and the port sends HELLO. -/
  | uplinkAligned (n : Fin 8) (inverted : Bool)
  /-- HELLO_RETRY (R331). Every 1 ms an unanswered HELLO or CONFIG is sent again, and after three the link is LOST. -/
  | helloRetry (n : Fin 8)
  /-- REPLY (R335). A REPLY frame to HELLO or CONFIG is received, taking the link to UP or completing configuration. -/
  | reply (n : Fin 8) (bytes : List Byte) (codeErr : Bool)
  /-- SCAN_TICK (R337). Every 1 ÷ SCAN_RATE the device sends the next SCAN of the pattern with an incremented SEQ. -/
  | scanTick (n : Fin 8)
  /-- MUTUAL (R341). A MUTUAL frame is processed into deltas, blobs, contacts and tracks, and records are written to the rings. -/
  | mutualC (n : Fin 8) (bytes : List Byte) (codeErr late : Bool)
  /-- SELF (R341). A SELF frame updates the self baselines, judges electrodes and feeds classification. -/
  | self (n : Fin 8) (bytes : List Byte) (codeErr late : Bool)
  /-- LISTEN (R339). A LISTEN frame measures the noise of another enabled frequency. -/
  | listen (n : Fin 8) (bytes : List Byte) (codeErr late : Bool)
  /-- SUSPECT_TIMEOUT (R347). A suspect area stays unchanged for 2 s and its suspect marks clear. -/
  | suspectTimeout (n : Fin 8) (node : Nat)
  /-- FORCED_LIFT (R347). A track down for MAX_TOUCH_S is reported UP with FORCED_LIFT and its nodes are re-arming. -/
  | forcedLift (n : Fin 8) (track : Nat)
  /-- UPLINK_LOSS (R331). No good frame for 3 scan periods, or code errors for 1 ms, moves the link to LOST. -/
  | uplinkLoss (n : Fin 8)
  /-- LOST_TO_ALIGN (R331). 100 ms after LOST the link returns to ALIGN. -/
  | lostToAlign (n : Fin 8)
  /-- PANEL_ENABLE (R338). A write of PANEL_CTRL.ENABLE checks the panel and starts it, waiting for the link, or refuses it. -/
  | panelEnable (who : Party) (n : Fin 8) (v : Word)
  /-- REBASE (R369). A write of PANEL_CTRL.REBASE restarts the panel's baseline building. -/
  | rebase (who : Party) (n : Fin 8)
  /-- PANEL_RESTART (R369). A write of PANEL_CTRL.RESTART ends isolation and restarts baselining. -/
  | panelRestart (who : Party) (n : Fin 8)
  /-- REGION_WRITE (R353). A write to a region's registers changes it from the next mutual frame, or is refused. -/
  | regionWrite (who : Party) (n : Fin 8) (r : Fin 64) (reg : Fin 3) (v : Word)
  /-- RING_CFG_WRITE (R356). A write of RING_CFG enables a report ring or is refused with RING_REFUSED. -/
  | ringCfgWrite (who : Party) (ring : Fin 514) (v : Word)
  /-- RING_RPTR_WRITE (R357). A write of RING_RPTR frees ring space, and a GAP record is written once two records fit. -/
  | ringRptrWrite (who : Party) (ring : Fin 514) (v : Word)
  /-- TCH_RESTART (R368). A write of TCH_CTRL.RESTART ends the TCH page's isolation. -/
  | tchRestart (who : Party)
  /-- KEY_SAMPLE (R363). Every 1 ms the Dale die samples all keys, moves their states, applies the group rule, triggers clicks and sends KEY records. -/
  | keySample (raw : List Word)
  /-- KEY_SHORT_TEST (R366). Once per second each key is measured alone to find shorts to other keys. -/
  | keyShortTest (sat : List (Fin 48))
  /-- KEY_FORCED_LIFT (R363). A key DOWN for MAX_TOUCH_S is forced up and enters REARM. -/
  | keyForcedLift (k : Fin 48)
  /-- KEY_REBASE (R371). A write of KEY_CTRL.REBASE rebaselines the keys. -/
  | keyRebase (who : Party)
  /-- KEY_RESTART (R371). A write of KEY_CTRL.RESTART ends isolation and rebaselines every key. -/
  | keyRestart (who : Party)
  /-- BOOST_CTRL_WRITE (R373). A write of BST_CTRL enables, disables or retargets a boost, which ramps or bleeds its rail. -/
  | boostCtrlWrite (who : Party) (b : Fin 2) (v : Word)
  /-- VHV_OK (R373). A ramping rail comes within 3 % of its setpoint and VHV_OK is set. -/
  | vhvOk (b : Fin 2) (tenths : BitVec 16)
  /-- CH_ENABLE (R377). A write of CH_CFG.ENABLE enables a channel, which probes its load, or disables it to its safe value. -/
  | chEnable (who : Party) (n : Fin 16) (v : Word) (nF : Nat)
  /-- TRIGGER (R383). A write of TRIG_n without STOP submits a trigger, which is checked and refused or accepted. -/
  | trigger (who : Party) (page : Option (Fin 512)) (n : Fin 16) (v : Word)
  /-- STOP (R387). A write of TRIG_n with STOP empties the pending slot of its class and brakes a running effect of that class. -/
  | stop (who : Party) (page : Option (Fin 512)) (n : Fin 16) (v : Word)
  /-- HAP_SAMPLE (R384). At each 48 kHz boundary triggers are taken, effects advance through their phases and the next pending effect starts. -/
  | hapSample (nF : List (Fin 16 × Nat))
  /-- PEND_TIMEOUT (R386). A pending trigger whose age reaches PEND_MAX is dropped. -/
  | pendTimeout (n : Fin 16) (cls : Fin 3)
  /-- ON_LIMIT (R389). An effect's drive reaches ON_MAX and goes into its brake. -/
  | onLimit (n : Fin 16)
  /-- DUTY_UPDATE (R389). Every 1 ms each channel's duty over the last second is updated. -/
  | dutyUpdate
  /-- THERM_WARN (R389). The haptic temperature reaches T_WARN, halving O and C levels until it falls 5 °C. -/
  | thermWarn (temp : BitVec 8)
  /-- HAP_THERM_TRIP (R389). The temperature reaches the junction limit, braking every effect and refusing triggers. -/
  | hapThermTrip (temp : BitVec 8)
  /-- CAP_PROBE (R377). Every 1 s an idle channel probes its load capacitance and judges open or shorted loads. -/
  | capProbe (n : Fin 16) (nF : Nat)
  /-- HAP_SHORT (R390). A leg current above 2.5 A for 2 µs puts the channel in FAULT at its safe value. -/
  | hapShort (n : Fin 16) (kind : Fin 3)
  /-- CH_SHORT_RETRY (R390). 100 ms after a short the channel retries, unless it has shorted four times in 10 s. -/
  | chShortRetry (n : Fin 16)
  /-- BOOST_FAULT (R391). A boost detects overvoltage, undervoltage, overcurrent or bad VMACH, stops and sends its bank to safe values. -/
  | boostFault (b : Fin 2) (kind : Fin 4)
  /-- BOOST_RETRY (R391). After 100 ms, or 10 ms of valid VMACH, a faulted boost ramps again. -/
  | boostRetry (b : Fin 2)
  /-- HAP_RESTART (R396). A write of HAP_CTRL.RESTART ends isolation and ramps enabled boosts. -/
  | hapRestart (who : Party)
  /-- WH_DATA_READ (R396). A read of WH_DATA returns a Whistle sample and increments INDEX. -/
  | whDataRead (who : Party)
  /-- ROUTE_COMMIT (R404). A write of ROUTE_COMMIT checks and applies the staged routes, starting their ramps. -/
  | routeCommit (who : Party) (v : Word)
  /-- ROUTE_DEFERRED_APPLY (R409). A route change deferred for a fourth instance applies when the oldest fade ends. -/
  | routeDeferredApply (r : Fin 256)
  /-- AUDIO_SAMPLE_FRAME (R411). Each domain's sample frame evaluates inputs, buses, routes, ramps, ducking and limiters. -/
  | audioSampleFrame (dom : Fin 3) (inputs : List (BitVec 8 × BitVec 24))
  /-- DUCK_OFF (R413). No S route has been active for HOLD_MS and the duck release starts. -/
  | duckOff
  /-- DOMAIN_LOST (R401). A slave-clocked domain loses its frame sync or leaves its rate and continues on its PLL. -/
  | domainLost (dom : Fin 3) (ppm : BitVec 16)
  /-- DOMAIN_BACK (R401). The slave clock has been in range for 100 ms and the domain returns to it. -/
  | domainBack (dom : Fin 3) (ppm : BitVec 16)
  /-- TDM_SLIP (R417). Each second in which a slave port's frame count differs from the domain's counts a slip. -/
  | tdmSlip (p : Fin 4)
  /-- ST_APPLY (R416). A write of ST_APPLY schedules side-tone changes at zero crossings, or is refused for bad codes. -/
  | stApply (who : Party) (v : Word)
  /-- ST_ZERO_CROSSING (R416). A pending side-tone element applies at its source's zero crossing. -/
  | stZeroCrossing (k : Fin 4) (element : Fin 3)
  /-- ST_FORCED (R416). A side-tone element finds no zero crossing in 2 ms and ramps over 0.5 ms. -/
  | stForced (k : Fin 4) (element : Fin 3)
  /-- MIC_FAULT (R418). A PDM data value constant for 1 ms marks the microphone faulty. -/
  | micFault (m : Fin 8)
  /-- MIC_FAULT_CLEAR (R418). 100 ms of toggling data clears a microphone's fault mark. -/
  | micFaultClear (m : Fin 8)
  /-- HS_PLUG (R419). HSn_DET low for 100 ms is a plug, applying the microphone bias. -/
  | hsPlug (h : Fin 2) (microamps : Nat)
  /-- HS_UNPLUG (R419). HSn_DET high for 100 ms is an unplug, ramping the earpieces and side-tone down. -/
  | hsUnplug (h : Fin 2)
  /-- HS_MIC_FAULT (R419). A bias current above 3 mA turns the bias off and raises HS_MIC_FAULT. -/
  | hsMicFault (h : Fin 2)
  /-- SPK_ENABLE (R420). A write of SPK_CFG.ENABLE starts the 20 ms load check, or disables the speaker. -/
  | spkEnable (who : Party) (o : Fin 4) (v : Word)
  /-- LOAD_DONE (R420). The load check ends and the speaker plays or reports its fault kind. -/
  | loadDone (o : Fin 4) (tenthOhms : Nat) (toGround toVspk : Bool)
  /-- SPK_FAULT (R421). A playing speaker detects overcurrent, bad VSPK or over temperature and goes to its safe value. -/
  | spkFault (o : Fin 4) (kind : Fin 3)
  /-- SPK_RECOVERY (R421). After its recovery condition a faulted speaker runs its load check again. -/
  | spkRecovery (o : Fin 4)
  /-- AS_ENABLE (R423). A write of AS_CFG.ENABLE starts a tenant stream or refuses it. -/
  | asEnable (who : Party) (page : Option (Fin 512)) (v : Word)
  /-- AS_PTR_WRITE (R424). A write of AS_PTR moves the owner's counter, changing the stream's fill. -/
  | asPtrWrite (who : Party) (page : Option (Fin 512)) (n : Fin 64) (v : Word)
  /-- FELL_AUDIO_LOSS (R425). No Fell sample frame for 2 D0 periods makes the Dale die ramp every Fell-fed output to 0. -/
  | fellAudioLoss
  /-- AUD_RESTART (R426). A write of AUD_CTRL.RESTART ends isolation of every AUD page. -/
  | audRestart (who : Party)
  /-- AFE_RESTART (R430). A write of AFE_CTRL.RESTART ends the AFE page's isolation. -/
  | afeRestart (who : Party)
  /-- SRIOV_CONFIG (R432). A host configuration write sets NumVFs or VF Enable, possibly a reset cause for paddocks. -/
  | sriovConfig (u : Fin 2) (numVfs : BitVec 16) (vfEnable : Bool)
  /-- CREATE (R459). The manager command CREATE takes a VOID paddock with an enabled VF to OPEN. -/
  | create (who : Party) (u : Fin 2)
  /-- QUIESCE (R460). The manager command QUIESCE starts the quiesce programme of a paddock. -/
  | quiesce (who : Party) (u : Fin 2)
  /-- RESUME_PADDOCK (R459). The manager command RESUME takes a PENNED paddock back to OPEN. -/
  | resumePaddock (who : Party) (u : Fin 2)
  /-- RESET (R463). The manager command RESET clears a PENNED paddock and returns it to OPEN. -/
  | reset (who : Party) (u : Fin 2)
  /-- REMOVE (R463). The manager command REMOVE clears and unleases a PENNED paddock and makes it VOID. -/
  | remove (who : Party) (u : Fin 2)
  /-- CLAIM (R445). The manager command CLAIM moves FREE frames to the manager within its quota. -/
  | claim (who : Party) (u : Fin 2)
  /-- RELEASE (R445). The manager command RELEASE scrubs the manager's frames back to FREE. -/
  | release (who : Party) (u : Fin 2)
  /-- GRANT (R445). The manager command GRANT maps manager frames into a paddock map without scrubbing. -/
  | grant (who : Party) (u : Fin 2)
  /-- REVOKE (R445). The manager command REVOKE removes paddock-map entries and scrubs the frames to the manager. -/
  | revoke (who : Party) (u : Fin 2)
  /-- LEASE (R446). The manager command LEASE gives a resource to a paddock, resetting its registers. -/
  | lease (who : Party) (u : Fin 2)
  /-- UNLEASE (R448). The manager command UNLEASE returns a leased resource to the Field part. -/
  | unlease (who : Party) (u : Fin 2)
  /-- MGR_CMD_DONE (R456). A manager command completes, MGR_RESULT takes its status and CMD_DONE is set. -/
  | mgrCmdDone (u : Fin 2)
  /-- UNLEASE_FRAME_START (R448). An unlease of an enabled pipe in PENNED moves at the frame start where its ENABLE 0 commit applies. -/
  | unleaseFrameStart (pipe : Fin 64)
  /-- QUIESCE_DONE (R460). Every quiesce step is done and the paddock enters PENNED. -/
  | quiesceDone (p : Fin 512)
  /-- QUIESCE_TIMEOUT (R459). QUIESCE_TMO passes during a quiesce and the paddock enters FORCING with TIMED_OUT. -/
  | quiesceTimeout (p : Fin 512)
  /-- FORCED_QUIESCE_DONE (R461). Every forced step is done and the paddock enters PENNED. -/
  | forcedQuiesceDone (p : Fin 512)
  /-- CLEARING_DONE (R463). CLEARING completes and the paddock enters OPEN or VOID. -/
  | clearingDone (p : Fin 512)
  /-- VF_FLR (R459). An FLR of a VF is a reset cause that forces its paddock to quiesce. -/
  | vfFlr (p : Fin 512)
  /-- BUS_MASTER_CLEAR (R459). Bus Master Enable of a VF cleared is a reset cause for its paddock. -/
  | busMasterClear (fn : Fin 514)
  /-- PF_FLR (R467). An FLR of the PF is a reset cause for every paddock of the port and stops the manager's copy queue. -/
  | pfFlr (u : Fin 2)
  /-- PF_D3HOT (R467). The PF entering D3hot is a reset cause for every paddock of the port. -/
  | pfD3hot (u : Fin 2)
  /-- HOT_RESET (R459). A hot reset of an upstream port is a reset cause for every paddock of the port. -/
  | hotReset (u : Fin 2)
  /-- LINK_DOWN (R459). Link down of an upstream port is a reset cause for every paddock of the port. -/
  | linkDown (u : Fin 2)
  /-- PERST (R459). Assertion of PERSTu_N is a reset cause for every paddock of the port. -/
  | perst (u : Fin 2)
  /-- UP_WPTR (R451). A paddock's UP_WPTR doorbell has the device check and accept UP messages. -/
  | upWptr (who : Party) (p : Fin 512) (v : Word)
  /-- DOWN_WPTR (R451). A manager's DOWN_WPTR doorbell has the device check and accept DOWN messages. -/
  | downWptr (who : Party) (p : Fin 512) (v : Word)
  /-- UP_RPTR (R452). A manager's UP_RPTR write frees UP slots or is refused. -/
  | upRptr (who : Party) (p : Fin 512) (v : Word)
  /-- DOWN_RPTR (R452). A paddock's DOWN_RPTR write frees DOWN slots or is refused. -/
  | downRptr (who : Party) (p : Fin 512) (v : Word)
  /-- CQ_CFG_WRITE (R470). A write of CQ_CFG enables or disables a copy queue, restarting its pointers. -/
  | cqCfgWrite (who : Party) (q : Fin 514) (v : Word)
  /-- CQ_WPTR (R453). A write of CQ_WPTR rings the copy queue's doorbell. -/
  | cqWptr (who : Party) (q : Fin 514) (v : Word)
  /-- CQ_DESC_DONE (R455). A copy descriptor completes, CQ_DONE increments and COPY_DONE is optionally raised. -/
  | cqDescDone (q : Fin 514) (host : List Byte)
  /-- APERTURE_ACCESS (R444). A host access through VF BAR2 reaches the paddock's memory or misses and is counted. -/
  | apertureAccess (p : Fin 512) (off : BitVec 28) (w : Width) (v : Option (BitVec 64))
  /-- FRAME_SCRUB_DONE (R445). A frame in SCRUB finishes zeroing and takes its new KIND. -/
  | frameScrubDone (f : Fin 16384)
  /-- TAKE (R468). The FOT_CMD TAKE moves a FREE frame to FIELD. -/
  | take (who : Party)
  /-- GIVE (R468). The FOT_CMD GIVE moves a FIELD frame through SCRUB to FREE. -/
  | give (who : Party)
  /-- MSIX_UNMASK (R465). Unmasking a vector whose source is asserted sends its MSI-X message. -/
  | msixUnmask (who : Party) (fn : Fin 514) (k : Fin 32)
  /-- FOLD_CALL (R477). The FOLD.CALL instruction records the return, flushes L1 and enters the Fold world at CALL_VEC. -/
  | foldCall (n : Fin 4) (file : CoreFile)
  /-- FOLD_RET (R478). The FOLD.RET instruction returns to the Field world after a CALL or INT entry, or starts the Field part. -/
  | foldRet (n : Fin 4) (file : CoreFile)
  /-- INTERRUPT_DELIVERY (R483). An asserted page interrupt is taken by the chosen core, preempting a Field core for a Fold interrupt. -/
  | interruptDelivery (p : BitVec 32) (en : BitVec 4) (file : CoreFile)
  /-- FOLD_LONG (R484). A Field interrupt waits longer than FOLD_BUDGET for a core in the Fold world. -/
  | foldLong (n : Fin 4)
  /-- CORE_MEMORY_ACCESS (R475). A control-core load, store or fetch is checked against the fold lines and ownership. -/
  | coreMemoryAccess (n : Fin 4) (kind : Fin 3) (a : BitVec 64) (bytes : Nat) (v : Option (List Byte))
  /-- RAISE_DONE (R488). Zeroing of the raised range completes, frames become FOLD and RAISE_DONE is set. -/
  | raiseDone
  /-- WLD_RESTART (R503). A write of WLD_CTRL.RESTART ends the WLD page's isolation. -/
  | wldRestart (who : Party)
  /-- DEBUG_HALT (R495). A debugger halt request acts on a core, waiting while it is in a world it may not halt. -/
  | debugHalt (n : Fin 4)
  /-- JTAG_INSTRUCTION (R495). A JTAG instruction acts if the debug enables permit it, otherwise as BYPASS. -/
  | jtagInstruction (k : Fin 4)
  /-- TAMPER (R501). A tamper input stays asserted for DEBOUNCE_MS, so gather is driven and the wipe starts. -/
  | tamper (n : Fin 2)
  /-- PASTURE_WIPED (R501). The wipe engine finishes zeroing Pasture below the fold line. -/
  | pastureWiped
  /-- WIPE_DONE (R501). DRAM below the fold line is wiped, WIPE_DONE is set and the Fell die restarts. -/
  | wipeDone
  /-- TAMPER_CLEAR (R505). A write of TAMPER_CLEAR clears tamper latches and VAO_EVENT. -/
  | tamperClear (who : Party) (v : Word)
  /-- TETHER_FRAME (R510). A tether frame is received and checked, and its payload is delivered by class or a replay is requested. -/
  | tetherFrame (toDale : Bool) (bytes : List Byte)
  /-- TETHER_RETRAIN (R511). Three failures of one frame or 20 µs without a valid frame start a retrain. -/
  | tetherRetrain
  /-- TETHER_TRAIN_RETRY (R511). Every 10 ms a failed tether training is tried again. -/
  | tetherTrainRetry
  /-- CHARGE_WORD_SEND (R515). Every 100 µs the Sheepdog sends its charge word with the next SEQ. -/
  | chargeWordSend
  /-- CHARGE_ANSWER (R515). The Fell TET hardware answers a received Dale charge word. -/
  | chargeAnswer (bytes : List Byte)
  /-- CHARGE_ANSWER_RECEIVED (R516). The Sheepdog judges an exchange's answer, counting disagreement and deciding RESTART requests. -/
  | chargeAnswerReceived (bytes : List Byte)
  /-- EXCHANGE_TIMEOUT (R516). An exchange passes 50 µs without a valid answer and counts toward the 1 ms rule. -/
  | exchangeTimeout
  /-- OWN_GATHER (R518). The Fell die receives no valid Dale word for 1 ms and enters gather mode itself. -/
  | ownGather
  /-- GATHER_WIRE_ASSERT (R517). The gather wire reaches the Fell blocks, which reduce every head to the fold plane and halt the GPU. -/
  | gatherWireAssert
  /-- GATHER_RELEASE (R518). The gather wire is released and a valid RUN or DEGRADED word ends gather in the Fell blocks. -/
  | gatherRelease
  /-- LOCKSTEP (R520). The Sheepdog cores mismatch, so a LOCKSTEP record is written and the Dale die is reset. -/
  | lockstep (syndrome : Word)
  /-- DALE_RESET_END (R520). After its 100 µs hold the Dale die starts again, re-reading its image sections. -/
  | daleResetEnd
  /-- DALE_RELOADED (R520). The Sheepdog has re-authenticated the image and restarted the Dale-side blocks. -/
  | daleReloaded (nF : List (Fin 16 × Nat))
  /-- FAULT_REPORT (R523). The Sheepdog receives a fault report, writes it to Cairn and matches F1 and above against the state table. -/
  | faultReport
  /-- ENTRY_HOLD_EXPIRY (R524). HOLD_MS passes for an active entry, turning a RESTART entry effective or allowing its release. -/
  | entryHoldExpiry (pos : Nat)
  /-- CAUSE_CLEAR (R524). A fault or supply cause has been quiet for 100 ms and its entry is released. -/
  | causeClear (pos : Nat)
  /-- FOLD_REQUEST (R524). A write of SDG_REQ without RELEASE is a FOLD_REQUEST event with its code. -/
  | foldRequest (who : Party) (code : BitVec 8)
  /-- RELEASE_REQUEST (R524). A write of SDG_REQ with RELEASE requests release of the named entry. -/
  | releaseRequest (who : Party) (entry : BitVec 16)
  /-- FELL_RESET_END (R525). After the 100 µs hold the Fell die starts again from header read, with Pasture tested and zeroed. -/
  | fellResetEnd (fails : List (Fin 64 × Nat))
  /-- RESTART_BUDGET_WAIT_END (R525). A restart postponed by the budget is carried out 60 s after the first of the three. -/
  | restartBudgetWaitEnd
  /-- TX_CMD (R541). A write of TX_CMD sends a CAN frame, detecting a TX/RX swap at the first frame. -/
  | txCmd (who : Party) (n : Fin 4) (v : Word) (seen : Bool)
  /-- CAN_TX_DONE (R541). A CAN frame's transmission ends with its result. -/
  | canTxDone (n : Fin 4) (result : Nat)
  /-- CAN_RX (R530). A received CAN frame passes the filters into the RX FIFO, or is dropped when it is full. -/
  | canRx (n : Fin 4) (hdr : Word) (dlc : BitVec 4) (bytes : List Byte)
  /-- RX_POP (R541). A write of RX_POP discards the head frame of the RX FIFO. -/
  | rxPop (who : Party) (n : Fin 4) (v : Word)
  /-- CAN_BUS_OFF (R530). A controller reaches bus-off and leaves the bus. -/
  | canBusOff (n : Fin 4)
  /-- CAN_BUS_RECOVERY (R530). After 128 × 11 recessive bits a bus-off controller rejoins unless NO_AUTO is set. -/
  | canBusRecovery (n : Fin 4)
  /-- CAN_ENABLE (R527). A write of CAN_CTRL.ENABLE starts a controller or refuses it for out-of-range settings. -/
  | canEnable (who : Party) (n : Fin 4) (v : Word)
  /-- REPORT_PERIOD (R529). Every PERIOD_MS while its entry is active a REPORT is queued on its controller. -/
  | reportPeriod (k : Fin 8)
  /-- FREEZE (R534). The Cairn command FREEZE starts a freeze after POST_COUNT records. -/
  | freeze (who : Party)
  /-- UNFREEZE (R534). The Cairn command UNFREEZE ends a freeze. -/
  | unfreeze (who : Party)
  /-- EXPORT (R535). The Cairn command EXPORT writes the records to a sector of the dump area. -/
  | exportC (who : Party)
  /-- NOTE (R537). The Cairn command NOTE writes a NOTE record, or drops it if faster than one per 100 µs. -/
  | note (who : Party)
  /-- EXPORT_DONE (R535). A Cairn export completes or fails, ending any freeze. -/
  | exportDone (failAt : Option Nat)
  /-- PASTURE_ACCESS (R549). A bank serves an arbitrated Pasture access with ECC correction or poison. -/
  | pastureAccess (tier : Fin 4) (fold : Bool) (off : BitVec 25) (bytes : Nat) (v : Option (List Byte))
      (flips : List (BitVec 22 × Bool)) (turn : PastTurn)
  /-- ECC_WRITEBACK (R545). A corrected Pasture word is written back in the bank's next idle cycle. -/
  | eccWriteback (b : Fin 64)
  /-- TEST_ROW (R551). Every PACE_US each ON bank tests its next row, repairing or poisoning failed rows. -/
  | testRow (fails : List (Fin 64))
  /-- BANK_RETENTION (R555). A bank in AUTO goes RET_IDLE µs without access and enters RETENTION. -/
  | bankRetention (b : Fin 64)
  /-- BANK_WAKE (R555). A bank leaving RETENTION or OFF reaches ON, zeroing first when it was OFF. -/
  | bankWake (b : Fin 64)
  /-- BANK_MODE_WRITE (R556). A write of BANK_MODE sets bank modes, latching held Field requests and refusing protected banks. -/
  | bankModeWrite (who : Party) (bank : Fin 4) (v : Word)
  /-- PST_RESTART (R563). A write of PST_CTRL.RESTART ends isolation of every PST page. -/
  | pstRestart (who : Party)
  /-- TRAIN_STAGE_DONE (R571). A DRAM training stage completes on a channel, moving to the next or retrying after failure. -/
  | trainStageDone (c : Fin 8) (ok : Bool) (gbit : Nat) (ranks : Nat)
  /-- DRAM_TRACK (R573). Every 16 ms during refresh the controller reads MR4 and corrects timing, raising TRACK_LIMIT or DRAM_HOT. -/
  | dramTrack (c : Fin 8) (rank : Fin 2) (code : Fin 8) (drift : Bool) (hot : Bool)
  /-- ZQ_CALIBRATION (R573). Every 128 ms a background ZQ calibration starts and its result is latched. -/
  | zqCalibration (c : Fin 8) (rank : Fin 2) (code : Byte)
  /-- REFRESH (R575). A per-bank refresh falls due and is issued, preempting at its postponement limit. -/
  | refresh (c : Fin 8) (rank : Fin 2) (bank : Fin 16) (atLimit : Bool) (mr : Byte)
  /-- MR_CMD (R594). A write of MR_CMD reads the selected mode register during the next refresh. -/
  | mrCmd (who : Party) (v : Word)
  /-- DRAM_REQUEST (R577). A DRAM request is queued, scheduled and served, with inline ECC and poison handling. `dt`: the fabric cycles since the request before; `slots`: the command slots that each channel has before the next; `urgent`: what R584 calls urgent. -/
  | dramRequest (who : Party) (src : Option IsoSrc) (port : Fin 20) (a : BitVec 35) (n : Nat) (v : Option (List Byte)) (flips : List (BitVec 32 × Bool)) (dt slots code : Nat)
  /-- BACKOFF_END (R589). A withdrawn port's back-off time ends and it may present to the channel again. -/
  | backoffEnd (port : Fin 20) (c : Fin 8)
  /-- ISO_WINDOW (R583). A 1,024-cycle isochronous window ends, counting overruns of RES. -/
  | isoWindow
  /-- ISO_SIZING (R585). At the end of each 1 ms sizing period RES is resized from the measured demand. -/
  | isoSizing
  /-- DRV_STARVE (R591). A bulk request waits longer than STARVE_US and DRV_STARVE is raised. -/
  | drvStarve (port : Fin 20) (age : Nat)
  /-- DRC_RESTART (R594). A write of DRC_CTRL.RESTART ends isolation of every DRC page. -/
  | drcRestart (who : Party)
  /-- DRV_RESTART (R598). A write of DRV_CTRL.RESTART ends isolation of both DRV pages. -/
  | drvRestart (who : Party)
  /-- RAIL_SAMPLE (R602). Every 1 µs each monitor samples its rail and changes its judgement to warning, invalid or valid. -/
  | railSample (i : Fin 15) (mv : Int)
  /-- VAO_POWER_UP (R618). VAO rises from below 1.8 V and resets everything including Cairn and the keys. -/
  | vaoPowerUp
  /-- RST_N (R618). RST_N held low for 1 µs resets both dies, and its rise counts as last supply valid. -/
  | rstN (low : Bool)
  /-- XTAL_FELL (R613). The Fell crystal shows no edge for 1 µs, restarting the Fell die by default. -/
  | xtalFell
  /-- XTAL_DALE (R613). The Dale crystal is lost and the Dale die switches to its internal oscillator. -/
  | xtalDale
  /-- XTAL_RESTORED (R613). After 1 ms of clean crystal edges the die returns to or restarts on the crystal. -/
  | xtalRestored (fell : Bool)
  /-- PLL_CORE (R616). A core PLL loses lock, restarting the Fell die by default. -/
  | pllCore (k : Fin 3)
  /-- PLL_GPU (R616). PLL_GPU loses lock, isolating the GPU by default. -/
  | pllGpu
  /-- PLL_AUX (R616). An auxiliary PLL loses lock, isolating TCH or AUD by default. -/
  | pllAux (k : Fin 3)
  /-- DALE_PLL_UNLOCK (R616). A Dale PLL loses lock and resets the Dale die. -/
  | dalePllUnlock
  /-- CLK_STOP (R611). The block request CLK_STOP stops a block's clock, or is latched under HOLD or refused. -/
  | clkStop (who : Party)
  /-- CLK_RUN (R611). The block request CLK_RUN restarts a block's clock or withdraws a latched stop. -/
  | clkRun (who : Party)
  /-- PWR_OFF (R611). The block request PWR_OFF powers a block off, or is latched under HOLD or refused. -/
  | pwrOff (who : Party)
  /-- PWR_ON (R611). The block request PWR_ON powers a block on at its reset values or withdraws a latched power-off. -/
  | pwrOn (who : Party)
  /-- RST_ASSERT (R611). The block request RST_ASSERT holds a block in reset, or is latched under HOLD or refused. -/
  | rstAssert (who : Party)
  /-- RST_RELEASE (R611). The block request RST_RELEASE frees a block from reset or withdraws a latched reset. -/
  | rstRelease (who : Party)
  /-- BLK_DONE (R611). A block request has been acted on and BLK_DONE is set. -/
  | blkDone
  /-- SUP_CFG_WRITE (R605). A write of SUP_CFG selects the VDD_FG request mode, dropped while the GPU is enabled. -/
  | supCfgWrite (who : Party) (v : Word)
  /-- RUN (R629). A write of GLB_CTRL.RUN starts or stops every Tally counter in one cycle. -/
  | run (who : Party) (on : Bool)
  /-- CLEAR (R629). A write of GLB_CTRL.CLEAR zeroes every counter and its overflow. -/
  | clear (who : Party)
  /-- TLY_RESTART (R636). A write of GLB_CTRL.RESTART ends Tally's isolation. -/
  | tlyRestart (who : Party)
  /-- TALLY_COUNT (R626). An enabled counter adds its source's value per its MODE in a fabric cycle. -/
  | tallyCount (k : Fin 128) (x : Nat) (foldX : Nat) (d1 : Word) (d2 : Word)
  /-- COUNT_LO_READ (R632). A read of COUNT_LO captures all 48 bits of the counter and returns the low half. -/
  | countLoRead (who : Party) (k : Fin 128)
  /-- COUNT_LO_WRITE (R632). A write of COUNT_LO is held for the next COUNT_HI write. -/
  | countLoWrite (who : Party) (k : Fin 128) (v : Word)
  /-- COUNT_HI_WRITE (R632). A write of COUNT_HI loads both halves of the counter and clears OVF. -/
  | countHiWrite (who : Party) (k : Fin 128) (v : Word)
  /-- SMP_POP (R638). A write of SMP_POP removes the head sample record. -/
  | smpPop (who : Party)
  /-- GPIO_EDGE (R653). A selected edge on a GPIO ball latches its bit in GPIO_EDGE. -/
  | gpioEdge (n : Fin 32) (level : Bool)
  /-- GPIO_EDGE_CLR (R653). A write of GPIO_EDGE_CLR clears latched edge bits. -/
  | gpioEdgeClr (who : Party) (v : Word)
  /-- REGISTER_READ (R60). A register read that has behaviour of its own: it intervenes in a pending guarded pair, and a refused or unleased-window read returns 0 and sets ACCESS_REFUSED. -/
  | registerRead (who : Party) (addr : BitVec 32) (w : Width)
  /-- PAD_STAT_READ (R467). A manager's read of a paddock's PAD_STAT clears that paddock's bit in STATE_PEND. -/
  | padStatRead (who : Party) (p : Fin 512)
  /-- RAIL_MEAS_READ (R623). A read of RAIL_MEAS returns the lowest value since the last read and starts a new minimum. -/
  | railMeasRead (who : Party)
  /-- STORAGE_UPSET (R61). An upset of a configuration field's storage changes its value at once, leaving its parity mismatched. -/
  | storageUpset (addr : BitVec 32) (bit : Fin 32)
  /-- GPU_TRIP_CLEAR (R293). The GPU die temperature falls below TRIP − 10 °C, so GPU_STAT.TRIP clears and the GPU may leave level 0. -/
  | gpuTripClear (temp : BitVec 8)
  /-- HAP_TRIP_CLEAR (R389). HAP_THERM.TEMP falls 10 °C below the junction limit, so triggers are no longer refused with reason THERMAL. -/
  | hapTripClear (temp : BitVec 8)
  /-- THERM_WARN_CLEAR (R389). HAP_THERM.TEMP falls 5 °C below T_WARN, so class-O and class-C effects play at full LEVEL again. -/
  | thermWarnClear (temp : BitVec 8)
  /-- BUS_MASTER_ENABLE (R434). The host sets Bus Master Enable of a function, allowing its copy engine and sending MSI-X messages held pending in the PBA. -/
  | busMasterEnable (fn : Fin 514) (msixEn mask : Bool)
  /-- PCIE_LINK_UP (R647). An upstream port's PCIe link finishes training and comes up, and UPu_LED_N is driven low. -/
  | pcieLinkUp (u : Fin 2)
  /-- PERST_RELEASE (R647). PERSTu_N is deasserted, the port leaves reset and CLKREQu_N is held low. -/
  | perstRelease (u : Fin 2)
deriving DecidableEq, Repr

end Sys2Proof
end

