-- ==== Sys2Proof/Decode.lean ====
section
/-! DEFINITION. The commands that words of the opcode table spell. -/
namespace Sys2Proof

/-- The rows of the opcode table give no bits: a command is an access, an event or a time that comes, and no word spells
one. -/
def decodeTableWord (_nbits _w : Nat) : Option Instr := none

end Sys2Proof
end

