-- ==== Sys2Proof/Config.lean ====
section
/-! DEFINITION. What one device fixes, and the free values: results that the spec leaves open or takes from outside it.
Every constant here is opaque and has no body, so that nothing can be proved of its value; a statement about it holds
for every value. Each is named in the assumption log. -/
namespace Sys2Proof.Config

/-- The device is of grade E (R296, R396); otherwise it is of grade C. -/
opaque gradeE : Bool

/-- A byte whose content the spec leaves open, by the count of free values taken and a place (R607 and others). -/
opaque freeByte : Nat → Nat → Byte

/-- A number whose value the spec leaves open, by the count of free values taken and what it is. -/
opaque freeNat : Nat → Nat → Nat

/-- A division whose rounding the spec does not state rounds up; by the place of use, dividend and divisor. -/
opaque roundsUp : Nat → Int → Nat → Bool

/-- The built-in windowed-sinc coefficients of R136 in units of 1/256: by the number of taps, step, phase and tap. -/
opaque sincCoef : Nat → Nat → Nat → Nat → Int

/-- A colour-table entry that nothing has written since reset (R151), by its place. -/
opaque lutWord : Nat → Nat

/-- A parameter of a ROM effect within the range that R380 gives its group: by effect and which parameter. -/
opaque romParam : Nat → Nat → Nat

/-- A sample of a ROM effect (R380): by effect and index. -/
opaque romSample : Nat → Nat → BitVec 16

/-- The linear amplitude of a gain in 1/256 dB, in units of 2⁻²⁴ (R406): its precision is the engine's own. -/
opaque dbAmp : Int → Nat

/-- The raised cosine of R408 at sample k of n, in units of 2⁻²⁴. -/
opaque raisedCos : Nat → Nat → Nat

end Sys2Proof.Config
end

