-- ==== Sys2Proof/Machine/Flags.lean ====
section
/-! DEFINITION. Bit fields of registers, the sequence-clear word (R55, R56) and the byte order of words. -/
namespace Sys2Proof.Machine

/-- Bit `k` of a register. -/
def bitOf (v : Word) (k : Nat) : Bool := v.getLsbD k

/-- Field `[hi:lo]` of a register as a number. -/
def fld (v : Word) (hi lo : Nat) : Nat := v.toNat / 2 ^ lo % 2 ^ (hi + 1 - lo)

/-- The mask with ones in `[hi:lo]`. -/
def fldMask (hi lo : Nat) : Word := BitVec.ofNat 32 ((2 ^ (hi + 1 - lo) - 1) * 2 ^ lo)

/-- The register with field `[hi:lo]` replaced by `x`, cut to the width of the field. -/
def setFld (v : Word) (hi lo : Nat) (x : Nat) : Word :=
  (v &&& ~~~ fldMask hi lo) ||| BitVec.ofNat 32 (x % 2 ^ (hi + 1 - lo) * 2 ^ lo)

/-- The register with bit `k` set to `b`. -/
def putBit (v : Word) (k : Nat) (b : Bool) : Word := setFld v k k b.toNat

/-- A set of bits without bit `k`. -/
def clrBit (n k : Nat) : Nat := if n.testBit k then n - 2 ^ k else n

/-- Two's-complement value of the `w` low bits of a number (R8). -/
def signed (w : Nat) (x : Nat) : Int :=
  if x % 2 ^ w < 2 ^ (w - 1) then ((x % 2 ^ w : Nat) : Int) else ((x % 2 ^ w : Nat) : Int) - ((2 ^ w : Nat) : Int)

/-- The `w`-bit two's-complement code of an integer. -/
def unsigned (w : Nat) (x : Int) : Nat := (x % ((2 ^ w : Nat) : Int)).toNat

/-- An integer kept within `[lo, hi]`. -/
def clampI (lo hi x : Int) : Int := if x < lo then lo else if hi < x then hi else x

/-- A number kept within `[lo, hi]`. -/
def clampN (lo hi x : Nat) : Nat := if x < lo then lo else if hi < x then hi else x

/-- Division of integers rounded to the nearest, halves upward. -/
def roundDiv (x : Int) (d : Nat) : Int := (2 * x + (d : Int)) / (2 * (d : Int))

/-- The event `k` of a sequence-clear register: the bit is set and SEQ rises, even if the bit was set already (R55). -/
def sqEvent (w : Word) (k : Nat) : Word :=
  setFld (setFld w k k 1) 31 24 (fld w 31 24 + 1)

/-- A clearing write reaches a sequence-clear register: `some` of the new value, or `none` for a stale SEQ, which is
counted (R56). A zero mask does nothing and is not counted. -/
def sqClear (w data : Word) : Option Word :=
  if fld data 23 0 = 0 then some w
  else if fld data 31 24 = fld w 31 24 then some (w &&& ~~~ (data &&& fldMask 23 0))
  else none

/-- The four bytes of a word, least significant first (R34, R310). -/
def wordBytes (w : Word) : List Byte :=
  [BitVec.ofNat 8 (fld w 7 0), BitVec.ofNat 8 (fld w 15 8), BitVec.ofNat 8 (fld w 23 16), BitVec.ofNat 8 (fld w 31 24)]

/-- A number as `n` bytes, least significant first. -/
def leBytes : Nat → Nat → List Byte
  | 0, _ => []
  | n + 1, x => BitVec.ofNat 8 x :: leBytes n (x / 256)

/-- Bytes as a number, least significant first. -/
def leNat : List Byte → Nat
  | [] => 0
  | b :: bs => b.toNat + 256 * leNat bs

/-- One bit of a reflected CRC step. -/
def crcReflBit (poly c : Word) : Word := if c.getLsbD 0 then (c >>> 1) ^^^ poly else c >>> 1

/-- One byte of a reflected 32-bit CRC, `poly` being the bit-reversed polynomial. -/
def crcReflByte (poly c : Word) (b : Byte) : Word :=
  let x := c ^^^ b.setWidth 32
  crcReflBit poly (crcReflBit poly (crcReflBit poly (crcReflBit poly
    (crcReflBit poly (crcReflBit poly (crcReflBit poly (crcReflBit poly x)))))))

/-- One bit of the CRC-16/CCITT step, most significant bit first. -/
def crc16Bit (c : BitVec 16) : BitVec 16 := if c.getLsbD 15 then (c <<< 1) ^^^ 0x1021 else c <<< 1

/-- One byte of CRC-16/CCITT (R310, POLY 2). -/
def crc16Byte (c : BitVec 16) (b : Byte) : BitVec 16 :=
  let x := c ^^^ (b.setWidth 16 <<< 8)
  crc16Bit (crc16Bit (crc16Bit (crc16Bit (crc16Bit (crc16Bit (crc16Bit (crc16Bit x)))))))

/-- CRC-16/CCITT of bytes: initial value 0xFFFF, no final XOR (R310). -/
def crc16 (bs : List Byte) : BitVec 16 := bs.foldl crc16Byte 0xFFFF

/-- CRC-32C of bytes: reflected 0x1EDC_6F41, initial value and final XOR 0xFFFF_FFFF (R70). -/
def crc32c (bs : List Byte) : Word := (bs.foldl (crcReflByte 0x82F63B78) 0xFFFFFFFF) ^^^ 0xFFFFFFFF

/-- CRC-32 of bytes: reflected 0x04C1_1DB7 (R310, POLY 0). -/
def crc32 (bs : List Byte) : Word := (bs.foldl (crcReflByte 0xEDB88320) 0xFFFFFFFF) ^^^ 0xFFFFFFFF

/-- The CRC of R70: CRC-32C over a four-byte little-endian fold word and then the protected bytes. -/
def crcFold (fold : Nat) (bs : List Byte) : Word := crc32c (leBytes 4 fold ++ bs)

/-- Of the changed bits `flips`, some field holds an odd number; `lows` marks where the fields begin (R61). -/
def oddField (flips lows : Nat) : Bool :=
  let r := (List.range 32).foldl (fun (a : Bool × Bool) k =>
    if lows.testBit k then (a.1 || a.2, flips.testBit k) else (a.1, a.2 ^^ flips.testBit k)) (false, false)
  r.1 || r.2

end Sys2Proof.Machine
end

