-- ==== Sys2Proof/Machine/RegMap.lean ====
section
/-! DEFINITION. The register pages of the internal space (R34), the registers of every page with their offsets, access
types, reset values and writable bits, the EVENT bits and the FAULT_CLASS sources of each page, and the reset value of
every register. Written from the register tables of the chapters; each namespace names its table's rule. -/
namespace Sys2Proof.Machine

/-- Access types of R53; `staged` is RW whose value the block acts on only after a commit. -/
inductive Acc where
  | ro | rw | rwl | wo | sq | gp | staged
deriving DecidableEq, Repr

/-- A row of a register table: `cnt` registers from `off` at distance `stride`; `lows` marks the lowest bit of each writable
field, which carries a parity bit of its own (R61). -/
structure Row where
  off : Nat
  cnt : Nat
  stride : Nat
  acc : Acc
  rst : Nat
  mask : Nat
  lows : Nat
deriving DecidableEq, Repr

namespace Reg
/-! The common page header (R41) and its events and sources (R46, R47). -/
abbrev ID : Nat := 0x000
abbrev GUARD : Nat := 0x004
abbrev EVENT : Nat := 0x008
abbrev EVENT_EN : Nat := 0x00C
abbrev OWNER : Nat := 0x010
abbrev PARITY_STAT : Nat := 0x014
abbrev FAULT_CLASS : Nat := 0x018
abbrev HOLD : Nat := 0x01C
abbrev STAT_COUNT : Nat := 0x020
abbrev EV_PARITY : Nat := 20
abbrev EV_LOCKED_WRITE : Nat := 21
abbrev EV_ACCESS_REFUSED : Nat := 22
abbrev EV_GUARD_FAIL : Nat := 23
abbrev SRC_CFG_PARITY : Nat := 0
abbrev SRC_ACCESS_REFUSED : Nat := 1
abbrev SRC_GUARD_FAIL : Nat := 2
/-- The nine header registers of every page (R41). -/
def headerRows : List Row := [
  ⟨0x000, 1, 4, .ro, 0, 0, 0⟩, ⟨0x004, 1, 4, .wo, 0, 0, 0⟩, ⟨0x008, 1, 4, .sq, 0, 0xFFFFFFFF, 0⟩,
  ⟨0x00C, 1, 4, .rw, 0, 0x00FFFFFF, 1⟩, ⟨0x010, 1, 4, .gp, 0, 0x800303FF, 0x80010001⟩, ⟨0x014, 1, 4, .sq, 0, 0xFF000001, 0⟩,
  ⟨0x018, 1, 4, .gp, 0, 0x00FFFFFF, 0x00249249⟩, ⟨0x01C, 1, 4, .rw, 0, 0x1, 1⟩, ⟨0x020, 1, 4, .ro, 0, 0, 0⟩]
/-- MSI-X pages: the PBA at 0x100 and the table at 0x200, 32 vectors of four words (R466). -/
def msixRows : List Row := [
  ⟨0x100, 2, 4, .ro, 0, 0, 0⟩, ⟨0x200, 32, 16, .rw, 0, 0xFFFFFFFC, 4⟩, ⟨0x204, 32, 16, .rw, 0, 0xFFFFFFFF, 1⟩,
  ⟨0x208, 32, 16, .rw, 0, 0xFFFFFFFF, 1⟩, ⟨0x20C, 32, 16, .rw, 1, 0x1, 1⟩]
abbrev PBA : Nat := 0x100
abbrev MSIX_ADDR_LO (v : Nat) : Nat := 0x200 + 16 * v
abbrev MSIX_ADDR_HI (v : Nat) : Nat := 0x204 + 16 * v
abbrev MSIX_DATA (v : Nat) : Nat := 0x208 + 16 * v
abbrev MSIX_CTRL (v : Nat) : Nat := 0x20C + 16 * v
end Reg

namespace Reg.Sys0
/-! Registers of the SYS page 0 (R36). -/
abbrev UNMAPPED_ADDR : Nat := 0x040
abbrev UNMAPPED_INFO : Nat := 0x044
abbrev EV_UNMAPPED : Nat := 19
abbrev SRC_UNMAPPED_ACCESS : Nat := 3
/-- The register rows: offset, count, stride, access, reset value, writable bits, field starts. -/
def rows : List Row := [
  ⟨0x040, 1, 4, .ro, 0x0, 0x0, 0x0⟩,
  ⟨0x044, 1, 4, .ro, 0x0, 0x0, 0x0⟩]
end Reg.Sys0

namespace Reg.Sys1
/-! Registers of the SYS page 1 (R621). -/
abbrev BLK_SEL : Nat := 0x040
abbrev BLK_REQ : Nat := 0x044
abbrev BLK_STAT : Nat := 0x048
abbrev EV_BLK_DONE : Nat := 0
abbrev EV_BLK_REFUSED : Nat := 1
/-- The register rows: offset, count, stride, access, reset value, writable bits, field starts. -/
def rows : List Row := [
  ⟨0x040, 1, 4, .rw, 0x0, 0xFF, 0x1⟩,
  ⟨0x044, 1, 4, .wo, 0x0, 0x0, 0x0⟩,
  ⟨0x048, 1, 4, .ro, 0x0, 0x0, 0x0⟩]
end Reg.Sys1

namespace Reg.Sys2
/-! Registers of the SYS page 2 (R622). -/
abbrev RST_CAUSE : Nat := 0x040
abbrev CLK_STAT : Nat := 0x044
abbrev SUP_CFG : Nat := 0x048
abbrev SUP_STAT : Nat := 0x04C
abbrev PLL_COUNT : Nat := 0x050
abbrev EV_PLL_UNLOCK : Nat := 0
abbrev EV_VFG_RAISE : Nat := 1
abbrev SRC_XTAL_FELL : Nat := 3
abbrev SRC_PLL_CORE : Nat := 4
abbrev SRC_PLL_GPU : Nat := 5
abbrev SRC_PLL_AUX : Nat := 6
abbrev SRC_VFG_RAISE : Nat := 7
/-- The register rows: offset, count, stride, access, reset value, writable bits, field starts. -/
def rows : List Row := [
  ⟨0x040, 1, 4, .ro, 0x0, 0x0, 0x0⟩,
  ⟨0x044, 1, 4, .ro, 0x0, 0x0, 0x0⟩,
  ⟨0x048, 1, 4, .rw, 0xF00, 0xF01, 0x101⟩,
  ⟨0x04C, 1, 4, .ro, 0x0, 0x0, 0x0⟩,
  ⟨0x050, 1, 4, .ro, 0x0, 0x0, 0x0⟩]
end Reg.Sys2

namespace Reg.Sys3
/-! Registers of the SYS page 3 (R652). -/
abbrev GPIO_IN : Nat := 0x040
abbrev GPIO_OUT : Nat := 0x044
abbrev GPIO_OE : Nat := 0x048
abbrev GPIO_OD : Nat := 0x04C
abbrev GPIO_PULL_EN : Nat := 0x050
abbrev GPIO_PULL_UP : Nat := 0x054
abbrev GPIO_RISE : Nat := 0x058
abbrev GPIO_FALL : Nat := 0x05C
abbrev GPIO_EDGE : Nat := 0x060
abbrev GPIO_EDGE_CLR : Nat := 0x064
abbrev EV_GPIO_EDGE : Nat := 0
/-- The register rows: offset, count, stride, access, reset value, writable bits, field starts. -/
def rows : List Row := [
  ⟨0x040, 1, 4, .ro, 0x0, 0x0, 0x0⟩,
  ⟨0x044, 1, 4, .rw, 0x0, 0xFFFFFFFF, 0x1⟩,
  ⟨0x048, 1, 4, .rw, 0x0, 0xFFFFFFFF, 0x1⟩,
  ⟨0x04C, 1, 4, .rw, 0x0, 0xFFFFFFFF, 0x1⟩,
  ⟨0x050, 1, 4, .rw, 0xFFFFFFFF, 0xFFFFFFFF, 0x1⟩,
  ⟨0x054, 1, 4, .rw, 0x0, 0xFFFFFFFF, 0x1⟩,
  ⟨0x058, 1, 4, .rw, 0x0, 0xFFFFFFFF, 0x1⟩,
  ⟨0x05C, 1, 4, .rw, 0x0, 0xFFFFFFFF, 0x1⟩,
  ⟨0x060, 1, 4, .ro, 0x0, 0x0, 0x0⟩,
  ⟨0x064, 1, 4, .wo, 0x0, 0x0, 0x0⟩]
end Reg.Sys3

namespace Reg.Img
/-! Registers of the IMG page (R104). -/
abbrev BOOT_STAT : Nat := 0x040
abbrev T_SAFE : Nat := 0x044
abbrev T_FULL : Nat := 0x048
abbrev FAIL_REASON : Nat := 0x04C
abbrev IMAGE_SVN : Nat := 0x050
abbrev LATE_COUNT : Nat := 0x054
abbrev EV_FIRST_PICTURE : Nat := 0
abbrev EV_FULL_COMPOSITION : Nat := 1
abbrev EV_FALLBACK : Nat := 2
abbrev EV_SECTION_LATE : Nat := 3
abbrev EV_CONTENT_REFUSED : Nat := 4
abbrev SRC_FALLBACK : Nat := 3
abbrev SRC_SECTION_LATE : Nat := 4
abbrev SRC_CONTENT_REFUSED : Nat := 5
/-- The register rows: offset, count, stride, access, reset value, writable bits, field starts. -/
def rows : List Row := [
  ⟨0x040, 1, 4, .ro, 0x0, 0x0, 0x0⟩,
  ⟨0x044, 1, 4, .ro, 0x0, 0x0, 0x0⟩,
  ⟨0x048, 1, 4, .ro, 0x0, 0x0, 0x0⟩,
  ⟨0x04C, 1, 4, .ro, 0x0, 0x0, 0x0⟩,
  ⟨0x050, 1, 4, .ro, 0x0, 0x0, 0x0⟩,
  ⟨0x054, 1, 4, .ro, 0x0, 0x0, 0x0⟩]
end Reg.Img

namespace Reg.Nvm
/-! Registers of the NVM page (R107). -/
abbrev NVM_ADDR : Nat := 0x040
abbrev NVM_CMD : Nat := 0x044
abbrev NVM_STAT : Nat := 0x048
abbrev NVM_VERIFY : Nat := 0x04C
abbrev NVM_BUF (i : Nat) : Nat := 0x100 + 4 * i
abbrev EV_DONE : Nat := 0
abbrev EV_CMD_REFUSED : Nat := 1
/-- The register rows: offset, count, stride, access, reset value, writable bits, field starts. -/
def rows : List Row := [
  ⟨0x040, 1, 4, .rw, 0x0, 0x7FFFFFF, 0x1⟩,
  ⟨0x044, 1, 4, .wo, 0x0, 0x0, 0x0⟩,
  ⟨0x048, 1, 4, .ro, 0x0, 0x0, 0x0⟩,
  ⟨0x04C, 1, 4, .ro, 0x0, 0x0, 0x0⟩,
  ⟨0x100, 64, 4, .rw, 0x0, 0xFFFFFFFF, 0x1⟩]
end Reg.Nvm

namespace Reg.Pipe
/-! Registers of the layer pipe pages (R164). -/
abbrev CTRL : Nat := 0x040
abbrev FORMAT : Nat := 0x044
abbrev SRC_ADDR_LO : Nat := 0x048
abbrev SRC_ADDR_HI : Nat := 0x04C
abbrev SRC_STRIDE : Nat := 0x050
abbrev SRC_ADDR2_LO : Nat := 0x054
abbrev SRC_ADDR2_HI : Nat := 0x058
abbrev SRC_GEN : Nat := 0x05C
abbrev SRC_XY : Nat := 0x060
abbrev SRC_WH : Nat := 0x064
abbrev DST_XY : Nat := 0x068
abbrev DST_WH : Nat := 0x06C
abbrev ALPHA_KEY : Nat := 0x070
abbrev KEY_LO : Nat := 0x074
abbrev KEY_HI : Nat := 0x078
abbrev HOLD_COLOUR : Nat := 0x07C
abbrev CSC_CTRL : Nat := 0x080
abbrev CSC_C (i : Nat) : Nat := 0x084 + 4 * i
abbrev CSC_OFF_IN : Nat := 0x098
abbrev CSC_OFF_OUT : Nat := 0x09C
abbrev COMMIT : Nat := 0x0A0
abbrev COMMIT_SEQ : Nat := 0x0A4
abbrev RELEASED_SEQ : Nat := 0x0A8
abbrev REFUSE_STAT : Nat := 0x0AC
abbrev LAYER_STAT : Nat := 0x0B0
abbrev FAULT_COUNT : Nat := 0x0B4
abbrev SCALE_CTRL : Nat := 0x0C0
abbrev H_STEP : Nat := 0x0C4
abbrev V_STEP : Nat := 0x0C8
abbrev H_PHASE : Nat := 0x0CC
abbrev V_PHASE : Nat := 0x0D0
abbrev COEF_INDEX : Nat := 0x0D4
abbrev COEF_DATA : Nat := 0x0D8
abbrev DIRECT_SRC : Nat := 0x0DC
abbrev EV_RELEASE : Nat := 0
abbrev EV_LAYER_REFUSED : Nat := 1
abbrev EV_COMMIT_APPLIED : Nat := 2
abbrev EV_DEMOTED : Nat := 3
abbrev EV_LAYER_FAULT : Nat := 4
abbrev EV_GEN_MISMATCH : Nat := 5
abbrev EV_FLEECE_CORRUPT : Nat := 6
abbrev EV_POISON : Nat := 7
abbrev EV_ISOLATED : Nat := 8
abbrev SRC_LAYER_FAULT : Nat := 3
abbrev SRC_GEN_MISMATCH : Nat := 4
abbrev SRC_FLEECE_CORRUPT : Nat := 5
abbrev SRC_POISON : Nat := 6
abbrev SRC_LAYER_REFUSED : Nat := 7
/-- The register rows: offset, count, stride, access, reset value, writable bits, field starts. -/
def rows : List Row := [
  ⟨0x040, 1, 4, .staged, 0x800, 0x7FE1, 0x1421⟩,
  ⟨0x044, 1, 4, .staged, 0x0, 0x3700FF, 0x150001⟩,
  ⟨0x048, 1, 4, .staged, 0x0, 0xFFFFFFFF, 0x1⟩,
  ⟨0x04C, 1, 4, .staged, 0x0, 0xFFFFFFFF, 0x1⟩,
  ⟨0x050, 1, 4, .staged, 0x0, 0xFFFFF, 0x1⟩,
  ⟨0x054, 1, 4, .staged, 0x0, 0xFFFFFFFF, 0x1⟩,
  ⟨0x058, 1, 4, .staged, 0x0, 0xFFFFFFFF, 0x1⟩,
  ⟨0x05C, 1, 4, .staged, 0x0, 0xFFFFFFFF, 0x1⟩,
  ⟨0x060, 1, 4, .staged, 0x0, 0x3FFF3FFF, 0x10001⟩,
  ⟨0x064, 1, 4, .staged, 0x0, 0x3FFF3FFF, 0x10001⟩,
  ⟨0x068, 1, 4, .staged, 0x0, 0x3FFF3FFF, 0x10001⟩,
  ⟨0x06C, 1, 4, .staged, 0x0, 0x3FFF3FFF, 0x10001⟩,
  ⟨0x070, 1, 4, .staged, 0xFF, 0x800000FF, 0x80000001⟩,
  ⟨0x074, 1, 4, .staged, 0x0, 0xFFFFFF, 0x10101⟩,
  ⟨0x078, 1, 4, .staged, 0x0, 0xFFFFFF, 0x1⟩,
  ⟨0x07C, 1, 4, .staged, 0xFF000000, 0xFFFFFFFF, 0x1⟩,
  ⟨0x080, 1, 4, .staged, 0x0, 0xF, 0x1⟩,
  ⟨0x084, 5, 4, .staged, 0x0, 0xFFFFFFFF, 0x10001⟩,
  ⟨0x098, 1, 4, .staged, 0x0, 0x3FFFFFFF, 0x100401⟩,
  ⟨0x09C, 1, 4, .staged, 0x0, 0x3FFFFFFF, 0x1⟩,
  ⟨0x0A0, 1, 4, .wo, 0x0, 0x0, 0x0⟩,
  ⟨0x0A4, 1, 4, .ro, 0x0, 0x0, 0x0⟩,
  ⟨0x0A8, 1, 4, .ro, 0x0, 0x0, 0x0⟩,
  ⟨0x0AC, 1, 4, .ro, 0x0, 0x0, 0x0⟩,
  ⟨0x0B0, 1, 4, .ro, 0x0, 0x0, 0x0⟩,
  ⟨0x0B4, 1, 4, .ro, 0x0, 0x0, 0x0⟩,
  ⟨0x0C0, 1, 4, .staged, 0x4, 0x377, 0x351⟩,
  ⟨0x0C4, 1, 4, .staged, 0x10000, 0xFFFFF, 0x1⟩,
  ⟨0x0C8, 1, 4, .staged, 0x10000, 0xFFFFF, 0x1⟩,
  ⟨0x0CC, 1, 4, .staged, 0x0, 0xFFFF, 0x1⟩,
  ⟨0x0D0, 1, 4, .staged, 0x0, 0xFFFF, 0x1⟩,
  ⟨0x0D4, 1, 4, .rw, 0x0, 0x13F, 0x101⟩,
  ⟨0x0D8, 1, 4, .staged, 0x0, 0x3FF03FF, 0x10001⟩,
  ⟨0x0DC, 1, 4, .staged, 0x0, 0xF, 0x1⟩]
end Reg.Pipe

namespace Reg.Cmp
/-! Registers of the CMP global page (R171). -/
abbrev LUT_SEL : Nat := 0x040
abbrev LUT_INDEX : Nat := 0x044
abbrev LUT_DATA : Nat := 0x048
abbrev COLOUR_CTRL (i : Nat) : Nat := 0x200 + 64 * i
abbrev BG_COLOUR (i : Nat) : Nat := 0x204 + 64 * i
abbrev SHEP_THRESH (i : Nat) : Nat := 0x208 + 64 * i
abbrev SHEP_STAT (i : Nat) : Nat := 0x20C + 64 * i
abbrev DEMOTE_C_COUNT (i : Nat) : Nat := 0x210 + 64 * i
abbrev DEMOTE_O_COUNT (i : Nat) : Nat := 0x214 + 64 * i
abbrev LAYER_COUNT (i : Nat) : Nat := 0x218 + 64 * i
abbrev EV_SWAP_DONE : Nat := 0
abbrev EV_DEMOTION : Nat := 8
abbrev EV_LUT_BUSY : Nat := 16
abbrev EV_LUT_RANGE : Nat := 17
/-- The register rows: offset, count, stride, access, reset value, writable bits, field starts. -/
def rows : List Row := [
  ⟨0x040, 1, 4, .rw, 0x0, 0x70300, 0x10100⟩,
  ⟨0x044, 1, 4, .rw, 0x0, 0x1FFF, 0x1⟩,
  ⟨0x048, 1, 4, .rw, 0x0, 0xFFFFFFFF, 0x1⟩,
  ⟨0x200, 8, 64, .rw, 0x200, 0x10337, 0x10117⟩,
  ⟨0x204, 8, 64, .rw, 0x0, 0x3FFFFFFF, 0x100401⟩,
  ⟨0x208, 8, 64, .rw, 0x20080008, 0xFFFF003F, 0x1010001⟩,
  ⟨0x20C, 8, 64, .ro, 0x0, 0x0, 0x0⟩,
  ⟨0x210, 8, 64, .ro, 0x0, 0x0, 0x0⟩,
  ⟨0x214, 8, 64, .ro, 0x0, 0x0, 0x0⟩,
  ⟨0x218, 8, 64, .ro, 0x0, 0x0, 0x0⟩]
end Reg.Cmp

namespace Reg.Wb
/-! Registers of the writeback pages (R174). -/
abbrev WB_CTRL : Nat := 0x040
abbrev WB_RECT_XY : Nat := 0x044
abbrev WB_RECT_WH : Nat := 0x048
abbrev WB_STRIDE : Nat := 0x04C
abbrev WB_ADDR (i : Nat) : Nat := 0x050 + 4 * i
abbrev WB_ARM : Nat := 0x070
abbrev WB_STAT : Nat := 0x074
abbrev WB_FRAME : Nat := 0x078
abbrev WB_COUNT : Nat := 0x07C
abbrev WB_GEN : Nat := 0x080
abbrev EV_DONE : Nat := 0
abbrev EV_OVERFLOW : Nat := 1
abbrev EV_WB_FAULT : Nat := 2
abbrev EV_WB_REFUSED : Nat := 3
abbrev SRC_WB_FAULT : Nat := 3
abbrev SRC_WB_OVERFLOW : Nat := 4
/-- The register rows: offset, count, stride, access, reset value, writable bits, field starts. -/
def rows : List Row := [
  ⟨0x040, 1, 4, .rw, 0x0, 0x3FF7F, 0x10133⟩,
  ⟨0x044, 1, 4, .rw, 0x0, 0x3FFF3FFF, 0x10001⟩,
  ⟨0x048, 1, 4, .rw, 0x0, 0x3FFF3FFF, 0x10001⟩,
  ⟨0x04C, 1, 4, .rw, 0x0, 0xFFFFF, 0x1⟩,
  ⟨0x050, 8, 4, .rw, 0x0, 0xFFFFFFFF, 0x1⟩,
  ⟨0x070, 1, 4, .wo, 0x0, 0x0, 0x0⟩,
  ⟨0x074, 1, 4, .ro, 0x0, 0x0, 0x0⟩,
  ⟨0x078, 1, 4, .ro, 0x0, 0x0, 0x0⟩,
  ⟨0x07C, 1, 4, .ro, 0x0, 0x0, 0x0⟩,
  ⟨0x080, 1, 4, .rw, 0x0, 0xFFFFFFFF, 0x1⟩]
end Reg.Wb

namespace Reg.Head
/-! Registers of the HEADn pages (R207). -/
abbrev HEAD_CTRL : Nat := 0x040
abbrev H_TIMING1 : Nat := 0x044
abbrev H_TIMING2 : Nat := 0x048
abbrev V_TIMING1 : Nat := 0x04C
abbrev V_TIMING2 : Nat := 0x050
abbrev PCLK_KHZ : Nat := 0x054
abbrev LINES : Nat := 0x058
abbrev TIMING_FLAGS : Nat := 0x05C
abbrev TRIM_CFG : Nat := 0x060
abbrev TRIM : Nat := 0x064
abbrev FRAME_COUNT : Nat := 0x068
abbrev LINE_POS : Nat := 0x06C
abbrev HEAD_STAT : Nat := 0x070
abbrev HOLD_PCLK : Nat := 0x074
abbrev SYNC_PERIOD : Nat := 0x078
abbrev UNDERRUN_LINES : Nat := 0x07C
abbrev UNDERRUN_PIXELS : Nat := 0x080
abbrev MISS_COUNT : Nat := 0x084
abbrev ALIGN_COUNT : Nat := 0x088
abbrev DISCARD_COUNT : Nat := 0x08C
abbrev SYNC_OUT : Nat := 0x090
abbrev BW_CTX : Nat := 0x094
abbrev EV_FRAME_BEGIN : Nat := 0
abbrev EV_FRAME_START : Nat := 1
abbrev EV_DEADLINE : Nat := 2
abbrev EV_COMMIT_LATE : Nat := 3
abbrev EV_UNDERRUN : Nat := 4
abbrev EV_LOCK_LOST : Nat := 5
abbrev EV_LOCKED : Nat := 6
abbrev EV_ENABLE_REFUSED : Nat := 7
abbrev EV_TIMING_BUSY : Nat := 8
abbrev EV_LTRIG_REFUSED : Nat := 9
abbrev EV_SYNCOUT_CONFLICT : Nat := 10
abbrev EV_PLL_UNLOCK : Nat := 11
abbrev SRC_UNDERRUN : Nat := 3
abbrev SRC_LOCK_LOST : Nat := 4
abbrev SRC_COMMIT_LATE : Nat := 5
abbrev SRC_PLL_UNLOCK : Nat := 6
abbrev SRC_ENABLE_REFUSED : Nat := 7
/-- The register rows: offset, count, stride, access, reset value, writable bits, field starts. -/
def rows : List Row := [
  ⟨0x040, 1, 4, .rw, 0x0, 0xFFF3D, 0x10115⟩,
  ⟨0x044, 1, 4, .rw, 0x0, 0xFFF0FFF, 0x10001⟩,
  ⟨0x048, 1, 4, .rw, 0x0, 0xFFF0FFF, 0x10001⟩,
  ⟨0x04C, 1, 4, .rw, 0x0, 0xFFF0FFF, 0x10001⟩,
  ⟨0x050, 1, 4, .rw, 0x0, 0xFFF0FFF, 0x10001⟩,
  ⟨0x054, 1, 4, .rw, 0x0, 0xFFFFF, 0x1⟩,
  ⟨0x058, 1, 4, .rw, 0x0, 0x1FFF1FFF, 0x10001⟩,
  ⟨0x05C, 1, 4, .rw, 0x0, 0xFFFF, 0x1⟩,
  ⟨0x060, 1, 4, .rw, 0x40040, 0xF0FFF, 0x10001⟩,
  ⟨0x064, 1, 4, .ro, 0x0, 0x0, 0x0⟩,
  ⟨0x068, 1, 4, .ro, 0x0, 0x0, 0x0⟩,
  ⟨0x06C, 1, 4, .ro, 0x0, 0x0, 0x0⟩,
  ⟨0x070, 1, 4, .ro, 0x0, 0x0, 0x0⟩,
  ⟨0x074, 1, 4, .ro, 0x0, 0x0, 0x0⟩,
  ⟨0x078, 1, 4, .ro, 0x0, 0x0, 0x0⟩,
  ⟨0x07C, 1, 4, .ro, 0x0, 0x0, 0x0⟩,
  ⟨0x080, 1, 4, .ro, 0x0, 0x0, 0x0⟩,
  ⟨0x084, 1, 4, .ro, 0x0, 0x0, 0x0⟩,
  ⟨0x088, 1, 4, .ro, 0x0, 0x0, 0x0⟩,
  ⟨0x08C, 1, 4, .ro, 0x0, 0x0, 0x0⟩,
  ⟨0x090, 1, 4, .rw, 0x0, 0xDFFFFF01, 0x40000101⟩,
  ⟨0x094, 1, 4, .rw, 0x0, 0xBF, 0x81⟩]
end Reg.Head

namespace Reg.Port
/-! Registers of the output port pages (R213). -/
abbrev PORT_CTRL : Nat := 0x040
abbrev PORT_PHY : Nat := 0x044
abbrev LINK_STAT : Nat := 0x048
abbrev SHORT_STAT : Nat := 0x04C
abbrev AUX_ADDR : Nat := 0x050
abbrev AUX_CMD : Nat := 0x054
abbrev AUX_DATA (i : Nat) : Nat := 0x058 + 4 * i
abbrev AUX_STAT : Nat := 0x068
abbrev TRAIN_COUNT : Nat := 0x06C
abbrev EV_HPD_PLUG : Nat := 0
abbrev EV_HPD_UNPLUG : Nat := 1
abbrev EV_IRQ_HPD : Nat := 2
abbrev EV_TRAINED : Nat := 3
abbrev EV_TRAIN_FAIL : Nat := 4
abbrev EV_LINK_LOST : Nat := 5
abbrev EV_SHORT : Nat := 6
abbrev EV_AUX_DONE : Nat := 7
abbrev EV_BW_SHORT : Nat := 8
abbrev EV_SRC_REFUSED : Nat := 9
abbrev SRC_SHORT : Nat := 3
abbrev SRC_TRAIN_FAIL : Nat := 4
abbrev SRC_LINK_LOST : Nat := 5
abbrev SRC_BW_SHORT : Nat := 6
abbrev SRC_SRC_REFUSED : Nat := 7
/-- The register rows: offset, count, stride, access, reset value, writable bits, field starts. -/
def rows : List Row := [
  ⟨0x040, 1, 4, .rw, 0x0, 0xF73203, 0x111201⟩,
  ⟨0x044, 1, 4, .rw, 0xE40000, 0xFF0F33, 0x10111⟩,
  ⟨0x048, 1, 4, .ro, 0x0, 0x0, 0x0⟩,
  ⟨0x04C, 1, 4, .ro, 0x0, 0x0, 0x0⟩,
  ⟨0x050, 1, 4, .rw, 0x0, 0xFFFFF, 0x1⟩,
  ⟨0x054, 1, 4, .wo, 0x0, 0x0, 0x0⟩,
  ⟨0x058, 4, 4, .rw, 0x0, 0xFFFFFFFF, 0x1⟩,
  ⟨0x068, 1, 4, .ro, 0x0, 0x0, 0x0⟩,
  ⟨0x06C, 1, 4, .ro, 0x0, 0x0, 0x0⟩]
end Reg.Port

namespace Reg.Cam
/-! Registers of the CAM global page (R251). -/
abbrev CSI_CTRL (i : Nat) : Nat := 0x040 + 32 * i
abbrev CSI_RATE (i : Nat) : Nat := 0x044 + 32 * i
abbrev CSI_LANE (i : Nat) : Nat := 0x048 + 32 * i
abbrev CSI_STAT (i : Nat) : Nat := 0x04C + 32 * i
abbrev CSI_ERR (i : Nat) : Nat := 0x050 + 32 * i
abbrev CSI_DROP (i : Nat) : Nat := 0x054 + 32 * i
abbrev EV_PORT_UP : Nat := 0
abbrev EV_CSI_REFUSED : Nat := 4
abbrev EV_HDR_ERR : Nat := 8
abbrev SRC_HDR_ERR : Nat := 3
abbrev SRC_CSI_REFUSED : Nat := 4
/-- The register rows: offset, count, stride, access, reset value, writable bits, field starts. -/
def rows : List Row := [
  ⟨0x040, 4, 32, .rw, 0x0, 0x7, 0x1⟩,
  ⟨0x044, 4, 32, .rw, 0x9C4, 0xFFF, 0x1⟩,
  ⟨0x048, 4, 32, .rw, 0xE4, 0x1FFF, 0x101⟩,
  ⟨0x04C, 4, 32, .ro, 0x0, 0x0, 0x0⟩,
  ⟨0x050, 4, 32, .ro, 0x0, 0x0, 0x0⟩,
  ⟨0x054, 4, 32, .ro, 0x0, 0x0, 0x0⟩]
end Reg.Cam

namespace Reg.Stream
/-! Registers of the stream pages (R252). -/
abbrev STREAM_CTRL : Nat := 0x040
abbrev STREAM_SIZE : Nat := 0x044
abbrev RING_ADDR : Nat := 0x048
abbrev RING_LINES : Nat := 0x04C
abbrev DRAM_ADDR_LO : Nat := 0x050
abbrev DRAM_ADDR_HI : Nat := 0x054
abbrev DRAM_STRIDE : Nat := 0x058
abbrev DRAM_BUF : Nat := 0x05C
abbrev FRAME_PERIOD : Nat := 0x060
abbrev SYNC_DELAY : Nat := 0x064
abbrev FROZEN_N : Nat := 0x068
abbrev STREAM_STAT : Nat := 0x06C
abbrev FRAME_SEQ : Nat := 0x070
abbrev FS_TO_L0 : Nat := 0x074
abbrev LINE_PERIOD : Nat := 0x078
abbrev FRAME_CRC : Nat := 0x07C
abbrev LINE_COUNT : Nat := 0x080
abbrev ERR_COUNT : Nat := 0x084
abbrev RING_COUNT : Nat := 0x088
abbrev DROP_COUNT : Nat := 0x08C
abbrev EV_FRAME_DONE : Nat := 0
abbrev EV_STREAM_LOST : Nat := 1
abbrev EV_STREAM_FROZEN : Nat := 2
abbrev EV_STREAM_BACK : Nat := 3
abbrev EV_RING_LATE : Nat := 4
abbrev EV_RING_OVERRUN : Nat := 5
abbrev EV_LINE_ERR : Nat := 6
abbrev EV_WRITE_FAULT : Nat := 7
abbrev EV_FRAME_DROP : Nat := 8
abbrev EV_STREAM_REFUSED : Nat := 9
abbrev SRC_STREAM_LOST : Nat := 3
abbrev SRC_STREAM_FROZEN : Nat := 4
abbrev SRC_RING_LATE : Nat := 5
abbrev SRC_RING_OVERRUN : Nat := 6
abbrev SRC_WRITE_FAULT : Nat := 7
/-- The register rows: offset, count, stride, access, reset value, writable bits, field starts. -/
def rows : List Row := [
  ⟨0x040, 1, 4, .rw, 0x40080000, 0x6F7F3F31, 0x21010111⟩,
  ⟨0x044, 1, 4, .rw, 0x0, 0x1FFF1FFF, 0x10001⟩,
  ⟨0x048, 1, 4, .rw, 0x0, 0x1FFFFFF, 0x1⟩,
  ⟨0x04C, 1, 4, .rw, 0x8, 0xFFF, 0x1⟩,
  ⟨0x050, 1, 4, .rw, 0x0, 0xFFFFFFFF, 0x1⟩,
  ⟨0x054, 1, 4, .rw, 0x0, 0xFFFFFFFF, 0x1⟩,
  ⟨0x058, 1, 4, .rw, 0x0, 0xFFFFF, 0x1⟩,
  ⟨0x05C, 1, 4, .rw, 0x2, 0xF03, 0x101⟩,
  ⟨0x060, 1, 4, .rw, 0x411B, 0xFFFFF, 0x1⟩,
  ⟨0x064, 1, 4, .rw, 0x0, 0xFFFFF, 0x1⟩,
  ⟨0x068, 1, 4, .rw, 0x4, 0xFF, 0x1⟩,
  ⟨0x06C, 1, 4, .ro, 0x0, 0x0, 0x0⟩,
  ⟨0x070, 1, 4, .ro, 0x0, 0x0, 0x0⟩,
  ⟨0x074, 1, 4, .ro, 0x0, 0x0, 0x0⟩,
  ⟨0x078, 1, 4, .ro, 0x0, 0x0, 0x0⟩,
  ⟨0x07C, 1, 4, .ro, 0x0, 0x0, 0x0⟩,
  ⟨0x080, 1, 4, .ro, 0x0, 0x0, 0x0⟩,
  ⟨0x084, 1, 4, .ro, 0x0, 0x0, 0x0⟩,
  ⟨0x088, 1, 4, .ro, 0x0, 0x0, 0x0⟩,
  ⟨0x08C, 1, 4, .ro, 0x0, 0x0, 0x0⟩]
end Reg.Stream

namespace Reg.Dw
/-! Registers of the dewarp pages (R254). -/
abbrev DW_MESH_ADDR : Nat := 0x040
abbrev DW_MESH_DIM : Nat := 0x044
abbrev DW_CELL : Nat := 0x048
abbrev DW_OUT_ADDR : Nat := 0x04C
abbrev DW_FILL : Nat := 0x050
abbrev DW_STAT : Nat := 0x054
abbrev MESH_AHEAD : Nat := 0x058
abbrev MESH_SPAN : Nat := 0x05C
abbrev OUT_SIZE : Nat := 0x060
abbrev DW_COUNT : Nat := 0x064
abbrev DW_APPLY : Nat := 0x068
abbrev DW_FRAMES : Nat := 0x06C
abbrev EV_MESH_APPLIED : Nat := 0
abbrev EV_MESH_REFUSED : Nat := 1
abbrev SRC_MESH_REFUSED : Nat := 3
/-- The register rows: offset, count, stride, access, reset value, writable bits, field starts. -/
def rows : List Row := [
  ⟨0x040, 1, 4, .rw, 0x0, 0x1FFFFFF, 0x1⟩,
  ⟨0x044, 1, 4, .rw, 0x20002, 0xFF00FF, 0x10001⟩,
  ⟨0x048, 1, 4, .rw, 0x40004, 0xFF00FF, 0x10001⟩,
  ⟨0x04C, 1, 4, .rw, 0x0, 0x1FFFFFF, 0x1⟩,
  ⟨0x050, 1, 4, .rw, 0x0, 0x3FFFFFFF, 0x100401⟩,
  ⟨0x054, 1, 4, .ro, 0x0, 0x0, 0x0⟩,
  ⟨0x058, 1, 4, .ro, 0x0, 0x0, 0x0⟩,
  ⟨0x05C, 1, 4, .ro, 0x0, 0x0, 0x0⟩,
  ⟨0x060, 1, 4, .ro, 0x0, 0x0, 0x0⟩,
  ⟨0x064, 1, 4, .ro, 0x0, 0x0, 0x0⟩,
  ⟨0x068, 1, 4, .wo, 0x0, 0x0, 0x0⟩,
  ⟨0x06C, 1, 4, .ro, 0x0, 0x0, 0x0⟩]
end Reg.Dw

namespace Reg.Gpu
/-! Registers of the GPU global page (R296). -/
abbrev GPU_CTRL : Nat := 0x040
abbrev GPU_STAT : Nat := 0x044
abbrev THERMAL : Nat := 0x048
abbrev TCACHE_LO : Nat := 0x04C
abbrev TCACHE_HI : Nat := 0x050
abbrev TCACHE_SIZE : Nat := 0x054
abbrev TCACHE_STAT : Nat := 0x058
abbrev TRANS_COUNT : Nat := 0x05C
abbrev PREEMPT_AREA : Nat := 0x060
abbrev BW_LAT_MAX : Nat := 0x064
abbrev LEVEL_COUNT : Nat := 0x068
abbrev EV_THROTTLE : Nat := 0
abbrev EV_THERMAL_TRIP : Nat := 1
abbrev EV_TRANS_REFUSED : Nat := 2
abbrev EV_CORE_ERR : Nat := 3
abbrev EV_BW_BOUND : Nat := 4
abbrev SRC_THERMAL_TRIP : Nat := 3
abbrev SRC_CORE_ERR : Nat := 4
abbrev SRC_BW_BOUND : Nat := 5
/-- The register rows: offset, count, stride, access, reset value, writable bits, field starts. -/
def rows : List Row := [
  ⟨0x040, 1, 4, .rw, 0x5700000, 0x7770001, 0x1110001⟩,
  ⟨0x044, 1, 4, .ro, 0x700, 0x0, 0x0⟩,
  ⟨0x048, 1, 4, .rw, 0x695F, 0xFF, 0x1⟩,
  ⟨0x04C, 1, 4, .rwl, 0x0, 0xFFFFFFFF, 0x1⟩,
  ⟨0x050, 1, 4, .rwl, 0x0, 0xFFFFFFFF, 0x1⟩,
  ⟨0x054, 1, 4, .rwl, 0x40, 0xFFF, 0x1⟩,
  ⟨0x058, 1, 4, .ro, 0x0, 0x0, 0x0⟩,
  ⟨0x05C, 1, 4, .ro, 0x0, 0x0, 0x0⟩,
  ⟨0x060, 1, 4, .rwl, 0x0, 0x1FFFFFF, 0x1⟩,
  ⟨0x064, 1, 4, .ro, 0x0, 0x0, 0x0⟩,
  ⟨0x068, 1, 4, .ro, 0x0, 0x0, 0x0⟩]
end Reg.Gpu

namespace Reg.Ctx
/-! Registers of the context pages (R298). -/
abbrev CTX_CTRL : Nat := 0x040
abbrev CTX_STAT : Nat := 0x044
abbrev QUEUE_BASE_LO : Nat := 0x048
abbrev QUEUE_BASE_HI : Nat := 0x04C
abbrev QUEUE_SIZE : Nat := 0x050
abbrev QUEUE_WPTR : Nat := 0x054
abbrev QUEUE_RPTR : Nat := 0x058
abbrev PEN_RING_LO : Nat := 0x05C
abbrev PEN_RING_HI : Nat := 0x060
abbrev PEN_RING_LOG2 : Nat := 0x064
abbrev PEN_WPTR : Nat := 0x068
abbrev PEN_RPTR : Nat := 0x06C
abbrev PEN_CFG : Nat := 0x070
abbrev PEN_STAT : Nat := 0x074
abbrev SPILL_LO : Nat := 0x078
abbrev SPILL_HI : Nat := 0x07C
abbrev SPILL_SIZE : Nat := 0x080
abbrev SAVE_LO : Nat := 0x084
abbrev SAVE_HI : Nat := 0x088
abbrev SAVE_NEED : Nat := 0x08C
abbrev FAULT_INFO : Nat := 0x090
abbrev FAULT_ADDR_LO : Nat := 0x094
abbrev FAULT_ADDR_HI : Nat := 0x098
abbrev CALL_LAT : Nat := 0x09C
abbrev CALL_LAT_MAX : Nat := 0x0A0
abbrev CALL_COUNT : Nat := 0x0A4
abbrev PREEMPT_COUNT : Nat := 0x0A8
abbrev RUN_LIMIT : Nat := 0x0AC
abbrev CTX_CMD : Nat := 0x0B0
abbrev TRANS_WAIT : Nat := 0x0B4
abbrev EV_FENCE : Nat := 0
abbrev EV_PEN_STARVE : Nat := 1
abbrev EV_PARTIAL_RENDER : Nat := 2
abbrev EV_CTX_FAULT : Nat := 3
abbrev EV_QUEUE_EMPTY : Nat := 4
abbrev EV_CALL_OVERLAP : Nat := 5
abbrev EV_SAVED : Nat := 6
abbrev EV_CFG_BUSY : Nat := 7
abbrev SRC_CTX_FAULT : Nat := 3
abbrev SRC_PEN_STARVE : Nat := 4
abbrev SRC_PARTIAL_RENDER : Nat := 5
abbrev SRC_CALL_OVERLAP : Nat := 6
/-- The register rows: offset, count, stride, access, reset value, writable bits, field starts. -/
def rows : List Row := [
  ⟨0x040, 1, 4, .rw, 0x22000, 0x33001, 0x11001⟩,
  ⟨0x044, 1, 4, .ro, 0x0, 0x0, 0x0⟩,
  ⟨0x048, 1, 4, .rw, 0x0, 0xFFFFFFFF, 0x1⟩,
  ⟨0x04C, 1, 4, .rw, 0x0, 0xFFFFFFFF, 0x1⟩,
  ⟨0x050, 1, 4, .rw, 0xC, 0x1F, 0x1⟩,
  ⟨0x054, 1, 4, .rw, 0x0, 0xFFFFF, 0x1⟩,
  ⟨0x058, 1, 4, .ro, 0x0, 0x0, 0x0⟩,
  ⟨0x05C, 1, 4, .rw, 0x0, 0xFFFFFFFF, 0x1⟩,
  ⟨0x060, 1, 4, .rw, 0x0, 0xFFFFFFFF, 0x1⟩,
  ⟨0x064, 1, 4, .rw, 0x4, 0x1F, 0x1⟩,
  ⟨0x068, 1, 4, .rw, 0x0, 0xFFFF, 0x1⟩,
  ⟨0x06C, 1, 4, .ro, 0x0, 0x0, 0x0⟩,
  ⟨0x070, 1, 4, .rw, 0x140000, 0xFFFFFFFF, 0x10001⟩,
  ⟨0x074, 1, 4, .ro, 0x0, 0x0, 0x0⟩,
  ⟨0x078, 1, 4, .rw, 0x0, 0xFFFFFFFF, 0x1⟩,
  ⟨0x07C, 1, 4, .rw, 0x0, 0xFFFFFFFF, 0x1⟩,
  ⟨0x080, 1, 4, .rw, 0x0, 0xFFF, 0x1⟩,
  ⟨0x084, 1, 4, .rw, 0x0, 0xFFFFFFFF, 0x1⟩,
  ⟨0x088, 1, 4, .rw, 0x0, 0xFFFFFFFF, 0x1⟩,
  ⟨0x08C, 1, 4, .ro, 0x0, 0x0, 0x0⟩,
  ⟨0x090, 1, 4, .ro, 0x0, 0x0, 0x0⟩,
  ⟨0x094, 1, 4, .ro, 0x0, 0x0, 0x0⟩,
  ⟨0x098, 1, 4, .ro, 0x0, 0x0, 0x0⟩,
  ⟨0x09C, 1, 4, .ro, 0x0, 0x0, 0x0⟩,
  ⟨0x0A0, 1, 4, .ro, 0x0, 0x0, 0x0⟩,
  ⟨0x0A4, 1, 4, .ro, 0x0, 0x0, 0x0⟩,
  ⟨0x0A8, 1, 4, .ro, 0x0, 0x0, 0x0⟩,
  ⟨0x0AC, 1, 4, .rw, 0x0, 0xFFFF, 0x1⟩,
  ⟨0x0B0, 1, 4, .wo, 0x0, 0x0, 0x0⟩,
  ⟨0x0B4, 1, 4, .ro, 0x0, 0x0, 0x0⟩]
end Reg.Ctx

namespace Reg.Flock
/-! Registers of the flock pages (R300). -/
abbrev FLOCK_STAT : Nat := 0x040
abbrev FLOCK_TILES : Nat := 0x044
abbrev FLOCK_REDO : Nat := 0x048
abbrev FLOCK_ERR : Nat := 0x04C
/-- The register rows: offset, count, stride, access, reset value, writable bits, field starts. -/
def rows : List Row := [
  ⟨0x040, 1, 4, .ro, 0x3F, 0x0, 0x0⟩,
  ⟨0x044, 1, 4, .ro, 0x0, 0x0, 0x0⟩,
  ⟨0x048, 1, 4, .ro, 0x0, 0x0, 0x0⟩,
  ⟨0x04C, 1, 4, .ro, 0x0, 0x0, 0x0⟩]
end Reg.Flock

namespace Reg.Chk
/-! Registers of the check-window pages (R323). -/
abbrev CHK_COMMIT : Nat := 0x040
abbrev FAIL_LATCH : Nat := 0x044
abbrev FAIL_CLEAR : Nat := 0x048
abbrev CHK_FRAME : Nat := 0x04C
abbrev WIN_CTRL (i : Nat) : Nat := 0x080 + 16 * i
abbrev WIN_XY (i : Nat) : Nat := 0x084 + 16 * i
abbrev WIN_WH (i : Nat) : Nat := 0x088 + 16 * i
abbrev WIN_COUNT (i : Nat) : Nat := 0x08C + 16 * i
abbrev LAST_CRC (i : Nat) : Nat := 0x180 + 4 * i
abbrev WIN_STAT (i : Nat) : Nat := 0x1C0 + 4 * i
abbrev EXPECT (i : Nat) : Nat := 0x200 + 4 * i
abbrev EV_WIN_FAIL : Nat := 0
abbrev EV_CHK_REFUSED : Nat := 16
abbrev EV_CHK_APPLIED : Nat := 17
abbrev SRC_CHECK_FAIL : Nat := 3
abbrev SRC_CHECK_HARD : Nat := 4
abbrev SRC_CHK_REFUSED : Nat := 5
/-- The register rows: offset, count, stride, access, reset value, writable bits, field starts. -/
def rows : List Row := [
  ⟨0x040, 1, 4, .wo, 0x0, 0x0, 0x0⟩,
  ⟨0x044, 1, 4, .ro, 0x0, 0x0, 0x0⟩,
  ⟨0x048, 1, 4, .wo, 0x0, 0x0, 0x0⟩,
  ⟨0x04C, 1, 4, .ro, 0x0, 0x0, 0x0⟩,
  ⟨0x080, 16, 16, .staged, 0x0, 0xFF0F7CF1, 0x1010411⟩,
  ⟨0x084, 16, 16, .staged, 0x0, 0x1FFF1FFF, 0x10001⟩,
  ⟨0x088, 16, 16, .staged, 0x10001, 0x1FFF1FFF, 0x10001⟩,
  ⟨0x08C, 16, 16, .ro, 0x0, 0x0, 0x0⟩,
  ⟨0x180, 16, 4, .ro, 0x0, 0x0, 0x0⟩,
  ⟨0x1C0, 16, 4, .ro, 0x0, 0x0, 0x0⟩,
  ⟨0x200, 128, 4, .staged, 0x0, 0xFFFFFFFF, 0x1⟩]
end Reg.Chk

namespace Reg.Ring
/-! Registers of the touch report ring block (R356), relative offsets. -/
abbrev RING_LO : Nat := 0x000
abbrev RING_HI : Nat := 0x004
abbrev RING_CFG : Nat := 0x008
abbrev RING_WPTR : Nat := 0x00C
abbrev RING_RPTR : Nat := 0x010
abbrev RING_STAT : Nat := 0x014
/-- The register rows: offset, count, stride, access, reset value, writable bits, field starts. -/
def rows : List Row := [
  ⟨0x000, 1, 4, .rw, 0x0, 0xFFFFFFFF, 0x1⟩,
  ⟨0x004, 1, 4, .rw, 0x0, 0xFFFFFFFF, 0x1⟩,
  ⟨0x008, 1, 4, .rw, 0x6, 0x8000001F, 0x80000001⟩,
  ⟨0x00C, 1, 4, .ro, 0x0, 0x0, 0x0⟩,
  ⟨0x010, 1, 4, .rw, 0x0, 0x3FFF, 0x1⟩,
  ⟨0x014, 1, 4, .ro, 0x0, 0x0, 0x0⟩]
end Reg.Ring

namespace Reg.Tch
/-! Registers of the TCH global page (R368). -/
abbrev TCH_CTRL : Nat := 0x040
abbrev TCH_TIME : Nat := 0x044
abbrev EV_FOLD_REPORT : Nat := 0
abbrev EV_FIELD_REPORT : Nat := 1
abbrev EV_FOLD_GAP : Nat := 2
abbrev EV_FIELD_GAP : Nat := 3
abbrev EV_RING_REFUSED : Nat := 4
abbrev SRC_RING_OVERFLOW : Nat := 3
/-- The register rows: offset, count, stride, access, reset value, writable bits, field starts. -/
def rows : List Row := [
  ⟨0x040, 1, 4, .rw, 0x0, 0x1, 0x1⟩,
  ⟨0x044, 1, 4, .ro, 0x0, 0x0, 0x0⟩]
end Reg.Tch

namespace Reg.Panel
/-! Registers of the panel pages (R369). -/
abbrev PANEL_CTRL : Nat := 0x040
abbrev PANEL_SIZE : Nat := 0x044
abbrev PANEL_SCAN : Nat := 0x048
abbrev PANEL_THRESH : Nat := 0x04C
abbrev PANEL_BASE : Nat := 0x050
abbrev PANEL_FILTER : Nat := 0x054
abbrev PANEL_CLASS : Nat := 0x058
abbrev PANEL_TRACK : Nat := 0x05C
abbrev PANEL_STAT : Nat := 0x060
abbrev PANEL_HOP : Nat := 0x064
abbrev PANEL_FREQ : Nat := 0x068
abbrev PANEL_NOISE : Nat := 0x06C
abbrev ELEC_STAT : Nat := 0x070
abbrev PANEL_COUNT1 : Nat := 0x074
abbrev PANEL_COUNT2 : Nat := 0x078
abbrev REGION_X (i : Nat) : Nat := 0x100 + 4 * i
abbrev REGION_Y (i : Nat) : Nat := 0x200 + 4 * i
abbrev REGION_CTRL (i : Nat) : Nat := 0x300 + 4 * i
abbrev EV_READY : Nat := 0
abbrev EV_SENSE_LOST : Nat := 1
abbrev EV_SENSE_BACK : Nat := 2
abbrev EV_ELECTRODE_FAULT : Nat := 3
abbrev EV_HOP : Nat := 4
abbrev EV_FORCED_LIFT : Nat := 5
abbrev EV_TRACK_OVF : Nat := 6
abbrev EV_PANEL_REFUSED : Nat := 7
abbrev EV_REGION_REFUSED : Nat := 8
abbrev SRC_PANEL_SENSE_LOST : Nat := 3
abbrev SRC_ELECTRODE_FAULT : Nat := 4
/-- The register rows: offset, count, stride, access, reset value, writable bits, field starts. -/
def rows : List Row := [
  ⟨0x040, 1, 4, .rw, 0x0, 0x1, 0x1⟩,
  ⟨0x044, 1, 4, .rw, 0x40004, 0x3FF03FF, 0x10001⟩,
  ⟨0x048, 1, 4, .rw, 0x781001, 0xFFFFFF, 0x10001⟩,
  ⟨0x04C, 1, 4, .rw, 0x10400028, 0x3FFFFFFF, 0x1001001⟩,
  ⟨0x050, 1, 4, .rw, 0x960050, 0xFFF0FFF, 0x10001⟩,
  ⟨0x054, 1, 4, .rw, 0x1003C, 0x310FFF, 0x110001⟩,
  ⟨0x058, 1, 4, .rw, 0x1E100028, 0xFFFF0FFF, 0x1010001⟩,
  ⟨0x05C, 1, 4, .rw, 0x2002710, 0xFFFFFFFF, 0x10001⟩,
  ⟨0x060, 1, 4, .ro, 0x0, 0x0, 0x0⟩,
  ⟨0x064, 1, 4, .rw, 0x4000FF, 0xFFF00FF, 0x10001⟩,
  ⟨0x068, 1, 4, .ro, 0x0, 0x0, 0x0⟩,
  ⟨0x06C, 1, 4, .ro, 0x0, 0x0, 0x0⟩,
  ⟨0x070, 1, 4, .ro, 0x0, 0x0, 0x0⟩,
  ⟨0x074, 1, 4, .ro, 0x0, 0x0, 0x0⟩,
  ⟨0x078, 1, 4, .ro, 0x0, 0x0, 0x0⟩,
  ⟨0x100, 64, 4, .rw, 0x0, 0xFFFFFFFF, 0x10001⟩,
  ⟨0x200, 64, 4, .rw, 0x0, 0xFFFFFFFF, 0x10001⟩,
  ⟨0x300, 64, 4, .rw, 0x107808, 0x3FFFD, 0x30115⟩]
end Reg.Panel

namespace Reg.Lg
/-! Registers of the Laiga port pages (R370). -/
abbrev LG_CTRL : Nat := 0x040
abbrev LG_STAT : Nat := 0x044
abbrev LG_FE_ID : Nat := 0x048
abbrev LG_FE_CAP : Nat := 0x04C
abbrev LG_FE_STAT : Nat := 0x050
abbrev LG_ERR : Nat := 0x054
abbrev LG_FRAMES : Nat := 0x058
abbrev LG_DROP : Nat := 0x05C
abbrev LG_GAIN : Nat := 0x060
abbrev EV_LINK_UP : Nat := 0
abbrev EV_LINK_LOST : Nat := 1
abbrev EV_CRC_ERR : Nat := 2
abbrev EV_POLARITY : Nat := 3
abbrev EV_FRAME_LATE : Nat := 4
abbrev SRC_LINK_CRC : Nat := 3
abbrev SRC_FRAME_LATE : Nat := 4
/-- The register rows: offset, count, stride, access, reset value, writable bits, field starts. -/
def rows : List Row := [
  ⟨0x040, 1, 4, .rw, 0x0, 0x1, 0x1⟩,
  ⟨0x044, 1, 4, .ro, 0x0, 0x0, 0x0⟩,
  ⟨0x048, 1, 4, .ro, 0x0, 0x0, 0x0⟩,
  ⟨0x04C, 1, 4, .ro, 0x0, 0x0, 0x0⟩,
  ⟨0x050, 1, 4, .ro, 0x0, 0x0, 0x0⟩,
  ⟨0x054, 1, 4, .ro, 0x0, 0x0, 0x0⟩,
  ⟨0x058, 1, 4, .ro, 0x0, 0x0, 0x0⟩,
  ⟨0x05C, 1, 4, .ro, 0x0, 0x0, 0x0⟩,
  ⟨0x060, 1, 4, .rw, 0x10, 0xFF, 0x1⟩]
end Reg.Lg

namespace Reg.Key0
/-! Registers of the KEY page 0 (R371). -/
abbrev KEY_CTRL : Nat := 0x040
abbrev KEY_TEST : Nat := 0x044
abbrev KEY_DOWN_LO : Nat := 0x048
abbrev KEY_DOWN_HI : Nat := 0x04C
abbrev KEY_FAULT_LO : Nat := 0x050
abbrev KEY_FAULT_HI : Nat := 0x054
abbrev KEY_CFG (i : Nat) : Nat := 0x100 + 4 * i
abbrev KEY_CLICK (i : Nat) : Nat := 0x200 + 4 * i
abbrev EV_KEY_DOWN : Nat := 0
abbrev EV_KEY_UP : Nat := 1
abbrev EV_KEY_OPEN : Nat := 2
abbrev EV_KEY_SHORT : Nat := 3
abbrev EV_FORCED_LIFT : Nat := 4
abbrev SRC_KEY_OPEN : Nat := 3
abbrev SRC_KEY_SHORT : Nat := 4
/-- The register rows: offset, count, stride, access, reset value, writable bits, field starts. -/
def rows : List Row := [
  ⟨0x040, 1, 4, .rw, 0x1, 0x1, 0x1⟩,
  ⟨0x044, 1, 4, .rw, 0x1000001, 0xFFFF0001, 0x10001⟩,
  ⟨0x048, 1, 4, .ro, 0x0, 0x0, 0x0⟩,
  ⟨0x04C, 1, 4, .ro, 0x0, 0x0, 0x0⟩,
  ⟨0x050, 1, 4, .ro, 0x0, 0x0, 0x0⟩,
  ⟨0x054, 1, 4, .ro, 0x0, 0x0, 0x0⟩,
  ⟨0x100, 48, 4, .rw, 0x2FF0100, 0x3FFFFFF, 0x1010001⟩,
  ⟨0x200, 48, 4, .rw, 0xFF1400FF, 0xFFFF0FFF, 0x1010101⟩]
end Reg.Key0

namespace Reg.Key1
/-! Registers of the KEY page 1 (R371). -/
abbrev KEY_SUPPRESS : Nat := 0x040
abbrev KEY_ERR : Nat := 0x044
abbrev KEY_RAW (i : Nat) : Nat := 0x100 + 4 * i
abbrev KEY_STATE (i : Nat) : Nat := 0x200 + 4 * i
/-- The register rows: offset, count, stride, access, reset value, writable bits, field starts. -/
def rows : List Row := [
  ⟨0x040, 1, 4, .ro, 0x0, 0x0, 0x0⟩,
  ⟨0x044, 1, 4, .ro, 0x0, 0x0, 0x0⟩,
  ⟨0x100, 48, 4, .ro, 0x0, 0x0, 0x0⟩,
  ⟨0x200, 48, 4, .ro, 0x0, 0x0, 0x0⟩]
end Reg.Key1

namespace Reg.Hap
/-! Registers of the HAP configuration page (R396). -/
abbrev HAP_CTRL : Nat := 0x040
abbrev BST_CTRL0 : Nat := 0x044
abbrev BST_CTRL1 : Nat := 0x048
abbrev BST_STAT : Nat := 0x04C
abbrev VHV_MEAS : Nat := 0x050
abbrev HAP_THERM : Nat := 0x054
abbrev WH_SEL : Nat := 0x058
abbrev WH_INFO0 : Nat := 0x05C
abbrev WH_INFO1 : Nat := 0x060
abbrev WH_DATA : Nat := 0x064
abbrev CH_CFG (i : Nat) : Nat := 0x100 + 4 * i
abbrev CH_LIM (i : Nat) : Nat := 0x140 + 4 * i
abbrev CH_STAT (i : Nat) : Nat := 0x180 + 4 * i
abbrev CH_COUNT (i : Nat) : Nat := 0x1C0 + 4 * i
abbrev EV_CH_FAULT : Nat := 0
abbrev EV_BOOST_FAULT : Nat := 1
abbrev EV_THERM_WARN : Nat := 2
abbrev EV_THERM_TRIP : Nat := 3
abbrev EV_ON_LIMIT : Nat := 4
abbrev EV_CLIP : Nat := 5
abbrev EV_DROP : Nat := 6
abbrev SRC_HAP_OPEN : Nat := 3
abbrev SRC_HAP_SHORT : Nat := 4
abbrev SRC_BOOST_FAULT : Nat := 5
abbrev SRC_HAP_THERM_TRIP : Nat := 6
abbrev SRC_ON_LIMIT : Nat := 7
/-- The register rows: offset, count, stride, access, reset value, writable bits, field starts. -/
def rows : List Row := [
  ⟨0x040, 1, 4, .rw, 0x1, 0x1, 0x1⟩,
  ⟨0x044, 1, 4, .rw, 0x78, 0x800000FF, 0x80000001⟩,
  ⟨0x048, 1, 4, .rw, 0x78, 0x800000FF, 0x80000001⟩,
  ⟨0x04C, 1, 4, .ro, 0x0, 0x0, 0x0⟩,
  ⟨0x050, 1, 4, .ro, 0x0, 0x0, 0x0⟩,
  ⟨0x054, 1, 4, .rw, 0x5A, 0xFF, 0x1⟩,
  ⟨0x058, 1, 4, .rw, 0x0, 0x7FFF00FF, 0x10001⟩,
  ⟨0x05C, 1, 4, .ro, 0x0, 0x0, 0x0⟩,
  ⟨0x060, 1, 4, .ro, 0x0, 0x0, 0x0⟩,
  ⟨0x064, 1, 4, .ro, 0x0, 0x0, 0x0⟩,
  ⟨0x100, 16, 4, .rw, 0xC80A6400, 0xFFFF7F01, 0x10101⟩,
  ⟨0x140, 16, 4, .rw, 0x326407D0, 0xFFFFFFFF, 0x1010001⟩,
  ⟨0x180, 16, 4, .ro, 0x0, 0x0, 0x0⟩,
  ⟨0x1C0, 16, 4, .ro, 0x0, 0x0, 0x0⟩]
end Reg.Hap

namespace Reg.Trig
/-! Registers of the HAP trigger page (R397). -/
abbrev TRIG_STAT : Nat := 0x040
abbrev TRIG_COUNT : Nat := 0x044
abbrev TRIG (i : Nat) : Nat := 0x100 + 4 * i
abbrev EV_TRIG_REFUSED : Nat := 0
abbrev EV_DROP : Nat := 1
abbrev SRC_TRIG_REFUSED : Nat := 3
/-- The register rows: offset, count, stride, access, reset value, writable bits, field starts. -/
def rows : List Row := [
  ⟨0x040, 1, 4, .ro, 0x0, 0x0, 0x0⟩,
  ⟨0x044, 1, 4, .ro, 0x0, 0x0, 0x0⟩,
  ⟨0x100, 16, 4, .wo, 0x0, 0x0, 0x0⟩]
end Reg.Trig

namespace Reg.Aud0
/-! Registers of the AUD page 0 (R426). -/
abbrev AUD_CTRL : Nat := 0x040
abbrev DOMAIN_CFG (i : Nat) : Nat := 0x044 + 4 * i
abbrev DOMAIN_STAT (i : Nat) : Nat := 0x050 + 4 * i
abbrev DUCK_CFG : Nat := 0x05C
abbrev DUCK_TIME : Nat := 0x060
abbrev DUCK_STAT : Nat := 0x064
abbrev BRIDGE_STAT : Nat := 0x068
abbrev TDM_CFG (i : Nat) : Nat := 0x080 + 8 * i
abbrev TDM_STAT (i : Nat) : Nat := 0x084 + 8 * i
abbrev EV_DOMAIN_LOST : Nat := 0
abbrev EV_DOMAIN_BACK : Nat := 1
abbrev EV_TDM_SLIP : Nat := 2
abbrev EV_DUCK_ON : Nat := 3
abbrev EV_DUCK_OFF : Nat := 4
abbrev SRC_DOMAIN_LOST : Nat := 3
abbrev SRC_TDM_SLIP : Nat := 4
/-- The register rows: offset, count, stride, access, reset value, writable bits, field starts. -/
def rows : List Row := [
  ⟨0x040, 1, 4, .rw, 0x1, 0x1, 0x1⟩,
  ⟨0x044, 3, 4, .rw, 0x80000004, 0x80070007, 0x80010001⟩,
  ⟨0x050, 3, 4, .ro, 0x0, 0x0, 0x0⟩,
  ⟨0x05C, 1, 4, .rw, 0x36180C00, 0xFFFFFF00, 0x1010100⟩,
  ⟨0x060, 1, 4, .rw, 0xA1F412C, 0xFFFFFFFF, 0x1001001⟩,
  ⟨0x064, 1, 4, .ro, 0x0, 0x0, 0x0⟩,
  ⟨0x068, 1, 4, .ro, 0x0, 0x0, 0x0⟩,
  ⟨0x080, 4, 8, .rw, 0x0, 0x337FF, 0x11101⟩,
  ⟨0x084, 4, 8, .ro, 0x0, 0x0, 0x0⟩]
end Reg.Aud0

namespace Reg.Aud1
/-! Registers of the AUD page 1 (R427). -/
abbrev ROUTE_SEL : Nat := 0x040
abbrev ROUTE_CFG : Nat := 0x044
abbrev ROUTE_GAIN : Nat := 0x048
abbrev ROUTE_STAT : Nat := 0x04C
abbrev ROUTE_COMMIT : Nat := 0x050
abbrev ROUTE_COUNT : Nat := 0x054
abbrev BUS_CFG (i : Nat) : Nat := 0x100 + 4 * i
abbrev BUS_STAT (i : Nat) : Nat := 0x180 + 4 * i
abbrev EV_ROUTE_APPLIED : Nat := 0
abbrev EV_ROUTE_REFUSED : Nat := 1
abbrev EV_BUS_CLIP : Nat := 2
abbrev SRC_ROUTE_REFUSED : Nat := 3
abbrev SRC_BUS_CLIP : Nat := 4
/-- The register rows: offset, count, stride, access, reset value, writable bits, field starts. -/
def rows : List Row := [
  ⟨0x040, 1, 4, .rw, 0x0, 0xFF, 0x1⟩,
  ⟨0x044, 1, 4, .staged, 0x2000000, 0x83FFFFFF, 0x81010101⟩,
  ⟨0x048, 1, 4, .staged, 0x50000, 0x1FFFFF, 0x10001⟩,
  ⟨0x04C, 1, 4, .ro, 0x0, 0x0, 0x0⟩,
  ⟨0x050, 1, 4, .wo, 0x0, 0x0, 0x0⟩,
  ⟨0x054, 1, 4, .ro, 0x0, 0x0, 0x0⟩,
  ⟨0x100, 32, 4, .rw, 0x0, 0x300F, 0x1001⟩,
  ⟨0x180, 32, 4, .ro, 0x0, 0x0, 0x0⟩]
end Reg.Aud1

namespace Reg.Aud2
/-! Registers of the AUD page 2 (R428). -/
abbrev AS_SEL : Nat := 0x040
abbrev AS_CFG : Nat := 0x044
abbrev AS_RING_LO : Nat := 0x048
abbrev AS_RING_HI : Nat := 0x04C
abbrev AS_STAT : Nat := 0x050
abbrev AS_COUNT : Nat := 0x054
abbrev AS_PTR (i : Nat) : Nat := 0x100 + 4 * i
abbrev EV_AS_UNDERRUN : Nat := 0
abbrev EV_OVERRUN : Nat := 1
abbrev EV_AS_FAULT : Nat := 2
abbrev EV_AS_REFUSED : Nat := 3
abbrev SRC_AS_FAULT : Nat := 3
abbrev SRC_AS_UNDERRUN : Nat := 4
/-- The register rows: offset, count, stride, access, reset value, writable bits, field starts. -/
def rows : List Row := [
  ⟨0x040, 1, 4, .rw, 0x0, 0x3F, 0x1⟩,
  ⟨0x044, 1, 4, .rw, 0x8000000, 0x9F033330, 0x81011130⟩,
  ⟨0x048, 1, 4, .rw, 0x0, 0xFFFFFFFF, 0x1⟩,
  ⟨0x04C, 1, 4, .rw, 0x0, 0xFFFFFFFF, 0x1⟩,
  ⟨0x050, 1, 4, .ro, 0x0, 0x0, 0x0⟩,
  ⟨0x054, 1, 4, .ro, 0x0, 0x0, 0x0⟩,
  ⟨0x100, 64, 4, .rw, 0x0, 0xFFFF, 0x1⟩]
end Reg.Aud2

namespace Reg.Aud3
/-! Registers of the AUD page 3 (R429). -/
abbrev LIM_CFG (i : Nat) : Nat := 0x100 + 4 * i
abbrev LIM_STAT (i : Nat) : Nat := 0x140 + 4 * i
abbrev EV_LIMITING : Nat := 0
/-- The register rows: offset, count, stride, access, reset value, writable bits, field starts. -/
def rows : List Row := [
  ⟨0x100, 10, 4, .rw, 0x80640004, 0x80FF00FF, 0x80010001⟩,
  ⟨0x140, 10, 4, .ro, 0x0, 0x0, 0x0⟩]
end Reg.Aud3

namespace Reg.Afe0
/-! Registers of the AFE page 0 (R430). -/
abbrev AFE_CTRL : Nat := 0x040
abbrev MIC_CFG : Nat := 0x044
abbrev MIC_STAT : Nat := 0x048
abbrev SPK_CFG (i : Nat) : Nat := 0x080 + 4 * i
abbrev SPK_STAT (i : Nat) : Nat := 0x090 + 4 * i
abbrev HS_CFG (i : Nat) : Nat := 0x0A0 + 4 * i
abbrev HS_STAT (i : Nat) : Nat := 0x0A8 + 4 * i
abbrev SRC_SPK_FAULT : Nat := 3
abbrev SRC_MIC_FAULT : Nat := 4
abbrev SRC_HS_MIC_FAULT : Nat := 5
abbrev EV_SPK_FAULT : Nat := 0
abbrev EV_LOAD_DONE : Nat := 1
abbrev EV_HS_PLUG : Nat := 2
abbrev EV_HS_UNPLUG : Nat := 3
abbrev EV_MIC_FAULT : Nat := 4
/-- The register rows: offset, count, stride, access, reset value, writable bits, field starts. -/
def rows : List Row := [
  ⟨0x040, 1, 4, .rw, 0x1, 0x1, 0x1⟩,
  ⟨0x044, 1, 4, .rw, 0x0, 0xFF, 0x1⟩,
  ⟨0x048, 1, 4, .ro, 0x0, 0x0, 0x0⟩,
  ⟨0x080, 4, 4, .rw, 0x0, 0x80000001, 0x80000001⟩,
  ⟨0x090, 4, 4, .ro, 0x0, 0x0, 0x0⟩,
  ⟨0x0A0, 2, 4, .rw, 0x0, 0x80000002, 0x80000002⟩,
  ⟨0x0A8, 2, 4, .ro, 0x0, 0x0, 0x0⟩]
end Reg.Afe0

namespace Reg.Afe1
/-! Registers of the AFE page 1 (R430). -/
abbrev ST_CFG (i : Nat) : Nat := 0x040 + 4 * i
abbrev ST_APPLY : Nat := 0x050
abbrev ST_STAT : Nat := 0x054
abbrev EV_ST_APPLIED : Nat := 0
abbrev EV_ST_FORCED : Nat := 1
/-- The register rows: offset, count, stride, access, reset value, writable bits, field starts. -/
def rows : List Row := [
  ⟨0x040, 4, 4, .rw, 0x7F, 0x80010F7F, 0x80010101⟩,
  ⟨0x050, 1, 4, .wo, 0x0, 0x0, 0x0⟩,
  ⟨0x054, 1, 4, .ro, 0x0, 0x0, 0x0⟩]
end Reg.Afe1

namespace Reg.Mgr
/-! Registers of the manager pages (R467). -/
abbrev MGR_CMD : Nat := 0x040
abbrev MGR_ARG (i : Nat) : Nat := 0x044 + 4 * i
abbrev MGR_RESULT : Nat := 0x054
abbrev MGR_CFG : Nat := 0x058
abbrev MGR_STAT : Nat := 0x05C
abbrev MGR_QUOTA : Nat := 0x060
abbrev MGR_RANGE : Nat := 0x064
abbrev FOT_INDEX : Nat := 0x068
abbrev FOT_DATA : Nat := 0x06C
abbrev PMAP_SEL : Nat := 0x08C
abbrev PMAP_DATA : Nat := 0x090
abbrev GATE_PEND (i : Nat) : Nat := 0x100 + 4 * i
abbrev STATE_PEND (i : Nat) : Nat := 0x180 + 4 * i
abbrev EV_CMD_DONE : Nat := 0
abbrev EV_CMD_REFUSED : Nat := 1
abbrev EV_PORT_RESET : Nat := 2
abbrev EV_COPY_DONE : Nat := 3
abbrev EV_COPY_FAULT : Nat := 4
abbrev EV_DEVICE_GATHER : Nat := 5
abbrev EV_GATHER_END : Nat := 6
abbrev SRC_COPY_FAULT : Nat := 3
abbrev SRC_UNCLEAN_REMOVAL : Nat := 4
/-- The register rows: offset, count, stride, access, reset value, writable bits, field starts. -/
def rows : List Row := [
  ⟨0x040, 1, 4, .wo, 0x0, 0x0, 0x0⟩,
  ⟨0x044, 4, 4, .rw, 0x0, 0xFFFFFFFF, 0x1⟩,
  ⟨0x054, 1, 4, .ro, 0x0, 0x0, 0x0⟩,
  ⟨0x058, 1, 4, .rw, 0x64, 0x3FF, 0x1⟩,
  ⟨0x05C, 1, 4, .ro, 0x0, 0x0, 0x0⟩,
  ⟨0x060, 1, 4, .ro, 0x0, 0x0, 0x0⟩,
  ⟨0x064, 1, 4, .ro, 0x0, 0x0, 0x0⟩,
  ⟨0x068, 1, 4, .rw, 0x0, 0x3FFF, 0x1⟩,
  ⟨0x06C, 1, 4, .ro, 0x0, 0x0, 0x0⟩,
  ⟨0x08C, 1, 4, .rw, 0x0, 0x1FF1FFF, 0x10001⟩,
  ⟨0x090, 1, 4, .ro, 0x0, 0x0, 0x0⟩,
  ⟨0x100, 16, 4, .ro, 0x0, 0x0, 0x0⟩,
  ⟨0x180, 16, 4, .ro, 0x0, 0x0, 0x0⟩]
end Reg.Mgr

namespace Reg.Pool
/-! Registers of the PAD_POOL page (R468). -/
abbrev FOT_INDEX : Nat := 0x040
abbrev FOT_DATA : Nat := 0x044
abbrev FOT_CMD : Nat := 0x048
abbrev FOT_RESULT : Nat := 0x04C
abbrev POOL_PIPE (i : Nat) : Nat := 0x100 + 4 * i
abbrev POOL_CTX (i : Nat) : Nat := 0x108 + 4 * i
abbrev POOL_STREAM : Nat := 0x110
abbrev POOL_HAP : Nat := 0x114
abbrev POOL_AS (i : Nat) : Nat := 0x118 + 4 * i
abbrev POOL_REG (i : Nat) : Nat := 0x120 + 4 * i
/-- The register rows: offset, count, stride, access, reset value, writable bits, field starts. -/
def rows : List Row := [
  ⟨0x040, 1, 4, .rw, 0x0, 0x3FFF, 0x1⟩,
  ⟨0x044, 1, 4, .ro, 0x0, 0x0, 0x0⟩,
  ⟨0x048, 1, 4, .wo, 0x0, 0x0, 0x0⟩,
  ⟨0x04C, 1, 4, .ro, 0x0, 0x0, 0x0⟩,
  ⟨0x100, 2, 4, .rw, 0x0, 0xFFFFFFFF, 0x1⟩,
  ⟨0x108, 2, 4, .rw, 0x0, 0xFFFFFFFF, 0x1⟩,
  ⟨0x110, 1, 4, .rw, 0x0, 0xFFFF, 0x1⟩,
  ⟨0x114, 1, 4, .rw, 0x0, 0xFFFF, 0x1⟩,
  ⟨0x118, 2, 4, .rw, 0x0, 0xFFFFFFFF, 0x1⟩,
  ⟨0x120, 16, 4, .rw, 0x0, 0xFFFFFFFF, 0x1⟩]
end Reg.Pool

namespace Reg.Pad
/-! Registers of the paddock page 0 (R469). -/
abbrev PAD_STAT : Nat := 0x040
abbrev PAD_LEASES : Nat := 0x044
abbrev WINDOW_CTX : Nat := 0x048
abbrev WINDOW_PIPE : Nat := 0x04C
abbrev WINDOW_STREAM : Nat := 0x050
abbrev APERTURE : Nat := 0x054
abbrev INTAKE_COUNT : Nat := 0x058
abbrev EV_STATE : Nat := 0
abbrev EV_DEVICE_GATHER : Nat := 1
abbrev EV_GATHER_END : Nat := 2
abbrev EV_INTAKE_REFUSED : Nat := 3
abbrev EV_COPY_DONE : Nat := 4
abbrev EV_COPY_FAULT : Nat := 5
abbrev EV_APERTURE_MISS : Nat := 6
abbrev EV_LEASE : Nat := 7
abbrev SRC_COPY_FAULT : Nat := 3
/-- The register rows: offset, count, stride, access, reset value, writable bits, field starts. -/
def rows : List Row := [
  ⟨0x040, 1, 4, .ro, 0x0, 0x0, 0x0⟩,
  ⟨0x044, 1, 4, .ro, 0x0, 0x0, 0x0⟩,
  ⟨0x048, 1, 4, .ro, 0xFFFFFFFF, 0x0, 0x0⟩,
  ⟨0x04C, 1, 4, .ro, 0xFFFFFFFF, 0x0, 0x0⟩,
  ⟨0x050, 1, 4, .ro, 0x0, 0x0, 0x0⟩,
  ⟨0x054, 1, 4, .rw, 0x0, 0x3F, 0x1⟩,
  ⟨0x058, 1, 4, .ro, 0x0, 0x0, 0x0⟩]
end Reg.Pad

namespace Reg.Cq
/-! Registers of the copy-queue block (R470), relative offsets. -/
abbrev CQ_BASE_LO : Nat := 0x000
abbrev CQ_BASE_HI : Nat := 0x004
abbrev CQ_CFG : Nat := 0x008
abbrev CQ_WPTR : Nat := 0x00C
abbrev CQ_RPTR : Nat := 0x010
abbrev CQ_DONE : Nat := 0x014
abbrev CQ_STAT : Nat := 0x018
/-- The register rows: offset, count, stride, access, reset value, writable bits, field starts. -/
def rows : List Row := [
  ⟨0x000, 1, 4, .rw, 0x0, 0xFFFFFFFF, 0x1⟩,
  ⟨0x004, 1, 4, .rw, 0x0, 0xFFFFFFFF, 0x1⟩,
  ⟨0x008, 1, 4, .rw, 0x4, 0x8000000F, 0x80000001⟩,
  ⟨0x00C, 1, 4, .rw, 0x0, 0xFFF, 0x1⟩,
  ⟨0x010, 1, 4, .ro, 0x0, 0x0, 0x0⟩,
  ⟨0x014, 1, 4, .ro, 0x0, 0x0, 0x0⟩,
  ⟨0x018, 1, 4, .ro, 0x0, 0x0, 0x0⟩]
end Reg.Cq

namespace Reg.Gate
/-! Registers of the gate page (R471). -/
abbrev UP_WPTR : Nat := 0x040
abbrev UP_VPTR : Nat := 0x044
abbrev UP_RPTR : Nat := 0x048
abbrev DOWN_WPTR : Nat := 0x04C
abbrev DOWN_VPTR : Nat := 0x050
abbrev DOWN_RPTR : Nat := 0x054
abbrev GATE_COUNT : Nat := 0x058
abbrev UP_SLOT (i : Nat) : Nat := 0x200 + 4 * i
abbrev DOWN_SLOT (i : Nat) : Nat := 0x300 + 4 * i
abbrev EV_UP_MSG : Nat := 0
abbrev EV_DOWN_MSG : Nat := 1
abbrev EV_GATE_BAD : Nat := 2
abbrev EV_GATE_REFUSED : Nat := 3
abbrev SRC_GATE_BAD : Nat := 3
/-- The register rows: offset, count, stride, access, reset value, writable bits, field starts. -/
def rows : List Row := [
  ⟨0x040, 1, 4, .rw, 0x0, 0x7, 0x1⟩,
  ⟨0x044, 1, 4, .ro, 0x0, 0x0, 0x0⟩,
  ⟨0x048, 1, 4, .rw, 0x0, 0x7, 0x1⟩,
  ⟨0x04C, 1, 4, .rw, 0x0, 0x7, 0x1⟩,
  ⟨0x050, 1, 4, .ro, 0x0, 0x0, 0x0⟩,
  ⟨0x054, 1, 4, .rw, 0x0, 0x7, 0x1⟩,
  ⟨0x058, 1, 4, .ro, 0x0, 0x0, 0x0⟩,
  ⟨0x200, 64, 4, .rw, 0x0, 0xFFFFFFFF, 0x1⟩,
  ⟨0x300, 64, 4, .rw, 0x0, 0xFFFFFFFF, 0x1⟩]
end Reg.Gate

namespace Reg.Wld0
/-! Registers of the WLD page 0 (R503). -/
abbrev DRAM_FOLD : Nat := 0x040
abbrev PASTURE_FOLD : Nat := 0x044
abbrev FOLD_STAT : Nat := 0x048
abbrev L2_SPLIT : Nat := 0x04C
abbrev CALL_VEC_LO : Nat := 0x050
abbrev CALL_VEC_HI : Nat := 0x054
abbrev FRAME_BASE : Nat := 0x058
abbrev FOLD_INT_MASK : Nat := 0x05C
abbrev FOLD_CLAIM : Nat := 0x060
abbrev CORE_WORLD : Nat := 0x064
abbrev DEBUG_STAT : Nat := 0x068
abbrev FOLD_BUDGET : Nat := 0x06C
abbrev DENY_COUNT : Nat := 0x070
abbrev LONG_COUNT : Nat := 0x074
abbrev SWITCH_COUNT (i : Nat) : Nat := 0x078 + 4 * i
abbrev WLD_CTRL : Nat := 0x088
abbrev EV_RAISE_DONE : Nat := 0
abbrev EV_RAISE_REFUSED : Nat := 1
abbrev EV_FIELD_DENY : Nat := 2
abbrev EV_FOLD_LONG : Nat := 3
abbrev EV_PASTURE_OFF_REFUSED : Nat := 4
abbrev SRC_FIELD_DENY : Nat := 3
abbrev SRC_FOLD_LONG : Nat := 4
abbrev SRC_RAISE_REFUSED : Nat := 5
/-- The register rows: offset, count, stride, access, reset value, writable bits, field starts. -/
def rows : List Row := [
  ⟨0x040, 1, 4, .gp, 0x0, 0x7FFF, 0x1⟩,
  ⟨0x044, 1, 4, .gp, 0x0, 0x3FF, 0x1⟩,
  ⟨0x048, 1, 4, .ro, 0x0, 0x0, 0x0⟩,
  ⟨0x04C, 1, 4, .rwl, 0x0, 0xF, 0x1⟩,
  ⟨0x050, 1, 4, .rw, 0x0, 0xFFFFFFFF, 0x1⟩,
  ⟨0x054, 1, 4, .rw, 0x0, 0xFFFFFFFF, 0x1⟩,
  ⟨0x058, 1, 4, .rwl, 0x0, 0x1FFFFFF, 0x1⟩,
  ⟨0x05C, 1, 4, .rw, 0x0, 0xF, 0x1⟩,
  ⟨0x060, 1, 4, .ro, 0x0, 0x0, 0x0⟩,
  ⟨0x064, 1, 4, .ro, 0x0, 0x0, 0x0⟩,
  ⟨0x068, 1, 4, .ro, 0x0, 0x0, 0x0⟩,
  ⟨0x06C, 1, 4, .rw, 0x0, 0xFFFF, 0x1⟩,
  ⟨0x070, 1, 4, .ro, 0x0, 0x0, 0x0⟩,
  ⟨0x074, 1, 4, .ro, 0x0, 0x0, 0x0⟩,
  ⟨0x078, 4, 4, .ro, 0x0, 0x0, 0x0⟩,
  ⟨0x088, 1, 4, .wo, 0x0, 0x0, 0x0⟩]
end Reg.Wld0

namespace Reg.Wld1
/-! Registers of the WLD page 1 (R504). -/
abbrev HELD_MAP (i : Nat) : Nat := 0x040 + 4 * i
abbrev FIELD_INT_MASK : Nat := 0x060
abbrev FIELD_CLAIM : Nat := 0x064
abbrev DRAM_LINE : Nat := 0x068
abbrev PASTURE_LINE : Nat := 0x06C
abbrev HELD_COUNT : Nat := 0x070
abbrev EV_HELD_LATCHED : Nat := 0
abbrev EV_HELD_RELEASED : Nat := 1
abbrev EV_HELD_WITHDRAWN : Nat := 2
/-- The register rows: offset, count, stride, access, reset value, writable bits, field starts. -/
def rows : List Row := [
  ⟨0x040, 8, 4, .ro, 0x0, 0x0, 0x0⟩,
  ⟨0x060, 1, 4, .rw, 0x0, 0xF, 0x1⟩,
  ⟨0x064, 1, 4, .ro, 0x0, 0x0, 0x0⟩,
  ⟨0x068, 1, 4, .ro, 0x0, 0x0, 0x0⟩,
  ⟨0x06C, 1, 4, .ro, 0x0, 0x0, 0x0⟩,
  ⟨0x070, 1, 4, .ro, 0x0, 0x0, 0x0⟩]
end Reg.Wld1

namespace Reg.Lcs
/-! Registers of the LCS page (R505). -/
abbrev LC_STATE : Nat := 0x040
abbrev SERIAL_LO : Nat := 0x044
abbrev SERIAL_HI : Nat := 0x048
abbrev TAMPER_CFG : Nat := 0x04C
abbrev TAMPER_STAT : Nat := 0x050
abbrev TAMPER_COUNT : Nat := 0x054
abbrev WIPE_STAT : Nat := 0x058
abbrev TAMPER_CLEAR : Nat := 0x05C
abbrev KEY (i : Nat) : Nat := 0x060 + 4 * i
abbrev EV_TAMPER0 : Nat := 0
abbrev EV_TAMPER1 : Nat := 1
abbrev EV_WIPE_DONE : Nat := 2
abbrev SRC_TAMPER : Nat := 3
/-- The register rows: offset, count, stride, access, reset value, writable bits, field starts. -/
def rows : List Row := [
  ⟨0x040, 1, 4, .ro, 0x0, 0x0, 0x0⟩,
  ⟨0x044, 1, 4, .ro, 0x0, 0x0, 0x0⟩,
  ⟨0x048, 1, 4, .ro, 0x0, 0x0, 0x0⟩,
  ⟨0x04C, 1, 4, .rwl, 0xC1C1, 0xDFDF, 0x4041⟩,
  ⟨0x050, 1, 4, .ro, 0x0, 0x0, 0x0⟩,
  ⟨0x054, 1, 4, .ro, 0x0, 0x0, 0x0⟩,
  ⟨0x058, 1, 4, .ro, 0x0, 0x0, 0x0⟩,
  ⟨0x05C, 1, 4, .wo, 0x0, 0x0, 0x0⟩,
  ⟨0x060, 8, 4, .rw, 0x0, 0xFFFFFFFF, 0x1⟩]
end Reg.Lcs

namespace Reg.Sdg
/-! Registers of the SDG page (R538). -/
abbrev SDG_STATE : Nat := 0x040
abbrev SDG_CAUSE : Nat := 0x044
abbrev SDG_REQ : Nat := 0x048
abbrev SDG_COUNT : Nat := 0x04C
abbrev SDG_TABLE_STAT : Nat := 0x050
abbrev CHARGE_SEQ : Nat := 0x054
abbrev NFAULT : Nat := 0x058
abbrev EV_STATE_CHANGE : Nat := 0
abbrev EV_DISAGREE : Nat := 1
abbrev EV_REQ_REFUSED : Nat := 2
/-- The register rows: offset, count, stride, access, reset value, writable bits, field starts. -/
def rows : List Row := [
  ⟨0x040, 1, 4, .ro, 0x3, 0x0, 0x0⟩,
  ⟨0x044, 1, 4, .ro, 0xFFFF, 0x0, 0x0⟩,
  ⟨0x048, 1, 4, .wo, 0x0, 0x0, 0x0⟩,
  ⟨0x04C, 1, 4, .ro, 0x0, 0x0, 0x0⟩,
  ⟨0x050, 1, 4, .ro, 0x0, 0x0, 0x0⟩,
  ⟨0x054, 1, 4, .ro, 0x0, 0x0, 0x0⟩,
  ⟨0x058, 1, 4, .ro, 0x3, 0x0, 0x0⟩]
end Reg.Sdg

namespace Reg.Tet
/-! Registers of the TET page (R539). -/
abbrev TET_STAT : Nat := 0x040
abbrev TET_ERR : Nat := 0x044
abbrev CHARGE_LOCAL : Nat := 0x048
abbrev CHARGE_REMOTE : Nat := 0x04C
abbrev RESTART_REQ : Nat := 0x050
abbrev EPOCH : Nat := 0x054
abbrev EV_DALE_ABSENT : Nat := 0
abbrev EV_LANE_DROP : Nat := 1
abbrev EV_OWN_GATHER : Nat := 2
abbrev SRC_TET_LANE : Nat := 3
abbrev SRC_TET_REPLAY : Nat := 4
/-- The register rows: offset, count, stride, access, reset value, writable bits, field starts. -/
def rows : List Row := [
  ⟨0x040, 1, 4, .ro, 0x0, 0x0, 0x0⟩,
  ⟨0x044, 1, 4, .ro, 0x0, 0x0, 0x0⟩,
  ⟨0x048, 1, 4, .ro, 0x0, 0x0, 0x0⟩,
  ⟨0x04C, 1, 4, .ro, 0x0, 0x0, 0x0⟩,
  ⟨0x050, 1, 4, .gp, 0x0, 0x1, 0x1⟩,
  ⟨0x054, 1, 4, .ro, 0x0, 0x0, 0x0⟩]
end Reg.Tet

namespace Reg.Crn0
/-! Registers of the CRN page 0 (R540). -/
abbrev CRN_CFG : Nat := 0x040
abbrev CRN_STAT : Nat := 0x044
abbrev CRN_CMD : Nat := 0x048
abbrev CRN_NOTE0 : Nat := 0x04C
abbrev CRN_NOTE1 : Nat := 0x050
abbrev EV_EXPORT_DONE : Nat := 0
abbrev EV_FROZEN : Nat := 1
abbrev SRC_EXPORT_FAIL : Nat := 3
abbrev SRC_CRN_LOST : Nat := 4
/-- The register rows: offset, count, stride, access, reset value, writable bits, field starts. -/
def rows : List Row := [
  ⟨0x040, 1, 4, .rw, 0x80000100, 0x800007FF, 0x80000001⟩,
  ⟨0x044, 1, 4, .ro, 0x0, 0x0, 0x0⟩,
  ⟨0x048, 1, 4, .wo, 0x0, 0x0, 0x0⟩,
  ⟨0x04C, 1, 4, .rw, 0x0, 0xFFFFFFFF, 0x1⟩,
  ⟨0x050, 1, 4, .rw, 0x0, 0xFFFFFFFF, 0x1⟩]
end Reg.Crn0

namespace Reg.Crn1
/-! Registers of the CRN page 1 (R540). -/
abbrev CRN_NEXT : Nat := 0x040
abbrev CRN_RD_SEQ : Nat := 0x044
abbrev CRN_RD_STAT : Nat := 0x048
abbrev CRN_RD_DATA (i : Nat) : Nat := 0x04C + 4 * i
/-- The register rows: offset, count, stride, access, reset value, writable bits, field starts. -/
def rows : List Row := [
  ⟨0x040, 1, 4, .ro, 0x1, 0x0, 0x0⟩,
  ⟨0x044, 1, 4, .rw, 0x0, 0xFFFFFFFF, 0x1⟩,
  ⟨0x048, 1, 4, .ro, 0x0, 0x0, 0x0⟩,
  ⟨0x04C, 8, 4, .ro, 0x0, 0x0, 0x0⟩]
end Reg.Crn1

namespace Reg.Can
/-! Registers of the CANn pages (R541). -/
abbrev CAN_CTRL : Nat := 0x040
abbrev CAN_TIMING : Nat := 0x044
abbrev CAN_SAMPLE : Nat := 0x048
abbrev CAN_STAT : Nat := 0x04C
abbrev CAN_COUNT : Nat := 0x050
abbrev TX_HDR : Nat := 0x054
abbrev TX_LEN : Nat := 0x058
abbrev TX_CMD : Nat := 0x05C
abbrev TX_STAT : Nat := 0x060
abbrev RX_HDR : Nat := 0x064
abbrev RX_LEN : Nat := 0x068
abbrev RX_POP : Nat := 0x06C
abbrev CAN_COUNT2 : Nat := 0x070
abbrev FILTER (i : Nat) : Nat := 0x080 + 4 * i
abbrev MASK (i : Nat) : Nat := 0x0A0 + 4 * i
abbrev TX_DATA (i : Nat) : Nat := 0x100 + 4 * i
abbrev RX_DATA (i : Nat) : Nat := 0x140 + 4 * i
abbrev EV_TX_DONE : Nat := 0
abbrev EV_RX : Nat := 1
abbrev EV_CAN_SWAP : Nat := 2
abbrev EV_CAN_BUS_OFF : Nat := 3
abbrev SRC_CAN_SWAP : Nat := 3
abbrev SRC_CAN_BUS_OFF : Nat := 4
/-- The register rows: offset, count, stride, access, reset value, writable bits, field starts. -/
def rows : List Row := [
  ⟨0x040, 1, 4, .rw, 0x0, 0x1F, 0x1F⟩,
  ⟨0x044, 1, 4, .rw, 0x0, 0xFFFFFFFF, 0x10001⟩,
  ⟨0x048, 1, 4, .rw, 0x0, 0xFFFF, 0x101⟩,
  ⟨0x04C, 1, 4, .ro, 0x0, 0x0, 0x0⟩,
  ⟨0x050, 1, 4, .ro, 0x0, 0x0, 0x0⟩,
  ⟨0x054, 1, 4, .rw, 0x0, 0xFFFFFFFF, 0xE0000001⟩,
  ⟨0x058, 1, 4, .rw, 0x0, 0xF, 0x1⟩,
  ⟨0x05C, 1, 4, .wo, 0x0, 0x0, 0x0⟩,
  ⟨0x060, 1, 4, .ro, 0x0, 0x0, 0x0⟩,
  ⟨0x064, 1, 4, .ro, 0x0, 0x0, 0x0⟩,
  ⟨0x068, 1, 4, .ro, 0x0, 0x0, 0x0⟩,
  ⟨0x06C, 1, 4, .wo, 0x0, 0x0, 0x0⟩,
  ⟨0x070, 1, 4, .ro, 0x0, 0x0, 0x0⟩,
  ⟨0x080, 8, 4, .rw, 0x0, 0xBFFFFFFF, 0xA0000001⟩,
  ⟨0x0A0, 8, 4, .rw, 0x0, 0xFFFFFFFF, 0x1⟩,
  ⟨0x100, 16, 4, .rw, 0x0, 0xFFFFFFFF, 0x1⟩,
  ⟨0x140, 16, 4, .ro, 0x0, 0x0, 0x0⟩]
end Reg.Can

namespace Reg.Pst0
/-! Registers of the PST page 0 (R559). -/
abbrev PST_CTRL : Nat := 0x040
abbrev ECC_COUNT : Nat := 0x044
abbrev ECC_ADDR : Nat := 0x048
abbrev TEST_CFG : Nat := 0x04C
abbrev TEST_STAT : Nat := 0x050
abbrev TEST_COUNT : Nat := 0x054
abbrev BANKS_FAILED : Nat := 0x058
abbrev EV_ECC_CE : Nat := 0
abbrev EV_ECC_UE : Nat := 1
abbrev EV_TEST_FAIL : Nat := 2
abbrev EV_ROW_REPAIRED : Nat := 3
abbrev EV_BANK_FAIL : Nat := 4
abbrev EV_PASS_DONE : Nat := 5
abbrev EV_OFF_ACCESS : Nat := 6
abbrev SRC_ECC_UE : Nat := 3
abbrev SRC_BANK_FAIL : Nat := 4
abbrev SRC_OFF_ACCESS : Nat := 5
abbrev SRC_ROW_REPAIRED : Nat := 6
abbrev SRC_ECC_CE : Nat := 7
/-- The register rows: offset, count, stride, access, reset value, writable bits, field starts. -/
def rows : List Row := [
  ⟨0x040, 1, 4, .rw, 0x0, 0x0, 0x0⟩,
  ⟨0x044, 1, 4, .ro, 0x0, 0x0, 0x0⟩,
  ⟨0x048, 1, 4, .ro, 0x0, 0x0, 0x0⟩,
  ⟨0x04C, 1, 4, .rw, 0x80000064, 0x800003FF, 0x80000001⟩,
  ⟨0x050, 1, 4, .ro, 0x0, 0x0, 0x0⟩,
  ⟨0x054, 1, 4, .ro, 0x0, 0x0, 0x0⟩,
  ⟨0x058, 1, 4, .ro, 0x0, 0x0, 0x0⟩]
end Reg.Pst0

namespace Reg.Pst1
/-! Registers of the PST page 1 (R560). -/
abbrev BANK_MODE (i : Nat) : Nat := 0x040 + 4 * i
abbrev BANK_STATE (i : Nat) : Nat := 0x050 + 4 * i
abbrev RET_IDLE : Nat := 0x060
abbrev POWER_COUNT : Nat := 0x064
abbrev PWR_STAT : Nat := 0x068
abbrev EV_POWER_REFUSED : Nat := 0
abbrev EV_BANK_ON : Nat := 1
abbrev SRC_POWER_REFUSED : Nat := 3
/-- The register rows: offset, count, stride, access, reset value, writable bits, field starts. -/
def rows : List Row := [
  ⟨0x040, 4, 4, .rw, 0x0, 0xFFFFFFFF, 0x1⟩,
  ⟨0x050, 4, 4, .ro, 0x0, 0x0, 0x0⟩,
  ⟨0x060, 1, 4, .rw, 0x64, 0x3FF, 0x1⟩,
  ⟨0x064, 1, 4, .ro, 0x0, 0x0, 0x0⟩,
  ⟨0x068, 1, 4, .ro, 0x0, 0x0, 0x0⟩]
end Reg.Pst1

namespace Reg.Pst2
/-! Registers of the PST page 2 (R561). -/
abbrev ARB_CFG : Nat := 0x040
abbrev ARB_WAIT_MAX : Nat := 0x044
/-- The register rows: offset, count, stride, access, reset value, writable bits, field starts. -/
def rows : List Row := [
  ⟨0x040, 1, 4, .rw, 0x10, 0xFF, 0x1⟩,
  ⟨0x044, 1, 4, .ro, 0x0, 0x0, 0x0⟩]
end Reg.Pst2

namespace Reg.Pst3
/-! Registers of the PST page 3 (R562). -/
abbrev REPAIR (i : Nat) : Nat := 0x100 + 4 * i
/-- The register rows: offset, count, stride, access, reset value, writable bits, field starts. -/
def rows : List Row := [
  ⟨0x100, 64, 4, .ro, 0x0, 0x0, 0x0⟩]
end Reg.Pst3

namespace Reg.Drc0
/-! Registers of the DRC page 0 (R594). -/
abbrev DRC_CTRL : Nat := 0x040
abbrev DRC_CFG : Nat := 0x044
abbrev DRC_STAT : Nat := 0x048
abbrev TRAIN_TIME : Nat := 0x04C
abbrev TEMP_STAT : Nat := 0x050
abbrev REFRESH_COUNT : Nat := 0x054
abbrev TRACK_COUNT : Nat := 0x058
abbrev MR_SEL : Nat := 0x05C
abbrev MR_CMD : Nat := 0x060
abbrev MR_DATA : Nat := 0x064
abbrev SCHED_CFG : Nat := 0x068
abbrev EV_READY : Nat := 0
abbrev EV_TRAIN_FAIL : Nat := 1
abbrev EV_TRACK_LIMIT : Nat := 2
abbrev EV_DRAM_HOT : Nat := 3
abbrev SRC_TRAIN_FAIL : Nat := 3
abbrev SRC_TRACK_LIMIT : Nat := 4
abbrev SRC_DRAM_HOT : Nat := 5
/-- The register rows: offset, count, stride, access, reset value, writable bits, field starts. -/
def rows : List Row := [
  ⟨0x040, 1, 4, .rw, 0x0, 0x0, 0x0⟩,
  ⟨0x044, 1, 4, .ro, 0x0, 0x0, 0x0⟩,
  ⟨0x048, 1, 4, .ro, 0x0, 0x0, 0x0⟩,
  ⟨0x04C, 1, 4, .ro, 0x0, 0x0, 0x0⟩,
  ⟨0x050, 1, 4, .ro, 0x0, 0x0, 0x0⟩,
  ⟨0x054, 1, 4, .ro, 0x0, 0x0, 0x0⟩,
  ⟨0x058, 1, 4, .ro, 0x0, 0x0, 0x0⟩,
  ⟨0x05C, 1, 4, .rw, 0x0, 0x173F, 0x1101⟩,
  ⟨0x060, 1, 4, .wo, 0x0, 0x0, 0x0⟩,
  ⟨0x064, 1, 4, .ro, 0x0, 0x0, 0x0⟩,
  ⟨0x068, 1, 4, .rw, 0x180828, 0x3F3FFF, 0x10101⟩]
end Reg.Drc0

namespace Reg.Drc1
/-! Registers of the DRC page 1 (R595). -/
abbrev ECC_COUNT : Nat := 0x040
abbrev ECC_ADDR_LO : Nat := 0x044
abbrev ECC_ADDR_HI : Nat := 0x048
abbrev POISON_COUNT : Nat := 0x04C
abbrev EV_ECC_CE : Nat := 0
abbrev EV_ECC_UE : Nat := 1
abbrev SRC_DRAM_ECC_UE : Nat := 3
abbrev SRC_DRAM_ECC_CE : Nat := 4
/-- The register rows: offset, count, stride, access, reset value, writable bits, field starts. -/
def rows : List Row := [
  ⟨0x040, 1, 4, .ro, 0x0, 0x0, 0x0⟩,
  ⟨0x044, 1, 4, .ro, 0x0, 0x0, 0x0⟩,
  ⟨0x048, 1, 4, .ro, 0x0, 0x0, 0x0⟩,
  ⟨0x04C, 1, 4, .ro, 0x0, 0x0, 0x0⟩]
end Reg.Drc1

namespace Reg.Drc2
/-! Registers of the DRC page 2 (R596). -/
abbrev ISO_CFG : Nat := 0x040
abbrev ISO_RES : Nat := 0x044
abbrev ISO_OVER : Nat := 0x048
abbrev ISO_BURSTS : Nat := 0x04C
abbrev ISO_LAT_MAX : Nat := 0x050
abbrev EV_ISO_OVER : Nat := 0
abbrev SRC_ISO_OVER : Nat := 3
/-- The register rows: offset, count, stride, access, reset value, writable bits, field starts. -/
def rows : List Row := [
  ⟨0x040, 1, 4, .rw, 0x84C0C010, 0x8FFFFFFF, 0x81010101⟩,
  ⟨0x044, 1, 4, .ro, 0x0, 0x0, 0x0⟩,
  ⟨0x048, 1, 4, .ro, 0x0, 0x0, 0x0⟩,
  ⟨0x04C, 1, 4, .ro, 0x0, 0x0, 0x0⟩,
  ⟨0x050, 1, 4, .ro, 0x0, 0x0, 0x0⟩]
end Reg.Drc2

namespace Reg.Drv0
/-! Registers of the DRV page 0 (R598). -/
abbrev DRV_CTRL : Nat := 0x040
abbrev DRV_CFG : Nat := 0x044
abbrev DRV_STAT : Nat := 0x048
abbrev STARVE_CFG : Nat := 0x04C
abbrev PORT_CFG (i : Nat) : Nat := 0x100 + 4 * i
abbrev EV_DRV_STARVE : Nat := 0
abbrev SRC_DRV_STARVE : Nat := 3
/-- The register rows: offset, count, stride, access, reset value, writable bits, field starts. -/
def rows : List Row := [
  ⟨0x040, 1, 4, .rw, 0x0, 0x0, 0x0⟩,
  ⟨0x044, 1, 4, .rw, 0x308, 0xF0F, 0x101⟩,
  ⟨0x048, 1, 4, .ro, 0x0, 0x0, 0x0⟩,
  ⟨0x04C, 1, 4, .rw, 0x64, 0xFFFF, 0x1⟩,
  ⟨0x100, 20, 4, .rw, 0x10, 0x3F, 0x1⟩]
end Reg.Drv0

namespace Reg.Drv1
/-! Registers of the DRV page 1 (R599). -/
abbrev ADMIT (i : Nat) : Nat := 0x100 + 4 * i
abbrev WITHDRAW (i : Nat) : Nat := 0x180 + 4 * i
abbrev WAIT_MAX (i : Nat) : Nat := 0x200 + 4 * i
abbrev BURSTS (i : Nat) : Nat := 0x280 + 4 * i
/-- The register rows: offset, count, stride, access, reset value, writable bits, field starts. -/
def rows : List Row := [
  ⟨0x100, 20, 4, .ro, 0x0, 0x0, 0x0⟩,
  ⟨0x180, 20, 4, .ro, 0x0, 0x0, 0x0⟩,
  ⟨0x200, 20, 4, .ro, 0x0, 0x0, 0x0⟩,
  ⟨0x280, 20, 4, .ro, 0x0, 0x0, 0x0⟩]
end Reg.Drv1

namespace Reg.Pwr
/-! Registers of the PWR page (R623). -/
abbrev RAIL_STAT : Nat := 0x040
abbrev RAIL_SEL : Nat := 0x044
abbrev RAIL_MEAS : Nat := 0x048
abbrev RAIL_COUNT : Nat := 0x04C
abbrev PWR_FLAGS : Nat := 0x050
abbrev EV_RAIL_WARN : Nat := 0
abbrev EV_RAIL_INVALID : Nat := 1
abbrev EV_RAIL_BACK : Nat := 2
abbrev EV_VMACH_REVERSED : Nat := 3
abbrev EV_XTAL_DALE : Nat := 4
abbrev SRC_XTAL_DALE : Nat := 3
/-- The register rows: offset, count, stride, access, reset value, writable bits, field starts. -/
def rows : List Row := [
  ⟨0x040, 1, 4, .ro, 0x0, 0x0, 0x0⟩,
  ⟨0x044, 1, 4, .rw, 0x0, 0xF, 0x1⟩,
  ⟨0x048, 1, 4, .ro, 0x0, 0x0, 0x0⟩,
  ⟨0x04C, 1, 4, .ro, 0x0, 0x0, 0x0⟩,
  ⟨0x050, 1, 4, .ro, 0x0, 0x0, 0x0⟩]
end Reg.Pwr

namespace Reg.Tly0
/-! Registers of the TLY page 0 (R636). -/
abbrev GLB_CTRL : Nat := 0x040
abbrev GLB_STAT : Nat := 0x044
abbrev OVF_STAT (i : Nat) : Nat := 0x048 + 4 * i
abbrev CFG (i : Nat) : Nat := 0x200 + 4 * i
abbrev EV_OVERFLOW : Nat := 0
abbrev EV_SMP_LOST : Nat := 1
abbrev SRC_SMP_LOST : Nat := 3
/-- The register rows: offset, count, stride, access, reset value, writable bits, field starts. -/
def rows : List Row := [
  ⟨0x040, 1, 4, .rw, 0x0, 0x1, 0x1⟩,
  ⟨0x044, 1, 4, .ro, 0x0, 0x0, 0x0⟩,
  ⟨0x048, 4, 4, .ro, 0x0, 0x0, 0x0⟩,
  ⟨0x200, 128, 4, .rw, 0x0, 0xFFFFFFFF, 0xA9810001⟩]
end Reg.Tly0

namespace Reg.Tly1
/-! Registers of the TLY pages 1 and 2 (R637). -/
abbrev COUNT_LO (i : Nat) : Nat := 0x200 + 8 * i
abbrev COUNT_HI (i : Nat) : Nat := 0x204 + 8 * i
/-- The register rows: offset, count, stride, access, reset value, writable bits, field starts. -/
def rows : List Row := [
  ⟨0x200, 64, 8, .rw, 0x0, 0xFFFFFFFF, 0x1⟩,
  ⟨0x204, 64, 8, .rw, 0x0, 0xFFFF, 0x1⟩]
end Reg.Tly1

namespace Reg.Tly3
/-! Registers of the TLY page 3 (R638). -/
abbrev THR (i : Nat) : Nat := 0x040 + 4 * i
abbrev SMP_STAT : Nat := 0x060
abbrev SMP_POP : Nat := 0x064
abbrev SMP_DATA (i : Nat) : Nat := 0x068 + 4 * i
/-- The register rows: offset, count, stride, access, reset value, writable bits, field starts. -/
def rows : List Row := [
  ⟨0x040, 8, 4, .rw, 0x0, 0xFFFF, 0x1⟩,
  ⟨0x060, 1, 4, .ro, 0x0, 0x0, 0x0⟩,
  ⟨0x064, 1, 4, .wo, 0x0, 0x0, 0x0⟩,
  ⟨0x068, 4, 4, .ro, 0x0, 0x0, 0x0⟩]
end Reg.Tly3

/-- A register page of the internal space (R34); the arguments are the page or instance numbers of the table. -/
inductive Page where
  | sys (k : Nat) | img | wld (k : Nat) | pst (k : Nat) | drc (k : Nat) | drv (k : Nat) | padg (k : Nat)
  | cmp | head (n : Nat) | wb (n : Nat) | chk (n : Nat) | port (n : Nat)
  | cam | stream (n : Nat) | dw (n : Nat) | pipe (i : Nat)
  | gpu | ctx (n : Nat) | flock (f : Nat)
  | tch | panel (n : Nat) | lg (n : Nat) | aud (k : Nat) | tly (k : Nat) | tet
  | sdg | crn (k : Nat) | hap (k : Nat) | key (k : Nat) | afe (k : Nat) | can (n : Nat) | pwr | lcs | nvm
  | pset (p k : Nat)
deriving DecidableEq, Repr

/-- The base address of a page (R34). -/
def Page.base : Page → Nat
  | .sys k => 0x40000000 + k * 0x1000
  | .img => 0x40010000
  | .wld k => 0x40020000 + k * 0x1000
  | .pst k => 0x40030000 + k * 0x1000
  | .drc k => 0x40040000 + k * 0x1000
  | .drv k => 0x40048000 + k * 0x1000
  | .padg k => 0x40050000 + k * 0x1000
  | .cmp => 0x40100000
  | .head n => 0x40120000 + n * 0x1000
  | .wb n => 0x40130000 + n * 0x1000
  | .chk n => 0x40140000 + n * 0x1000
  | .port n => 0x40150000 + n * 0x1000
  | .cam => 0x40180000
  | .stream n => 0x40180000 + (1 + n) * 0x1000
  | .dw n => 0x40180000 + (17 + n) * 0x1000
  | .pipe i => 0x401C0000 + i * 0x1000
  | .gpu => 0x40200000
  | .ctx n => 0x40200000 + (1 + n) * 0x1000
  | .flock f => 0x40200000 + (65 + f) * 0x1000
  | .tch => 0x40300000
  | .panel n => 0x40300000 + (1 + n) * 0x1000
  | .lg n => 0x40310000 + n * 0x1000
  | .aud k => 0x40400000 + k * 0x1000
  | .tly k => 0x40500000 + k * 0x1000
  | .tet => 0x40600000
  | .sdg => 0x48000000
  | .crn k => 0x48010000 + k * 0x1000
  | .hap k => 0x48020000 + k * 0x1000
  | .key k => 0x48030000 + k * 0x1000
  | .afe k => 0x48040000 + k * 0x1000
  | .can n => 0x48050000 + n * 0x1000
  | .pwr => 0x48060000
  | .lcs => 0x48070000
  | .nvm => 0x48080000
  | .pset p k => 0x50000000 + p * 0x10000 + k * 0x1000

/-- A run of pages of the table of R34: `n` pages from `base`. -/
def pageRun (a base n : Nat) (f : Nat → Page) : Option Page :=
  if base ≤ a ∧ a < base + n * 0x1000 then some (f ((a - base) / 0x1000)) else none

/-- The page an address falls in, if any (R34, R35). -/
def pageOf (a : Nat) : Option Page :=
  if 0x50000000 ≤ a then
    if a < 0x52000000 then some (.pset ((a - 0x50000000) / 0x10000) ((a - 0x50000000) / 0x1000 % 16)) else none
  else if 0x48000000 ≤ a then
    pageRun a 0x48000000 1 (fun _ => .sdg) <|> pageRun a 0x48010000 2 .crn <|> pageRun a 0x48020000 2 .hap <|>
    pageRun a 0x48030000 2 .key <|> pageRun a 0x48040000 2 .afe <|> pageRun a 0x48050000 4 .can <|>
    pageRun a 0x48060000 1 (fun _ => .pwr) <|> pageRun a 0x48070000 1 (fun _ => .lcs) <|>
    pageRun a 0x48080000 1 (fun _ => .nvm)
  else if 0x40200000 ≤ a then
    pageRun a 0x40200000 1 (fun _ => .gpu) <|> pageRun a 0x40201000 64 .ctx <|> pageRun a 0x40241000 4 .flock <|>
    pageRun a 0x40300000 1 (fun _ => .tch) <|> pageRun a 0x40301000 8 .panel <|> pageRun a 0x40310000 8 .lg <|>
    pageRun a 0x40400000 4 .aud <|> pageRun a 0x40500000 4 .tly <|> pageRun a 0x40600000 1 (fun _ => .tet)
  else if 0x40100000 ≤ a then
    pageRun a 0x40100000 1 (fun _ => .cmp) <|> pageRun a 0x40120000 8 .head <|> pageRun a 0x40130000 2 .wb <|>
    pageRun a 0x40140000 8 .chk <|> pageRun a 0x40150000 8 .port <|> pageRun a 0x40180000 1 (fun _ => .cam) <|>
    pageRun a 0x40181000 16 .stream <|> pageRun a 0x40191000 8 .dw <|> pageRun a 0x401C0000 64 .pipe
  else
    pageRun a 0x40000000 4 .sys <|> pageRun a 0x40010000 1 (fun _ => .img) <|> pageRun a 0x40020000 2 .wld <|>
    pageRun a 0x40030000 4 .pst <|> pageRun a 0x40040000 8 .drc <|> pageRun a 0x40048000 2 .drv <|>
    pageRun a 0x40050000 16 .padg

/-- The block code of a page, as ID.BLOCK reads it (R34, R42). -/
def Page.code : Page → Nat
  | .sys _ => 0x00 | .img => 0x01 | .wld _ => 0x02 | .pst _ => 0x03 | .drc _ => 0x04 | .drv _ => 0x05
  | .padg _ => 0x06 | .cmp => 0x10 | .head n => 0x20 + n | .wb n => 0x11 + n | .chk n => 0x28 + n
  | .port n => 0x30 + n | .cam => 0x13 | .stream n => 0x80 + n | .dw n => 0x90 + n | .pipe i => 0x40 + i
  | .gpu => 0x14 | .ctx _ => 0xA0 | .flock _ => 0xA1 | .tch => 0x15 | .panel _ => 0x15 | .lg n => 0x38 + n
  | .aud _ => 0x16 | .tly _ => 0x17 | .tet => 0x18 | .sdg => 0xF0 | .crn _ => 0xF1 | .hap _ => 0xF2
  | .key _ => 0xF3 | .afe _ => 0xF4 | .can _ => 0xF5 | .pwr => 0xF6 | .lcs => 0xF7 | .nvm => 0xF8
  | .pset _ k => 0xC0 + k

/-- A page of the Dale die, reached through the tether (R34, R512). -/
def Page.onDale (p : Page) : Bool := decide (0x48000000 ≤ p.base ∧ p.base < 0x50000000)

/-- Window pages of a paddock, in which every slot but slot 0 reaches the leased resource's page (R438). -/
def Page.isWindow : Page → Bool
  | .pset _ k => decide (2 ≤ k ∧ k ≤ 10)
  | _ => false

/-- The touch ring block of R356 placed at an offset. -/
def ringRowsAt (o : Nat) : List Row := Reg.Ring.rows.map (fun r => { r with off := r.off + o })

/-- The copy-queue block of R470 placed at an offset. -/
def cqRowsAt (o : Nat) : List Row := Reg.Cq.rows.map (fun r => { r with off := r.off + o })

/-- Timing registers are read-only in the following heads (R207). -/
def headRows (n : Nat) : List Row :=
  if n < 2 then Reg.Head.rows.map (fun r => if r.off = Reg.Head.HEAD_CTRL then { r with mask := 0x0000FF3D } else r)
  else Reg.Head.rows.map (fun r => if 0x044 ≤ r.off ∧ r.off ≤ 0x05C then { r with acc := .ro, mask := 0 } else r)

/-- Domain D0 is fixed (R426): its configuration register is read-only and shows it enabled. -/
def audRows : List Row :=
  ⟨0x044, 1, 4, .ro, 0x80000004, 0, 0⟩ :: ⟨0x048, 2, 4, .rw, 0x00000004, 0x80070007, 0x80010001⟩ ::
    Reg.Aud0.rows.filter (fun r => r.off ≠ 0x044)

/-- The second pool block of PAD_POOL lies 0x80 above the first (R468). -/
def poolRows : List Row :=
  Reg.Pool.rows ++ (Reg.Pool.rows.filter (fun r => 0x100 ≤ r.off)).map (fun r => { r with off := r.off + 0x80 })

/-- The registers of a page beyond the header (the chapters' register tables). -/
def Page.rows : Page → List Row
  | .sys 0 => Reg.Sys0.rows | .sys 1 => Reg.Sys1.rows | .sys 2 => Reg.Sys2.rows | .sys _ => Reg.Sys3.rows
  | .img => Reg.Img.rows
  | .wld 0 => Reg.Wld0.rows | .wld _ => Reg.Wld1.rows
  | .pst 0 => Reg.Pst0.rows | .pst 1 => Reg.Pst1.rows | .pst 2 => Reg.Pst2.rows | .pst _ => Reg.Pst3.rows
  | .drc 0 => Reg.Drc0.rows | .drc 1 => Reg.Drc1.rows | .drc 2 => Reg.Drc2.rows | .drc _ => []
  | .drv 0 => Reg.Drv0.rows | .drv _ => Reg.Drv1.rows
  | .padg k =>
    if k < 2 then Reg.Mgr.rows ++ cqRowsAt 0x070 else if k = 2 then poolRows else if k < 14 then [] else Reg.msixRows
  | .cmp => Reg.Cmp.rows | .head n => headRows n | .wb _ => Reg.Wb.rows | .chk _ => Reg.Chk.rows
  | .port _ => Reg.Port.rows | .cam => Reg.Cam.rows | .stream _ => Reg.Stream.rows | .dw _ => Reg.Dw.rows
  | .pipe i =>
    if i < 48 then
      (Reg.Pipe.rows.filter (fun r => r.off < 0x0C0)).map
        (fun r => if r.off = 0x040 ∧ i < 8 then { r with rst := 0x800 + i * 0x1000 } else r)
    else Reg.Pipe.rows
  | .gpu => Reg.Gpu.rows.map (fun r => { r with rst := if r.off = Reg.Gpu.THERMAL ∧ Config.gradeE then 0x7D73 else r.rst })
  | .ctx _ => Reg.Ctx.rows | .flock _ => Reg.Flock.rows
  | .tch => Reg.Tch.rows ++ ringRowsAt 0x048 ++ ringRowsAt 0x060
  | .panel _ => Reg.Panel.rows | .lg _ => Reg.Lg.rows
  | .aud 0 => audRows | .aud 1 => Reg.Aud1.rows | .aud 2 => Reg.Aud2.rows | .aud _ => Reg.Aud3.rows
  | .tly 0 => Reg.Tly0.rows | .tly 1 => Reg.Tly1.rows | .tly 2 => Reg.Tly1.rows | .tly _ => Reg.Tly3.rows
  | .tet => Reg.Tet.rows | .sdg => Reg.Sdg.rows | .crn 0 => Reg.Crn0.rows | .crn _ => Reg.Crn1.rows
  | .hap 0 => Reg.Hap.rows.map (fun r => { r with rst := if r.off = Reg.Hap.HAP_THERM ∧ Config.gradeE then 0x6E else r.rst })
  | .hap _ => Reg.Trig.rows
  | .key 0 => Reg.Key0.rows | .key _ => Reg.Key1.rows | .afe 0 => Reg.Afe0.rows | .afe _ => Reg.Afe1.rows
  | .can _ => Reg.Can.rows | .pwr => Reg.Pwr.rows | .lcs => Reg.Lcs.rows | .nvm => Reg.Nvm.rows
  | .pset p k =>
    match k with
    | 0 => (Reg.Pad.rows ++ cqRowsAt 0x060).map (fun r => if r.off = 0x040 then { r with rst := p * 0x10000 } else r)
    | 1 => Reg.Gate.rows
    | 11 => ringRowsAt 0x040
    | 12 => Reg.Trig.rows
    | 13 => Reg.Aud2.rows
    | 15 => Reg.msixRows
    | _ => []

/-- A row holds the register at an offset. -/
def Row.hits (r : Row) (o : Nat) : Bool :=
  decide (r.off ≤ o ∧ (o - r.off) % r.stride = 0 ∧ (o - r.off) / r.stride < r.cnt)

/-- The row of the register at an offset of a page. -/
def Page.row? (p : Page) (o : Nat) : Option Row :=
  if o < 0x024 then Reg.headerRows.find? (·.hits o) else p.rows.find? (·.hits o)

/-- The KIND of the party that owns a page at reset (R43 and the chapters' pages). -/
def Page.ownerReset : Page → Nat
  | .sys 1 => 0x10000 | .wld 1 => 0x10000 | .pst 1 => 0x10000 | .drv 1 => 0x10000
  | .padg k => if k < 2 then 0x20000 + k else if k = 2 then 0x10000 else if k < 14 then 0 else 0x20000 + (k - 14)
  | .wb _ => 0x10000 | .stream _ => 0x10000 | .dw _ => 0x10000
  | .pipe i => if i < 8 then 0 else 0x10000
  | .gpu => 0x10000 | .ctx _ => 0x10000 | .flock _ => 0x10000
  | .tch => 0x10000 | .panel _ => 0x10000 | .lg _ => 0x10000 | .aud _ => 0x10000 | .tly _ => 0x10000
  | .crn 1 => 0x10000 | .hap 1 => 0x10000 | .afe 1 => 0x10000
  | .pset p _ => 0x30000 + p
  | _ => 0

/-- Default class and allowed range of a fault source of a page, or none where the page defines no such source (R66 and
the chapters' tables of fault sources). -/
def Page.source : Page → Nat → Option (Nat × Nat × Nat)
  | .head _, 0 => some (3, 2, 4) | .chk _, 0 => some (3, 2, 4)
  | .pipe i, 0 => if i < 8 then some (3, 2, 4) else some (2, 1, 4)
  | _, 0 => some (2, 1, 4)
  | _, 1 => some (1, 0, 3)
  | _, 2 => some (0, 0, 2)
  | .sys 0, 3 => some (1, 0, 3)
  | .sys 2, 3 => some (4, 3, 4) | .sys 2, 4 => some (4, 3, 4) | .sys 2, 5 => some (2, 2, 4)
  | .sys 2, 6 => some (2, 2, 4) | .sys 2, 7 => some (0, 0, 2)
  | .img, 3 => some (1, 0, 3) | .img, 4 => some (1, 1, 4) | .img, 5 => some (1, 1, 3)
  | .pipe i, 3 => if i < 8 then some (3, 2, 4) else some (1, 0, 3)
  | .pipe _, 4 => some (0, 0, 2)
  | .pipe i, 5 => if i < 8 then some (3, 2, 4) else some (1, 0, 3)
  | .pipe i, 6 => if i < 8 then some (3, 2, 4) else some (1, 1, 3)
  | .pipe _, 7 => some (0, 0, 1)
  | .wb _, 3 => some (1, 0, 2) | .wb _, 4 => some (0, 0, 1)
  | .head _, 3 => some (0, 0, 2) | .head _, 4 => some (1, 0, 3) | .head _, 5 => some (0, 0, 2)
  | .head _, 6 => some (2, 2, 4) | .head _, 7 => some (1, 0, 2)
  | .port _, 3 => some (1, 1, 3) | .port _, 4 => some (1, 0, 3) | .port _, 5 => some (0, 0, 3)
  | .port _, 6 => some (1, 1, 3) | .port _, 7 => some (1, 0, 2)
  | .cam, 3 => some (0, 0, 1) | .cam, 4 => some (1, 0, 2)
  | .stream _, 3 => some (1, 0, 3) | .stream _, 4 => some (1, 0, 3) | .stream _, 5 => some (0, 0, 2)
  | .stream _, 6 => some (0, 0, 2) | .stream _, 7 => some (1, 0, 2)
  | .dw _, 3 => some (1, 0, 2)
  | .gpu, 3 => some (1, 1, 3) | .gpu, 4 => some (1, 1, 4) | .gpu, 5 => some (1, 1, 4)
  | .ctx _, 3 => some (1, 0, 3) | .ctx _, 4 => some (0, 0, 1) | .ctx _, 5 => some (0, 0, 2)
  | .ctx _, 6 => some (0, 0, 2)
  | .chk _, 3 => some (1, 0, 4) | .chk _, 4 => some (3, 2, 4) | .chk _, 5 => some (0, 0, 1)
  | .tch, 3 => some (0, 0, 1)
  | .panel _, 3 => some (1, 0, 3) | .panel _, 4 => some (1, 0, 3)
  | .lg _, 3 => some (0, 0, 2) | .lg _, 4 => some (0, 0, 2)
  | .key 0, 3 => some (1, 0, 3) | .key 0, 4 => some (1, 0, 3)
  | .hap 0, 3 => some (1, 0, 3) | .hap 0, 4 => some (1, 1, 3) | .hap 0, 5 => some (1, 1, 3)
  | .hap 0, 6 => some (1, 1, 3) | .hap 0, 7 => some (0, 0, 2)
  | .hap 1, 3 => some (0, 0, 1)
  | .aud 0, 3 => some (1, 0, 2) | .aud 0, 4 => some (0, 0, 1)
  | .aud 1, 3 => some (0, 0, 1) | .aud 1, 4 => some (0, 0, 1)
  | .aud 2, 3 => some (1, 0, 2) | .aud 2, 4 => some (0, 0, 1)
  | .afe 0, 3 => some (1, 0, 3) | .afe 0, 4 => some (1, 0, 3) | .afe 0, 5 => some (0, 0, 2)
  | .padg k, 3 => if k < 2 then some (1, 0, 2) else none
  | .padg k, 4 => if k < 2 then some (0, 0, 2) else none
  | .pset _ k, 3 =>
    if k = 0 then some (1, 0, 2) else if k = 1 then some (0, 0, 1) else if k = 11 then some (0, 0, 1)
    else if k = 12 then some (0, 0, 1) else if k = 13 then some (1, 0, 2) else none
  | .pset _ k, 4 => if k = 13 then some (0, 0, 1) else none
  | .wld 0, 3 => some (0, 0, 2) | .wld 0, 4 => some (0, 0, 1) | .wld 0, 5 => some (1, 0, 2)
  | .lcs, 3 => some (4, 4, 4)
  | .tet, 3 => some (1, 0, 3) | .tet, 4 => some (0, 0, 1)
  | .crn 0, 3 => some (1, 0, 2) | .crn 0, 4 => some (0, 0, 1)
  | .can _, 3 => some (1, 0, 3) | .can _, 4 => some (1, 0, 3)
  | .pst 0, 3 => some (1, 0, 3) | .pst 0, 4 => some (1, 1, 4) | .pst 0, 5 => some (1, 0, 2)
  | .pst 0, 6 => some (0, 0, 1) | .pst 0, 7 => some (0, 0, 1)
  | .pst 1, 3 => some (0, 0, 1)
  | .drc 0, 3 => some (1, 1, 4) | .drc 0, 4 => some (1, 0, 3) | .drc 0, 5 => some (1, 1, 3)
  | .drc 1, 3 => some (1, 0, 3) | .drc 1, 4 => some (0, 0, 1)
  | .drc 2, 3 => some (0, 0, 2)
  | .drv 0, 3 => some (0, 0, 2)
  | .pwr, 3 => some (3, 1, 4)
  | .tly 0, 3 => some (0, 0, 1)
  | _, _ => none

/-- The default class of a source; 0 where the page defines no such source. -/
def Page.defaultClass (p : Page) (src : Nat) : Nat := match p.source src with | some (d, _, _) => d | none => 0

/-- The class a source uses for a given code: cut to its allowed range (R14, R15, R47). -/
def Page.adjustClass (p : Page) (src code : Nat) : Nat :=
  match p.source src with
  | some (_, lo, hi) => clampN lo hi code
  | none => 0

/-- FAULT_CLASS with every source at its default class: what the register holds until the image or a guarded write sets
it (R14, R47). -/
def Page.classReset (p : Page) : Nat :=
  (List.range 8).foldl (fun a s => a + p.defaultClass s * 8 ^ s) 0

/-- The reset value of a register, for a page and an offset (R41, R42 and the chapters' tables). -/
def Page.reset (p : Page) (o : Nat) : Nat :=
  if o = Reg.ID then 0x8816B000 + p.code
  else if o = Reg.OWNER then p.ownerReset
  else if o = Reg.FAULT_CLASS then p.classReset
  else match p.row? o with
    | some r => r.rst
    | none => 0

/-- The reset value of the register at an address; 0 where there is none. -/
def regReset (a : Nat) : Word :=
  match pageOf a with
  | some p => BitVec.ofNat 32 (p.reset (a % 0x1000))
  | none => 0

end Sys2Proof.Machine
end

