-- ==== Sys2Proof/Machine/Tab.lean ====
section
/-! DEFINITION. Sparse tables in one canonical form: the carrier of the register file, of the memories and of every
indexed collection of the state.

A table lists (key, value) pairs with strictly rising keys and lists no entry that equals what an unlisted key reads
as. Equal tables are therefore equal data. What an unlisted key reads as is an argument of every operation, so that it
is said once for each table, where the table is declared. -/
namespace Sys2Proof.Machine

/-- A sparse table from numbers to `α`. -/
abbrev Tab (α : Type) := List (Nat × α)

/-- The listed value of a key, if any. -/
def tabFind {α : Type} : Tab α → Nat → Option α
  | [], _ => none
  | (k, v) :: t, key => if k = key then some v else tabFind t key

/-- Reading a table whose unlisted keys read as `d`. -/
def tabGet {α : Type} (d : Nat → α) (t : Tab α) (key : Nat) : α := (tabFind t key).getD (d key)

/-- The table without a key. -/
def tabErase {α : Type} : Tab α → Nat → Tab α
  | [], _ => []
  | (k, v) :: t, key => if k = key then tabErase t key else (k, v) :: tabErase t key

/-- The table with a pair put in before the first larger key. -/
def tabInsert {α : Type} : Tab α → Nat → α → Tab α
  | [], key, v => [(key, v)]
  | (k, w) :: t, key, v => if key < k then (key, v) :: (k, w) :: t else (k, w) :: tabInsert t key v

/-- Writing a table: the value an unlisted key reads as is stored by listing nothing. -/
def tabSet {α : Type} [DecidableEq α] (d : Nat → α) (t : Tab α) (key : Nat) (v : α) : Tab α :=
  if v = d key then tabErase t key else tabInsert (tabErase t key) key v

/-- Every key of the list is greater than `k`. -/
def tabAbove {α : Type} (k : Nat) : Tab α → Bool
  | [] => true
  | (k', _) :: t => decide (k < k') && tabAbove k t

/-- The canonical form: strictly rising keys, and no entry that equals the value of an unlisted key. -/
def tabWf {α : Type} [DecidableEq α] (d : Nat → α) : Tab α → Bool
  | [] => true
  | (k, v) :: t => tabAbove k t && decide (v ≠ d k) && tabWf d t

/-- The keys `a … a + n - 1` removed: every one of them reads as an unlisted key again. -/
def tabClear {α : Type} (t : Tab α) (a n : Nat) : Tab α := t.filter (fun e => decide (e.1 < a ∨ a + n ≤ e.1))

end Sys2Proof.Machine
end

