-- ==== Sys2Proof/Machine/Pixel.lean ====
section
/-! DEFINITION. Pixels: the formats of R113 and their expansion (R114), the Fleece blocks of R129–R133, chroma siting
(R138), colour conversion (R139), blending (R140–R143) and the head colour stages (R146–R150), as plain functions. -/
namespace Sys2Proof.Machine

/-- A pixel: alpha of 8 bits and three components of 10 bits, R, G, B or Y, Cb, Cr (R114, R139). -/
structure Px where
  a : Nat := 0
  c0 : Nat := 0
  c1 : Nat := 0
  c2 : Nat := 0
deriving DecidableEq, Repr

/-- A division whose rounding the spec leaves open: the quotient rounded down or up, exact where it is exact. -/
def freeDiv (site : Nat) (x : Int) (d : Nat) : Int :=
  x / (d : Int) + (if x % (d : Int) = 0 then 0 else if Config.roundsUp site x d then 1 else 0)

/-- The ceiling of a quotient. -/
def ceilDiv (a b : Nat) : Nat := (a + b - 1) / b

/-! ## Formats (R113) -/

/-- A Fleece format code. -/
def isFleece (f : Nat) : Bool := f == 0x20 || f == 0x21 || f == 0x22 || f == 0x30 || f == 0x31
/-- A YUV format code. -/
def isYuv (f : Nat) : Bool := f == 0x10 || f == 0x11 || f == 0x12 || f == 0x13 || f == 0x30 || f == 0x31
/-- A two-plane format code. -/
def isPlanar (f : Nat) : Bool := f == 0x12 || f == 0x13

/-- The format is allowed on a pipe (R113). -/
def fmtAllowed (pipe f : Nat) : Bool :=
  if pipe < 8 then [0x00, 0x08, 0x20, 0x21, 0x22].contains f
  else if pipe < 48 then [0x00, 0x01, 0x02, 0x03, 0x04, 0x05, 0x08, 0x20, 0x21, 0x22].contains f
  else [0x00, 0x01, 0x02, 0x03, 0x06, 0x10, 0x11, 0x12, 0x13, 0x20, 0x21, 0x22, 0x30, 0x31, 0x40].contains f

/-- Bytes of a pixel in its linear plane (plane 1 of a two-plane format). -/
def fmtBytes (f : Nat) : Nat :=
  match f with
  | 0x03 => 2 | 0x04 => 2 | 0x05 => 2 | 0x06 => 3 | 0x08 => 1 | 0x10 => 2 | 0x12 => 1 | 0x13 => 2
  | _ => 4

/-- A component of `n` bits expanded to 10 bits by bit replication (R114). -/
def rep10 (n x : Nat) : Nat :=
  match n with
  | 10 => x % 1024
  | 8 => x % 256 * 4 + x % 256 / 64
  | 6 => x % 64 * 16 + x % 64 / 4
  | 5 => x % 32 * 33
  | 4 => x % 16 * 68 + x % 16 / 4
  | _ => 0

/-- A pixel word of a packed RGB format (R113, R114). -/
def rgbPx (f w : Nat) : Px :=
  let b := fun (k n : Nat) => w / 2 ^ k % 2 ^ n
  match f with
  | 0x02 => ⟨b 30 2 * 85, b 20 10, b 10 10, b 0 10⟩
  | 0x03 => ⟨255, rep10 5 (b 11 5), rep10 6 (b 5 6), rep10 5 (b 0 5)⟩
  | 0x04 => ⟨b 12 4 * 17, rep10 4 (b 8 4), rep10 4 (b 4 4), rep10 4 (b 0 4)⟩
  | 0x05 => ⟨b 15 1 * 255, rep10 5 (b 10 5), rep10 5 (b 5 5), rep10 5 (b 0 5)⟩
  | 0x00 => ⟨b 24 8, rep10 8 (b 16 8), rep10 8 (b 8 8), rep10 8 (b 0 8)⟩
  | _ => ⟨255, rep10 8 (b 16 8), rep10 8 (b 8 8), rep10 8 (b 0 8)⟩

/-- Pixel words of a packed format, one after the other. -/
def rgbRow (f n : Nat) : Nat → List Byte → List Px
  | 0, _ => []
  | k + 1, bs => rgbPx f (leNat (bs.take n)) :: rgbRow f n k (bs.drop n)

/-- Pixel pairs of YUV422_8: Y0, Cb, Y1, Cr (R113). -/
def yuv8Row : Nat → List Byte → List Px
  | 0, _ => []
  | k + 1, bs =>
    let v := fun i => rep10 8 (bs.getD i 0).toNat
    ⟨255, v 0, v 1, v 3⟩ :: ⟨255, v 2, v 1, v 3⟩ :: yuv8Row k (bs.drop 4)

/-- Pixel pairs of YUV422_10: Y0, Cb, Y1, Cr in 16-bit containers whose bits [15:10] are ignored (R113). -/
def yuv10Row : Nat → List Byte → List Px
  | 0, _ => []
  | k + 1, bs =>
    let v := fun i => leNat ((bs.drop (2 * i)).take 2) % 1024
    ⟨255, v 0, v 1, v 3⟩ :: ⟨255, v 2, v 1, v 3⟩ :: yuv10Row k (bs.drop 8)

/-- Pixel pairs of a two-plane format from a row of Y and a row of Cb and Cr (R113). -/
def planarRow (w : Nat) : Nat → List Byte → List Byte → List Px
  | 0, _, _ => []
  | k + 1, ys, cs =>
    let v := fun (b : List Byte) i => if w = 1 then rep10 8 (b.getD i 0).toNat else leNat ((b.drop (2 * i)).take 2) % 1024
    ⟨255, v ys 0, v cs 0, v cs 1⟩ :: ⟨255, v ys 1, v cs 0, v cs 1⟩ :: planarRow w k (ys.drop (2 * w)) (cs.drop (2 * w))

/-! ## Fleece blocks (R129–R133) -/

/-- Bytes of a payload slot. -/
def fleeceSlot (f : Nat) : Nat := if f = 0x30 then 128 else if f = 0x31 then 160 else 256
/-- The raw sector count R. -/
def fleeceRaw (f : Nat) : Nat := fleeceSlot f / 32

/-- A block descriptor as a number. -/
def descKind (x : Nat) : Nat := x / 2 ^ 62 % 4
def descSectors (x : Nat) : Nat := x / 2 ^ 52 % 16
def descValue (x : Nat) : Nat := x % 2 ^ 32

/-- A descriptor is corrupt: KIND 0b11, or a SECTORS value out of range (R131, R134). -/
def descBad (f x : Nat) : Bool :=
  descKind x == 3 || (descKind x == 1 && (descSectors x == 0 || decide (fleeceRaw f ≤ descSectors x))) ||
    (descKind x != 1 && descSectors x != 0)

/-- Sectors of payload that a block fetches. -/
def descFetch (f x : Nat) : Nat := if descKind x = 1 then descSectors x else if descKind x = 2 then fleeceRaw f else 0

/-- The format of the pixels that a Fleece format holds. -/
def fleeceBase (f : Nat) : Nat := f - 0x20

/-- Bits of a stream read least significant bit first. -/
def bitsAt (v pos n : Nat) : Nat := v / 2 ^ pos % 2 ^ n

/-- The 64 pixels of a SOLID block (R131). -/
def solidPx (f v : Nat) : Px :=
  if f = 0x30 then ⟨255, rep10 8 v, rep10 8 (v / 256), rep10 8 (v / 65536)⟩
  else if f = 0x31 then ⟨255, v % 1024, v / 1024 % 1024, v / 1048576 % 1024⟩
  else rgbPx (fleeceBase f) v

/-- Pairs of YUV samples of `n` bits, Y0, Cb, Y1, Cr, from bit `pos` on. -/
def yuvPairs (v n : Nat) : Nat → Nat → List Px
  | 0, _ => []
  | k + 1, pos =>
    let s := fun i => rep10 n (bitsAt v (pos + n * i) n)
    ⟨255, s 0, s 1, s 3⟩ :: ⟨255, s 2, s 1, s 3⟩ :: yuvPairs v n k (pos + 4 * n)

/-- A RAW block (R132). -/
def rawBlock (f : Nat) (bs : List Byte) : List Px :=
  if f = 0x30 then yuv8Row 32 bs
  else if f = 0x31 then yuvPairs (leNat bs) 10 32 0
  else rgbRow (fleeceBase f) 4 64 bs

/-- One component of a PACKED stream: its values and the position after it; none where WIDTH is above n (R133, R134). -/
def packComp (v n count pos : Nat) : Option (List Nat × Nat) :=
  let base := bitsAt v pos n
  let w := bitsAt v (pos + n) 4
  if n < w then none
  else some ((List.range count).map (fun i => (base + bitsAt v (pos + n + 4 + i * w) w) % 2 ^ n), pos + n + 4 + count * w)

/-- The components of a stream in order. -/
def packComps (v : Nat) : List (Nat × Nat) → Nat → Option (List (List Nat) × Nat)
  | [], pos => some ([], pos)
  | (n, c) :: cs, pos =>
    match packComp v n c pos with
    | none => none
    | some (x, p) =>
      match packComps v cs p with
      | none => none
      | some (xs, q) => some (x :: xs, q)

/-- The widths and counts of the components of a Fleece format (R133). -/
def packShape (f : Nat) : List (Nat × Nat) :=
  match f with
  | 0x20 => [(8, 64), (8, 64), (8, 64), (8, 64)]
  | 0x21 => [(8, 64), (8, 64), (8, 64)]
  | 0x22 => [(2, 64), (10, 64), (10, 64), (10, 64)]
  | 0x30 => [(8, 64), (8, 32), (8, 32)]
  | _ => [(10, 64), (10, 32), (10, 32)]

/-- A PACKED block: none where the stream is corrupt (R133, R134). -/
def packedBlock (f sectors : Nat) (bs : List Byte) : Option (List Px) :=
  let v := leNat bs
  let x := bitsAt v 0 1
  match packComps v (packShape f) 1 with
  | none => none
  | some (cs, stop) =>
    if sectors * 256 < stop ∨ (x = 1 ∧ (f = 0x30 ∨ f = 0x31)) then none
    else
      let g := fun k i => ((cs.getD k []).getD i 0)
      some ((List.range 64).map (fun i =>
        if f = 0x30 ∨ f = 0x31 then
          let n := if f = 0x30 then 8 else 10
          ⟨255, rep10 n (g 0 i), rep10 n (g 1 (i / 2)), rep10 n (g 2 (i / 2))⟩
        else
          let o := if f = 0x21 then 0 else 1
          let n := if f = 0x22 then 10 else 8
          let gr := g (o + 1) i
          let r := if x = 1 then (g o i + gr) % 2 ^ n else g o i
          let b := if x = 1 then (g (o + 2) i + gr) % 2 ^ n else g (o + 2) i
          ⟨if f = 0x21 then 255 else if f = 0x22 then g 0 i * 85 else g 0 i, rep10 n r, rep10 n gr, rep10 n b⟩))

/-- The 64 pixels of a block from its descriptor and its payload; none where they are corrupt. -/
def blockPx (f desc : Nat) (payload : List Byte) : Option (List Px) :=
  if descBad f desc then none
  else if descKind desc = 0 then some (List.replicate 64 (solidPx f (descValue desc)))
  else if descKind desc = 2 then some (rawBlock f payload)
  else packedBlock f (descSectors desc) payload

/-! ## Writing Fleece (R133): SOLID where all pixels are equal, PACKED where it fits in R − 1 sectors, RAW otherwise -/

/-- The raw samples of a block by component, `n` bits each: pixel words for RGB (A, R, G, B or R, G, B), and Y, Cb, Cr with
one chroma sample for each pair. -/
structure BlockSamples where
  fmt : Nat
  comps : List (List Nat)
deriving DecidableEq, Repr

/-- The least width that holds every residual. -/
def widthOf (n : Nat) (xs : List Nat) : Nat := (List.range (n + 1)).find? (fun w => xs.all (fun x => decide (x < 2 ^ w))) |>.getD n

/-- Numbers of `w` bits appended to a stream of `pos` bits. -/
def putBits (w : Nat) : List Nat → Nat × Nat → Nat × Nat
  | [], r => r
  | x :: xs, (v, pos) => putBits w xs (v + x % 2 ^ w * 2 ^ pos, pos + w)

/-- One component written with BASE the least value, and the least WIDTH. -/
def packPut (n : Nat) (xs : List Nat) (r : Nat × Nat) : Nat × Nat :=
  let base := xs.foldl min (xs.headD 0)
  let res := xs.map (fun x => (x + 2 ^ n - base) % 2 ^ n)
  let w := widthOf n res
  putBits w res (putBits 4 [w] (putBits n [base] r))

/-- The stream of a block with XFORM 0, and its length in bits. -/
def packStream (s : BlockSamples) : Nat × Nat :=
  ((packShape s.fmt).zip s.comps).foldl (fun r c => packPut c.1.1 c.2 r) (putBits 1 [0] (0, 0))

/-- The word that VALUE holds for a pixel, and the RAW bytes of a block (R131, R132). -/
def sampleWord (s : BlockSamples) (i : Nat) : Nat :=
  let g := fun k j => ((s.comps.getD k []).getD j 0)
  match s.fmt with
  | 0x20 => g 0 i * 2 ^ 24 + g 1 i * 2 ^ 16 + g 2 i * 2 ^ 8 + g 3 i
  | 0x21 => 255 * 2 ^ 24 + g 0 i * 2 ^ 16 + g 1 i * 2 ^ 8 + g 2 i
  | 0x22 => g 0 i * 2 ^ 30 + g 1 i * 2 ^ 20 + g 2 i * 2 ^ 10 + g 3 i
  | 0x30 => g 0 i + g 1 (i / 2) * 2 ^ 8 + g 2 (i / 2) * 2 ^ 16
  | _ => g 0 i + g 1 (i / 2) * 2 ^ 10 + g 2 (i / 2) * 2 ^ 20

/-- The RAW payload of a block. -/
def rawBytes (s : BlockSamples) : List Byte :=
  let g := fun k j => ((s.comps.getD k []).getD j 0)
  if s.fmt = 0x30 then
    ((List.range 32).map (fun k => [g 0 (2 * k), g 1 k, g 0 (2 * k + 1), g 2 k])).flatten.map (fun x => BitVec.ofNat 8 x)
  else if s.fmt = 0x31 then
    leBytes 160 (putBits 10 ((List.range 32).map (fun k => [g 0 (2 * k), g 1 k, g 0 (2 * k + 1), g 2 k])).flatten (0, 0)).1
  else ((List.range 64).map (fun i => leBytes 4 (sampleWord s i))).flatten

/-- Every component of a block holds one value. -/
def blockSolid (s : BlockSamples) : Bool := s.comps.all (fun c => c.all (· == c.headD 0))

/-- The descriptor and the payload bytes of a block. -/
def blockWrite (s : BlockSamples) : Nat × List Byte :=
  if blockSolid s then (sampleWord s 0, [])
  else
    let p := packStream s
    let sec := ceilDiv p.2 256
    if sec < fleeceRaw s.fmt then (2 ^ 62 + sec * 2 ^ 52, leBytes (sec * 32) p.1)
    else (2 ^ 63, rawBytes s)

/-- Blocks of a surface across and down, the payload's offset, and the footprint (R129, R130). A writer leaves no gap
beyond the alignment of PAYLOAD_OFFSET. -/
def blocksOf (n : Nat) : Nat := ceilDiv n 8
def payloadOff (w h : Nat) : Nat := ceilDiv (64 + 8 * blocksOf w * blocksOf h) 256 * 256
def fleeceFoot (f w h : Nat) : Nat := payloadOff w h + blocksOf w * blocksOf h * fleeceSlot f

/-- The surface header (R130); FLAGS is written zero. -/
def fleeceHeader (f w h gen addr : Nat) : List Byte :=
  let b := leBytes 4 0x45454C46 ++ leBytes 1 f ++ leBytes 1 1 ++ leBytes 2 0 ++ leBytes 2 w ++ leBytes 2 h ++
    leBytes 2 (blocksOf w) ++ leBytes 2 (blocksOf h) ++ leBytes 4 gen ++ leBytes 4 (payloadOff w h) ++
    leBytes 4 (blocksOf w * blocksOf h * fleeceSlot f) ++ leBytes 4 0 ++ List.replicate 28 0
  b ++ wordBytes (crcFold (addr % 2 ^ 32) b)

/-- A surface header passes MAGIC, VERSION, HDR_CRC and FORMAT (R134). -/
def headerGood (f addr : Nat) (b : List Byte) : Bool :=
  let g := fun o n => leNat ((b.drop o).take n)
  g 0 4 == 0x45454C46 && g 4 1 == f && g 5 1 == 1 && g 0x3C 4 == (crcFold (addr % 2 ^ 32) (b.take 0x3C)).toNat
def headerWidth (b : List Byte) : Nat := leNat ((b.drop 8).take 2)
def headerHeight (b : List Byte) : Nat := leNat ((b.drop 0xA).take 2)
def headerGen (b : List Byte) : Nat := leNat ((b.drop 0x10).take 4)
def headerPayload (b : List Byte) : Nat := leNat ((b.drop 0x14).take 4)
def headerPaySize (b : List Byte) : Nat := leNat ((b.drop 0x18).take 4)

/-! ## Chroma siting, turning and scaling (R126, R135, R136, R138) -/

/-- The source pixel of place (u, v) of the turned image: the source of `w` × `h` pixels is mirrored, then turned clockwise
by 90° × `rot` (R126). -/
def turned (rot : Nat) (mirror : Bool) (w h u v : Nat) : Nat × Nat :=
  let p := match rot with
    | 0 => (u, v)
    | 1 => (v, h - 1 - u)
    | 2 => (w - 1 - u, h - 1 - v)
    | _ => (w - 1 - v, u)
  if mirror then (w - 1 - p.1, p.2) else p

/-- The mean of two chroma samples, halves up (R138). -/
def mean2 (a b : Nat) : Nat := (a + b + 1) / 2

/-- A row whose chroma pairs start at an even pixel, brought to 4:4:4: co-sited chroma stays repeated; interstitial chroma
is the mean of the two samples beside the pixel (R138). DESIGN CHOICE: at the edge of the source rectangle, where no second sample
stands beside the pixel, its own pair counts twice. -/
def siteRow (inter : Bool) (row : List Px) : List Px :=
  if !inter then row
  else (List.range row.length).map (fun x =>
    let p := row.getD x {}
    let other := if x % 2 = 0 then x - 1 else min (x + 1) (row.length - 1)
    let q := row.getD other {}
    { p with c1 := mean2 p.c1 q.c1, c2 := mean2 p.c2 q.c2 })

/-- Horizontal pre-decimation: the average of each group of `k` adjacent pixels (R135). A last group that the row does not
fill averages the pixels it has. -/
def decimate (k : Nat) (row : List Px) : List Px :=
  if k ≤ 1 then row
  else (List.range (ceilDiv row.length k)).map (fun i =>
    let g := (row.drop (i * k)).take k
    let avg := fun (f : Px → Nat) => (freeDiv 1 ((g.map f).foldl (· + ·) 0 : Nat) g.length).toNat
    ⟨avg (·.a), avg (·.c0), avg (·.c1), avg (·.c2)⟩)

/-- The built-in coefficient of a tap: at unity step and phase 0 the middle tap alone (R136, R242). -/
def builtInCoef (taps step phase t : Nat) : Int :=
  if step = 0x10000 ∧ phase = 0 then (if t = (taps - 1) / 2 then 256 else 0) else Config.sincCoef taps step phase t

/-- A weighted sum of pixels in units of 1/256, each component clamped to its range. -/
def weigh (site : Nat) (ws : List (Int × Px)) : Px :=
  let s := fun (f : Px → Nat) (top : Int) =>
    (clampI 0 top (freeDiv site (ws.foldl (fun m w => m + w.1 * ((f w.2 : Nat) : Int)) 0) 256)).toNat
  ⟨s (·.a) 255, s (·.c0) 1023, s (·.c1) 1023, s (·.c2) 1023⟩

/-- The positions of the taps of a source position, the edge pixel repeated outside (R135). Tap `t` of `n` stands at
`t - (n - 1) / 2` from the position's whole part. -/
def tapAt (n size pos t : Nat) : Nat :=
  let i : Int := ((pos / 65536 : Nat) : Int) + (t : Int) - (((n - 1) / 2 : Nat) : Int)
  (clampI 0 ((size : Int) - 1) i).toNat

/-- The phase of a source position (R135). -/
def phaseAt (pos : Nat) : Nat := pos / 1024 % 64

/-- A row scaled horizontally with 8 taps (R135, R136). -/
def scaleRow (coef : Nat → Nat → Int) (step phase0 n : Nat) (row : List Px) : List Px :=
  (List.range n).map (fun i =>
    let pos := phase0 + i * step
    weigh 2 ((List.range 8).map (fun t => (coef (phaseAt pos) t, row.getD (tapAt 8 row.length pos t) {}))))

/-- Rows scaled vertically: one weighted sum for each column. -/
def scaleCol (ws : List Int) (rows : List (List Px)) : List Px :=
  (List.range (rows.headD []).length).map (fun x => weigh 3 (ws.zip (rows.map (fun r => r.getD x {}))))

/-! ## Colour conversion (R139) -/

/-- The matrix (row by row), the offsets in and the offsets out of a CSC_CTRL.MODE other than 0 and 7. -/
def cscPreset (mode : Nat) : List Int × List Int × List Int :=
  let m := fun (y cr g1 g2 cb : Int) => [y, 0, cr, y, g1, g2, y, cb, 0]
  let lim : List Int := [-64, -512, -512]
  let full : List Int := [0, -512, -512]
  let z : List Int := [0, 0, 0]
  match mode with
  | 1 => (m 4769 6537 (-1605) (-3330) 8263, lim, z)
  | 2 => (m 4096 5743 (-1410) (-2925) 7258, full, z)
  | 3 => (m 4769 7343 (-873) (-2183) 8652, lim, z)
  | 4 => (m 4096 6450 (-767) (-1917) 7601, full, z)
  | 5 => (m 4769 6876 (-767) (-2664) 8773, lim, z)
  | _ => (m 4096 6040 (-674) (-2340) 7706, full, z)

/-- One converted component: every product rounded half up to an integer (R139). -/
def cscComp (m : List Int) (oi : List Int) (oo : Int) (p : Px) : Nat :=
  let t := fun k (c : Nat) => roundDiv (m.getD k 0 * ((c : Int) + oi.getD k 0)) 4096
  (clampI 0 1023 (t 0 p.c0 + t 1 p.c1 + t 2 p.c2 + oo)).toNat

/-- A pixel converted with a matrix and offsets. -/
def cscPx (x : List Int × List Int × List Int) (p : Px) : Px :=
  { a := p.a, c0 := cscComp (x.1.take 3) x.2.1 (x.2.2.getD 0 0) p
    c1 := cscComp ((x.1.drop 3).take 3) x.2.1 (x.2.2.getD 1 0) p, c2 := cscComp (x.1.drop 6) x.2.1 (x.2.2.getD 2 0) p }

/-! ## Blending (R141–R143) -/

/-- One blended component (R141). -/
def blend1 (mode p alpha s d : Nat) : Nat :=
  min 1023 (match mode with
    | 0 => (p * s + (255 - p) * d + 127) / 255
    | 1 => (alpha * s + (255 - alpha) * d + 127) / 255
    | _ => (p * s + (255 - alpha) * d + 127) / 255)

/-- A source pixel with plane alpha `p` blended over a destination pixel. -/
def blendPx (mode p : Nat) (s d : Px) : Px :=
  let alpha := (s.a * p + 127) / 255
  { a := 255, c0 := blend1 mode p alpha s.c0 d.c0, c1 := blend1 mode p alpha s.c1 d.c1, c2 := blend1 mode p alpha s.c2 d.c2 }

/-- The colour key takes a pixel: the top 8 bits of each component lie within the limits (R142). -/
def keyHit (lo hi : Word) (p : Px) : Bool :=
  let t := fun (c h l : Nat) => decide (fld lo h l ≤ c / 4 ∧ c / 4 ≤ fld hi h l)
  t p.c0 23 16 && t p.c1 15 8 && t p.c2 7 0

/-! ## Head colour stages (R146–R150) -/

/-- The order of the fractions, descending, R before G before B where equal (R148). -/
def tetraOrder (fr fg fb : Nat) : List Nat :=
  if fg ≤ fr ∧ fb ≤ fr then (if fb ≤ fg then [0, 1, 2] else [0, 2, 1])
  else if fb ≤ fg then (if fb ≤ fr then [1, 0, 2] else [1, 2, 0])
  else (if fg ≤ fr then [2, 0, 1] else [2, 1, 0])

/-- The steps of the tetrahedral walk for one output component; the sum is in units of 1/4,096. -/
def tetraWalk (entry : Nat → Nat → Nat → Nat) : List Nat → Nat × Nat × Nat → Nat × Nat × Nat → Int → Int
  | [], _, _, acc => acc
  | i :: is, c, f, acc =>
    let c' := if i = 0 then (c.1 + 1, c.2.1, c.2.2) else if i = 1 then (c.1, c.2.1 + 1, c.2.2) else (c.1, c.2.1, c.2.2 + 1)
    let w := if i = 0 then f.1 else if i = 1 then f.2.1 else f.2.2
    tetraWalk entry is c' f
      (acc + (w : Int) * (((entry c'.1 c'.2.1 c'.2.2 : Nat) : Int) - ((entry c.1 c.2.1 c.2.2 : Nat) : Int)))

/-- Tetrahedral interpolation of one output component (R148). -/
def tetra (entry : Nat → Nat → Nat → Nat) (r g b : Nat) : Nat :=
  let c := (r / 4096, g / 4096, b / 4096)
  let f := (r % 4096, g % 4096, b % 4096)
  (clampI 0 65535 (freeDiv 4 (tetraWalk entry (tetraOrder f.1 f.2.1 f.2.2) c f
    (4096 * ((entry c.1 c.2.1 c.2.2 : Nat) : Int))) 4096)).toNat

/-- The gamma stage (R149): E[1024] counts as 4,095. -/
def gammaOf (e : Nat → Nat) (v : Nat) : Nat :=
  let i := v / 64
  let f := v % 64
  let hi : Int := if i < 1023 then (e (i + 1) : Int) else 4095
  ((e i : Int) + (hi - (e i : Int)) * (f : Int) / 64).toNat

/-- The dither matrix (R150). -/
def ditherM (r c : Nat) : Nat :=
  ([0, 8, 2, 10, 12, 4, 14, 6, 3, 11, 1, 9, 15, 7, 13, 5].getD (r % 4 * 4 + c % 4) 0)

/-- Dither of a 12-bit value to `bits` bits at an output place, in frame `f` (R150). -/
def ditherOf (mode bits x y f v : Nat) : Nat :=
  let k := 12 - bits
  let add := if mode = 1 then ditherM y x * 2 ^ k / 16 else if mode = 2 then ditherM (y + f) (x + 2 * f) * 2 ^ k / 16
    else 2 ^ (k - 1)
  min ((v + add) / 2 ^ k) (2 ^ bits - 1)

end Sys2Proof.Machine
end

