-- ==== Sys2Proof/Machine/State.lean ====
section
/-! DEFINITION. The state of the device as plain data: the registers, everything the spec gives the blocks beside their
registers, the fuses, and the queue of waiting commands. -/
namespace Sys2Proof.Machine

/-- A memory of bytes: an unlisted address reads as the byte its region has when nothing was written. -/
abbrev Mem := Tab Byte

/-- A pending guarded-pair value of a page (R59): the register, the value and who wrote it. -/
structure GpPend where
  off : Nat
  val : Word
  party : Party
deriving DecidableEq, Repr

/-- A fault report on its way to the Sheepdog (R12, R523): the source, its class, the block's EVENT value and HEAD0's
frame number, which the Cairn record takes (R533), and whether it is of the same cycle as the report before it (R16). -/
structure FaultRep where
  block : Nat
  src : Nat
  cls : Nat
  event : Word
  frame : Word
  same : Bool := false
deriving DecidableEq, Repr

/-- A Cairn record of R532 without its CRC, which is computed when the bytes are read. -/
structure CairnRec where
  seq : Nat
  time : Nat
  boot : Nat
  block : Nat
  source : Nat
  cls : Nat
  kind : Nat
  stFrom : Nat
  stTo : Nat
  entry : Nat
  d0 : Nat
  d1 : Nat
deriving DecidableEq, Repr

/-- A message the device puts on one of its links: the observable outputs of the block, in the order they leave. -/
inductive Out where
  /-- An MSI-X message of function `fn` (PF u is u, VF of paddock p is 2 + p) with its address and data (R465). -/
  | msix (fn vector : Nat) (addr : Nat) (data : Word)
  /-- A copy-engine write to host memory (R454). -/
  | hostWrite (fn : Nat) (addr : Nat) (bytes : List Byte)
  /-- A frame sent by a CAN controller: header word, DLC and data (R541). -/
  | can (n : Nat) (hdr : Word) (dlc : Nat) (bytes : List Byte)
  /-- A frame sent on a Laiga downlink (R332). -/
  | laiga (n : Nat) (bytes : List Byte)
  /-- An active line sent on the stream of an output port: its number and pixels (R146, R200). -/
  | video (n line : Nat) (px : List (Nat × Nat × Nat))
  /-- A sample at a sink outside the engine: a TDM slot, a speaker or an earpiece (R403, R411). -/
  | audio (sink : Nat) (x : Int)
  /-- An AUX request sent by an output port (R204). -/
  | aux (n : Nat) (req : Nat) (addr : Nat) (len : Nat) (bytes : List Byte)
  /-- A charge word sent over the tether, toward the Dale die or the Fell die (R514). -/
  | charge (toDale : Bool) (bytes : List Byte)
  /-- The payload of a tether frame delivered by its class (R510). -/
  | tether (toDale : Bool) (cls : Nat) (bytes : List Byte)
  /-- Bytes sent to the NVM in 1S-1S-1S mode as one command (R71, R88). -/
  | xspi (bytes : List Byte)
  /-- The NVM is reset through XSPI_RESET_N (R86, R88). -/
  | xspiReset
  /-- A link training starts: PORT_CTRL and PORT_PHY as it takes them, with mode, limits, FAST_TRAIN, lane map, polarity, PE and
  VS (R201, R213, R214). -/
  | train (n : Nat) (ctrl phy : Word)
  /-- A SYNC_OUT pin takes a level (R199). -/
  | syncOut (pin : Nat) (high : Bool)
  /-- The port sets MSA_TIMING_PAR_IGNORE_EN in its sink (R196). -/
  | msaIgnore (n : Nat)
  /-- The profile's timing parameters in the MSA of a frame: H_TIMING1 to PCLK_KHZ, and whether vertical and horizontal sync are
  positive (R196, R209). -/
  | msa (n : Nat) (timing : List Word) (vpos hpos : Bool)
deriving DecidableEq, Repr

/-- A section of an image (R72): its index, its table entry, and of a section that is kept its MANIFEST hash and bytes. -/
structure Sect where
  idx : Nat
  typ : Nat
  inst : Nat
  off : Nat
  len : Nat
  crc : Nat
  hash : List Byte := []
  bytes : List Byte := []
deriving DecidableEq, Repr

/-- Start-up (R86–R103) beside its registers. `stage`: 0 supplies not valid, 1 Dale die out of reset, 2 self-test done,
3 tether trained, 4 header read, 5 signature verified, 6 group 1 read, 7 Fell die released, 8 firmware configured. -/
structure BootS where
  stage : Nat := 0
  /-- The slot being tried or running: 0 A, 1 B. -/
  slot : Nat := 0
  failA : Nat := 0
  failB : Nat := 0
  /-- The image is read in 1S-1S-1S mode: it says so, a table failed in 8D mode, or it is an attempt of R103. -/
  single : Bool := false
  /-- The try under way is one of R103. -/
  retry : Bool := false
  /-- A start of the whole device, which a supply failure abandons (R101), until full composition. -/
  devStart : Bool := true
  firstPic : Bool := false
  dramUp : Bool := false
  full : Bool := false
  t0 : Nat := 0
  /-- What the running image gives: its configuration sections as read with group 1, the header's FLAGS, DEBUG and SVN, and
  SIGNATURE.KEY. -/
  sects : List Sect := []
  flags : Nat := 0
  debug : Nat := 0
  svn : Nat := 0
  key : List Byte := []
  /-- Group-2 sections not yet checked (of RES_APP and SHADER_CACHE with the fields that lead them, as read with the table), the
  indices of those read once in vain, those stored, with their bytes, and the areas of Pasture that these take until DRAM is
  trained. -/
  group2 : List Sect := []
  reread : List Nat := []
  loaded : List Sect := []
  g2at : List (Nat × Nat) := []
  /-- A life-cycle transition at this start asks for the DRAM wipe after training (R92). -/
  wipeDram : Bool := false
  /-- Heads whose first picture has left their port. -/
  pictured : List Nat := []
deriving DecidableEq, Repr

/-- The NVM's interface (R71, R88): whether it is in 8D-8D-8D mode, and then the opcode and the dummy cycles of its reads. -/
structure XspiS where
  octal : Bool := false
  readOp : Nat := 0
  dummy : Nat := 0
deriving DecidableEq, Repr

/-- The NVM command in progress: its code and address, and whether it waits for an export (R108, R109). -/
structure NvmS where
  cmd : Option (Nat × Nat) := none
  waits : Bool := false
deriving DecidableEq, Repr

/-- A configuration of a layer pipe (R118): the owner that committed it, the staged registers by offset, unlisted ones at
their reset values, and the custom coefficients by table × 512 + phase × 8 + tap. -/
structure LayerCfg where
  owner : Nat := 0
  regs : Tab Word := []
  coefs : Tab Nat := []
deriving DecidableEq, Repr

/-- A line that a pipe has fetched: its pixels (for DIRECT one row for each ring line needed, and none
while it is only tested), or the LAYER_STAT bit of the cause that keeps it from being shown. -/
structure PipeLine where
  bad : Nat := 0
  rows : List (List Px) := []
deriving DecidableEq, Repr

/-- A layer pipe beside its registers (R118–R170). `act`: the active configuration, and `chain`
the one that is accepted last; `coefs`, `tap`: the staged coefficients
and the pair that COEF_DATA takes next; `pre`: the configuration fetched in this frame; `hdr`: width and payload
offset of an accepted Fleece header; `cut`: the fetch was barred or ended before its time; `counted`: the causes that
FAULT_COUNT has counted in this frame; `lines`: fetched lines of the turned image, or of the display for DIRECT; `holds`: the
LAYER_STAT bits of the causes in force, and `shown` whether the last composed line was the hold colour; `bound`: the camera
frame of a direct layer. `quiesce`: 1 from the next frame start, 2 in force, 3 until a new commit. `back`: RESTART was
written and the pipe waits for the frame start. `clkOff`: its clocks stand still; `idle`: it was disabled at the last frame start (R163). -/
structure PipeS where
  act : LayerCfg := {}
  chain : LayerCfg := {}
  coefs : Tab Nat := []
  tap : Nat := 0
  pre : Option LayerCfg := none
  hdr : Option (Nat × Nat) := none
  palette : List Byte := []
  lines : Tab (Option PipeLine) := []
  cut : Bool := false
  counted : Nat := 0
  holds : Nat := 0
  shown : Bool := false
  bound : Nat := 0
  quiesce : Nat := 0
  back : Bool := false
  clkOff : Bool := true
  idle : Bool := true
deriving DecidableEq, Repr

/-- A commit that waits to be applied (R119–R121, R187–R189): its owner and number, the accepted layers, the Bellwether
context that made it, and for a line trigger its line and whether it waits for the next frame. -/
structure CommitS where
  owner : Nat
  seq : Nat
  layers : List (Nat × LayerCfg)
  ctx : Option Nat := none
  line : Nat := 0
  next : Bool := false
deriving DecidableEq, Repr

/-- A surface as a pipe reads it: pipe, format, addresses, stride and generation. -/
structure Surface where
  pipe : Nat
  what : List Nat
deriving DecidableEq, Repr

/-- A commit whose replaced surfaces are not yet released (R160). -/
structure ReleaseS where
  owner : Nat
  seq : Nat
  olds : List Surface
  pipes : List Nat
  trig : Bool
  applied : Bool
deriving DecidableEq, Repr

/-- A writeback engine beside its registers (R155–R158): the applied settings and the armed ones, whose they are (R319), the
buffer the next frame goes to, and of a frame in progress the head's frame number, the lines captured, the rows that wait for
their Fleece blocks, and whether it was abandoned. -/
structure WbS where
  set : Option (Tab Word) := none
  armed : Option (Tab Word) := none
  buf : Nat := 0
  owner : Nat := 0
  armedBy : Nat := 0
  busy : Bool := false
  frame : Word := 0
  lines : Nat := 0
  rows : List (List (List Nat)) := []
  dead : Bool := false
deriving DecidableEq, Repr

/-- A deadline call that the head waits to see answered (R183, R184). -/
structure CallS where
  frame : Word
  ctx : Nat
  answered : Bool
deriving DecidableEq, Repr

/-- A head beside its registers (R177–R212), with the commits, releases and colour banks that hang on it.

`run`: it produces frames; `line`: the line it is in, −Vb − 1 between frame begin and the first line. `ahead`: between frame
begin and frame start; `closed`: this frame's commit window has closed; `opened`, `latched`, `trig`: the commits of R121 and
R189. `seqs`, `rel`: COMMIT_SEQ and RELEASED_SEQ by owner. `reading`: the surfaces read in this frame. `stepC`, `cDone`,
`oDone`: the shepherd's steps of this frame; `demoted2`: a layer was demoted in this frame or the one before (R31). `off`:
ENABLE was cleared; `back`: RESTART was written. `src`: the sync source and ratio in force; `good`, `seen`: sync periods in
range and whether an edge came; `jumped`, `aligned`: in CAPTURE the jump is done, and good aligned frames since; `frames`,
`edges`: frames and edges since the last aligned ones; `alignNext`: the next frame is an aligned one whose edge has come;
`goto_`: the line that a skip or jump makes the next one. `first`: a first picture that has yet to start, and `firstAt` the time
at which its link was ready (R96).
`calls`: deadline calls of R184. `last`: the pixel sent last; `under`: this frame has underrun. `pulse`: SYNC_OUT pins in
their pulse. `wins`: the check windows of a commit that waits, and of one latched. -/
structure HeadS where
  run : Bool := false
  line : Int := 0
  ahead : Bool := false
  closed : Bool := false
  opened : List CommitS := []
  latched : List CommitS := []
  trig : List CommitS := []
  seqs : Tab Nat := []
  rel : Tab Nat := []
  relq : List ReleaseS := []
  reading : List Surface := []
  stepC : Bool := false
  cDone : Bool := false
  oDone : Bool := false
  demoted2 : Bool := false
  off : Bool := false
  back : Bool := false
  src : Nat := 0
  good : Nat := 0
  seen : Bool := false
  jumped : Bool := false
  aligned : Nat := 0
  frames : Nat := 0
  edges : Nat := 0
  alignNext : Bool := false
  goto_ : Option Int := none
  first : Bool := false
  firstAt : Option Nat := none
  calls : List CallS := []
  last : Nat × Nat × Nat := (0, 0, 0)
  under : Bool := false
  pulse : List Nat := []
  edgeDue : Nat := 0
  wins : Option (Tab Word) := none
  winsLatched : Option (Tab Word) := none
  winsOff : Bool := false
deriving DecidableEq, Repr

/-- An output port beside its registers (R200–R206): the level of HPD before debounce has no state; `mode`: the MODE in force;
`ctrl`: the PORT_CTRL that the last training took, with its limits; `aux`: the AUX request that runs, whether it has been
sent, and whether the port could not send it (R206). -/
structure PortS where
  src : Option Nat := none
  refused : Bool := false
  mode : Nat := 0
  ctrl : Word := 0
  aux : Option Word := none
  auxOut : Bool := false
  auxMute : Bool := false
deriving DecidableEq, Repr

/-- The tag of a ring slot whose line is complete (R228): the frame's number since enable, the line, and the bad flag. -/
structure RingTag where
  seq : Nat
  line : Nat
  bad : Bool
deriving DecidableEq, Repr

/-- A camera stream beside its registers (R220–R232, R247–R249). `seq` counts FS since enable without wrapping. `okFrom`:
direct layers show no frame before this one (R247, R248). `wrote`: the DRAM buffer written last; `buf`: the one the frame
goes to. `rows`: lines that wait for their row of Fleece blocks. `crc`: the CRC of the frame so far; `t0`: FS_TO_L0. -/
structure StreamS where
  on : Bool := false
  stopping : Bool := false
  restart : Bool := false
  inFrame : Bool := false
  seq : Nat := 0
  line : Nat := 0
  tags : Tab (Option RingTag) := []
  wrote : Option Nat := none
  buf : Option Nat := none
  rows : List (List Byte) := []
  crc : Word := 0xFFFFFFFF
  prevCrc : Option Word := none
  repeats : Nat := 0
  frozen : Bool := false
  lost : Bool := false
  okFrom : Nat := 1
  t0 : Nat := 0
  tLast : Nat := 0
deriving DecidableEq, Repr

/-- A mesh as DW_MESH_ADDR, DW_MESH_DIM and DW_CELL give it (R234). -/
structure MeshCfg where
  addr : Nat
  cols : Nat
  rows : Nat
  cellW : Nat
  cellH : Nat
deriving DecidableEq, Repr

/-- A dewarp engine beside its registers (R233–R239): the stream it serves, the mesh in use, the frame it produces, the next
output line, the lines begun but not yet visible, the tags of its output ring, and whether it has found no free slot (R239). -/
structure DwS where
  serves : Option Nat := none
  mesh : Option MeshCfg := none
  restart : Bool := false
  seq : Nat := 0
  next : Nat := 0
  made : List RingTag := []
  tags : Tab (Option RingTag) := []
  waits : Bool := false
deriving DecidableEq, Repr

/-- The camera inputs: streams, dewarp engines, and the restart of the CAM page that waits for an FS. -/
structure CamS where
  streams : Tab StreamS := []
  dws : Tab DwS := []
  restart : Bool := false
deriving DecidableEq, Repr

/-- An entry of a context's pipeline table (R271), also what is bound: the descriptor's address, the key, KIND and SAMPLES,
its fixed-function words DEPTH and BLEND (R267), and whether a module of it breaks a limit of R269. -/
structure GPipe where
  addr : Nat
  key : Nat
  kind : Nat
  samples : Nat
  depth : Nat := 0
  blend : List Nat := []
  bad : Bool
deriving DecidableEq, Repr

/-- An attachment of a render pass (R275); `last` is GENERATION, or the clear stencil of the depth attachment. -/
structure GAtt where
  fmt : Nat
  load : Nat
  store : Nat
  stride : Nat
  addr : Nat
  clear : Nat
  last : Nat
deriving DecidableEq, Repr

/-- The render pass between PASS_BEGIN and PASS_END: its size, its attachments, whether anything was drawn in it, and
whether a partial render has spilled it (R280). `touched`: by attachment × 65,536 + tile, the components that draws since the
last render may have changed: B, G, R, A of a colour attachment, depth and stencil of attachment 4. -/
structure GPass where
  w : Nat
  h : Nat
  samples : Nat
  colour : List GAtt
  depth : GAtt
  drawn : Bool := false
  spilled : Bool := false
  touched : Tab Nat := []
deriving DecidableEq, Repr

/-- A context beside its registers (R259–R289). `table`: the pipeline table, least recently used first. `penFree`: its free
list; `penUsed`: pens that hold bin lists; `want`: pens that the binner still needs; `partialOn`: a partial render is under
way. `fence`: the address and value of an unmet FENCE_WAIT; `callWait`: it stands at WAIT_CALL; `transWait`: it waits for a
translation. `work`: draws or dispatches are in flight. `stopping`, `stopped`: a deadline call stops its waves, or has.
`called`: the first wave after a call has yet to issue; `held`: the conditions of R283 held at that call. `drain`: the
write pointer it is drained to; `stop`: it was drained and fetches nothing; `saving`: PREEMPT_SAVE is under way. `lease`:
the level set at lease. `bwHead`, `area`: the head of its MEMORY record, and the offset and KiB of its save area. `placed`: the
first byte and the length of the pens and spill area that the firmware placed (R281). `closing`: ENABLE was cleared and a started
packet has yet to complete (R298). `waves`: the waves it has on each core (R256); `slots`: the cores whose waves stand saved, and
their bytes (R286, R287). `callUs`: when the last call came. -/
structure CtxS where
  table : List GPipe := []
  bound : Option GPipe := none
  sets : Tab Nat := []
  push : Tab Word := []
  pass : Option GPass := none
  penFree : List Nat := []
  penUsed : List Nat := []
  want : Nat := 0
  partialOn : Bool := false
  fence : Option (Nat × Nat) := none
  callWait : Bool := false
  transWait : Bool := false
  work : Bool := false
  stopping : Bool := false
  stopped : Bool := false
  called : Bool := false
  held : Bool := false
  drain : Option Nat := none
  stop : Bool := false
  saving : Bool := false
  lease : Nat := 0
  bwHead : Option Nat := none
  area : Option (Nat × Nat) := none
  placed : Nat × Nat := (0, 0)
  closing : Bool := false
  waves : List (Nat × Nat) := []
  slots : List (Nat × Nat) := []
  callUs : Nat := 0
deriving DecidableEq, Repr

/-- A translation that a context has asked for (R272): when, and for which pipeline. -/
structure TransReq where
  ctx : Nat
  pipe : GPipe
  since : Nat
deriving DecidableEq, Repr

/-- The GPU beside its registers: the keys in the translation cache, least recently used first, with those from
SHADER_CACHE marked (R272); the translation requests in arrival order; windows below 45 % in a row and the level of a raise
under way (R292, R606); a deferred fall (R292); and whether the firmware leaves it disabled (R296). -/
structure GpuS where
  cache : List (Nat × Bool) := []
  reqs : List TransReq := []
  lowRun : Nat := 0
  raising : Option Nat := none
  deferred : Bool := false
  off : Bool := false
deriving DecidableEq, Repr

/-- A check window beside its registers (R307–R317): the active configuration by offset (WIN_CTRL, WIN_XY, WIN_WH and its
EXPECT values), if any; the CRC so far; the result of the previous evaluated frame; whether it opened in this frame and has
taken every line since, and whether its rectangle is complete. -/
structure WinS where
  cfg : Option (Tab Word) := none
  crc : Word := 0
  prev : Option Word := none
  open_ : Bool := false
  full : Bool := false
deriving DecidableEq, Repr

/-- A track of a panel (R349–R352): its number, the region it is routed to, its position, its prediction, its velocity as a
fraction of position units per µs (the two numerators and their denominator), its type (0 to 3 as TYPE gives it, 4 WATER),
the mutual frames that saw it and the scan of the last one. `told`: its DOWN has been reported; `mute`: it is never
reported any more; `nodes`: the nodes of its blob. -/
structure TrackS where
  id : Nat
  region : Option Nat
  x : Nat
  y : Nat
  px : Nat
  py : Nat
  vx : Int := 0
  vy : Int := 0
  vd : Nat := 1
  type : Nat
  seen : Nat := 1
  scan : Nat
  told : Bool := false
  mute : Bool := false
  peak : Int
  area : Nat
  nodes : List Nat
deriving DecidableEq, Repr

/-- A region as the present mutual frame uses it (R353): REGION_X, REGION_Y and REGION_CTRL. -/
structure RegionS where
  x : Word := 0
  y : Word := 0
  ctrl : Word := 0x107808
deriving DecidableEq, Repr

/-- A command on a Laiga downlink that waits for its frame (R335): CMD, TYPE and FREQ of a SCAN, SEQ. -/
structure LgCmd where
  cmd : Nat
  type : Nat
  freq : Nat
  seq : Nat
deriving DecidableEq, Repr

/-- The new baseline of an electrode that works again (R360): the frames taken so far, and the sums of its nodes in the
order of the panel and of its self value. -/
structure RebS where
  el : Nat
  n : Nat := 0
  ns : Nat := 0
  sums : List Int
  selfSum : Int := 0
deriving DecidableEq, Repr

/-- A panel with its Laiga port, beside their registers (R331–R361). Electrodes count TX first, then RX; nodes as R333.

`scanning`: SCANs are sent; `tries`: the times a HELLO or CONFIG was sent; `recfg`: CONFIG goes before the next SCAN; `feMax`:
MAX_TX and MAX_RX of the HELLO reply; `slot`: the slot of the next SCAN; `scan`, `scanAt`: the scan count, of which reports carry the
low bits, and TCH_TIME of the last SCAN; `hopTo`: the frequency from the
next SCAN; `fresh`: the next mutual frame is the first at a new frequency; `listen`: the frequency of the last LISTEN;
`noise`: by frequency, the noise and when it was measured; `rNoise`: by region; `above`: mutual frames in a row above
HOP_THRESH; `nM`, `nS`: frames in the baselines, which hold sums below 8; `ds`, `selfScan`: d_s and the scan of the latest
SELF frame; `e`, `v`: of the latest mutual frame; `anti`: by node, frames in a row at or below −ANTI_TOUCH; `suspect`,
`rearm`: the marks, with the value at the forced lift; `elec`: by electrode, the judgement and how often it came in a row;
`dead`: faulted electrodes; `blobs`: nodes of the blobs of the last frame and the scan in which each first appeared; `back`:
a sense loss has been reported. -/
structure TpS where
  scanning : Bool := false
  cmd : Option LgCmd := none
  tries : Nat := 0
  recfg : Bool := false
  feMax : Nat × Nat := (0, 0)
  slot : Nat := 0
  scan : Nat := 0
  scanAt : Nat := 0
  hopTo : Option Nat := none
  fresh : Bool := false
  listen : Nat := 0
  noise : Tab (Option (Nat × Nat)) := []
  rNoise : Tab Nat := []
  above : Nat := 0
  lastHop : Option Nat := none
  offset : Int := 0
  nM : Nat := 0
  nS : Nat := 0
  base : List Int := []
  self : List Int := []
  ds : List Int := []
  selfScan : Nat := 0
  e : List Int := []
  v : List Int := []
  anti : Tab Nat := []
  suspect : List Nat := []
  rearm : Tab (Option Int) := []
  elec : Tab (Nat × Nat) := []
  dead : List Nat := []
  reb : List RebS := []
  blobs : List (List Nat × Nat) := []
  tracks : List TrackS := []
  nextTrack : Nat := 1
  regions : Tab RegionS := []
  back : Bool := false
deriving DecidableEq, Repr

/-- A report ring beside its registers (R357, R358): records lost since the last GAP, and the number of the next record. -/
structure RingS where
  lost : Nat := 0
  rseq : Nat := 1
deriving DecidableEq, Repr

/-- Touch beside its registers: panels, rings (0 Fold, 1 Field, 2 + p paddock p), and when TCH_TIME was 0. -/
structure TchS where
  panels : Tab TpS := []
  rings : Tab RingS := []
  t0 : Nat := 0
deriving DecidableEq, Repr

/-- A bezel key beside its registers (R363–R366): samples summed for the baseline and their sum, until 8; samples in a row
below release, at or below −THRESHOLD ÷ 2, open, saturated and good; samples since the baseline last drifted; the raw value
at the forced lift; whether its group's key has gone UP since it was suppressed. -/
structure KeyS where
  n : Nat := 0
  sum : Nat := 0
  low : Nat := 0
  neg : Nat := 0
  open_ : Nat := 0
  sat : Nat := 0
  good : Nat := 0
  drift : Nat := 0
  ref : Nat := 0
  freed : Bool := false
deriving DecidableEq, Repr

/-- The bezel keys: by key, and the samples taken. -/
structure KeysS where
  keys : Tab KeyS := []
  samples : Nat := 0
deriving DecidableEq, Repr

/-- A Whistle effect (R379): its class, PEAK_V, the counts of its three runs, and its samples in order. -/
structure Effect where
  cls : Nat
  peak : Nat
  attack : Nat
  sustain : Nat
  brake : Nat
  samples : List Int
deriving DecidableEq, Repr

/-- An accepted trigger (R382): its effect, resolved class, LEVEL, REPEAT, the paddock that made it, and the sample boundary at
which it was taken. -/
structure HapTrig where
  effect : Nat
  cls : Nat
  level : Nat
  rep : Nat
  pad : Option Nat
  taken : Nat := 0
deriving DecidableEq, Repr

/-- A running effect (R385): its trigger, its phase (2 ATTACK, 3 SUSTAIN, 4 BRAKE), the samples played in the phase, the
sustains still to play, whether it has clipped, and the samples driven since the start of its attack (R389). -/
structure HapRun where
  trig : HapTrig
  phase : Nat
  pos : Nat
  left : Nat
  clipped : Bool
  driven : Nat := 0
deriving DecidableEq, Repr

/-- A haptic channel beside its registers (R375–R390). `fault`: 0, or the kind of R390; `slots`: by class; `drive`: the voltage
across the bridge in units of 1/(2 × 32,767 × 255) V; `ms`, `win`: samples driven in this millisecond and in each of the last
thousand; `duty`: their sum; `lows`, `highs`, `goods`: capacitance measurements in a row; `shorts`: the times of shorts;
`stuck`: the fourth short within 10 s. -/
structure HapChS where
  fault : Nat := 0
  run : Option HapRun := none
  slots : Tab (Option HapTrig) := []
  drive : Int := 0
  ms : Nat := 0
  win : List Nat := []
  duty : Nat := 0
  lows : Nat := 0
  highs : Nat := 0
  goods : Nat := 0
  shorts : List Nat := []
  stuck : Bool := false
deriving DecidableEq, Repr

/-- The haptic block beside its registers: the sample boundaries that have passed, channels, triggers accepted since the last
boundary, image effects by number, and whether the temperature warning and the trip are in force. -/
structure HapS where
  now : Nat := 0
  chs : Tab HapChS := []
  queue : List (Nat × HapTrig) := []
  image : Tab (Option Effect) := []
  warm : Bool := false
  trip : Bool := false
deriving DecidableEq, Repr

/-- A gain that moves (R408): the linear amplitudes it moves between, in units of 2⁻²⁴, and how many of its samples are done. -/
structure RampS where
  from_ : Nat := 0
  dest : Nat := 0
  k : Nat := 0
  n : Nat := 0
deriving DecidableEq, Repr

/-- An instance of a route (R408–R410): the ROUTE_CFG that gives its source, sink and flags, its gain, and the samples that the
bridge still needs before it delivers. -/
structure InstS where
  cfg : Word
  gain : RampS := {}
  fill : Nat := 0
deriving DecidableEq, Repr

/-- A route (R404–R409): the staged ROUTE_CFG and ROUTE_GAIN, the applied ones, its current instance and its fading ones,
oldest first, the change that waits for a fourth instance, and REASON. -/
structure RouteS where
  cfgS : Word := 0x02000000
  gainS : Word := 0x00050000
  cfg : Word := 0x02000000
  gain : Word := 0x00050000
  cur : Option InstS := none
  fades : List InstS := []
  defer : Option (Word × Word) := none
  reason : Nat := 0
deriving DecidableEq, Repr

/-- A tenant stream (R422–R425): the registers that AS_SEL reaches, its counters, AS_STAT, the party that enabled it (0 Fold,
1 Field), its gain, its last frame, and whether it stops, or reads no further frame meanwhile. -/
structure AsS where
  cfg : Word := 0x08000000
  lo : Word := 0
  hi : Word := 0
  own : Nat := 0
  dev : Nat := 0
  unders : Nat := 0
  overs : Nat := 0
  running : Bool := false
  under : Bool := false
  fault : Bool := false
  quiesced : Bool := false
  refuse : Nat := 0
  by_ : Nat := 1
  gain : RampS := {}
  last : List Int := []
  stopping : Bool := false
  hold : Bool := false
deriving DecidableEq, Repr

/-- A limited channel (R414): the samples in its 1 ms delay, the present reduction in 0.25 dB, and the frames it has limited in
this millisecond's count. -/
structure LimS where
  delay : List Int := []
  red : Nat := 0
  frames : Nat := 0
deriving DecidableEq, Repr

/-- A rate domain in progress (R411, R413): the frames of its present millisecond, whether a bus has clipped in it, and the
weight of ducking. -/
structure DomS where
  frame : Nat := 0
  clipped : Bool := false
  duck : RampS := {}
deriving DecidableEq, Repr

/-- The Fell side of the audio hub beside its registers: routes, streams, limited channels by sink code, domains, and the
active S routes, each with the frames of HOLD_MS that remain to it (R413). -/
structure AudS where
  routes : Tab RouteS := []
  streams : Tab AsS := []
  lims : Tab LimS := []
  doms : Tab DomS := []
  active : List (Nat × Nat) := []
deriving DecidableEq, Repr

/-- A side-tone route (R416): the configuration in force and the target; for its elements (0 gain, 1 removal, 2 addition) those
that wait for a zero crossing, and the end of a forced ramp. -/
structure StS where
  act : Word := 0x7F
  tgt : Word := 0x7F
  pend : List Nat := []
  ramp : Option Nat := none
deriving DecidableEq, Repr

/-- A speaker beside its registers (R421): the times of overcurrents, and the fourth within 10 s. -/
structure SpkS where
  times : List Nat := []
  stuck : Bool := false
deriving DecidableEq, Repr

/-- The Dale side of the audio hub beside its registers. `lost`: Fell-fed outputs are ramped to 0; `ears`: the gain of the
earpieces of each headset (R419). -/
structure AfeS where
  ears : Tab RampS := []
  st : Tab StS := []
  spk : Tab SpkS := []
  lost : Bool := false
deriving DecidableEq, Repr

/-- A PCIe function (R432–R434): Bus Master Enable, the MSI-X Enable and Function Mask bits of its configuration space. -/
structure FnS where
  bme : Bool := false
  msixEn : Bool := false
  msixMask : Bool := false
deriving DecidableEq, Repr

/-- An upstream port (R432, R647): the SR-IOV settings, the link and PERST_N, and the manager command in progress. -/
structure UpS where
  numVfs : Nat := 0
  vfEnable : Bool := false
  linkUp : Bool := false
  perst : Bool := true
  /-- Opcode and status of the manager command that runs, and the frames it scrubs (R456). -/
  cmd : Option (Nat × Nat) := none
  scrubbing : List Nat := []
  /-- The resource (kind and index) whose unlease waits (R448). -/
  wait : Option (Nat × Nat) := none
  /-- What the port's PORTS record gives (R82, R432, R433): MAX_GEN, LANES and LANE_REV; Vendor ID, Device ID, Subsystem Vendor ID
  and Subsystem ID. -/
  link : Nat × Nat × Nat := (0, 0, 0)
  ids : Nat × Nat × Nat × Nat := (0, 0, 0, 0)
deriving DecidableEq, Repr

/-- A paddock beside its registers (R437–R465): the gate's sequence numbers; whether a quiesce still completes the copy
queue's current descriptor; and of CLEARING, the resources it waits for (kind and index), the frames it scrubs, and whether
it ends in VOID. -/
structure PadS where
  upSeq : Nat := 1
  downSeq : Nat := 1
  cqLast : Bool := false
  waits : List (Nat × Nat) := []
  scrubs : List Nat := []
  removing : Bool := false
deriving DecidableEq, Repr

/-- What the firmware set the frame ownership table to at "DRAM trained" (R440): the fold line, the frames of the Field
part's area and of the translation cache, the DEVICE frames, and the first frame that is ABSENT. -/
structure FotInit where
  fold : Nat
  fieldLo : Nat
  fieldHi : Nat
  tcLo : Nat
  tcHi : Nat
  devLo : Nat
  usable : Nat
deriving DecidableEq, Repr

/-- Paddock machinery (R432–R472): ports, functions, paddocks, the frame ownership table, the paddock maps by
`paddock * 8192 + index`, the targets of frames in SCRUB, and the quotas of R435. -/
structure PadMach where
  ups : Tab UpS := []
  fns : Tab FnS := []
  pads : Tab PadS := []
  fotInit : Option FotInit := none
  fot : Tab Word := []
  maps : Tab Word := []
  scrubTo : Tab Word := []
  full : Bool := false
  vfs0 : Nat := 0
  vfs1 : Nat := 0
  quotaMib : Nat := 0
  quota : Nat := 0
  hapOwner : Tab Nat := []
  asOwner : Tab Nat := []
  giving : Option Nat := none
deriving DecidableEq, Repr

/-- A pending entry of a core (R477, R479, R480): kind CALL with its recorded return and caller's mode, or kind INT. -/
inductive Entry where
  | call (ret : BitVec 64) (mode : Fin 4)
  | int
deriving DecidableEq, Repr

/-- A control core (R473–R481): its world; its registers at its last switch, exception or start, which a switch moves; the
shadow registers of the switch hardware; the pending entry; whether it is halted, a halt waits, it is stopped, or it waits in
a FOLD.RET of R497; and the last trap it took: in the Fold world, and its cause. -/
structure CoreS where
  fold : Bool := true
  regs : CoreFile := {}
  shadow : List (BitVec 64) := []
  entry : Option Entry := none
  halted : Bool := false
  haltAsked : Bool := false
  stopped : Bool := true
  waitStart : Bool := false
  trap : Option (Bool × Nat) := none
  long : Bool := false
deriving DecidableEq, Repr

/-- Fold lines and worlds beside their registers (R486–R497): the cores; the line being raised (Pasture, from, to in its
units); core masks and entries of the two parts; whether each part may run, and whether the moment of R99 for the Field part
has come; and the JTAG instruction in force (0 BYPASS, 1 IDCODE, 2 SAMPLE, 3 one that drives). `long` of a core: FOLD_LONG
was raised for this stay. -/
structure WldS where
  cores : Tab CoreS := []
  raising : Option (Bool × Nat × Nat) := none
  foldMask : Nat := 0
  fieldMask : Nat := 0
  foldEntry : BitVec 64 := 0
  fieldEntry : BitVec 64 := 0
  fieldReady : Bool := false
  foldPart : Bool := false
  fieldPart : Bool := false
  jtag : Nat := 0
deriving DecidableEq, Repr

/-- A SDG_TABLE entry other than a REPORT definition (R522). -/
structure SdgEntry where
  event : Nat
  block : Nat
  source : Nat
  stFrom : Nat
  stTo : Nat
  release : Nat
  holdMs : Nat
  actions : Nat
  report : Nat
deriving DecidableEq, Repr

/-- A REPORT definition of SDG_TABLE (R522). -/
structure ReportDef where
  controller : Nat
  flags : Nat
  id : Nat
  periodMs : Nat
deriving DecidableEq, Repr

/-- An event the Sheepdog matches against its table (R522, R523): `cls` is the class of a FAULT, and `page` the base of
the page of its source. -/
structure SdgEvent where
  event : Nat
  block : Nat
  source : Nat
  cls : Nat
  page : Nat
deriving DecidableEq, Repr

/-- An active entry (R523, R524). `key` is its index in the table, or 0x10003, 0x10004 and 0x10005 for the defaults of
R523 to an F3 fault, an F4 fault and a disagreement, and 0x10006 for a granted request of R519. `stTo` is its TO with the
floor applied; `event` the kind that made it active; `causes` the events that did. `heldDone`: HOLD_MS has passed;
`clear`: the cause has cleared; `asked`: the Fold part asked for the release; `served`: a restart has answered it;
`done`: that restart has reached "Firmware configured". -/
structure ActiveEntry where
  key : Nat
  stTo : Nat
  release : Nat
  holdMs : Nat
  actions : Nat
  report : Nat
  event : Nat
  causes : List SdgEvent
  heldDone : Bool
  clear : Bool
  asked : Bool
  served : Bool
  done : Bool
deriving DecidableEq, Repr

/-- An exchange of charge words that waits for its answer: the SEQ and the STATE byte sent (R514, R515). -/
structure Exchange where
  seq : Nat
  st : Nat
deriving DecidableEq, Repr

/-- The Sheepdog beside its registers (R507–R531). What names VAO is kept through a Dale reset (R514, R521, R525, R619).
`inReset`: the Dale die is in reset; `deadHeld`: the third lockstep reset of R521 holds it; `reload`: it starts again
under R520 while the Fell die runs (1 out of reset, 2 self-test done); `starting`: no exchange has agreed since the Fell
die was released; `fellHeld`: the Fell die is held in reset or loads; `waiting`: a restart waits for the budget of R525;
`counted`: the restart under way has been counted against that budget. -/
structure SdgS where
  inReset : Bool := true
  deadHeld : Bool := false
  reload : Nat := 0
  table : List (Nat × SdgEntry) := []
  defs : List ReportDef := []
  tableOn : Bool := false
  active : List ActiveEntry := []
  reports : List (FaultRep × Nat) := []
  heldEvents : List SdgEvent := []
  starting : Bool := true
  fellHeld : Bool := true
  waiting : Bool := false
  counted : Bool := true
  recovery : Bool := false
  agreeLeft : Nat := 0
  nextSeq : Nat := 0
  open_ : Option Exchange := none
  lastSent : Nat := 0
  lastAnswer : Nat := 0xFF
  differ : Nat := 0
  missed : Nat := 0
  declared : Bool := false
  suspended : Bool := true
  alive : Tab Nat := []
  causeBlock : Nat := 0xFF
  causeSource : Nat := 0xFF
  /-- VAO: EPOCH, the times of the restarts of R525 and of the lockstep resets of R521. -/
  vaoEpoch : Nat := 0
  vaoRestarts : List Nat := []
  vaoLocks : List Nat := []
  /-- The causes of R620 gathered for RST_CAUSE of the next Fell start. -/
  rstCause : Nat := 1
  /-- Heads whose check windows with REACTION 2 are latched (R315, R526). -/
  pinWindows : List Nat := []
deriving DecidableEq, Repr

/-- The Cairn recorder on VAO (R532–R537): the ring oldest first, the number of the next record, the count of Dale
resets, the records a freeze still accepts, the records lost, the export that runs with what it writes, and the time of
the last NOTE. -/
structure CairnS where
  ring : List CairnRec := []
  next : Nat := 1
  boot : Nat := 0
  post : Option Nat := none
  lost : Nat := 0
  exportAgain : Bool := false
  exporting : Option (Nat × List CairnRec) := none
  noteTime : Option Nat := none
deriving DecidableEq, Repr

/-- The Fell side of the tether (R510–R518, R680): the reports kept while the tether does not run and the number dropped,
the frame numbers expected next toward the Dale and the Fell die, the REPLAY count below 1,024, whether the Fell blocks are in
gather mode, the frames in a row that failed their check by direction, and whether the Dale has word that the charge runs. -/
structure TetS where
  queue : List (FaultRep × Nat) := []
  dropped : Nat := 0
  toDale : Option Nat := none
  toFell : Option Nat := none
  gather : Bool := true
  fails : Nat × Nat := (0, 0)
  runWord : Bool := false
deriving DecidableEq, Repr

/-- A CAN frame: header word as TX_HDR lays it out, DLC and data bytes (R541). -/
structure CanFrame where
  hdr : Word
  dlc : Nat
  bytes : List Byte
  report : Bool
deriving DecidableEq, Repr

/-- A CAN controller beside its registers (R527–R530). -/
structure CanS where
  txq : List CanFrame := []
  rx : List CanFrame := []
  /-- A swap or an open wire was found; off until ENABLE is written 0 and then 1 (R528). -/
  swapped : Bool := false
deriving DecidableEq, Repr

/-- Pasture beside its bytes and registers (R545–R558). `err` lists by word (offset ÷ 8) the words with an error: 1 a single
bit, 2 poisoned. `wb`: corrected words not yet written back. `row`: by bank, the row its test comes to next. `maps`: by bank,
the failed rows with the spare that serves each. `bad`: by bank, the retired spares. `done`: banks that have completed the
present pass. `latched`: by bank, a Field mode that HOLD has latched. `offWake`:
banks that wake from OFF, `retain`: those of them that RETAIN brings up. `err` 3 is the lasting mark of R554. -/
structure PstS where
  err : Tab Nat := []
  wb : List Nat := []
  row : Tab Nat := []
  maps : Tab (List (Nat × Nat)) := []
  bad : Tab (List Nat) := []
  done : List Nat := []
  latched : Tab (Option Nat) := []
  offWake : List Nat := []
  retain : List Nat := []
deriving DecidableEq, Repr

/-- A request to DRAM (R577, R583, R587): who asks; its requester in the isochronous lane, if any; its bulk port; the address asked
for and the place it reaches; its length and what it writes; its age stamp, the fabric cycle in which it reached its port; the
bursts of code lines it brings. `told`: DRV_STARVE was raised for it. `done`: it has read or written, `got` and `poison` what a
read found. -/
structure DramReq where
  who : Party
  src : Option IsoSrc
  port : Nat
  addr : Nat
  x : Nat
  len : Nat
  v : Option (List Byte)
  stamp : Nat
  code : Nat
  told : Bool := false
  done : Bool := false
  got : List Byte := []
  poison : Bool := false
deriving DecidableEq, Repr

/-- The DRAM controller and the Drover beside their registers (R565–R593). `err` lists by word (address ÷ 8) the words with
an error: 1 a single bit, 2 uncorrectable. `capacity`: installed capacity in bytes once the memory is known. `attempt` and
`stage`: by channel, the attempts made and the stage of R571 it trains. `win`: by channel, the isochronous bursts of the
window that runs. `maxBursts`: the largest count of a window in the sizing period, or since it began. `overMs`: ISO_OVER
has fired in this millisecond. `backoff`: by port × 8 + channel, 1 more than the exponent of the last
back-off, 0 at its minimum, and `backoffOn` while it runs. `mrWait`: the channel × 2 + rank of a mode-register read that waits
for a refresh. `mrs`: the values that the DRAM section gives mode registers, by channel × 64 + register; `swap`: its CH_SWAP
(R82, R567). `want`: density and ranks of the DRAM section; `reads`: those that each channel answered (R568). `zq`: the
latched ZQ results, by channel × 2 + rank. `rows`: the open row, by ((channel × 2 + rank) × 4 + bank group) × 4 + bank (R570,
R576). `t0`: the start of the training. `now`: the fabric cycles that have passed. `waiting`: the requests that wait at their
ports, in the order in which they came; `queue`: those that the channels' queues hold; `writing`: the channels that serve writes
(R577, R588). -/
structure DrcS where
  now : Nat := 0
  waiting : List DramReq := []
  queue : List DramReq := []
  writing : Tab Bool := []
  err : Tab Nat := []
  inlineEcc : Bool := false
  capacity : Nat := 0
  attempt : Tab Nat := []
  stage : Tab Nat := []
  win : Tab Nat := []
  maxBursts : Nat := 0
  overMs : Bool := false
  backoff : Tab Nat := []
  backoffOn : Tab Bool := []
  mrWait : Option Nat := none
  mrs : Tab (Option Nat) := []
  swap : List Nat := []
  want : Option (Nat × Nat) := none
  reads : Tab (Option (Nat × Nat)) := []
  zq : Tab Nat := []
  rows : Tab (Option Nat) := []
  refreshes : Nat := 0
  bursts : Nat := 0
  t0 : Nat := 0
deriving DecidableEq, Repr

/-- Block requests of one block code (R491, R492, R609–R611): what is in force, what is latched under HOLD, and the pages whose
RESTART waits for the clock. -/
structure BlkS where
  clkStopped : Bool := false
  pwrOff : Bool := false
  inRst : Bool := false
  heldClk : Bool := false
  heldPwr : Bool := false
  heldRst : Bool := false
  restarts : List Nat := []
deriving DecidableEq, Repr

/-- A rail monitor (R601, R602): the judgement (0 valid, 1 warning, 2 invalid), the runs of consecutive samples, the
lowest sample since the last read and the present one, in mV, and its counters. -/
structure RailS where
  judge : Nat := 2
  bad : Nat := 0
  warn : Nat := 0
  good : Nat := 0
  low : Int := 0
  now : Int := 0
  warns : Nat := 0
  invalids : Nat := 0
deriving DecidableEq, Repr

/-- Supplies and clocks beside their registers (R601–R616). `masked1`: warnings on rail 1 are masked for a raise; `raiseUs`: no
raise before this time (R606). `reason`: REASON of BLK_STAT; `acted`: requests acted on whose BLK_DONE is due. `held`: both dies
are held until every required rail is valid (R603); `rstLow`: RST_N is low; `vaoBad`: VAO has been invalid since the last
power-up (R521); `xtalLost`: the Fell crystal is lost; `unlocked`: PLLs out of lock, by their bit of CLK_STAT. -/
structure PwrS where
  rails : Tab RailS := []
  masked1 : Bool := false
  raiseUs : Option Nat := none
  reason : Nat := 0
  acted : Nat := 0
  held : Bool := true
  rstLow : Bool := false
  vaoBad : Bool := true
  xtalLost : Bool := false
  unlocked : List Nat := []
deriving DecidableEq, Repr

/-- Tally beside its registers (R625–R638): held COUNT_LO writes, by counter; the last capture of each page, with its counter;
the value each source gave last, for EDGE; and the sample FIFO, four words a record. -/
structure TlyS where
  held : Tab (Option Word) := []
  cap : Tab (Option (Nat × Nat)) := []
  prev : Tab Nat := []
  smp : List (List Word) := []
deriving DecidableEq, Repr

/-- Everything but the fuses and the queue of commands. -/
structure Dev where
  /-- Registers by address; an unlisted one holds its reset value. -/
  regs : Tab Word := []
  /-- µs since the first power-up of VAO, which is also CRN TIME (R532). -/
  us : Nat := 0
  /-- MODEL's own: how many free values have been taken. -/
  free : Nat := 0
  /-- MODEL's own: the data that the last read returned. -/
  resp : BitVec 64 := 0
  /-- MODEL's own: the messages put on the device's links, oldest first. -/
  out : List Out := []
  /-- MODEL's own: the fault sources that have fired in the command that runs, in the order they fired, with the base of their
  page and whether their report reaches the Sheepdog at once; empty between commands. -/
  firing : List (FaultRep × Nat × Bool) := []
  gp : Tab (Option GpPend) := []
  /-- Bits of a register that an upset has changed since its fields were written (R61). -/
  upset : Tab Nat := []
  iso : Tab Bool := []
  classDefer : Tab (Option Word) := []
  blk : Tab BlkS := []
  sdg : SdgS := {}
  cairn : CairnS := {}
  tet : TetS := {}
  can : Tab CanS := []
  wld : WldS := {}
  pwr : PwrS := {}
  pad : PadMach := {}
  pipes : Tab PipeS := []
  luts : Tab (Option Nat) := []
  lutHalf : Bool := false
  wbs : Tab WbS := []
  heads : Tab HeadS := []
  ports : Tab PortS := []
  /-- The profiles of TIMING: the seven words of H_TIMING1 to TIMING_FLAGS (R82, R177). -/
  profiles : Tab (List Word) := []
  cam : CamS := {}
  wins : Tab WinS := []
  ctxs : Tab CtxS := []
  gpu : GpuS := {}
  tch : TchS := {}
  keys : KeysS := {}
  hap : HapS := {}
  aud : AudS := {}
  afe : AfeS := {}
  pst : PstS := {}
  drc : DrcS := {}
  tly : TlyS := {}
  /-- MODEL's own: the bytes that the last memory read returned, and whether one of their words was poisoned. -/
  data : List Byte := []
  poisoned : Bool := false
  pasture : Mem := []
  dram : Mem := []
  nvm : Mem := []
  boot : BootS := {}
  nvmc : NvmS := {}
  xspi : XspiS := {}
deriving DecidableEq, Repr

/-- The fuses (R91–R95, R505, R681): they keep their value through every reset. -/
structure Fuses where
  lcState : Nat := 0
  svn : Nat := 0
  ownerKey : Nat := 0
  debug : Nat := 0xF
  serial : BitVec 64 := 0
deriving DecidableEq, Repr

/-- The state of the block: the device, its fuses, and the commands that wait, first in, first out. -/
structure State where
  dev : Dev := {}
  fuses : Fuses := {}
  pending : List Instr := []
deriving DecidableEq, Repr

/-- Why the machine stops with a fault. No command of this block stops it: where the spec names an error, the error is an
event, a status or a fault source of the device, which the command's meaning raises. So there is no constructor. -/
inductive Fault where
deriving DecidableEq, Repr

/-- Why a command is turned away without a meaning. -/
inductive Refusal where
  /-- The command has no meaning in this model yet (raised by the dispatch only; safe). -/
  | notModelled (mnemonic : String)
deriving DecidableEq, Repr

/-- The machine right after reset: every register at its reset value, nothing written to any memory, nothing in
progress, the Sheepdog in its start-up state and the queue empty. -/
def State.reset : State := {}

end Sys2Proof.Machine
end

