-- ==== Sys2Proof/Machine/Ops.lean ====
section
/-! DEFINITION. The named operations over the register file, the memories and the tables of the device: every read and
write of a register, of a byte and of a per-instance record goes through them. -/
namespace Sys2Proof.Machine

/-- A fault report takes its place among those of its cycle: by block code, then by source. A source fires once (R16). -/
def putFired (x : FaultRep × Nat × Bool) : List (FaultRep × Nat × Bool) → List (FaultRep × Nat × Bool)
  | [] => [x]
  | y :: l =>
    if y.2.1 = x.2.1 ∧ y.1.src = x.1.src then y :: l
    else if x.1.block < y.1.block ∨ (x.1.block = y.1.block ∧ x.1.src < y.1.src) then x :: y :: l
    else y :: putFired x l

/-- Reports of one cycle that go one way: each but the first is marked as of the same cycle as the one before. -/
def oneCycle (direct : Bool) (l : List (FaultRep × Nat × Bool)) : List (FaultRep × Nat) :=
  match (l.filter (fun x => x.2.2 == direct)).map (fun x => (x.1, x.2.1)) with
  | [] => []
  | x :: t => x :: t.map (fun y => ({ y.1 with same := true }, y.2))

/-- The fault sources that fired in a command have fired in one cycle: their reports leave together, each source once, those of
the Fell die that the tether does not carry into TET's queue of 256 (R16, R680). -/
def cycleEnd (d : Dev) : Dev :=
  if d.firing = [] then d else
  let l := d.firing.foldl (fun l x => putFired x l) []
  let q := d.tet.queue ++ oneCycle false l
  { d with
    firing := []
    sdg := { d.sdg with reports := d.sdg.reports ++ oneCycle true l }
    tet := { d.tet with queue := q.take 256, dropped := d.tet.dropped + (q.length - 256) } }

/-- A meaning that always has an effect: the device changes and its cycle ends; the fuses and the queue do not change. -/
def onDev (f : Dev → Dev) (s : State) : Host.Outcome State Fault Refusal := .next { s with dev := cycleEnd (f s.dev) }

/-- The register at offset `o` of a page. -/
def rg (d : Dev) (p : Page) (o : Nat) : Word := tabGet regReset d.regs (p.base + o)

/-- The device with the register at offset `o` of a page set. -/
def sg (p : Page) (o : Nat) (v : Word) (d : Dev) : Dev := { d with regs := tabSet regReset d.regs (p.base + o) v }

/-- Field `[hi:lo]` of a register. -/
def rf (d : Dev) (p : Page) (o hi lo : Nat) : Nat := fld (rg d p o) hi lo

/-- The device with field `[hi:lo]` of a register set. -/
def sf (p : Page) (o hi lo x : Nat) (d : Dev) : Dev := sg p o (setFld (rg d p o) hi lo x) d

/-- Bit `k` of a register. -/
def rb (d : Dev) (p : Page) (o k : Nat) : Bool := bitOf (rg d p o) k

/-- The device with bit `k` of a register set to `b`. -/
def sb (p : Page) (o k : Nat) (b : Bool) (d : Dev) : Dev := sf p o k k b.toNat d

/-- A counter in field `[hi:lo]` goes up by `n` and wraps. -/
def addTo (p : Page) (o hi lo n : Nat) (d : Dev) : Dev := sf p o hi lo (rf d p o hi lo + n) d

/-- A counter in field `[hi:lo]` goes up by one and wraps. -/
def bump (p : Page) (o hi lo : Nat) (d : Dev) : Dev := addTo p o hi lo 1 d

/-- A counter in field `[hi:lo]` goes up by one unless it is at its largest value. -/
def bumpSat (p : Page) (o hi lo : Nat) (d : Dev) : Dev :=
  if rf d p o hi lo = 2 ^ (hi + 1 - lo) - 1 then d else bump p o hi lo d

/-- A 64-bit register pair, the low word first. -/
def rg64 (d : Dev) (p : Page) (lo : Nat) : Nat := (rg d p lo).toNat + 2 ^ 32 * (rg d p (lo + 4)).toNat

/-- The device with a 64-bit register pair set. -/
def sg64 (p : Page) (lo x : Nat) (d : Dev) : Dev :=
  sg p (lo + 4) (BitVec.ofNat 32 (x / 2 ^ 32)) (sg p lo (BitVec.ofNat 32 x) d)

/-- The registers of `n` bytes of address space from `a` return to their reset values, with fresh parity. -/
def clearRegs (a n : Nat) (d : Dev) : Dev := { d with regs := tabClear d.regs a n, upset := tabClear d.upset a n }

/-- Every register of a page returns to its reset value. -/
def resetPage (p : Page) (d : Dev) : Dev := clearRegs p.base 0x1000 d

/-- The registers of a page beyond the header return to their reset values. -/
def resetPageBody (p : Page) (d : Dev) : Dev := clearRegs (p.base + 0x024) (0x1000 - 0x024) d

/-- A value that the spec leaves open, fresh each time (the counter names which). -/
def freshTag (d : Dev) : Nat := d.free

/-- The device after a free value has been taken. -/
def tick (d : Dev) : Dev := { d with free := d.free + 1 }

/-- A message leaves the device. -/
def emit (o : Out) (d : Dev) : Dev := { d with out := d.out ++ [o] }

/-- A page is isolated (R12). -/
def isoOf (d : Dev) (p : Page) : Bool := tabGet (fun _ => false) d.iso p.base

/-- Isolation of a page begins or ends. -/
def setIso (p : Page) (b : Bool) (d : Dev) : Dev := { d with iso := tabSet (fun _ => false) d.iso p.base b }

/-- The block requests in force and latched for a block code (R492, R611). -/
def blkOf (d : Dev) (code : Nat) : BlkS := tabGet (fun _ => {}) d.blk code

/-- The block requests of a code replaced. -/
def setBlk (code : Nat) (b : BlkS) (d : Dev) : Dev := { d with blk := tabSet (fun _ => {}) d.blk code b }

/-- The block requests of a code changed. -/
def modBlk (code : Nat) (f : BlkS → BlkS) (d : Dev) : Dev := setBlk code (f (blkOf d code)) d

/-- A block has a running clock, power and no reset request in force. -/
def blkRuns (d : Dev) (code : Nat) : Bool :=
  !(blkOf d code).clkStopped && !(blkOf d code).pwrOff && !(blkOf d code).inRst

/-- The function of a page's block stands: it is isolated, or its clock, power or reset has been taken by request (R611). -/
def stands (d : Dev) (p : Page) : Bool := isoOf d p || !blkRuns d p.code

/-- An upstream port. -/
def upOf (d : Dev) (u : Nat) : UpS := tabGet (fun _ => {}) d.pad.ups u
/-- An upstream port changed. -/
def modUp (u : Nat) (f : UpS → UpS) (d : Dev) : Dev :=
  { d with pad := { d.pad with ups := tabSet (fun _ => {}) d.pad.ups u (f (upOf d u)) } }
/-- A PCIe function: PF u is u, the VF of paddock p is 2 + p. -/
def fnOf (d : Dev) (f : Nat) : FnS := tabGet (fun _ => {}) d.pad.fns f
/-- A PCIe function changed. -/
def modFn (k : Nat) (f : FnS → FnS) (d : Dev) : Dev :=
  { d with pad := { d.pad with fns := tabSet (fun _ => {}) d.pad.fns k (f (fnOf d k)) } }
/-- A paddock. -/
def padOf (d : Dev) (p : Nat) : PadS := tabGet (fun _ => {}) d.pad.pads p
/-- A paddock changed. -/
def modPad (p : Nat) (f : PadS → PadS) (d : Dev) : Dev :=
  { d with pad := { d.pad with pads := tabSet (fun _ => {}) d.pad.pads p (f (padOf d p)) } }
/-- A CAN controller. -/
def canOf (d : Dev) (n : Nat) : CanS := tabGet (fun _ => {}) d.can n
/-- A CAN controller changed. -/
def modCan (n : Nat) (f : CanS → CanS) (d : Dev) : Dev := { d with can := tabSet (fun _ => {}) d.can n (f (canOf d n)) }
/-- A control core. -/
def coreOf (d : Dev) (n : Nat) : CoreS := tabGet (fun _ => {}) d.wld.cores n
/-- A control core changed. -/
def modCore (n : Nat) (f : CoreS → CoreS) (d : Dev) : Dev :=
  { d with wld := { d.wld with cores := tabSet (fun _ => {}) d.wld.cores n (f (coreOf d n)) } }
/-- A rail monitor. -/
def railOf (d : Dev) (i : Nat) : RailS := tabGet (fun _ => {}) d.pwr.rails i
/-- A rail monitor changed. -/
def modRail (i : Nat) (f : RailS → RailS) (d : Dev) : Dev :=
  { d with pwr := { d.pwr with rails := tabSet (fun _ => {}) d.pwr.rails i (f (railOf d i)) } }

/-- A layer pipe. -/
def pipeOf (d : Dev) (n : Nat) : PipeS := tabGet (fun _ => {}) d.pipes n
/-- A layer pipe changed. -/
def modPipe (n : Nat) (f : PipeS → PipeS) (d : Dev) : Dev := { d with pipes := tabSet (fun _ => {}) d.pipes n (f (pipeOf d n)) }
/-- A head. -/
def headOf (d : Dev) (n : Nat) : HeadS := tabGet (fun _ => {}) d.heads n
/-- A head changed. -/
def modHead (n : Nat) (f : HeadS → HeadS) (d : Dev) : Dev := { d with heads := tabSet (fun _ => {}) d.heads n (f (headOf d n)) }
/-- A writeback engine. -/
def wbOf (d : Dev) (n : Nat) : WbS := tabGet (fun _ => {}) d.wbs n
/-- A writeback engine changed. -/
def modWb (n : Nat) (f : WbS → WbS) (d : Dev) : Dev := { d with wbs := tabSet (fun _ => {}) d.wbs n (f (wbOf d n)) }
/-- An output port. -/
def portS (d : Dev) (n : Nat) : PortS := tabGet (fun _ => {}) d.ports n
/-- An output port changed. -/
def modPort (n : Nat) (f : PortS → PortS) (d : Dev) : Dev := { d with ports := tabSet (fun _ => {}) d.ports n (f (portS d n)) }
/-- A check window, by head × 16 + window. -/
def winOf (d : Dev) (k : Nat) : WinS := tabGet (fun _ => {}) d.wins k
/-- A check window changed. -/
def modWin (k : Nat) (f : WinS → WinS) (d : Dev) : Dev := { d with wins := tabSet (fun _ => {}) d.wins k (f (winOf d k)) }
/-- A GPU context. -/
def ctxOf (d : Dev) (n : Nat) : CtxS := tabGet (fun _ => {}) d.ctxs n
/-- A GPU context changed. -/
def modCtx (n : Nat) (f : CtxS → CtxS) (d : Dev) : Dev := { d with ctxs := tabSet (fun _ => {}) d.ctxs n (f (ctxOf d n)) }
/-- The GPU changed. -/
def modGpu (f : GpuS → GpuS) (d : Dev) : Dev := { d with gpu := f d.gpu }
/-- A touch panel. -/
def tpOf (d : Dev) (n : Nat) : TpS := tabGet (fun _ => {}) d.tch.panels n
/-- Touch changed. -/
def modTch (f : TchS → TchS) (d : Dev) : Dev := { d with tch := f d.tch }
/-- A touch panel changed. -/
def modTp (n : Nat) (f : TpS → TpS) (d : Dev) : Dev :=
  modTch (fun t => { t with panels := tabSet (fun _ => {}) t.panels n (f (tpOf d n)) }) d
/-- A report ring. -/
def ringOf (d : Dev) (k : Nat) : RingS := tabGet (fun _ => {}) d.tch.rings k
/-- A report ring changed. -/
def modRing (k : Nat) (f : RingS → RingS) (d : Dev) : Dev :=
  modTch (fun t => { t with rings := tabSet (fun _ => {}) t.rings k (f (ringOf d k)) }) d
/-- A bezel key. -/
def keyOf (d : Dev) (k : Nat) : KeyS := tabGet (fun _ => {}) d.keys.keys k
/-- The keys changed. -/
def modKeys (f : KeysS → KeysS) (d : Dev) : Dev := { d with keys := f d.keys }
/-- A bezel key changed. -/
def modKey (k : Nat) (f : KeyS → KeyS) (d : Dev) : Dev :=
  modKeys (fun t => { t with keys := tabSet (fun _ => {}) t.keys k (f (keyOf d k)) }) d
/-- The haptic block changed. -/
def modHap (f : HapS → HapS) (d : Dev) : Dev := { d with hap := f d.hap }
/-- A haptic channel. -/
def hapChOf (d : Dev) (n : Nat) : HapChS := tabGet (fun _ => {}) d.hap.chs n
/-- A haptic channel changed. -/
def modHapCh (n : Nat) (f : HapChS → HapChS) (d : Dev) : Dev :=
  modHap (fun h => { h with chs := tabSet (fun _ => {}) h.chs n (f (hapChOf d n)) }) d
/-- The Fell side of the audio hub changed. -/
def modAud (f : AudS → AudS) (d : Dev) : Dev := { d with aud := f d.aud }
/-- An audio route. -/
def routeS (d : Dev) (r : Nat) : RouteS := tabGet (fun _ => {}) d.aud.routes r
/-- An audio route changed. -/
def modRoute (r : Nat) (f : RouteS → RouteS) (d : Dev) : Dev :=
  modAud (fun a => { a with routes := tabSet (fun _ => {}) a.routes r (f (routeS d r)) }) d
/-- A tenant stream. -/
def asOf (d : Dev) (n : Nat) : AsS := tabGet (fun _ => {}) d.aud.streams n
/-- A tenant stream changed. -/
def modAs (n : Nat) (f : AsS → AsS) (d : Dev) : Dev :=
  modAud (fun a => { a with streams := tabSet (fun _ => {}) a.streams n (f (asOf d n)) }) d
/-- A rate domain. -/
def domOf (d : Dev) (n : Nat) : DomS := tabGet (fun _ => {}) d.aud.doms n
/-- A rate domain changed. -/
def modDom (n : Nat) (f : DomS → DomS) (d : Dev) : Dev :=
  modAud (fun a => { a with doms := tabSet (fun _ => {}) a.doms n (f (domOf d n)) }) d
/-- The Dale side of the audio hub changed. -/
def modAfe (f : AfeS → AfeS) (d : Dev) : Dev := { d with afe := f d.afe }
/-- A side-tone route. -/
def stOf (d : Dev) (k : Nat) : StS := tabGet (fun _ => {}) d.afe.st k
/-- A side-tone route changed. -/
def modSt (k : Nat) (f : StS → StS) (d : Dev) : Dev :=
  modAfe (fun a => { a with st := tabSet (fun _ => {}) a.st k (f (stOf d k)) }) d
/-- A speaker. -/
def spkOf (d : Dev) (k : Nat) : SpkS := tabGet (fun _ => {}) d.afe.spk k
/-- A speaker changed. -/
def modSpk (k : Nat) (f : SpkS → SpkS) (d : Dev) : Dev :=
  modAfe (fun a => { a with spk := tabSet (fun _ => {}) a.spk k (f (spkOf d k)) }) d
/-- The camera inputs changed. -/
def modCam (f : CamS → CamS) (d : Dev) : Dev := { d with cam := f d.cam }
/-- A camera stream. -/
def streamOf (d : Dev) (n : Nat) : StreamS := tabGet (fun _ => {}) d.cam.streams n
/-- A camera stream changed. -/
def modStream (n : Nat) (f : StreamS → StreamS) (d : Dev) : Dev :=
  modCam (fun c => { c with streams := tabSet (fun _ => {}) c.streams n (f (streamOf d n)) }) d
/-- A dewarp engine. -/
def dwOf (d : Dev) (n : Nat) : DwS := tabGet (fun _ => {}) d.cam.dws n
/-- A dewarp engine changed. -/
def modDw (n : Nat) (f : DwS → DwS) (d : Dev) : Dev :=
  modCam (fun c => { c with dws := tabSet (fun _ => {}) c.dws n (f (dwOf d n)) }) d

/-- The Sheepdog changed. -/
def modSdg (f : SdgS → SdgS) (d : Dev) : Dev := { d with sdg := f d.sdg }
/-- Cairn changed. -/
def modCairn (f : CairnS → CairnS) (d : Dev) : Dev := { d with cairn := f d.cairn }
/-- The Fell side of the tether changed. -/
def modTet (f : TetS → TetS) (d : Dev) : Dev := { d with tet := f d.tet }
/-- The paddock machinery changed. -/
def modMach (f : PadMach → PadMach) (d : Dev) : Dev := { d with pad := f d.pad }
/-- The worlds changed. -/
def modWld (f : WldS → WldS) (d : Dev) : Dev := { d with wld := f d.wld }

/-- A byte of Pasture; a byte nothing has written since the zeroing of R547 is zero. -/
def pastByte (d : Dev) (a : Nat) : Byte := tabGet (fun _ => 0) d.pasture a
/-- A byte written to Pasture. -/
def setPast (a : Nat) (b : Byte) (d : Dev) : Dev := { d with pasture := tabSet (fun _ => 0) d.pasture a b }
/-- A byte of DRAM; DRAM is zeroed after training (R571). -/
def dramByte (d : Dev) (a : Nat) : Byte := tabGet (fun _ => 0) d.dram a
/-- A byte written to DRAM. -/
def setDram (a : Nat) (b : Byte) (d : Dev) : Dev := { d with dram := tabSet (fun _ => 0) d.dram a b }
/-- A byte of the NVM; an erased byte reads 0xFF. -/
def nvmByte (d : Dev) (a : Nat) : Byte := tabGet (fun _ => 0xFF) d.nvm a
/-- A byte written to the NVM. -/
def setNvm (a : Nat) (b : Byte) (d : Dev) : Dev := { d with nvm := tabSet (fun _ => 0xFF) d.nvm a b }

/-- Consecutive bytes read through a byte read. -/
def readBytes (rd : Nat → Byte) : Nat → Nat → List Byte
  | _, 0 => []
  | a, n + 1 => rd a :: readBytes rd (a + 1) n

/-- Consecutive bytes written through a byte write. -/
def writeBytes (wr : Nat → Byte → Dev → Dev) : Nat → List Byte → Dev → Dev
  | _, [], d => d
  | a, b :: bs, d => writeBytes wr (a + 1) bs (wr a b d)

/-- Bytes of the NVM whose content the spec leaves open: a failed or cut operation leaves them undefined (R607). -/
def nvmUndefined (a n : Nat) (d : Dev) : Dev :=
  tick (writeBytes setNvm a ((List.range n).map (fun i => Config.freeByte d.free i)) d)

/-- A program or an erase that is cut short leaves its sector undefined (R607). -/
def nvmCmdCut (d : Dev) : Dev :=
  match d.nvmc.cmd with
  | some c => if !d.nvmc.waits && (c.1 == 2 || c.1 == 3) then nvmUndefined (c.2 / 0x10000 * 0x10000) 0x10000 d else d
  | none => d

/-- An action repeated for the indices below `n`, in rising order. -/
def forN (f : Nat → Dev → Dev) (n : Nat) (d : Dev) : Dev := (List.range n).foldl (fun d i => f i d) d

/-- An action that happens under a condition. -/
def when (c : Bool) (f : Dev → Dev) (d : Dev) : Dev := if c then f d else d

/-- The junction limit of the grade in °C (R1, R676). -/
def junctionLimit : Int := if Config.gradeE then 125 else 105

/-- TEMP of the Dale die (R396). -/
def daleTemp (d : Dev) : Int := signed 8 (rf d (.hap 0) Reg.Hap.HAP_THERM 31 24)

/-- A rail is judged invalid, or reads reversed (R602, R603). -/
def railBad (d : Dev) (i : Nat) : Bool := (railOf d i).judge == 2 || decide ((railOf d i).now < 0)

end Sys2Proof.Machine
end

