-- ==== Sys2Proof/Machine/Fault.lean ====
section
/-! DEFINITION. Events, interrupts and MSI-X messages, fault sources with their classes, isolation, and the fault
reports that go to the Sheepdog (R12–R16, R46, R47, R55, R465, R680). -/
namespace Sys2Proof.Machine

/-- The interrupt of a page is asserted: EVENT and EVENT_EN have a bit in common (R55). -/
def irqOn (d : Dev) (p : Page) : Bool := fld (rg d p Reg.EVENT &&& rg d p Reg.EVENT_EN) 23 0 != 0

/-- The upstream port whose image partition holds a paddock, if any (R84, R432). -/
def portOf (d : Dev) (p : Nat) : Option Nat :=
  if p < d.pad.vfs0 then some 0 else if p < d.pad.vfs0 + d.pad.vfs1 then some 1 else none

/-- The VF of a paddock exists: VF Enable is set and NumVFs covers it (R432). -/
def vfLive (d : Dev) (p : Nat) : Bool :=
  match portOf d p with
  | none => false
  | some u => (upOf d u).vfEnable && decide (p - (if u = 0 then 0 else d.pad.vfs0) < (upOf d u).numVfs)

/-- The page with the MSI-X table and PBA of a function (R466). -/
def msixPage (fn : Nat) : Page := if fn < 2 then .padg (14 + fn) else .pset (fn - 2) 15

/-- A vector may be sent: Bus Master Enable and MSI-X Enable are set and neither mask is (R434). -/
def msixOpen (d : Dev) (fn v : Nat) : Bool :=
  (fnOf d fn).bme && (fnOf d fn).msixEn && !(fnOf d fn).msixMask && !rb d (msixPage fn) (Reg.MSIX_CTRL v) 0

/-- The MSI-X message of a vector is sent, or stays pending in the PBA (R434, R465). A VF that does not exist sends none. -/
def sendMsix (fn v : Nat) (d : Dev) : Dev :=
  if 2 ≤ fn ∧ vfLive d (fn - 2) = false then d
  else if msixOpen d fn v then
    emit (.msix fn v (rg64 d (msixPage fn) (Reg.MSIX_ADDR_LO v)) (rg d (msixPage fn) (Reg.MSIX_DATA v)))
      (sb (msixPage fn) Reg.PBA v false d)
  else sb (msixPage fn) Reg.PBA v true d

/-- The window of a paddock that a resource page stands in: the first of four bytes of a register that names it. -/
def windowByte (w : Word) (n first : Nat) : Option Nat :=
  ((List.range 4).find? (fun k => fld w (8 * k + 7) (8 * k) == n)).map (fun k => first + k)

/-- The function and vector that the interrupt of a page goes to, if any (R465): a page of a page set, a resource page leased
into a window (R438), or a manager's MGR page. -/
def vectorOf (d : Dev) (pg : Page) : Option (Nat × Nat) :=
  let q := rf d pg Reg.OWNER 9 0
  let leased := rf d pg Reg.OWNER 17 16 == 3
  match pg with
  | .pset p k => if k ≤ 13 then some (2 + p, k) else none
  | .padg k => if k < 2 then some (k, 0) else none
  | .ctx n => if leased then (windowByte (rg d (.pset q 0) Reg.Pad.WINDOW_CTX) n 2).map (fun v => (2 + q, v)) else none
  | .pipe i => if leased then (windowByte (rg d (.pset q 0) Reg.Pad.WINDOW_PIPE) i 6).map (fun v => (2 + q, v)) else none
  | .stream n =>
    if leased ∧ rg d (.pset q 0) Reg.Pad.WINDOW_STREAM = BitVec.ofNat 32 (0x80 + n) then some (2 + q, 10) else none
  | _ => none

/-- The interrupt of a page goes from deasserted to asserted: it signals through its MSI-X vector, or stands until a core
takes it (R465, R482). -/
def irqRise (pg : Page) (d : Dev) : Dev :=
  match vectorOf d pg with
  | some (fn, v) => sendMsix fn v d
  | none => d

/-- A change of the EVENT or EVENT_EN word of a page, with the message that an assertion sends and the withdrawal of a
pending bit that a deassertion brings. -/
def withIrq (p : Page) (f : Dev → Dev) (d : Dev) : Dev :=
  if irqOn d p = irqOn (f d) p then f d
  else if irqOn (f d) p then irqRise p (f d)
  else match vectorOf (f d) p with
    | some (fn, v) => sb (msixPage fn) Reg.PBA v false (f d)
    | none => f d

/-- Event `k` of a page (R46, R55). -/
def event (p : Page) (k : Nat) (d : Dev) : Dev :=
  withIrq p (fun d => sg p Reg.EVENT (sqEvent (rg d p Reg.EVENT) k) d) d

/-- The class in which a source of a page reacts (R14, R15, R47). -/
def classOf (d : Dev) (p : Page) (src : Nat) : Nat :=
  p.adjustClass src (rf d p Reg.FAULT_CLASS (3 * src + 2) (3 * src))

/-- The tether carries frames: it is in RUN, and its page is not isolated (R12, R511, R539). -/
def tetUp (d : Dev) : Bool := rf d .tet Reg.Tet.TET_STAT 1 0 == 2 && !isoOf d .tet

/-- A fault report leaves the block: over the tether when the source is on the Fell die and the tether runs, or else into
the queue that TET keeps; a source on the Dale die reports directly (R680). -/
def sendReport (onDale : Bool) (page : Nat) (r : FaultRep) (d : Dev) : Dev :=
  { d with firing := d.firing ++ [(r, page, onDale || tetUp d)] }

/-- The state of a context and its wait cause (R261). -/
def ctxState (n st cause : Nat) (d : Dev) : Dev :=
  sf (.ctx n) Reg.Ctx.CTX_STAT 7 4 cause (sf (.ctx n) Reg.Ctx.CTX_STAT 3 0 st d)

/-- A context stops where it stands: its waves, waits, saves and translation requests end (R262, R290). -/
def ctxHalt (n : Nat) (d : Dev) : Dev :=
  modGpu (fun g => { g with reqs := g.reqs.filter (fun r => r.ctx != n) })
    (modCtx n (fun c => { c with want := 0, partialOn := false, fence := none, callWait := false, transWait := false, work := false,
                                 stopping := false, stopped := false, called := false, drain := none, saving := false
                                 closing := false, waves := [], slots := [] }) d)

/-- STATE of a port in LINK_STAT (R214). -/
def linkState (d : Dev) (n : Nat) : Nat := rf d (.port n) Reg.Port.LINK_STAT 3 0

/-- The AUX request that waits is sent, unless a training runs or the AUX pair is shorted. A port with its PHY powered down, or
with HPD low, has nothing to send it with (R203–R206). -/
def auxSend (n : Nat) (d : Dev) : Dev :=
  match (portS d n).aux with
  | some v =>
    if (portS d n).auxOut ∨ linkState d n = 2 ∨ rf d (.port n) Reg.Port.SHORT_STAT 9 8 ≠ 0 then d
    else if (portS d n).mode = 0 ∨ rb d (.port n) Reg.Port.LINK_STAT 31 = false then
      modPort n (fun s => { s with auxOut := true, auxMute := true }) d
    else
      let len := fld v 11 8 + 1
      let data := ((List.range 4).map (fun i => wordBytes (rg d (.port n) (Reg.Port.AUX_DATA i)))).flatten.take len
      emit (.aux n (fld v 3 0) (rf d (.port n) Reg.Port.AUX_ADDR 19 0) len (if bitOf v 0 then [] else data))
        (modPort n (fun s => { s with auxOut := true }) d)
  | none => d

/-- A port's STATE; its stream stops, the link counts as trained or not, and an AUX request that waited for a training is sent
when that ends (R203, R214). -/
def setPort (n st : Nat) (trained : Bool) (d : Dev) : Dev :=
  auxSend n (sb (.port n) Reg.Port.LINK_STAT 30 trained
    (sb (.port n) Reg.Port.LINK_STAT 29 false (sf (.port n) Reg.Port.LINK_STAT 3 0 st d)))

/-- What the status registers show of an isolated block (R209, R251, R252, R261, R296, R331, R369, R425). -/
def isoStatus (b : Bool) : Page → Dev → Dev
  | .head n, d => sb (.head n) Reg.Head.HEAD_STAT 21 b d
  | .stream n, d => sb (.stream n) Reg.Stream.STREAM_STAT 26 b d
  | .dw n, d => sb (.dw n) Reg.Dw.DW_STAT 29 b d
  | .gpu, d => sb .gpu Reg.Gpu.GPU_STAT 14 b d
  | .port n, d =>
    if b then setPort n 6 false d else d
  | .ctx n, d => if b then ctxState n 8 0 (ctxHalt n d) else ctxState n 0 0 d
  | .lg n, d => sf (.lg n) Reg.Lg.LG_STAT 2 0 (if b then 5 else 0) d
  | .panel n, d =>
    sb (.panel n) Reg.Panel.PANEL_STAT 31 false (sf (.panel n) Reg.Panel.PANEL_STAT 30 28 (if b then 4 else 0) d)
  | .afe 0, d =>
    forN (fun o d =>
      if rb d (.afe 0) (Reg.Afe0.SPK_CFG o) 31 then sf (.afe 0) (Reg.Afe0.SPK_STAT o) 30 28 (if b then 4 else 1) d else d) 4 d
  | .cam, d => forN (fun k => sb .cam (Reg.Cam.CSI_STAT k) 28 b) 4 d
  | _, d => d

/-- The block of a page is isolated (R12): the mark, its status bit, and a pipe's own event (R169). What each block
stops doing while it is isolated stands in the meanings of its chapter. -/
def isolateOne (p : Page) (d : Dev) : Dev :=
  let d := isoStatus true p (setIso p true d)
  match p with
  | .pipe i => event (.pipe i) Reg.Pipe.EV_ISOLATED d
  | _ => d

/-- A fault source of a page fires in its class: the report leaves with the block's EVENT value and HEAD0's frame number,
and at F2 and above `iso` isolates the block (R12, R13, R16, R533). -/
def fireWith (iso : Page → Dev → Dev) (p : Page) (src : Nat) (d : Dev) : Dev :=
  let r : FaultRep := { block := p.code, src := src, cls := classOf d p src, event := rg d p Reg.EVENT,
                        frame := rg d (.head 0) Reg.Head.FRAME_COUNT }
  let d2 := sendReport p.onDale p.base r d
  if 2 ≤ r.cls then iso p d2 else d2

/-- A context faults (R262, R299): FAULT_INFO and FAULT_ADDR, the state FAULTED, and the source CTX_FAULT. An isolated
context stays as it is. -/
def ctxFault (n reason detail addr : Nat) (d : Dev) : Dev :=
  if rf d (.ctx n) Reg.Ctx.CTX_STAT 3 0 = 8 then d
  else
    let d := sg64 (.ctx n) Reg.Ctx.FAULT_ADDR_LO addr
      (sg (.ctx n) Reg.Ctx.FAULT_INFO (BitVec.ofNat 32 (detail % 65536 * 65536 + reason)) d)
    fireWith isolateOne (.ctx n) Reg.Ctx.SRC_CTX_FAULT
      (event (.ctx n) Reg.Ctx.EV_CTX_FAULT (ctxState n 7 0 (ctxHalt n d)))

/-- Every context that is not isolated faults, in gather mode or with the GPU's isolation (R290). -/
def ctxFaultAll (reason : Nat) (d : Dev) : Dev := forN (fun n d => ctxFault n reason 0 0 d) 64 d

/-- The block of a page is isolated; with the GPU page, every context faults (R290). -/
def isolate (p : Page) (d : Dev) : Dev :=
  match p with
  | .gpu => ctxFaultAll 13 (isolateOne .gpu d)
  | p => isolateOne p d

/-- A fault source of a page fires in its class. -/
def fireSource (p : Page) (src : Nat) (d : Dev) : Dev := fireWith isolate p src d

/-- A fault source with an EVENT bit fires: the bit is set first (R12, R46). -/
def raiseFault (p : Page) (src bit : Nat) (d : Dev) : Dev := fireSource p src (event p bit d)

/-- RESTART relocks the PLL that an isolated block had lost (R616): its bit of CLK_STAT. -/
def relock (p : Page) (d : Dev) : Dev :=
  let back := fun (l : List Nat) => { d with pwr := { d.pwr with unlocked := d.pwr.unlocked.filter (fun b => !l.contains b) } }
  match p with
  | .gpu => back [3]
  | .tch => back [4]
  | .aud _ => back [5, 6]
  | _ => d

/-- Isolation of a page ends by its owner's restart, and a FAULT_CLASS write made meanwhile takes effect (R15, R64). -/
def endIsoNow (p : Page) (d : Dev) : Dev :=
  let d1 := relock p (isoStatus false p (setIso p false d))
  match tabGet (fun _ => none) d1.classDefer p.base with
  | none => d1
  | some v => { sg p Reg.FAULT_CLASS v d1 with
      classDefer := tabSet (fun _ => none) d1.classDefer p.base none
      upset := tabSet (fun _ => 0) d1.upset (p.base + Reg.FAULT_CLASS) 0 }

/-- RESTART of a block: its isolation ends, or will end when its clock runs again (R611). -/
def endIso (p : Page) (d : Dev) : Dev :=
  if (blkOf d p.code).clkStopped then modBlk p.code (fun b => { b with restarts := b.restarts ++ [p.base] }) d else endIsoNow p d

/-- An access is refused: EVENT.ACCESS_REFUSED and the fault source of the same name (R45). -/
def accessRefused (p : Page) (d : Dev) : Dev := raiseFault p Reg.SRC_ACCESS_REFUSED Reg.EV_ACCESS_REFUSED d

/-- A guarded-pair failure (R59): EVENT.GUARD_FAIL, the guard-fail counter and the source GUARD_FAIL. -/
def guardFail (p : Page) (d : Dev) : Dev :=
  raiseFault p Reg.SRC_GUARD_FAIL Reg.EV_GUARD_FAIL (bump p Reg.STAT_COUNT 15 0 d)

end Sys2Proof.Machine
end

