-- ==== Sys2Proof/Machine/Sdg.lean ====
section
/-! DEFINITION. Cairn, the Sheepdog's state table, the charge state, the gather wire and the fault pins: the shared
operations of "The Sheepdog, the Tether and Cairn" (R507–R542), which the commands of that chapter and of others call. -/
namespace Sys2Proof.Machine

/-! ## Cairn -/

/-- The bytes of a record (R532), the CRC of R70 last. -/
def CairnRec.bytes (r : CairnRec) : List Byte :=
  let b := leBytes 4 r.seq ++ leBytes 6 r.time ++ leBytes 2 r.boot ++ leBytes 1 r.block ++ leBytes 1 r.source ++
    leBytes 1 r.cls ++ leBytes 1 r.kind ++ leBytes 1 r.stFrom ++ leBytes 1 r.stTo ++ leBytes 2 r.entry ++
    leBytes 4 r.d0 ++ leBytes 4 r.d1
  b ++ wordBytes (crcFold r.seq b)

/-- The number after a record's number: it wraps from 0xFFFF_FFFF to 1 (R532). -/
def cairnSucc (n : Nat) : Nat := if n = 0xFFFFFFFF then 1 else n + 1

/-- CRN_STAT shows the recorder. -/
def cairnShow (d : Dev) : Dev :=
  sf (.crn 0) Reg.Crn0.CRN_STAT 15 0 d.cairn.lost
    (sb (.crn 0) Reg.Crn0.CRN_STAT 31 d.cairn.post.isSome
      (sg (.crn 1) Reg.Crn1.CRN_NEXT (BitVec.ofNat 32 d.cairn.next) d))

/-- A record is dropped and counted; the source CRN_LOST fires, but not for the loss of its own record (R534, R540). -/
def cairnLose (own : Bool) (d : Dev) : Dev :=
  let d := cairnShow (modCairn (fun c => { c with lost := (c.lost + 1) % 65536 }) d)
  if own then d else fireSource (.crn 0) Reg.Crn0.SRC_CRN_LOST d

/-- A record is written to the ring of 2,048, or dropped once a freeze has accepted its last record (R532, R534). -/
def cairnPut (r : CairnRec) (d : Dev) : Dev :=
  if d.cairn.post = some 0 then
    cairnLose (r.block == 0xF1 && r.source == Reg.Crn0.SRC_CRN_LOST && r.kind == 1) d
  else
    let ring := d.cairn.ring ++ [r]
    cairnShow (modCairn (fun c => { c with ring := ring.drop (ring.length - 2048), next := cairnSucc c.next,
                                           post := c.post.map (fun n => n - 1) }) d)

/-- A record of the present moment. -/
def cairnNow (d : Dev) (block source cls kind : Nat) (stFrom stTo entry d0 d1 : Nat) : CairnRec :=
  { seq := d.cairn.next, time := d.us % 2 ^ 48, boot := d.cairn.boot % 65536, block := block, source := source % 256,
    cls := cls, kind := kind, stFrom := stFrom, stTo := stTo, entry := entry, d0 := d0, d1 := d1 }

/-- A freeze starts: POST_COUNT further records are accepted. A trigger during a freeze changes nothing (R534). -/
def cairnFreeze (d : Dev) : Dev :=
  if d.cairn.post.isSome then d
  else event (.crn 0) Reg.Crn0.EV_FROZEN
    (cairnShow (modCairn (fun c => { c with post := some (rf d (.crn 0) Reg.Crn0.CRN_CFG 10 0) }) d))

/-- A freeze ends (R534). -/
def cairnUnfreeze (d : Dev) : Dev := cairnShow (modCairn (fun c => { c with post := none }) d)

/-- The first byte of sector `k` of the dump area (R68, R535). -/
def dumpBase (k : Nat) : Nat := 0x04000000 + k * 0x10000

/-- The first 32-byte slot of a dump sector. -/
def dumpSlot (d : Dev) (k : Nat) : List Byte := readBytes (nvmByte d) (dumpBase k) 32

/-- A slot reads 0xFF in every byte: its sector counts as erased (R535). -/
def slotErased (b : List Byte) : Bool := b.all (· == 0xFF)

/-- A slot's record passes its CRC. -/
def slotGood (b : List Byte) : Bool := leNat (b.drop 28) == (crcFold (leNat (b.take 4)) (b.take 28)).toNat

/-- Frame number or SEQ `a` is later than `b` (R10). -/
def laterThan (a b : Nat) : Bool :=
  let x := (a + 2 ^ 32 - b % 2 ^ 32) % 2 ^ 32
  x != 0 && decide (x < 2 ^ 31)

/-- The sector an export takes: the lowest erased one, or the lowest whose first record fails its CRC, or the one whose
SEQ is oldest (R535). -/
def dumpSector (d : Dev) : Nat :=
  match (List.range 4).find? (fun k => slotErased (dumpSlot d k)) with
  | some k => k
  | none =>
    match (List.range 4).find? (fun k => !slotGood (dumpSlot d k)) with
    | some k => k
    | none =>
      let seq := fun k => leNat ((dumpSlot d k).take 4)
      [1, 2, 3].foldl (fun m k => if laterThan (seq m) (seq k) then k else m) 0

/-- An export starts, or is performed once after the one that runs, or waits for an NVM command and for "Fell die
released" (R535). It waits for no command that the isolation of the NVM page has stopped (R12). -/
def cairnExport (d : Dev) : Dev :=
  if d.cairn.exporting.isSome || (d.nvmc.cmd.isSome && !isoOf d .nvm) || decide (d.boot.stage < 7) then
    modCairn (fun c => { c with exportAgain := true }) d
  else
    let d1 := modCairn (fun c => { c with exporting := some (dumpSector d, c.ring), exportAgain := false }) d
    sb (.crn 0) Reg.Crn0.CRN_STAT 29 false (sb (.crn 0) Reg.Crn0.CRN_STAT 30 true d1)

/-- An export that waited starts when nothing holds it back any more (R535). -/
def cairnExportDue (d : Dev) : Dev := if d.cairn.exportAgain then cairnExport d else d

/-! ## The charge state -/

/-- The state the Sheepdog holds (R507): the register field. -/
def chargeState (d : Dev) : Nat := rf d .sdg Reg.Sdg.SDG_STATE 1 0

/-- The severity an active entry counts for: RESTART counts as GATHER until HOLD_MS has passed; TO 0xFF leaves the state
as it is (R522, R524). -/
def ActiveEntry.level (a : ActiveEntry) : Nat :=
  if a.stTo = 3 then (if a.heldDone then 3 else 2) else if a.stTo = 0xFF then 0 else a.stTo

/-- A Fell rail holds the Fell die in reset (R531, R604): one of the rails 0–8 is judged invalid. -/
def railHold (d : Dev) : Bool := (List.range 9).any (fun i => (railOf d i).judge == 2)

/-- The state that follows from the active entries and from what the Sheepdog itself is doing: RESTART while the Fell
die is held in reset or starts, until the first agreeing exchange (R509, R525, R531), and in the recovery state (R102);
GATHER while a restart waits for its budget (R525), and after the Sheepdog's own reset until ten exchanges agree
(R521). -/
def stateTarget (d : Dev) : Nat :=
  let g := d.sdg
  if g.recovery then 3
  else if g.waiting then 2
  else if g.starting || g.fellHeld then 3
  else g.active.foldl (fun m a => max m a.level) (if g.agreeLeft = 0 then 0 else 2)

/-- The OR of the active entries' ACTIONS (R524). -/
def actionsNow (d : Dev) : Nat := d.sdg.active.foldl (fun m a => m ||| a.actions) 0

/-- nFAULT_A and nFAULT_B as R526 gives them (NFAULT, R538). -/
def showPins (d : Dev) : Dev :=
  let a := decide (2 ≤ chargeState d) || (actionsNow d).testBit 0 || d.sdg.inReset || d.sdg.recovery
  let b := (actionsNow d).testBit 1 || !d.sdg.pinWindows.isEmpty || d.sdg.inReset || d.sdg.recovery
  sg .sdg Reg.Sdg.NFAULT (BitVec.ofNat 32 (a.toNat + 2 * b.toNat)) d

/-- A REPORT's eight bytes (R529); `alive` is the number of this REPORT. -/
def reportBytes (d : Dev) (r : ReportDef) (alive : Nat) : List Byte :=
  let b := leBytes 1 (chargeState d) ++ leBytes 1 d.sdg.causeBlock ++ leBytes 1 d.sdg.causeSource ++
    leBytes 1 (rf d .sdg Reg.Sdg.NFAULT 1 0) ++ leBytes 1 d.sdg.active.length ++ leBytes 1 alive
  b ++ leBytes 2 (crc16 (leBytes 4 r.id ++ b)).toNat

/-- REPORT definition `k` is queued on its controller ahead of every software frame; a definition that names a
controller that is not enabled is not sent and does not count (R529). -/
def sendReportDef (k : Nat) (d : Dev) : Dev :=
  match d.sdg.defs[k]? with
  | none => d
  | some r =>
    if !rb d (.can r.controller) Reg.Can.CAN_CTRL 0 then d
    else
      let n := tabGet (fun _ => 0) d.sdg.alive k
      let hdr := setFld (setFld (setFld (0 : Word) 28 0 r.id) 29 29 r.flags) 30 30 (r.flags / 2)
      let fr : CanFrame := { hdr := hdr, dlc := 8, bytes := reportBytes d r n, report := true }
      let d1 := modSdg (fun g => { g with alive := tabSet (fun _ => 0) g.alive k ((n + 1) % 256) }) d
      modCan r.controller (fun c =>
        let reps := c.txq.takeWhile (·.report)
        { c with txq := reps ++ fr :: c.txq.drop reps.length }) d1

/-- The REPORT definitions that a list of entries names: those with ACTIONS bit 2 and a REPORT index (R529). -/
def reportsOf (as : List ActiveEntry) : List Nat :=
  ((as.filter (fun a => a.actions.testBit 2 && a.report != 0xFF)).map (·.report)).eraseDups

/-- The GPU cap, the haptics switch and the mutes of ACTIONS are read where they act; the actions that start something,
freezing and exporting Cairn, are taken when an entry becomes active (R522). -/
def startActions (a : ActiveEntry) (d : Dev) : Dev :=
  let d := when (a.actions.testBit 3) cairnFreeze d
  when (a.actions.testBit 4) cairnExport d

/-- The charge state is recomputed (R524). A change is recorded in Cairn, shown in SDG_STATE and SDG_CAUSE, counted,
freezes Cairn when AUTO_FREEZE is set, drives or releases the gather wire and the fault pins, and sends REPORTs; a
change of the active entries alone also sends them (R529). `entry` (0xFFFF and above: none of the table) and `kind` go
to SDG_CAUSE, `cause` is DETAIL0 of the STATE record, and `gone` are the entries just released. -/
def recompute (key kind cause : Nat) (changed : Bool) (gone : List ActiveEntry) (d : Dev) : Dev :=
  let entry := min key 0xFFFF
  let old := chargeState d
  let new := stateTarget d
  let d := sf .sdg Reg.Sdg.SDG_STATE 25 16 d.sdg.active.length d
  if old = new then
    let d := showPins d
    if changed then (reportsOf (d.sdg.active ++ gone)).foldl (fun d k => sendReportDef k d) d else d
  else
    let d := sf .sdg Reg.Sdg.SDG_STATE 1 0 new d
    let d := sb .sdg Reg.Sdg.SDG_STATE 4 (decide (2 ≤ new)) d
    let d := sg .sdg Reg.Sdg.SDG_CAUSE (BitVec.ofNat 32 (entry + kind * 65536)) d
    let d := when (decide (old < 2 ∧ 2 ≤ new)) (bump .sdg Reg.Sdg.SDG_COUNT 23 16) d
    let d := cairnPut (cairnNow d 0xF0 0xFF 0xFF 3 old new entry cause d.sdg.vaoEpoch) d
    let d := when (decide (2 ≤ new) && rb d (.crn 0) Reg.Crn0.CRN_CFG 31) cairnFreeze d
    let d := event .sdg Reg.Sdg.EV_STATE_CHANGE d
    let d := showPins d
    (reportsOf (d.sdg.active ++ gone)).foldl (fun d k => sendReportDef k d) d

/-! ## Restart of the Fell die -/

/-- The entries of a table whose keys are addresses of Dale-die pages. -/
def keepDale {α : Type} (t : Tab α) : Tab α := t.filter (fun e => decide (0x48000000 ≤ e.1 ∧ e.1 < 0x50000000))

/-- Fell-die state after its reset: every Fell page, memory and engine at its reset values, with the Dale die, the VAO
domain, the rails, the wire and PERST_N of the ports as they were (R459, R618, R619). -/
def fellResetState (d : Dev) : Dev :=
  { ({} : Dev) with
    us := d.us, free := d.free, resp := d.resp, out := d.out, data := d.data, poisoned := d.poisoned
    firing := d.firing.filter (·.2.2)
    regs := keepDale d.regs, gp := keepDale d.gp, upset := keepDale d.upset, iso := keepDale d.iso
    classDefer := keepDale d.classDefer
    sdg := { d.sdg with pinWindows := [] }, cairn := d.cairn, can := d.can, 
    pwr := { ({} : PwrS) with rails := d.pwr.rails, held := d.pwr.held, rstLow := d.pwr.rstLow, vaoBad := d.pwr.vaoBad
                              xtalLost := d.pwr.xtalLost }
   , keys := d.keys, hap := d.hap, afe := d.afe, nvm := d.nvm, nvmc := d.nvmc, boot := d.boot
    tet := { ({} : TetS) with gather := true }
    pad := { ({} : PadMach) with ups := d.pad.ups.map (fun e => (e.1, { ({} : UpS) with perst := e.2.perst })) } }

/-- The 64 KiB sector at an NVM address is erased. -/
def nvmErase (a : Nat) (d : Dev) : Dev := { d with nvm := tabClear d.nvm a 0x10000 }

/-- An NVM program or erase, or an export, that a reset of the Dale die cuts short leaves its sector undefined (R607). -/
def nvmCut (d : Dev) : Dev :=
  let d := nvmCmdCut d
  match d.cairn.exporting with
  | some e => nvmUndefined (dumpBase e.1) 0x10000 d
  | none => d

/-- The entries of a table whose keys are addresses of Fell-die pages. -/
def keepFell {α : Type} (t : Tab α) : Tab α := t.filter (fun e => !decide (0x48000000 ≤ e.1 ∧ e.1 < 0x50000000))

/-- Registers of Dale-die pages on VAO: TAMPER_CFG, TAMPER_STAT, TAMPER_COUNT and KEY0–KEY7 (R505, R619), and SDG_COUNT,
which counts the resets of the Dale die itself (R538). -/
def onVao (a : Nat) : Bool :=
  let o := a - Page.base .lcs
  decide (Page.base .lcs ≤ a) && (o == Reg.Lcs.TAMPER_CFG || o == Reg.Lcs.TAMPER_STAT || o == Reg.Lcs.TAMPER_COUNT ||
    decide (Reg.Lcs.KEY 0 ≤ o ∧ o < Reg.Lcs.KEY 8)) || a == Page.base .sdg + Reg.Sdg.SDG_COUNT

/-- Dale-die state after its reset: every Dale page and engine at its reset values; the VAO domain, the NVM's content,
the fuses and the whole Fell die are kept (R520, R619). `lock` is set for the reset that R521 makes last. -/
def daleResetState (lock : Bool) (d : Dev) : Dev :=
  let g := d.sdg
  let live := !g.fellHeld
  cairnShow { d with
    regs := d.regs.filter (fun e => !decide (0x48000000 ≤ e.1 ∧ e.1 < 0x50000000) || onVao e.1)
    gp := keepFell d.gp, upset := keepFell d.upset, iso := keepFell d.iso, classDefer := keepFell d.classDefer
    can := [], keys := {}, hap := {}, afe := {}, nvmc := {}, firing := d.firing.filter (fun x => !x.2.2)
    cairn := { d.cairn with boot := d.cairn.boot + 1, exporting := none, exportAgain := false, noteTime := none }
    sdg := { ({} : SdgS) with
      deadHeld := lock, fellHeld := g.fellHeld, starting := g.starting, counted := g.counted
      agreeLeft := if live then 10 else 0, suspended := g.suspended, pinWindows := g.pinWindows
      vaoEpoch := g.vaoEpoch, vaoRestarts := g.vaoRestarts, vaoLocks := g.vaoLocks
      rstCause := if live then 0 else g.rstCause ||| 0x4 } }

/-- The Dale die is put in reset: the tether is down and the gather wire and both fault pins are active (R20, R520). A
Fell die that has not been released starts again with it; beside a running one the device's state is kept until the
Sheepdog runs again and takes it to GATHER (R507, R521). -/
def holdDale (lock : Bool) (d : Dev) : Dev :=
  let live := !d.sdg.fellHeld
  let st := chargeState d
  let d := when live (sf .sdg Reg.Sdg.SDG_STATE 1 0 st) (daleResetState lock (nvmCut d))
  let d := showPins (sg .tet Reg.Tet.TET_STAT (setFld (rg d .tet Reg.Tet.TET_STAT &&& 0x60000000) 1 0 0) d)
  if live then d else { fellResetState d with boot := { ({} : BootS) with t0 := d.us, devStart := d.boot.devStart } }

/-- The Fell die is put in reset for the causes of RST_CAUSE given (R525, R531, R618, R620): exchanges are suspended, and
EPOCH rises unless the die was held already (R514). -/
def holdFell (causes : Nat) (d : Dev) : Dev :=
  let g := d.sdg
  let d := modSdg (fun g => { g with
    fellHeld := true, starting := true, suspended := true, open_ := none, differ := 0, missed := 0, declared := false
    agreeLeft := 0, counted := if g.fellHeld then g.counted else false
    vaoEpoch := if g.fellHeld then g.vaoEpoch else g.vaoEpoch + 1
    rstCause := (if g.fellHeld then g.rstCause else 0) ||| causes }) d
  let d := sf .sdg Reg.Sdg.CHARGE_SEQ 31 16 d.sdg.vaoEpoch d
  if g.fellHeld then d
  else fellResetState { d with boot := { ({} : BootS) with t0 := d.us, devStart := d.boot.devStart } }

/-- The restarts of the last 60 s (R525). -/
def recentRestarts (d : Dev) : Nat := (d.sdg.vaoRestarts.filter (fun t => decide (d.us < t + 60000000))).length

/-- A restart counts against the budget (R525, R531). -/
def countRestart (d : Dev) : Dev :=
  bump .sdg Reg.Sdg.SDG_COUNT 31 24
    (modSdg (fun g => { g with counted := true, waiting := false, vaoRestarts := g.vaoRestarts ++ [d.us] }) d)

/-- A tamper or life-cycle wipe is under way (R501); the restart that ends it is not. -/
def wiping (d : Dev) : Bool := decide (1 ≤ rf d .lcs Reg.Lcs.WIPE_STAT 3 0 ∧ rf d .lcs Reg.Lcs.WIPE_STAT 3 0 ≤ 3)

/-- A restart of the Fell die is due: it begins and counts, or waits for the budget with the device in GATHER (R525). A
restart that comes due while the die is held is served by that reset (R620), and one that comes due during a wipe
follows it (R501). -/
def restartDue (causes : Nat) (d : Dev) : Dev :=
  if d.sdg.fellHeld then modSdg (fun g => { g with rstCause := g.rstCause ||| causes }) d
  else if wiping d then d
  else if 3 ≤ recentRestarts d then modSdg (fun g => { g with waiting := true }) d
  else countRestart (holdFell causes d)

/-- An active entry calls for a restart: its TO is RESTART, its HOLD_MS has passed, and no restart has answered it. -/
def ActiveEntry.due (a : ActiveEntry) : Bool := a.stTo == 3 && a.heldDone && !a.served

/-- The RST_CAUSE bits of a fault cause: XTAL, PLL and TAMPER beside F4_FAULT (R622). -/
def SdgEvent.rst (v : SdgEvent) : Nat :=
  if v.event = 1 ∧ v.cls = 4 then
    0x10 + (if v.page = (Page.sys 2).base ∧ v.source = Reg.Sys2.SRC_XTAL_FELL then 0x100
            else if v.page = (Page.sys 2).base ∧ v.source = Reg.Sys2.SRC_PLL_CORE then 0x200
            else if v.block = 0xF7 ∧ v.source = Reg.Lcs.SRC_TAMPER then 0x80 else 0)
  else 0

/-- The RST_CAUSE bits of the restart that an active entry calls for (R622). -/
def ActiveEntry.rst (a : ActiveEntry) : Nat :=
  let f := a.causes.foldl (fun m v => m ||| v.rst) 0
  if f ≠ 0 then f else if a.key = 0x10006 then 0x20 else 0x40

/-- The RST_CAUSE bits of every entry that calls for a restart now. -/
def dueCauses (d : Dev) : Nat := (d.sdg.active.filter (·.due)).foldl (fun m a => m ||| a.rst) 0

/-- The state after an event changed the active entries: the restart that is called for, and the state recomputed (R524,
R525). -/
def settle (key kind cause : Nat) (gone : List ActiveEntry) (d : Dev) : Dev :=
  let d := when (d.sdg.active.any (·.due) && !d.sdg.waiting) (restartDue (dueCauses d)) d
  recompute key kind cause true gone d

/-! ## Matching events -/

/-- An entry applies to an event in a state (R522, R523). -/
def SdgEntry.applies (e : SdgEntry) (st : Nat) (v : SdgEvent) : Bool :=
  e.event == v.event && (e.block == 0xFF || e.block == v.block) && (e.source == 0xFF || e.source == v.source) &&
    e.stFrom.testBit st

/-- The least TO that the event's kind and class call for (R523). -/
def SdgEvent.floor (v : SdgEvent) : Nat :=
  if v.event = 1 then (if v.cls = 4 then 3 else if v.cls = 3 then 2 else 0) else if v.event = 3 then 2 else 0

/-- A TO raised to a floor. -/
def raiseTo (dest floor : Nat) : Nat := if floor = 0 then dest else if dest = 0xFF then floor else max dest floor

/-- The entry that a default of R523 makes active. -/
def SdgEvent.dflt (v : SdgEvent) : ActiveEntry :=
  { key := if v.event = 3 then 0x10005 else if v.floor = 3 then 0x10004 else 0x10003
    stTo := v.floor, release := if v.floor = 3 ∨ v.event = 3 then 0 else 3, holdMs := 0, actions := 0, report := 0xFF
    event := v.event, causes := [v], heldDone := true, clear := false, asked := false, served := false, done := false }

/-- The entry an event makes active, if any: the first that applies, or the default of R523. -/
def matchEvent (d : Dev) (v : SdgEvent) : Option ActiveEntry :=
  match d.sdg.table.find? (fun e => e.2.applies (chargeState d) v) with
  | some (i, e) =>
    some { key := i, stTo := raiseTo e.stTo v.floor, release := e.release, holdMs := e.holdMs, actions := e.actions,
           report := e.report, event := v.event, causes := [v], heldDone := decide (e.holdMs = 0),
           clear := v.event == 4, asked := false, served := false, done := false }
  | none => if v.floor = 0 then none else some v.dflt

/-- An entry that is active already takes a further cause: it keeps its place and the time it became active. -/
def ActiveEntry.again (b a : ActiveEntry) : ActiveEntry :=
  { b with stTo := if b.stTo = 0xFF then a.stTo else if a.stTo = 0xFF then b.stTo else max b.stTo a.stTo
           causes := b.causes ++ a.causes.filter (fun v => !b.causes.contains v)
           clear := a.clear, served := false, done := false }

/-- An entry becomes active (R523). -/
def activate (a : ActiveEntry) (d : Dev) : Dev :=
  modSdg (fun g =>
    if g.active.any (fun b => b.key == a.key) then
      { g with active := g.active.map (fun b => if b.key == a.key then b.again a else b) }
    else { g with active := g.active ++ [a] }) d

/-- The entry may be released (R524, R525): HOLD_MS has passed, and its release condition holds or its restart is done.
An entry with TO RESTART goes only with its restart. -/
def ActiveEntry.mayGo (a : ActiveEntry) : Bool :=
  a.heldDone && (a.done || (a.stTo != 3 &&
    ((a.clear && (a.release == 1 || a.release == 3)) || (a.asked && (a.release == 2 || a.release == 3)))))

/-- The entries whose release has come leave, and the state follows (R524). `cause` is 2 for a release and 3 for a
restart done. -/
def releaseDue (cause : Nat) (d : Dev) : Dev :=
  match d.sdg.active.filter (·.mayGo) with
  | [] => recompute 0xFFFF 0 cause false [] d
  | a :: as =>
    settle ((a :: as).getLast?.map (·.key) |>.getD 0xFFFF) 0 cause (a :: as)
      (modSdg (fun g => { g with active := g.active.filter (fun a => !a.mayGo) }) d)

/-- The bytes 1 and 2 of a REPORT for an event (R529). -/
def noteCause (v : SdgEvent) (d : Dev) : Dev :=
  modSdg (fun g => { g with
    causeBlock := if v.event = 1 then v.block else if v.event = 2 then 0xF6 else 0xF0,
    causeSource := if v.event = 3 then 0xFF else v.source }) d

/-- The entry an event of a cycle makes active: a default of R523 acts only for the highest floor of the cycle's events,
`top` (R16). -/
def matchTop (d : Dev) (top : Nat) (v : SdgEvent) : Option ActiveEntry :=
  (matchEvent d v).filter (fun a => a.key < 0x10000 || v.floor == top)

/-- The entry of greatest TO among those that a cycle makes active, the first of them. -/
def leadEntry (a : ActiveEntry) (as : List ActiveEntry) : ActiveEntry :=
  as.foldl (fun m b => if m.level < b.level then b else m) a

/-- The event of the highest floor in a cycle, the first of them. -/
def leadEvent (v : SdgEvent) (vs : List SdgEvent) : SdgEvent := vs.foldl (fun m w => if m.floor < w.floor then w else m) v

/-- The Sheepdog takes the events `v` and `vs` of one cycle: they are matched, or held until the table is applied (R509, R520,
R523), and the state follows once for all of them (R16). A Sheepdog in reset takes none. An entry that a new event makes
active and that may go at once goes again. -/
def takeEvents (v : SdgEvent) (vs : List SdgEvent) (d : Dev) : Dev :=
  if d.sdg.inReset then d
  else
    let d := noteCause (leadEvent v vs) d
    if !d.sdg.tableOn then modSdg (fun g => { g with heldEvents := g.heldEvents ++ v :: vs }) d
    else
      match (v :: vs).filterMap (matchTop d (leadEvent v vs).floor) with
      | [] => d
      | a :: as =>
        let d := (a :: as).foldl (fun d a =>
          let new := !d.sdg.active.any (fun b => b.key == a.key)
          when new (startActions a) (activate a d)) d
        let d := settle (leadEntry a as).key (leadEntry a as).event 1 [] d
        if d.sdg.active.any (·.mayGo) then releaseDue 2 d else d

/-- The Sheepdog takes an event. -/
def takeEvent (v : SdgEvent) (d : Dev) : Dev := takeEvents v [] d

/-- SDG_TABLE is applied, and the events held since the Sheepdog ran are matched in order (R509). -/
def applyTable (table : List (Nat × SdgEntry)) (defs : List ReportDef) (refused : Nat) (d : Dev) : Dev :=
  let held := d.sdg.heldEvents
  let d := modSdg (fun g => { g with table := table, defs := defs, tableOn := true, heldEvents := [] }) d
  let d := sg .sdg Reg.Sdg.SDG_TABLE_STAT (BitVec.ofNat 32 ((table.length + defs.length) * 65536 + refused)) d
  held.foldl (fun d v => takeEvent v d) d

/-- The Sheepdog writes the fault reports of one cycle to Cairn, each by itself and in their order, and matches those of F1 and
above (R12, R16, R523). -/
def takeReports (rs : List (FaultRep × Nat)) (d : Dev) : Dev :=
  let d := rs.foldl (fun d x => cairnPut (cairnNow d x.1.block x.1.src x.1.cls 1 (chargeState d) (chargeState d) 0xFFFF
    x.1.event.toNat x.1.frame.toNat) d) d
  match (rs.filter (fun x => x.1.cls != 0)).map (fun x =>
      { event := 1, block := x.1.block, source := x.1.src, cls := x.1.cls, page := x.2 : SdgEvent }) with
  | [] => d
  | v :: vs => takeEvents v vs d

/-! ## Gather -/

/-- The gather wire is driven (R517): SDG_STATE.GATHER_WIRE, or the Dale die in reset (R20). -/
def gatherWire (d : Dev) : Bool := rb d .sdg Reg.Sdg.SDG_STATE 4 || d.sdg.inReset

/-- A charge word (R514): SEQ, STATE, SOURCE, EPOCH and the CRC of R70 over them. -/
def charge12 (seq st source epoch : Nat) : List Byte :=
  let b := leBytes 2 seq ++ leBytes 1 st ++ leBytes 1 source ++ leBytes 4 epoch
  b ++ wordBytes (crcFold seq b)

end Sys2Proof.Machine
end

