-- ==== Sys2Proof/Machine/Access.lean ====
section
/-! DEFINITION. Who may reach a register page: ownership, the routes of managers and paddocks, windows, and the checks
that every register access passes before it takes effect (R37–R45, R50–R60, R438, R439, R512, R611). -/
namespace Sys2Proof.Machine

/-- OWNER.KIND of a party (R43). -/
def partyKind : Party → Nat
  | .fold => 0
  | .field => 1
  | .manager _ => 2
  | .paddock _ => 3

/-- OWNER.TAG of a party (R43). -/
def partyTag : Party → Nat
  | .fold => 0
  | .field => 0
  | .manager u => u.val
  | .paddock p => p.val

/-- KIND and TAG as OWNER holds them. -/
def ownerCode (kind tag : Nat) : Nat := kind * 65536 + tag

/-- The KIND and TAG of the owner of a page (R43). -/
def ownerOf (d : Dev) (p : Page) : Nat := ownerCode (rf d p Reg.OWNER 17 16) (rf d p Reg.OWNER 9 0)

/-- A party is the owner of a page. -/
def isOwner (d : Dev) (p : Page) (by_ : Party) : Bool := ownerOf d p == ownerCode (partyKind by_) (partyTag by_)

/-- The page is owned by the Fold part, the Field part, or a paddock. -/
def ownedByFold (d : Dev) (p : Page) : Bool := ownerOf d p == 0
def ownedByField (d : Dev) (p : Page) : Bool := ownerOf d p == ownerCode 1 0

/-- The state code of a paddock (R458). -/
def padState (d : Dev) (p : Nat) : Nat := rf d (.pset p 0) Reg.Pad.PAD_STAT 2 0

/-- The resource page leased into a window page of a paddock's page set, if any (R437, R438, R469). -/
def windowTarget (d : Dev) (p k : Nat) : Option Page :=
  if 2 ≤ k ∧ k ≤ 5 then
    let n := rf d (.pset p 0) Reg.Pad.WINDOW_CTX (8 * (k - 2) + 7) (8 * (k - 2))
    if n < 64 then some (.ctx n) else none
  else if 6 ≤ k ∧ k ≤ 9 then
    let n := rf d (.pset p 0) Reg.Pad.WINDOW_PIPE (8 * (k - 6) + 7) (8 * (k - 6))
    if n < 64 then some (.pipe n) else none
  else if k = 10 then
    if rb d (.pset p 0) Reg.Pad.WINDOW_STREAM 7 then some (.stream (rf d (.pset p 0) Reg.Pad.WINDOW_STREAM 3 0)) else none
  else none

/-- A resource page stands in one of a paddock's windows. -/
def inWindow (d : Dev) (p : Nat) (r : Page) : Bool := (List.range 9).any (fun i => windowTarget d p (i + 2) == some r)

/-- The manager of a paddock's port. -/
def managesPad (d : Dev) (u p : Nat) : Bool := portOf d p == some u

/-- The gate registers that the gate map gives to the manager for writes (R471). -/
def gateManagerWrites (o : Nat) : Bool :=
  o == Reg.Gate.UP_RPTR || o == Reg.Gate.DOWN_WPTR || decide (0x300 ≤ o ∧ o < 0x400)

/-- The gate registers that a manager may read: those that the gate map marks for it, and the read-only counters, which it
marks for neither party (R471). -/
def gateManagerReads (o : Nat) : Bool :=
  gateManagerWrites o || o == Reg.Gate.UP_VPTR || o == Reg.Gate.DOWN_VPTR || o == Reg.Gate.GATE_COUNT || decide (0x200 ≤ o ∧ o < 0x300)

/-- The gate registers that the gate map gives to the paddock for writes (R471). -/
def gatePaddockWrites (o : Nat) : Bool :=
  o == Reg.Gate.UP_WPTR || o == Reg.Gate.DOWN_RPTR || decide (0x200 ≤ o ∧ o < 0x300)

/-- The registers that only the Fold world may write: FAULT_CLASS (R47), HOLD (R48), and the Fold ring of TCH (R368),
which no other party reaches at all. -/
def foldOnly (p : Page) (o : Nat) (wr : Bool) : Bool :=
  (wr && (o == Reg.FAULT_CLASS || o == Reg.HOLD)) || (p == .tch && decide (0x048 ≤ o ∧ o ≤ 0x05C))

/-- An access that a chapter grants to a party that is not the page's owner (R45, R439, R466, R471). -/
def granted (d : Dev) (p : Page) (by_ : Party) (o : Nat) (wr : Bool) : Bool :=
  match p, by_ with
  | .pset q 0, .manager u => managesPad d u.val q && !wr
  | .pset q 1, .manager u => managesPad d u.val q && (if wr then gateManagerWrites o else gateManagerReads o)
  | .padg 2, .manager _ => !wr
  | _, _ => false

/-- Within its own gate page a paddock writes only the registers the map marks for it (R471). -/
def gateBarred (p : Page) (by_ : Party) (o : Nat) (wr : Bool) : Bool :=
  match p, by_ with
  | .pset _ 1, .paddock _ => wr && (o == Reg.Gate.UP_RPTR || o == Reg.Gate.DOWN_WPTR || decide (0x300 ≤ o ∧ o < 0x400))
  | _, _ => false

/-- The ownership check of R45, with HOLD readable by every party that reaches the page. -/
def mayAccess (d : Dev) (p : Page) (by_ : Party) (o : Nat) (wr : Bool) : Bool :=
  by_ == .fold || (!foldOnly p o wr && !gateBarred p by_ o wr &&
    (isOwner d p by_ || granted d p by_ o wr || (o == Reg.HOLD && !wr)))

/-- The Dale die cannot be reached: the tether does not run, or the die is in reset (R512). -/
def daleAbsent (d : Dev) : Bool := d.sdg.inReset || !tetUp d

/-- A block code of one block whose requests R610 lists; several pages may carry it. -/
def blkDead (d : Dev) (p : Page) (wr : Bool) : Bool :=
  (blkOf d p.code).pwrOff || (wr && (blkOf d p.code).inRst)

/-- Any access to a page other than the GUARD write intervenes in a pending guarded pair (R59, R60). -/
def gpIntervene (p : Page) (d : Dev) : Dev :=
  match tabGet (fun _ => none) d.gp p.base with
  | none => d
  | some _ => guardFail p { d with gp := tabSet (fun _ => none) d.gp p.base none }

/-- An access to a Dale-die page that cannot be delivered (R512). -/
def daleAbsentEvent (d : Dev) : Dev := event .tet Reg.Tet.EV_DALE_ABSENT d

/-- How a party comes to a page that a command names. A party of the two worlds reaches every page; a manager its PAD
global pages and the page sets of its paddocks with the resources in their windows, where R45 grants it little; a paddock its
own page set and the resources in its windows (R38–R40, R437, R438). -/
inductive Route where
  | direct
  | unleased (p : Nat)
  | void
  | otherPort (u : Nat)
  | nowhere
deriving DecidableEq, Repr

/-- The route of a party to a page. -/
def routeOf (d : Dev) (by_ : Party) (p : Page) : Route :=
  match by_ with
  | .fold => .direct
  | .field => .direct
  | .manager u =>
    match p with
    | .padg _ => .direct
    | .pset q _ => if portOf d q == some (1 - u.val) then .otherPort u.val else .direct
    | r => if (List.range 512).any (fun q => managesPad d u.val q && inWindow d q r) then .direct else .nowhere
  | .paddock q =>
    match p with
    | .pset q' _ => if q' = q.val then (if padState d q.val = 0 then .void else .direct) else .nowhere
    | r => if padState d q.val = 0 then .void else if inWindow d q.val r then .direct else .unleased q.val

/-- The checks that an access to offset `o` of a page passes: the answer says whether it is granted, and the device
carries the events of a refusal (R39, R45, R59, R438, R439, R512, R611). -/
def access (by_ : Party) (p : Page) (o : Nat) (wr : Bool) (d : Dev) : Bool × Dev :=
  match routeOf d by_ p with
  | .nowhere => (false, d)
  | .void => (false, d)
  | .unleased q => (false, accessRefused (.pset q 0) d)
  | .otherPort u => (false, accessRefused (.padg u) d)
  | .direct =>
    if p.onDale && daleAbsent d then (false, daleAbsentEvent d)
    else if blkDead d p wr then (false, d)
    else
      let d := gpIntervene p d
      if mayAccess d p by_ o wr then (true, d) else (false, accessRefused p d)

/-- An action of a register write takes place if the access passes its checks. -/
def onWrite (by_ : Party) (p : Page) (o : Nat) (act : Dev → Dev) (d : Dev) : Dev :=
  let r := access by_ p o true d
  if r.1 then act r.2 else r.2

/-- An action of a register read, which answers a word; a refused read answers 0. -/
def onRead (by_ : Party) (p : Page) (o : Nat) (act : Dev → Word × Dev) (d : Dev) : Dev :=
  let r := access by_ p o false d
  if r.1 then
    let x := act r.2
    { x.2 with resp := x.1.setWidth 64 }
  else { r.2 with resp := 0 }

/-- Work that a paddock hands in while it is not OPEN is refused and counted (R460). -/
def intakeRefused (p : Nat) (d : Dev) : Dev :=
  event (.pset p 0) Reg.Pad.EV_INTAKE_REFUSED (bump (.pset p 0) Reg.Pad.INTAKE_COUNT 15 0 d)

/-- Work is taken from a paddock only while the paddock is OPEN (R460). -/
def intake (by_ : Party) (act : Dev → Dev) (d : Dev) : Dev :=
  match by_ with
  | .paddock p => if padState d p.val = 1 then act d else intakeRefused p.val d
  | _ => act d

/-- A stored register value: the writable bits of `v`, the other bits as they are. -/
def maskIn (old v : Word) (mask : Nat) : Word :=
  (old &&& ~~~ BitVec.ofNat 32 mask) ||| (v &&& BitVec.ofNat 32 mask)

/-- The writable bits of a register. -/
def maskOf (p : Page) (o : Nat) : Nat := match p.row? o with | some r => r.mask | none => 0

/-- A plain write of a register: reserved bits are ignored, and the fresh value carries fresh parity (R53, R54, R61). -/
def plainWrite (p : Page) (o : Nat) (v : Word) (d : Dev) : Dev :=
  { sg p o (maskIn (rg d p o) v (maskOf p o)) d with upset := tabSet (fun _ => 0) d.upset (p.base + o) 0 }

/-- A write of an RWL register: dropped with LOCKED_WRITE while OWNER.LOCK is set (R53, R65). -/
def lockedWrite (p : Page) (o : Nat) (v : Word) (d : Dev) : Dev :=
  if rb d p Reg.OWNER 31 then event p Reg.EV_LOCKED_WRITE d else plainWrite p o v d

/-- A GP write: its value is held pending (R59); an earlier pending value has failed as the access intervened. -/
def gpWrite (by_ : Party) (p : Page) (o : Nat) (v : Word) (d : Dev) : Dev :=
  { d with gp := tabSet (fun _ => none) d.gp p.base (some { off := o, val := v, party := by_ }) }

/-- A sequence-clear write to EVENT or PARITY_STAT (R56, R57). -/
def sqWrite (p : Page) (o : Nat) (v : Word) (d : Dev) : Dev :=
  match sqClear (rg d p o) v with
  | some w => withIrq p (sg p o w) d
  | none => bump p Reg.STAT_COUNT 31 16 d

end Sys2Proof.Machine
end

