-- ==== Sys2Proof/Machine/Memory.lean ====
section
/-! DEFINITION. The two memories and the checks that every access to them passes: the frame ownership table, the paddock
maps, the fold lines, ECC and poison (R319, R320, R440–R442, R475, R543–R546, R557, R579–R582). -/
namespace Sys2Proof.Machine

/-! ## Frame ownership and paddock maps -/

/-- KIND of a frame of the ownership table (R440). -/
def fkFree : Nat := 0
def fkFold : Nat := 1
def fkField : Nat := 2
def fkManager : Nat := 3
def fkPaddock : Nat := 4
def fkDevice : Nat := 5
def fkAbsent : Nat := 6
def fkScrub : Nat := 7

/-- An entry of the frame ownership table (R440). -/
def fotWord (kind tag pindex : Nat) : Word := BitVec.ofNat 32 (kind * 2 ^ 28 + tag % 1024 * 2 ^ 16 + pindex % 8192)

/-- What the firmware set entry `f` to at "DRAM trained"; ABSENT before (R440). -/
def fotDefault (init : Option FotInit) (f : Nat) : Word :=
  match init with
  | none => fotWord fkAbsent 0 0
  | some i =>
    if i.usable ≤ f then fotWord fkAbsent 0 0
    else if f < i.fold then fotWord fkFold 0 0
    else if i.devLo ≤ f then fotWord fkDevice 0 0
    else if (i.fieldLo ≤ f ∧ f < i.fieldHi) ∨ (i.tcLo ≤ f ∧ f < i.tcHi) then fotWord fkField 0 0
    else fotWord fkFree 0 0

/-- An entry of the frame ownership table. -/
def fotGet (d : Dev) (f : Nat) : Word :=
  if f < 16384 then tabGet (fotDefault d.pad.fotInit) d.pad.fot f else fotWord fkAbsent 0 0

/-- An entry of the frame ownership table set. -/
def fotSet (f : Nat) (w : Word) (d : Dev) : Dev :=
  modMach (fun m => { m with fot := tabSet (fotDefault m.fotInit) m.fot f w }) d

/-- KIND, TAG and PINDEX of a frame. -/
def fotKind (d : Dev) (f : Nat) : Nat := fld (fotGet d f) 31 28
def fotTag (d : Dev) (f : Nat) : Nat := fld (fotGet d f) 25 16
def fotPindex (d : Dev) (f : Nat) : Nat := fld (fotGet d f) 12 0

/-- An entry of a paddock map (R442). -/
def pmapGet (d : Dev) (p i : Nat) : Word := tabGet (fun _ => 0) d.pad.maps (p * 8192 + i)

/-- An entry of a paddock map set. -/
def pmapSet (p i : Nat) (w : Word) (d : Dev) : Dev :=
  modMach (fun m => { m with maps := tabSet (fun _ => 0) m.maps (p * 8192 + i) w }) d

/-- Whose access a memory access is (R319, R441): a party, the manager's copy queue, which also reaches the PADDOCK frames
of its own paddocks, or the wipe engine, which passes no check. -/
inductive Who where
  | party (p : Party)
  | managerCq (u : Fin 2)
  | wipe
deriving DecidableEq, Repr

/-- The party that KIND and TAG of an OWNER name (R43). -/
def partyOf (kind tag : Nat) : Party :=
  match kind with
  | 0 => .fold
  | 1 => .field
  | 2 => .manager (if tag % 2 = 0 then 0 else 1)
  | _ => .paddock (Fin.ofNat 512 tag)

/-- The party that owns a page. -/
def ownerParty (d : Dev) (p : Page) : Party := partyOf (rf d p Reg.OWNER 17 16) (rf d p Reg.OWNER 9 0)

/-- The entry of a frame admits an accessor (R441). -/
def fotAdmits (d : Dev) (w : Who) (f : Nat) : Bool :=
  match w with
  | .wipe => true
  | .party .fold => fotKind d f != fkAbsent && fotKind d f != fkScrub
  | .party .field => fotKind d f == fkField
  | .party (.manager u) => fotKind d f == fkManager && fotTag d f == u.val
  | .party (.paddock p) => fotKind d f == fkPaddock && fotTag d f == p.val
  | .managerCq u =>
    (fotKind d f == fkManager && fotTag d f == u.val) ||
      (fotKind d f == fkPaddock && portOf d (fotTag d f) == some u.val)

/-- A place in one of the memories. -/
inductive Loc where
  | past (o : Nat)
  | dram (a : Nat)
deriving DecidableEq, Repr

/-- The Pasture fold line as an offset, and the DRAM fold line as an address (R486). -/
def pastFold (d : Dev) : Nat := rf d (.wld 0) Reg.Wld0.PASTURE_FOLD 9 0 * 0x10000
def dramFold (d : Dev) : Nat := rf d (.wld 0) Reg.Wld0.DRAM_FOLD 14 0 * 0x200000

/-- The address at which Pasture begins in the device address form (R543). -/
def pastBase : Nat := 0x1000000000

/-- An offset of Pasture passes the check: below the fold line only for the Fold world and the wipe engine (R319). -/
def pastAdmits (d : Dev) (w : Who) (o : Nat) : Bool :=
  w == .wipe || w == .party .fold || decide (pastFold d ≤ o)

/-- A DRAM address passes the check: the entry of its frame admits the accessor (R441). -/
def dramAdmits (d : Dev) (w : Who) (a : Nat) : Bool := decide (a < 0x800000000) && fotAdmits d w (a / 0x200000)

/-- The DRAM address a paddock address translates to, if its map has it (R442). -/
def pmapAddr (d : Dev) (p a : Nat) : Option Nat :=
  if a < 2 ^ 34 then
    let e := pmapGet d p (a / 0x200000)
    if bitOf e 31 then some (fld e 13 0 * 0x200000 + a % 0x200000) else none
  else none

/-- The place an address reaches for an accessor, if the access passes the check (R319, R441, R442, R543). -/
def locOf (d : Dev) (w : Who) (a : Nat) : Option Loc :=
  match w with
  | .party (.paddock p) =>
    match pmapAddr d p.val a with
    | none => none
    | some x => if dramAdmits d w x then some (.dram x) else none
  | _ =>
    if pastBase ≤ a then
      if a < pastBase + 0x2000000 ∧ pastAdmits d w (a - pastBase) then some (.past (a - pastBase)) else none
    else if dramAdmits d w a then some (.dram a) else none

/-- Every byte of a range passes the check. The check is of a frame or of a side of the fold line, so the first byte of the
range and every byte at a 64-byte boundary of it decide. -/
def rangeOk (d : Dev) (w : Who) (a n : Nat) : Bool :=
  n == 0 || ((locOf d w a).isSome && (locOf d w (a + n - 1)).isSome &&
    (List.range (n / 64)).all (fun i => (locOf d w ((a / 64 + i + 1) * 64)).isSome || decide (a + n ≤ (a / 64 + i + 1) * 64)))

/-! ## Pasture banks -/

/-- The bank of an offset (R544). -/
def bankOf (o : Nat) : Nat := o / 0x80000

/-- The state of a bank: 0 ON, 1 RETENTION, 2 OFF, 3 WAKING (R560). -/
def bankState (d : Dev) (b : Nat) : Nat := rf d (.pst 1) (Reg.Pst1.BANK_STATE (b / 16)) (2 * (b % 16) + 1) (2 * (b % 16))

/-- The state of a bank set. -/
def setBankState (b x : Nat) (d : Dev) : Dev :=
  sf (.pst 1) (Reg.Pst1.BANK_STATE (b / 16)) (2 * (b % 16) + 1) (2 * (b % 16)) x d

/-- The mode of a bank: 0 AUTO, 1 ALWAYS_ON, 2 OFF, 3 RETAIN (R556). -/
def bankMode (d : Dev) (b : Nat) : Nat := rf d (.pst 1) (Reg.Pst1.BANK_MODE (b / 16)) (2 * (b % 16) + 1) (2 * (b % 16))

/-- The mode of a bank set. -/
def setBankMode (b x : Nat) (d : Dev) : Dev :=
  sf (.pst 1) (Reg.Pst1.BANK_MODE (b / 16)) (2 * (b % 16) + 1) (2 * (b % 16)) x d

/-- The Pasture state changed. -/
def modPst (f : PstS → PstS) (d : Dev) : Dev := { d with pst := f d.pst }
/-- The state of the DRAM controller changed. -/
def modDrc (f : DrcS → DrcS) (d : Dev) : Dev := { d with drc := f d.drc }

/-- The error of a Pasture word: 0 none, 1 a single bit, 2 poisoned, 3 poisoned until the next start of the die (R554). -/
def pastErr (d : Dev) (w : Nat) : Nat := tabGet (fun _ => 0) d.pst.err w
/-- The error of a Pasture word set. -/
def setPastErr (w x : Nat) (d : Dev) : Dev := modPst (fun p => { p with err := tabSet (fun _ => 0) p.err w x }) d

/-- ECC_ADDR of Pasture (R559): UE, the tier and the offset of the word. -/
def eccAddr (ue : Bool) (tier w : Nat) : Word := BitVec.ofNat 32 (ue.toNat * 2 ^ 31 + tier % 4 * 2 ^ 29 + w * 8)

/-- An uncorrectable error of a Pasture word (R546). -/
def pastUe (tier w : Nat) (d : Dev) : Dev :=
  raiseFault (.pst 0) Reg.Pst0.SRC_ECC_UE Reg.Pst0.EV_ECC_UE
    (sg (.pst 0) Reg.Pst0.ECC_ADDR (eccAddr true tier w) (bump (.pst 0) Reg.Pst0.ECC_COUNT 31 16 d))

/-- A corrected error of a Pasture word, which waits to be written back (R545). -/
def pastCe (tier w : Nat) (d : Dev) : Dev :=
  let d := modPst (fun p => { p with wb := if p.wb.contains w then p.wb else p.wb ++ [w] }) d
  raiseFault (.pst 0) Reg.Pst0.SRC_ECC_CE Reg.Pst0.EV_ECC_CE
    (sg (.pst 0) Reg.Pst0.ECC_ADDR (eccAddr false tier w) (bump (.pst 0) Reg.Pst0.ECC_COUNT 15 0 d))

/-- A bank in RETENTION wakes for an access, which waits (R555). -/
def bankTouch (b : Nat) (d : Dev) : Dev :=
  if bankState d b = 1 then bump (.pst 1) Reg.Pst1.POWER_COUNT 15 0 (setBankState b 3 d) else d

/-- An access to a bank that is OFF (R557). -/
def offAccess (d : Dev) : Dev := raiseFault (.pst 0) Reg.Pst0.SRC_OFF_ACCESS Reg.Pst0.EV_OFF_ACCESS d

/-- The ECC of one Pasture word that a read touches: the device after it, and whether the word is poisoned. -/
def pastReadWord (tier w : Nat) (r : Bool × Dev) : Bool × Dev :=
  match pastErr r.2 w with
  | 0 => r
  | 1 => (r.1, pastCe tier w r.2)
  | _ => (true, pastUe tier w r.2)

/-- A read within one 64-byte row (R544–R546, R557): the bytes, whether any word of them is poisoned, and the device. -/
def pastReadRow (tier o n : Nat) (d : Dev) : List Byte × Bool × Dev :=
  if bankState d (bankOf o) = 2 then (List.replicate n 0, true, offAccess d)
  else
    let d := bankTouch (bankOf o) d
    let r := ((List.range ((o + n - 1) / 8 + 1 - o / 8)).map (· + o / 8)).foldl (fun r w => pastReadWord tier w r) (false, d)
    (readBytes (pastByte d) o n, r.1, r.2)

/-- The bytes of a write that fall into one word: a whole word clears its error, and a part of a poisoned word is dropped
as a further uncorrectable error (R546). A lasting mark drops every write (R554). -/
def pastWriteWord (tier w o : Nat) (bs : List Byte) (d : Dev) : Dev :=
  if bs = [] then d
  else if pastErr d w = 3 then pastUe tier w d
  else if bs.length = 8 then setPastErr w 0 (writeBytes setPast o bs d)
  else if pastErr d w = 2 then pastUe tier w d
  else setPastErr w 0 (writeBytes setPast o bs (if pastErr d w = 1 then pastCe tier w d else d))

/-- The words of a write in ascending order; the fuel bounds their number. -/
def pastWriteWords : Nat → Nat → Nat → List Byte → Dev → Dev
  | 0, _, _, _, d => d
  | _ + 1, _, _, [], d => d
  | k + 1, tier, o, bs, d =>
    let n := 8 - o % 8
    pastWriteWords k tier (o + n) (bs.drop n) (pastWriteWord tier (o / 8) o (bs.take n) d)

/-- A write within one row (R544, R557). A word written again needs no write-back (R545). -/
def pastWriteRow (tier o : Nat) (bs : List Byte) (d : Dev) : Dev :=
  if bankState d (bankOf o) = 2 then offAccess d
  else
    let d := pastWriteWords 9 tier o bs (bankTouch (bankOf o) d)
    modPst (fun p => { p with wb := p.wb.filter (fun w => decide (w < o / 8 ∨ (o + bs.length - 1) / 8 < w)) }) d

/-- A Pasture read split into one access for each row, in ascending order (R544); the fuel bounds the rows. -/
def pastRead : Nat → Nat → Nat → Nat → Dev → List Byte × Bool × Dev
  | 0, _, _, _, d => ([], false, d)
  | k + 1, tier, o, n, d =>
    if n = 0 then ([], false, d)
    else
      let m := min n (64 - o % 64)
      let r := pastReadRow tier o m d
      let q := pastRead k tier (o + m) (n - m) r.2.2
      (r.1 ++ q.1, r.2.1 || q.2.1, q.2.2)

/-- A Pasture write split into one access for each row (R544). -/
def pastWrite : Nat → Nat → Nat → List Byte → Dev → Dev
  | 0, _, _, _, d => d
  | k + 1, tier, o, bs, d =>
    if bs = [] then d
    else pastWrite k tier (o + (64 - o % 64)) (bs.drop (64 - o % 64)) (pastWriteRow tier o (bs.take (64 - o % 64)) d)

/-- A range of Pasture zeroed by the wipe engine: no word in it stays poisoned (R550), but for the lasting marks of R554. -/
def pastZero (o n : Nat) (d : Dev) : Dev :=
  { d with pasture := tabClear d.pasture o n
           pst := { d.pst with err := d.pst.err.filter (fun e => decide (e.1 < o / 8 ∨ o / 8 + (n + 7) / 8 ≤ e.1) || e.2 == 3)
                               wb := d.pst.wb.filter (fun w => decide (w < o / 8 ∨ (o + n) / 8 ≤ w)) } }

/-! ## DRAM -/

/-- The error of a DRAM word: 0 none, 1 a single bit, 2 uncorrectable; none without inline ECC (R579). -/
def dramErr (d : Dev) (w : Nat) : Nat := if d.drc.inlineEcc then tabGet (fun _ => 0) d.drc.err w else 0
/-- The error of a DRAM word set. -/
def setDramErr (w x : Nat) (d : Dev) : Dev := modDrc (fun p => { p with err := tabSet (fun _ => 0) p.err w x }) d

/-- ECC_ADDR of the DRAM controller (R595): the lane, the bulk port and the address of the word. -/
def dramEccAddr (ue iso : Bool) (port w : Nat) (d : Dev) : Dev :=
  sg (.drc 1) Reg.Drc1.ECC_ADDR_LO (BitVec.ofNat 32 (w * 8))
    (sg (.drc 1) Reg.Drc1.ECC_ADDR_HI
      (BitVec.ofNat 32 (ue.toNat * 2 ^ 31 + iso.toNat * 2 ^ 30 + port % 32 * 2 ^ 24 + w * 8 / 2 ^ 32 % 8)) d)

/-- The ECC of one DRAM word that a read touches (R581): a single-bit error is corrected and written back. -/
def dramReadWord (iso : Bool) (port w : Nat) (r : Bool × Dev) : Bool × Dev :=
  match dramErr r.2 w with
  | 0 => r
  | 1 =>
    let d := dramEccAddr false iso port w (bump (.drc 1) Reg.Drc1.ECC_COUNT 15 0 (setDramErr w 0 r.2))
    (r.1, raiseFault (.drc 1) Reg.Drc1.SRC_DRAM_ECC_CE Reg.Drc1.EV_ECC_CE d)
  | _ =>
    let d := dramEccAddr true iso port w (bump (.drc 1) Reg.Drc1.ECC_COUNT 31 16 r.2)
    let d := bump (.drc 1) Reg.Drc1.POISON_COUNT 15 0 d
    (true, raiseFault (.drc 1) Reg.Drc1.SRC_DRAM_ECC_UE Reg.Drc1.EV_ECC_UE d)

/-- A DRAM read: the bytes, whether any word of them is poisoned, and the device (R581). -/
def dramRead (iso : Bool) (port a n : Nat) (d : Dev) : List Byte × Bool × Dev :=
  if n = 0 then ([], false, d)
  else
    let r := ((List.range ((a + n - 1) / 8 + 1 - a / 8)).map (· + a / 8)).foldl
      (fun r w => dramReadWord iso port w r) (false, d)
    (readBytes (dramByte d) a n, r.1, r.2)

/-- The bytes of a DRAM write that fall into one word: a whole word clears its error, and a merge leaves an uncorrectable
word uncorrectable (R582). -/
def dramWriteWord (w a : Nat) (bs : List Byte) (d : Dev) : Dev :=
  if bs = [] then d
  else
    let d := if bs.length = 8 ∨ dramErr d w = 1 then setDramErr w 0 d else d
    writeBytes setDram a bs d

/-- A DRAM write, word by word in ascending order; the fuel bounds their number. -/
def dramWrite : Nat → Nat → List Byte → Dev → Dev
  | 0, _, _, d => d
  | k + 1, a, bs, d =>
    if bs = [] then d
    else dramWrite k (a + (8 - a % 8)) (bs.drop (8 - a % 8)) (dramWriteWord (a / 8) a (bs.take (8 - a % 8)) d)

/-- A frame, or another range of DRAM, zeroed by the wipe engine (R593). -/
def dramZero (a n : Nat) (d : Dev) : Dev :=
  { d with dram := tabClear d.dram a n, drc := { d.drc with err := tabClear d.drc.err (a / 8) ((n + 7) / 8) } }

/-! ## Accesses -/

/-- What a memory access gives: whether it passed the check, the bytes, and whether any of them is poisoned. -/
structure MemAns where
  ok : Bool := false
  poison : Bool := false
  bytes : List Byte := []
deriving DecidableEq, Repr

/-- A requester's place in the two arbiters: its Pasture tier (R548), the isochronous lane (R583) and its bulk port
(R587). -/
structure Lane where
  tier : Nat := 1
  iso : Bool := false
  port : Nat := 0
deriving DecidableEq, Repr

/-- The places of a range: a run of addresses within one frame or one side of the fold line. A range is split at 2 MiB
boundaries, where a paddock map may lead elsewhere. -/
def memReadRun (w : Who) (l : Lane) (a n : Nat) (d : Dev) : MemAns × Dev :=
  match locOf d w a with
  | none => ({}, d)
  | some (.past o) =>
    let r := pastRead (n / 64 + 2) l.tier o n d
    ({ ok := true, poison := r.2.1, bytes := r.1 }, r.2.2)
  | some (.dram x) =>
    let r := dramRead l.iso l.port x n d
    ({ ok := true, poison := r.2.1, bytes := r.1 }, r.2.2)

/-- The runs of a range in ascending order; the fuel bounds their number. -/
def memReadRuns : Nat → Who → Lane → Nat → Nat → Dev → MemAns × Dev
  | 0, _, _, _, _, d => ({ ok := true }, d)
  | k + 1, w, l, a, n, d =>
    if n = 0 then ({ ok := true }, d)
    else
      let m := min n (0x200000 - a % 0x200000)
      let r := memReadRun w l a m d
      let q := memReadRuns k w l (a + m) (n - m) r.2
      ({ ok := r.1.ok && q.1.ok, poison := r.1.poison || q.1.poison, bytes := r.1.bytes ++ q.1.bytes }, q.2)

/-- A read of memory by an accessor: an access that fails the check anywhere is never issued (R320). -/
def memRead (w : Who) (l : Lane) (a n : Nat) (d : Dev) : MemAns × Dev :=
  if rangeOk d w a n then memReadRuns (n / 0x200000 + 2) w l a n d else ({}, d)

/-- A write within one run. -/
def memWriteRun (w : Who) (l : Lane) (a : Nat) (bs : List Byte) (d : Dev) : Dev :=
  match locOf d w a with
  | none => d
  | some (.past o) => pastWrite (bs.length / 64 + 2) l.tier o bs d
  | some (.dram x) => dramWrite (bs.length / 8 + 2) x bs d

/-- The runs of a written range in ascending order. -/
def memWriteRuns : Nat → Who → Lane → Nat → List Byte → Dev → Dev
  | 0, _, _, _, _, d => d
  | k + 1, w, l, a, bs, d =>
    if bs = [] then d
    else memWriteRuns k w l (a + (0x200000 - a % 0x200000)) (bs.drop (0x200000 - a % 0x200000))
      (memWriteRun w l a (bs.take (0x200000 - a % 0x200000)) d)

/-- A write of memory by an accessor: whether it passed the check, and the device (R319, R320). -/
def memWrite (w : Who) (l : Lane) (a : Nat) (bs : List Byte) (d : Dev) : Bool × Dev :=
  if rangeOk d w a bs.length then (true, memWriteRuns (bs.length / 0x200000 + 2) w l a bs d) else (false, d)

end Sys2Proof.Machine
end

