-- ==== Sys2Proof/Machine/Audio.lean ====
section
/-! DEFINITION. Audio routing, mixing and side-tone (R399–R431). -/
namespace Sys2Proof.Machine

/-! ## Gains and ramps (R406, R408) -/

/-- Amplitude 1 in units of 2⁻²⁴. -/
def amp1 : Nat := 0x1000000

/-- The linear amplitude of a gain in 1/256 dB: mute at −96 dB and below, at most +24 dB (R406). -/
def ampOf (g : Int) : Nat := if g ≤ -24576 then 0 else if g = 0 then amp1 else Config.dbAmp (min g 6144)

/-- (1 − cos(π k ÷ n)) ÷ 2 in units of 2⁻²⁴ (R408). -/
def raised (k n : Nat) : Nat := if n ≤ k then amp1 else if k = 0 then 0 else if 2 * k = n then amp1 / 2 else Config.raisedCos k n % amp1

/-- The gain of a ramp at its present sample (R408); its rounding is open. -/
def RampS.now (r : RampS) : Nat :=
  ((r.from_ : Int) + freeDiv 17 (((r.dest : Int) - r.from_) * raised r.k r.n) amp1).toNat

/-- A ramp one sample on. -/
def RampS.next (r : RampS) : RampS := { r with k := min r.n (r.k + 1) }

/-- A ramp from the present gain to another over `n` samples (R409). -/
def RampS.goto (r : RampS) (dest n : Nat) : RampS := { from_ := r.now, dest := dest, k := 0, n := n }

/-- A sample at a gain; its rounding is open. -/
def scaled (x : Int) (amp : Nat) : Int := freeDiv 18 (x * amp) amp1

/-- A sample saturated to 24 bits (R403). -/
def sat24 (x : Int) : Int := clampI (-8388608) 8388607 x

/-! ## Domains, sources and sinks (R399–R403) -/

/-- The rate of a domain in Hz; the reserved codes count as 48 kHz. -/
def rateOf (d : Dev) (dom : Nat) : Nat :=
  if dom = 0 then 48000
  else match rf d (.aud 0) (Reg.Aud0.DOMAIN_CFG dom) 2 0 with
    | 0 => 8000 | 1 => 16000 | 2 => 32000 | 3 => 44100 | _ => 48000

/-- A domain is enabled. -/
def domOn (d : Dev) (dom : Nat) : Bool := rb d (.aud 0) (Reg.Aud0.DOMAIN_CFG dom) 31

/-- The frames of `ms` milliseconds in a domain; their rounding is open at 44.1 kHz. -/
def framesOf (d : Dev) (dom ms : Nat) : Nat := (freeDiv 19 ((ms * rateOf d dom : Nat) : Int) 1000).toNat

/-- Fields of TDM_CFG of a port (R417). -/
def tdmMode (d : Dev) (p : Nat) : Nat := rf d (.aud 0) (Reg.Aud0.TDM_CFG p) 1 0
def tdmDom (d : Dev) (p : Nat) : Nat := rf d (.aud 0) (Reg.Aud0.TDM_CFG p) 3 2
def tdmSlots (d : Dev) (p : Nat) : Nat := rf d (.aud 0) (Reg.Aud0.TDM_CFG p) 10 8 + 1

/-- The domain of a source or sink code (R399, R403). -/
def codeDom (d : Dev) (c : Nat) : Nat :=
  if c < 0x20 then tdmDom d (c / 8)
  else if 0x40 ≤ c ∧ c < 0x80 then fld (asOf d (c - 0x40)).cfg 13 12
  else if 0x80 ≤ c then rf d (.aud 1) (Reg.Aud1.BUS_CFG (c - 0x80)) 13 12
  else 0

def isBus (c : Nat) : Bool := decide (0x80 ≤ c ∧ c < 0xA0)
def isAs (c : Nat) : Bool := decide (0x40 ≤ c ∧ c < 0x80)
def goodSource (c : Nat) : Bool := decide (c < 0x2A) || isAs c || isBus c
def goodSink (c : Nat) : Bool := decide (c < 0x20 ∨ (0x30 ≤ c ∧ c < 0x38)) || isAs c || isBus c

/-- Fields of ROUTE_CFG. -/
def rcOn (w : Word) : Bool := bitOf w 31
def rcSource (w : Word) : Nat := fld w 7 0
def rcSink (w : Word) : Nat := fld w 15 8
def rcCh1 (w : Word) : Bool := bitOf w 16
def rcInvert (w : Word) : Bool := bitOf w 17

/-- The most critical class of the enabled routes into a bus (R407); of a bus without one, C. -/
def busClass : Nat → Dev → Nat → Nat
  | 0, _, _ => 2
  | k + 1, d, b =>
    (List.range 256).foldl (fun m r =>
      let w := (routeS d r).cfg
      if rcOn w && rcSink w == 0x80 + b then
        min m (if isBus (rcSource w) then busClass k d (rcSource w - 0x80) else fld w 25 24)
      else m) 2

/-- The class that a route has (R407). -/
def effClass (d : Dev) (w : Word) : Nat := if isBus (rcSource w) then busClass 32 d (rcSource w - 0x80) else fld w 25 24

/-! ## Routes (R404–R410) -/

/-- A route needs a bridge (R400). -/
def bridged (d : Dev) (w : Word) : Bool := codeDom d (rcSource w) != codeDom d (rcSink w)

/-- The sources that the bridge between two domains carries in one direction (R400). -/
def bridgeUse (d : Dev) (src dst : Nat) : List Nat :=
  (((List.range 256).map (fun r => (routeS d r).cfg)).filter (fun w =>
    rcOn w && codeDom d (rcSource w) == src && codeDom d (rcSink w) == dst)).map rcSource |>.eraseDups

/-- BRIDGE_STAT (R426). -/
def bridgeShow (d : Dev) : Dev :=
  let n := fun (a b : Nat) => (bridgeUse d a b).length + (bridgeUse d b a).length
  sg (.aud 0) Reg.Aud0.BRIDGE_STAT (setFld (setFld (setFld (0 : Word) 21 16 (n 1 2)) 13 8 (n 0 2)) 5 0 (n 0 1)) d

/-- A stream code is used against its direction, or CH1 on a one-channel stream, or a slot beyond its port's (R405). -/
def badDirection (d : Dev) (w : Word) : Bool :=
  let as_ := fun (c dir : Nat) => isAs c && ((fld (asOf d (c - 0x40)).cfg 5 5 == dir) || (rcCh1 w && fld (asOf d (c - 0x40)).cfg 4 4 == 0))
  let slot := fun (c : Nat) => decide (c < 0x20) && decide (tdmSlots d (c / 8) ≤ c % 8)
  as_ (rcSource w) 1 || as_ (rcSink w) 0 || slot (rcSource w) || slot (rcSink w)

/-- The reason that refuses a route at commit, 0 for none (R405). -/
def routeRefuse (d : Dev) (who : Party) (old w : Word) : Nat :=
  let s := rcSource w
  let t := rcSink w
  let foldOnlyNow := decide (who ≠ .fold) && ((rcOn old && effClass d old == 0) || effClass d w == 0)
  if !rcOn w then (if decide (who ≠ .fold) && rcOn old && effClass d old == 0 then 4 else 0)
  else if !goodSource s then 1
  else if !goodSink t then 2
  else if isBus s && isBus t && decide (t ≤ s) then 3
  else if (!isBus s && fld w 25 24 == 3) || foldOnlyNow then 4
  else if bridged d w && !(bridgeUse d (codeDom d s) (codeDom d t)).contains s &&
      decide (16 ≤ (bridgeUse d (codeDom d s) (codeDom d t)).length) then 5
  else if badDirection d w then 6
  else 0

/-- RAMP_MS and GAIN of ROUTE_GAIN as they are taken (R406). -/
def rgRamp (g : Word) : Nat := clampN 2 20 (fld g 20 16)
def rgAmp (g : Word) : Nat := ampOf (signed 16 (fld g 15 0))

/-- The samples of a route's ramp (R408). -/
def routeN (d : Dev) (r : Nat) : Nat := framesOf d (codeDom d (rcSink (routeS d r).cfg)) (rgRamp (routeS d r).gain)

/-- The amplitude that a route goes to: 0 while it is disabled, and for classes O and C in gather mode or under the
Sheepdog's mute (R425, R522). -/
def routeTarget (d : Dev) (r : Nat) : Nat :=
  let s := routeS d r
  if !rcOn s.cfg then 0
  else if (d.tet.gather || (actionsNow d).testBit 7) && effClass d s.cfg != 0 then 0
  else rgAmp s.gain

/-- A new instance, silent until its bridge delivers: 32 samples of the source and 2 of the destination (R400, R410). -/
def newInst (d : Dev) (w : Word) : InstS :=
  { cfg := w, fill := if bridged d w then ceilDiv (32 * rateOf d (codeDom d (rcSink w))) (rateOf d (codeDom d (rcSource w))) + 2 else 0 }

/-- A staged state takes effect (R408): a gain moves when the next sample is evaluated; another source, sink or flag sets a new
instance beside the old one. -/
def routeApply (r : Nat) (w g : Word) (d : Dev) : Dev :=
  let old := (routeS d r).cfg
  let differs := rcSource old != rcSource w || rcSink old != rcSink w || fld old 17 16 != fld w 17 16
  let d := modRoute r (fun s => { s with cfg := w, gain := g, defer := none, reason := 0 }) d
  let s := routeS d r
  bridgeShow (match s.cur with
    | none => if rcOn w then modRoute r (fun s => { s with cur := some (newInst d w) }) d else d
    | some i =>
      if rcOn w && differs then
        let i' := { i with gain := i.gain.goto 0 (routeN d r) }
        modRoute r (fun s => { s with cur := some (newInst d w), fades := s.fades ++ [i'] }) d
      else modRoute r (fun s => { s with cur := some { i with cfg := if rcOn w then w else i.cfg } }) d)

/-- A route change would need a fourth instance (R409). -/
def routeFull (d : Dev) (r : Nat) (w : Word) : Bool :=
  let s := routeS d r
  rcOn w && s.cur.isSome && decide (2 ≤ s.fades.length) &&
    (rcSource s.cfg != rcSource w || rcSink s.cfg != rcSink w || fld s.cfg 17 16 != fld w 17 16)

/-- One route of a commit: a route whose staged state is the applied one does not change (R404, R405, R409). -/
def commitRoute (who : Party) (r : Nat) (d : Dev) : Dev :=
  let s := routeS d r
  if s.cfgS = s.cfg ∧ s.gainS = s.gain ∧ s.defer = none then d
  else
    let code := routeRefuse d who s.cfg s.cfgS
    if code ≠ 0 then
      raiseFault (.aud 1) Reg.Aud1.SRC_ROUTE_REFUSED Reg.Aud1.EV_ROUTE_REFUSED
        (bump (.aud 1) Reg.Aud1.ROUTE_COUNT 31 16 (modRoute r (fun s => { s with reason := code }) d))
    else if routeFull d r s.cfgS then modRoute r (fun s => { s with defer := some (s.cfgS, s.gainS), reason := 0 }) d
    else routeApply r s.cfgS s.gainS d

/-- BUS_STAT.CLASS of every bus. -/
def busShow (d : Dev) : Dev := forN (fun b d => sf (.aud 1) (Reg.Aud1.BUS_STAT b) 17 16 (busClass 32 d b) d) 32 d

/-- A write of ROUTE_COMMIT (R404). -/
def routeCommit (who : Party) (v : Word) (d : Dev) : Dev :=
  if !bitOf v 0 then d
  else
    let d := forN (commitRoute who) 256 (bump (.aud 1) Reg.Aud1.ROUTE_COUNT 15 0 d)
    event (.aud 1) Reg.Aud1.EV_ROUTE_APPLIED (busShow d)
/-- ROUTE_COMMIT. -/
def doRouteCommit (who : Party) (v : Word) (d : Dev) : Dev :=
  onWrite who (.aud 1) Reg.Aud1.ROUTE_COMMIT (routeCommit who v) d
def execRouteCommit (who : Party) (v : Word) (s : State) := onDev (doRouteCommit who v) s

/-- ROUTE_DEFERRED_APPLY: the change that waited takes effect once the oldest fade has ended (R409). -/
def doRouteDeferred (r : Nat) (d : Dev) : Dev :=
  match (routeS d r).defer with
  | none => d
  | some p => if routeFull d r p.1 then d else busShow (routeApply r p.1 p.2 d)
def execRouteDeferredApply (r : Fin 256) (s : State) := onDev (doRouteDeferred r.val) s

/-- ROUTE_CFG and ROUTE_GAIN as ROUTE_SEL selects them, and ROUTE_STAT (R404, R427). -/
def routeSel (d : Dev) : Nat := rf d (.aud 1) Reg.Aud1.ROUTE_SEL 7 0
def routeStage (o : Nat) (v : Word) (d : Dev) : Dev :=
  modRoute (routeSel d) (fun s =>
    if o = Reg.Aud1.ROUTE_CFG then { s with cfgS := maskIn s.cfgS v 0x83FFFFFF } else { s with gainS := maskIn s.gainS v 0x1FFFFF }) d
def routeStat (d : Dev) (r : Nat) : Word :=
  let s := routeS d r
  let insts := s.fades ++ s.cur.toList
  let w := setFld (setFld (0 : Word) 3 0 s.reason) 17 16 insts.length
  let w := setFld (setFld w 25 24 (effClass d s.cfg)) 28 28 (bridged d s.cfg && rcOn s.cfg).toNat
  setFld (setFld (setFld w 29 29 s.defer.isSome.toNat) 30 30 (insts.any (fun i => decide (i.gain.k < i.gain.n))).toNat) 31 31
    (decide (insts ≠ [])).toNat

/-- A write of BUS_CFG is dropped while an enabled route touches the bus (R412). -/
def busCfg (b : Nat) (v : Word) (d : Dev) : Dev :=
  if (List.range 256).any (fun r =>
      rcOn (routeS d r).cfg && (rcSource (routeS d r).cfg == 0x80 + b || rcSink (routeS d r).cfg == 0x80 + b)) then d
  else plainWrite (.aud 1) (Reg.Aud1.BUS_CFG b) v d

/-! ## Serial interfaces and domains (R399, R401, R417, R426) -/

/-- TDM_STAT of a port: ACTIVE, and CLOCK_OK of a master or of a slave whose clock is in range. -/
def tdmShow (p : Nat) (d : Dev) : Dev :=
  let m := tdmMode d p
  let src := rf d (.aud 0) (Reg.Aud0.DOMAIN_CFG (tdmDom d p)) 18 16
  let ok := m == 1 || (m == 2 && (src == 0 || rb d (.aud 0) (Reg.Aud0.DOMAIN_STAT (tdmDom d p)) 31))
  sb (.aud 0) (Reg.Aud0.TDM_STAT p) 30 ok (sb (.aud 0) (Reg.Aud0.TDM_STAT p) 31 (m == 1 || m == 2) d)

/-- A write of TDM_CFG: taken while the port is disabled, and to disable it (R426). -/
def tdmCfg (p : Nat) (v : Word) (d : Dev) : Dev :=
  if tdmMode d p = 0 ∨ fld v 1 0 = 0 then tdmShow p (plainWrite (.aud 0) (Reg.Aud0.TDM_CFG p) v d) else d

/-- A port or stream of a domain is enabled. -/
def domBusy (d : Dev) (dom : Nat) : Bool :=
  (List.range 4).any (fun p => tdmMode d p != 0 && tdmDom d p == dom) ||
    (List.range 64).any (fun n => bitOf (asOf d n).cfg 31 && fld (asOf d n).cfg 13 12 == dom)

/-- A write of DOMAIN_CFG: taken while no port or stream of the domain is enabled; D0 is fixed (R399, R426). -/
def domCfg (dom : Nat) (v : Word) (d : Dev) : Dev :=
  if dom = 0 ∨ domBusy d dom = true then d
  else
    let d := plainWrite (.aud 0) (Reg.Aud0.DOMAIN_CFG dom) v d
    sb (.aud 0) (Reg.Aud0.DOMAIN_STAT dom) 31 (bitOf v 31 && fld v 18 16 != 0) d

/-- DOMAIN_LOST (R401). -/
def doDomainLost (dom : Nat) (ppm : BitVec 16) (d : Dev) : Dev :=
  if rb d (.aud 0) (Reg.Aud0.DOMAIN_STAT dom) 31 then
    let d := sg (.aud 0) (Reg.Aud0.DOMAIN_STAT dom) (ppm.setWidth 32) d
    raiseFault (.aud 0) Reg.Aud0.SRC_DOMAIN_LOST Reg.Aud0.EV_DOMAIN_LOST (forN tdmShow 4 d)
  else d
def execDomainLost (dom : Fin 3) (ppm : BitVec 16) (s : State) := onDev (doDomainLost dom.val ppm) s

/-- DOMAIN_BACK (R401): the slave clock is within 1,000 ppm again. -/
def doDomainBack (dom : Nat) (ppm : BitVec 16) (d : Dev) : Dev :=
  if decide (ppm.toInt.natAbs ≤ 1000) && domOn d dom && rf d (.aud 0) (Reg.Aud0.DOMAIN_CFG dom) 18 16 != 0 && !rb d (.aud 0) (Reg.Aud0.DOMAIN_STAT dom) 31 then
    let d := sg (.aud 0) (Reg.Aud0.DOMAIN_STAT dom) (0x80000000 ||| ppm.setWidth 32) d
    event (.aud 0) Reg.Aud0.EV_DOMAIN_BACK (forN tdmShow 4 d)
  else d
def execDomainBack (dom : Fin 3) (ppm : BitVec 16) (s : State) := onDev (doDomainBack dom.val ppm) s

/-- TDM_SLIP (R417). -/
def doTdmSlip (p : Nat) (d : Dev) : Dev :=
  if tdmMode d p = 2 then
    raiseFault (.aud 0) Reg.Aud0.SRC_TDM_SLIP Reg.Aud0.EV_TDM_SLIP (bump (.aud 0) (Reg.Aud0.TDM_STAT p) 15 0 d)
  else d
def execTdmSlip (p : Fin 4) (s : State) := onDev (doTdmSlip p.val) s

/-! ## Tenant streams (R422–R425) -/

/-- The paddock that a stream is leased to. -/
def asPad (d : Dev) (n : Nat) : Option Nat :=
  if tabGet (fun _ => 0) d.pad.asOwner n = 0 then none else some (tabGet (fun _ => 0) d.pad.asOwner n - 1)

/-- The page that reports of a stream go to, and the page of the registers of R428. -/
def asPageOf (pad : Option Nat) : Page := match pad with | none => .aud 2 | some p => .pset p 13
def asPage (d : Dev) (n : Nat) : Page := asPageOf (asPad d n)

/-- Fields of AS_CFG. -/
def asLog2 (w : Word) : Nat := fld w 28 24
def asDom (w : Word) : Nat := fld w 13 12
def asCapture (w : Word) : Bool := bitOf w 5
def asChans (w : Word) : Nat := fld w 4 4 + 1
def asBytes (w : Word) : Nat := if fld w 9 8 = 0 then 2 else 4

/-- The address of a frame of a stream's ring. -/
def asAddr (s : AsS) (c : Nat) : Nat :=
  s.lo.toNat + 2 ^ 32 * s.hi.toNat + c % 2 ^ asLog2 s.cfg * (asBytes s.cfg * asChans s.cfg)

/-- The party in whose name a stream reaches memory. -/
def asParty (d : Dev) (n : Nat) : Party :=
  match asPad d n with
  | some p => .paddock (Fin.ofNat 512 p)
  | none => if (asOf d n).by_ = 0 then .fold else .field

/-- A stored sample as 24 bits (R422); the rounding of S32 is open. -/
def asSample (fmt : Nat) (bs : List Byte) : Int :=
  match fmt with
  | 0 => signed 16 (leNat bs) * 256
  | 1 => signed 24 (leNat bs)
  | _ => freeDiv 20 (signed 32 (leNat bs)) 256

/-- A 24-bit sample as stored. -/
def asStore (fmt : Nat) (x : Int) : List Byte :=
  match fmt with
  | 0 => leBytes 2 (unsigned 16 (clampI (-32768) 32767 (freeDiv 21 x 256)))
  | 1 => leBytes 4 (unsigned 32 x)
  | _ => leBytes 4 (unsigned 32 (x * 256))

/-- A stream ramps to 0 over `ms` and stops; with `hold` it reads or writes no further frame, also where it stops already. -/
def asStop (n ms : Nat) (hold : Bool) (d : Dev) : Dev :=
  modAs n (fun s => if s.running && (!s.stopping || (hold && !s.hold)) then
    { s with stopping := true, hold := hold || s.hold, gain := s.gain.goto 0 (framesOf d (asDom s.cfg) ms) } else s) d

/-- An access of a stream fails the check or reads poison (R424). -/
def asFault (n : Nat) (d : Dev) : Dev :=
  let d := modAs n (fun s => { s with fault := true, cfg := setFld s.cfg 31 31 0 }) (asStop n 1 true d)
  raiseFault (asPage d n) Reg.Aud2.SRC_AS_FAULT Reg.Aud2.EV_AS_FAULT d

/-- The ramp of a stream goes one sample on, and one that has stopped runs no more. -/
def asTick (n : Nat) (d : Dev) : Dev :=
  modAs n (fun s =>
    let g := s.gain.next
    if s.stopping && g.n ≤ g.k then { s with gain := g, running := false, stopping := false, hold := false } else { s with gain := g }) d

/-- A playback stream gives its frame (R424). -/
def asPlay (n : Nat) (d : Dev) : Dev :=
  let s := asOf d n
  let fill := (s.own + 65536 - s.dev) % 65536
  let ms := framesOf d (asDom s.cfg) 1
  if s.hold || isoOf d (asPage d n) then asTick n d
  else if s.under && fill < 2 then asTick n d
  else if fill = 0 then
    let d := modAs n (fun s => { s with under := true, unders := (s.unders + 1) % 65536, gain := s.gain.goto 0 ms }) d
    raiseFault (asPage d n) Reg.Aud2.SRC_AS_UNDERRUN Reg.Aud2.EV_AS_UNDERRUN (asTick n d)
  else
    let d := if s.under then modAs n (fun s => { s with under := false, gain := if s.stopping then s.gain else s.gain.goto amp1 ms }) d else d
    let b := asBytes s.cfg
    let r := memRead (.party (asParty d n)) { tier := 1, port := 17 } (asAddr s s.dev) (b * asChans s.cfg) d
    if r.1.ok && !r.1.poison then
      asTick n (modAs n (fun s => { s with
        dev := (s.dev + 1) % 65536
        last := (List.range (asChans s.cfg)).map (fun c => asSample (fld s.cfg 9 8) ((r.1.bytes.drop (b * c)).take b)) }) r.2)
    else asFault n r.2

/-- A capture stream takes a frame (R424, R425). -/
def asCapt (n : Nat) (xs : List Int) (d : Dev) : Dev :=
  let s := asOf d n
  if s.hold || isoOf d (asPage d n) then asTick n d
  else if 2 ^ asLog2 s.cfg ≤ (s.dev + 65536 - s.own) % 65536 then
    event (asPage d n) Reg.Aud2.EV_OVERRUN (asTick n (modAs n (fun s => { s with overs := (s.overs + 1) % 65536 }) d))
  else
    let bs := xs.flatMap (fun x => asStore (fld s.cfg 9 8) (sat24 (scaled x s.gain.now)))
    let w := memWrite (.party (asParty d n)) { tier := 1, port := 17 } (asAddr s s.dev) bs d
    if w.1 then asTick n (modAs n (fun s => { s with dev := (s.dev + 1) % 65536 }) w.2) else asFault n w.2

/-- Why an enable is refused, 0 for none (R423); only the Fold world gives class S (R21). -/
def asRefuse (d : Dev) (who : Party) (s : AsS) (w : Word) : Nat :=
  if fld w 9 8 = 3 then 1
  else if asLog2 w < 8 ∨ 15 < asLog2 w then 2
  else if (s.lo.toNat + 2 ^ 32 * s.hi.toNat) % (2 ^ asLog2 w * (asBytes w * asChans w)) ≠ 0 then 3
  else if fld w 17 16 = 3 ∨ (who ≠ .fold ∧ fld w 17 16 = 0) then 4
  else if asDom w = 3 ∨ domOn d (asDom w) = false then 5
  else 0

/-- An enable or a class is refused. -/
def asRefused (n code : Nat) (d : Dev) : Dev :=
  event (asPage d n) Reg.Aud2.EV_AS_REFUSED (modAs n (fun s => { s with refuse := code }) d)

/-- A write of AS_CFG (R21, R422, R423). -/
def asCfg (who : Party) (n : Nat) (v : Word) (d : Dev) : Dev :=
  let s := asOf d n
  let w := maskIn s.cfg v 0x9F033330
  if bitOf s.cfg 31 then
    if bitOf v 31 then d else modAs n (fun s => { s with cfg := setFld s.cfg 31 31 0, running := false, stopping := false, hold := false, under := false }) d
  else if !bitOf v 31 then
    if who ≠ .fold ∧ fld w 17 16 = 0 then asRefused n 4 d else modAs n (fun s => { s with cfg := w }) d
  else
    let code := asRefuse d who s w
    if code ≠ 0 then asRefused n code d
    else modAs n (fun s => { s with cfg := w, running := true, stopping := false, hold := false, under := false, fault := false
                                    quiesced := false, refuse := 0, by_ := if who = .fold then 0 else 1
                                    gain := { from_ := amp1, dest := amp1 } }) d

/-- A stream is the Fold part's: enabled, not leased, and of class S, which only the Fold world gives (R21). -/
def asFoldS (d : Dev) (n : Nat) : Bool := bitOf (asOf d n).cfg 31 && fld (asOf d n).cfg 17 16 == 0

/-- A write that reaches a stream through a page: one that is not leased to the paddock is refused, and one of the Field part
to a leased stream dropped (R422, R428). The Field part cannot touch a stream of class S (R27). -/
def asReach (who : Party) (pad : Option Nat) (n : Nat) (act : Dev → Dev) (d : Dev) : Dev :=
  match pad with
  | some p => if asPad d n = some p then act d else accessRefused (.pset p 13) d
  | none =>
    if who = .field ∧ (asPad d n).isSome = true then d
    else if who ≠ .fold ∧ asFoldS d n = true then accessRefused (.aud 2) d
    else act d

/-- The stream that a page's AS_SEL names. -/
def asSel (d : Dev) (pad : Option Nat) : Nat := rf d (asPageOf pad) Reg.Aud2.AS_SEL 5 0

/-- A write of AS_CFG through a page: an enable is work that a paddock hands in (R460). -/
def asCfgIn (who : Party) (pad : Option Nat) (n : Nat) (v : Word) (d : Dev) : Dev :=
  match pad with
  | some p => if bitOf v 31 && !bitOf (asOf d n).cfg 31 && padState d p != 1 then intakeRefused p d else asCfg who n v d
  | none => asCfg who n v d

/-- AS_ENABLE: a write of AS_CFG. -/
def doAsEnable (who : Party) (pad : Option Nat) (v : Word) (d : Dev) : Dev :=
  onWrite who (asPageOf pad) Reg.Aud2.AS_CFG (fun d => asReach who pad (asSel d pad) (asCfgIn who pad (asSel d pad) v) d) d
def execAsEnable (who : Party) (page : Option (Fin 512)) (v : Word) (s : State) :=
  onDev (doAsEnable who (page.map (·.val)) v) s

/-- A write of AS_RING while the stream is disabled (R423). -/
def asRing (o n : Nat) (v : Word) (d : Dev) : Dev :=
  modAs n (fun s => if bitOf s.cfg 31 then s else if o = Reg.Aud2.AS_RING_LO then { s with lo := v } else { s with hi := v }) d

/-- AS_PTR_WRITE (R424). -/
def doAsPtr (who : Party) (pad : Option Nat) (n : Nat) (v : Word) (d : Dev) : Dev :=
  onWrite who (asPageOf pad) (Reg.Aud2.AS_PTR n) (asReach who pad n (modAs n (fun s => { s with own := fld v 15 0 }))) d
def execAsPtrWrite (who : Party) (page : Option (Fin 512)) (n : Fin 64) (v : Word) (s : State) :=
  onDev (doAsPtr who (page.map (·.val)) n.val v) s

/-- AS_STAT, AS_COUNT and AS_PTR of a stream as they read (R428). -/
def asStat (s : AsS) : Word :=
  BitVec.ofNat 32 (s.running.toNat * 2 ^ 31 + s.under.toNat * 2 ^ 30 + s.fault.toNat * 2 ^ 29 + s.quiesced.toNat * 2 ^ 28 + s.refuse)
def asCount (s : AsS) : Word := BitVec.ofNat 32 (s.unders * 65536 + s.overs)
def asPtr (s : AsS) : Word := BitVec.ofNat 32 (s.dev * 65536 + s.own)

/-- The streams of a paddock, or one of them, quiesce over `ms` (R425). -/
def asQuiesce (p : Nat) (only : Option Nat) (ms : Nat) (forced : Bool) (d : Dev) : Dev :=
  forN (fun n d =>
    if asPad d n = some p ∧ only.all (· == n) = true ∧ (asOf d n).running = true then
      modAs n (fun s => { s with quiesced := true }) (asStop n ms forced d)
    else d) 64 d

/-- The streams of a paddock that is OPEN again run on. -/
def asResume (p : Nat) (d : Dev) : Dev :=
  forN (fun n => modAs n (fun s =>
    if asPad d n = some p ∧ s.quiesced = true then
      { s with quiesced := false, running := bitOf s.cfg 31, stopping := false, hold := false, gain := s.gain.goto amp1 (framesOf d (asDom s.cfg) 5) }
    else s)) 64 d

/-! ## The engine (R408–R414) -/

/-- The engine runs: enabled, none of its pages isolated, its clock and power on. -/
def audRuns (d : Dev) : Bool :=
  rb d (.aud 0) Reg.Aud0.AUD_CTRL 0 && !(List.range 4).any (fun k => isoOf d (.aud k)) && blkRuns d 0x16 && !d.sdg.fellHeld

/-- Dale sources and sinks reach the engine: the tether runs and AFE page 0 is not isolated. -/
def afeLinked (d : Dev) : Bool :=
  tetUp d && !d.sdg.inReset && !isoOf d (.afe 0) && rb d (.afe 0) Reg.Afe0.AFE_CTRL 0

/-- The sample of a source outside the engine, from the samples at the balls (R403, R417, R418): zero where the port, slot,
microphone or headset does not deliver. -/
def inputSample (d : Dev) (inputs : List (Nat × Int)) (c : Nat) : Int :=
  let x := match inputs.find? (fun i => i.1 == c) with | some i => i.2 | none => 0
  if c < 0x20 then
    let p := c / 8
    if !rb d (.aud 0) (Reg.Aud0.TDM_STAT p) 31 || !rb d (.aud 0) (Reg.Aud0.TDM_STAT p) 30 || decide (tdmSlots d p ≤ c % 8) then 0
    else if rf d (.aud 0) (Reg.Aud0.TDM_CFG p) 13 12 = 0 then x / 256 * 256 else x
  else if !afeLinked d then 0
  else if c < 0x28 then
    if rb d (.afe 0) Reg.Afe0.MIC_CFG (c - 0x20) && !rb d (.afe 0) Reg.Afe0.MIC_STAT (c - 0x20) then x else 0
  else if rb d (.afe 0) (Reg.Afe0.HS_CFG (c - 0x28)) 31 && rb d (.afe 0) (Reg.Afe0.HS_STAT (c - 0x28)) 30 then x else 0

/-- The ducking gain of a class in a domain (R413). -/
def duckAmp (d : Dev) (dom cls : Nat) : Nat :=
  let depth := min 60 (if cls = 1 then rf d (.aud 0) Reg.Aud0.DUCK_CFG 15 8 else rf d (.aud 0) Reg.Aud0.DUCK_CFG 23 16)
  let w := (domOf d dom).duck.now
  ((amp1 : Int) + freeDiv 22 (((ampOf (-256 * (depth : Int)) : Int) - amp1) * w) amp1).toNat

/-- The sample that an instance of a route brings, from the values of the sources: bridged samples are the bridge's own, which
the spec leaves open. -/
def instSample (d : Dev) (vals : List (Nat × Int)) (r : Nat) (i : InstS) : Int :=
  let s := rcSource i.cfg
  let key := if isAs s && rcCh1 i.cfg then s + 256 else s
  let raw := match vals.find? (fun v => v.1 == key) with | some v => v.2 | none => 0
  let x := if bridged d i.cfg then (if i.fill = 0 then signed 24 (Config.freeNat d.free (0x400000 + r)) else 0) else raw
  let y := scaled (if rcInvert i.cfg then -x else x) i.gain.now
  let cls := effClass d i.cfg
  if cls = 0 ∨ isBus s = true then y else scaled y (duckAmp d (codeDom d (rcSink i.cfg)) cls)

/-- The instances of the routes into a sink, with their routes. -/
def instsInto (d : Dev) (c : Nat) : List (Nat × InstS) :=
  (List.range 256).flatMap (fun r =>
    (((routeS d r).fades ++ (routeS d r).cur.toList).filter (fun i => rcSink i.cfg == c)).map (fun i => (r, i)))

/-- The sum of the routes into a sink; for a capture stream those of one channel (R405, R411). -/
def sinkSum (d : Dev) (vals : List (Nat × Int)) (c : Nat) (ch1 : Option Bool) : Int :=
  ((instsInto d c).filter (fun i => ch1.all (· == rcCh1 i.2.cfg))).foldl (fun m i => m + instSample d vals i.1 i.2) 0

/-- The weight of ducking moves in every domain. -/
def duckRamp (dest ms : Nat) (d : Dev) : Dev :=
  forN (fun k d => modDom k (fun s => { s with duck := s.duck.goto dest (framesOf d k ms) }) d) 3 d

/-- The S routes into a domain whose source after route gain exceeds the threshold at this sample (R413). -/
def hotRoutes (d : Dev) (dom : Nat) (vals : List (Nat × Int)) : List Nat :=
  let th : Nat := ampOf (-256 * (rf d (.aud 0) Reg.Aud0.DUCK_CFG 31 24 : Int))
  (List.range 256).filter (fun r =>
    rcOn (routeS d r).cfg && effClass d (routeS d r).cfg == 0 && codeDom d (rcSink (routeS d r).cfg) == dom &&
      (routeS d r).cur.any (fun i => decide (th < 2 * (instSample d vals r i).natAbs)))

/-- A route over the threshold is active from this sample to the end of HOLD_MS after its last one (R413); the first active
route begins the attack. -/
def duckCheck (dom : Nat) (vals : List (Nat × Int)) (d : Dev) : Dev :=
  let hold := framesOf d dom (min 2000 (rf d (.aud 0) Reg.Aud0.DUCK_TIME 11 0))
  let hot := hotRoutes d dom vals
  let stay := d.aud.active.filterMap (fun e =>
    if codeDom d (rcSink (routeS d e.1).cfg) ≠ dom then some e
    else if hot.contains e.1 then none else if e.2 ≤ 1 then none else some (e.1, e.2 - 1))
  let d := modAud (fun a => { a with active := stay ++ hot.map (fun r => (r, hold)) }) d
  let d := sf (.aud 0) Reg.Aud0.DUCK_STAT 8 0 d.aud.active.length d
  if hot ≠ [] ∧ rb d (.aud 0) Reg.Aud0.DUCK_STAT 31 = false then
    event (.aud 0) Reg.Aud0.EV_DUCK_ON
      (duckRamp amp1 (clampN 1 100 (rf d (.aud 0) Reg.Aud0.DUCK_TIME 31 24)) (sb (.aud 0) Reg.Aud0.DUCK_STAT 31 true d))
  else d

/-- DUCK_OFF: no S route has been active for HOLD_MS (R413). -/
def doDuckOff (d : Dev) : Dev :=
  if d.aud.active ≠ [] ∨ rb d (.aud 0) Reg.Aud0.DUCK_STAT 31 = false then d
  else
    event (.aud 0) Reg.Aud0.EV_DUCK_OFF
      (duckRamp 0 (clampN 10 2000 (rf d (.aud 0) Reg.Aud0.DUCK_TIME 23 12)) (sb (.aud 0) Reg.Aud0.DUCK_STAT 31 false d))
def execDuckOff (s : State) := onDev doDuckOff s

/-- A bus is evaluated (R411): summed in 32 bits, divided by 2^HEADROOM, rounded half up and saturated. -/
def evalBus (dom : Nat) (acc : List (Nat × Int) × Dev) (b : Nat) : List (Nat × Int) × Dev :=
  let d := acc.2
  if rf d (.aud 1) (Reg.Aud1.BUS_CFG b) 13 12 ≠ dom then acc
  else
    let sum := signed 32 (unsigned 32 (sinkSum d acc.1 (0x80 + b) none))
    let y := roundDiv sum (2 ^ min 8 (rf d (.aud 1) (Reg.Aud1.BUS_CFG b) 3 0))
    let x := sat24 y
    let d :=
      if x = y then d
      else
        let d := bump (.aud 1) (Reg.Aud1.BUS_STAT b) 15 0 d
        if (domOf d dom).clipped then d
        else raiseFault (.aud 1) Reg.Aud1.SRC_BUS_CLIP Reg.Aud1.EV_BUS_CLIP (modDom dom (fun s => { s with clipped := true }) d)
    (acc.1 ++ [(0x80 + b, x)], d)

/-- The gain of the earpieces of a headset on the Dale die: full while it is plugged (R419). -/
def earOf (d : Dev) (h : Nat) : RampS := tabGet (fun _ => {}) d.afe.ears h
def modEar (h : Nat) (f : RampS → RampS) (d : Dev) : Dev :=
  modAfe (fun a => { a with ears := tabSet (fun _ => {}) a.ears h (f (earOf d h)) }) d

/-- The limiter of a sink code (R414). -/
def limOf (c : Nat) : Nat := if c < 0x20 then 6 + c / 8 else if c < 0x34 then c - 0x30 else 4 + (c - 0x34) / 2

/-- A sample passes its limiter (R414): 1 ms of delay, and while it limits a value at or below THRESH that the spec does not
compute. `twin` is the sample of the linked channel. -/
def limit (dom c : Nat) (x twin : Int) (d : Dev) : Int × Dev :=
  let o := limOf c
  if !rb d (.aud 3) (Reg.Aud3.LIM_CFG o) 31 then (x, modAud (fun a => { a with lims := tabSet (fun _ => {}) a.lims c {} }) d)
  else
    let s := tabGet (fun _ => {}) d.aud.lims c
    let top : Int := (ampOf (-64 * (min 240 (rf d (.aud 3) (Reg.Aud3.LIM_CFG o) 7 0) : Int)) / 2 : Nat)
    let n := framesOf d dom 1
    let line := s.delay ++ [x]
    let y := if line.length ≤ n then 0 else line.headD 0
    let hot := decide (top < max x.natAbs twin.natAbs)
    let red :=
      if hot then max s.red (1 + Config.freeNat d.free (0x500000 + c) % 255)
      else if s.red = 0 then 0 else min s.red (Config.freeNat d.free (0x500000 + c) % 256)
    let out := if s.red = 0 ∧ red = 0 then y else clampI (-top) top (signed 24 (Config.freeNat d.free (0x600000 + c)))
    let f := if 0 < red then s.frames + 1 else s.frames
    let s' : LimS := { delay := line.drop (line.length - n), red := red, frames := if n ≤ f then 0 else f }
    let d := modAud (fun a => { a with lims := tabSet (fun _ => {}) a.lims c s' }) d
    let d := if n ≤ f then bump (.aud 3) (Reg.Aud3.LIM_STAT o) 31 16 d else d
    let d := sf (.aud 3) (Reg.Aud3.LIM_STAT o) 7 0 red d
    (out, tick (if hot && s.red == 0 then event (.aud 3) Reg.Aud3.EV_LIMITING d else d))

/-- A sink outside the engine is driven now: a TDM slot of a port with its clock, a speaker that plays, a plugged headset. -/
def sinkOn (d : Dev) (c : Nat) : Bool :=
  if c < 0x20 then
    rb d (.aud 0) (Reg.Aud0.TDM_STAT (c / 8)) 31 && rb d (.aud 0) (Reg.Aud0.TDM_STAT (c / 8)) 30 && decide (c % 8 < tdmSlots d (c / 8))
  else if c < 0x34 then
    afeLinked d && rf d (.afe 0) (Reg.Afe0.SPK_STAT (c - 0x30)) 30 28 == 2 && !rb d (.afe 0) (Reg.Afe0.SPK_CFG (c - 0x30)) 0
  else
    let h := (c - 0x34) / 2
    afeLinked d && rb d (.afe 0) (Reg.Afe0.HS_CFG h) 31 && (rb d (.afe 0) (Reg.Afe0.HS_STAT h) 31 || decide ((earOf d h).now ≠ 0))

/-- A sink outside the engine takes its sample; a 16-bit slot carries the upper 16 bits, and the earpieces of an unplugged
headset ramp to zero (R411, R417, R419). -/
def driveSink (dom : Nat) (vals : List (Nat × Int)) (c : Nat) (d : Dev) : Dev :=
  if codeDom d c ≠ dom ∨ sinkOn d c = false then d
  else
    let x := sat24 (sinkSum d vals c none)
    let twin := if 0x34 ≤ c then sat24 (sinkSum d vals (if c % 2 = 0 then c + 1 else c - 1) none) else x
    let r := limit dom c x twin d
    let y :=
      if c < 0x20 ∧ rf d (.aud 0) (Reg.Aud0.TDM_CFG (c / 8)) 13 12 = 0 then r.1 / 256 * 256
      else if 0x34 ≤ c then scaled r.1 (earOf d ((c - 0x34) / 2)).now
      else r.1
    emit (.audio c y) r.2

/-- The instances of a route at a sample of its sink's domain (R408–R410): each moves one sample on, a fade that has ended
leaves, and the current one follows the route's target from the gain that it has. -/
def stepRoute (dom r : Nat) (d : Dev) : Dev :=
  let s := routeS d r
  if s.cur.isNone && s.fades.isEmpty then d
  else
    let here := fun (i : InstS) => codeDom d (rcSink i.cfg) == dom
    let target := routeTarget d r
    let step := fun (i : InstS) => if here i then
        (if i.fill = 0 then { i with gain := i.gain.next } else { i with fill := i.fill - 1 }) else i
    let aim := fun (i : InstS) => if here i && i.gain.dest != target then { i with gain := i.gain.goto target (routeN d r) } else i
    let cur := s.cur.map (fun i => step (aim i))
    let ended := fun (i : InstS) => decide (i.gain.n ≤ i.gain.k)
    let cur := if !rcOn s.cfg && cur.any (fun i => i.gain.dest == 0 && ended i) then none else cur
    modRoute r (fun s => { s with cur := cur, fades := (s.fades.map step).filter (fun i => !ended i) }) d

/-- The values of the sources of a domain outside the buses: inputs, and the frames of playback streams. -/
def sourceVals (d : Dev) (dom : Nat) (inputs : List (Nat × Int)) : List (Nat × Int) :=
  ((List.range 0x2A).filter (fun c => codeDom d c == dom)).map (fun c => (c, inputSample d inputs c)) ++
    ((List.range 64).filter (fun n => asDom (asOf d n).cfg == dom && (asOf d n).running && !asCapture (asOf d n).cfg)).flatMap (fun n =>
      let s := asOf d n
      if isoOf d (asPage d n) then [(0x40 + n, 0), (0x140 + n, 0)] else
      [(0x40 + n, sat24 (scaled (s.last.getD 0 0) s.gain.now)), (0x140 + n, sat24 (scaled (s.last.getD 1 0) s.gain.now))])

/-- The streams of a domain that run; in gather mode they stop over 5 ms and stay off until they are enabled again (R425). -/
def asStep (dom : Nat) (capture : Bool) (act : Nat → Dev → Dev) (d : Dev) : Dev :=
  forN (fun n d =>
    let s := asOf d n
    if s.running && asDom s.cfg == dom && asCapture s.cfg == capture then
      let d := if d.tet.gather && !s.stopping then modAs n (fun s => { s with cfg := setFld s.cfg 31 31 0 }) (asStop n 5 false d) else d
      act n d
    else d) 64 d

/-- AUDIO_SAMPLE_FRAME: a sample frame of one domain (R411). -/
def audFrame (dom : Nat) (inputs : List (Nat × Int)) (d : Dev) : Dev :=
  let ms := framesOf d dom 1
  let d := modDom dom (fun s =>
    let f := if ms ≤ s.frame + 1 then 0 else s.frame + 1
    { s with frame := f, clipped := s.clipped && f != 0, duck := s.duck.next }) d
  let d := forN (stepRoute dom) 256 (asStep dom false asPlay d)
  let vals := sourceVals d dom inputs
  let r := (List.range 32).foldl (evalBus dom) (vals, d)
  let d := duckCheck dom r.1 r.2
  let d := asStep dom true (fun n d => asCapt n ((List.range (asChans (asOf d n).cfg)).map (fun c =>
    sat24 (sinkSum d r.1 (0x40 + n) (if asChans (asOf d n).cfg = 2 then some (c == 1) else none)))) d) d
  let d := forN (driveSink dom r.1) 0x38 d
  tick (if dom = 0 ∧ afeLinked d = true then forN (fun h => modEar h RampS.next) 2 (modAfe (fun a => { a with lost := false }) d) else d)

def doAudFrame (dom : Nat) (inputs : List (Nat × Int)) (d : Dev) : Dev :=
  if audRuns d && domOn d dom then audFrame dom inputs d else d
def execAudioSampleFrame (dom : Fin 3) (inputs : List (BitVec 8 × BitVec 24)) (s : State) :=
  onDev (doAudFrame dom.val (inputs.map (fun i => (i.1.toNat, i.2.toInt)))) s

/-- AUD_RESTART: RESTART ends isolation of every AUD page (R426). -/
def audCtrl (v : Word) (d : Dev) : Dev :=
  plainWrite (.aud 0) Reg.Aud0.AUD_CTRL v
    (when (bitOf v 31) (forN (fun k d => if isoOf d (.aud k) then endIso (.aud k) d else d) 4) d)
def doAudRestart (who : Party) (d : Dev) : Dev :=
  onWrite who (.aud 0) Reg.Aud0.AUD_CTRL (fun d => audCtrl (putBit (rg d (.aud 0) Reg.Aud0.AUD_CTRL) 31 true) d) d
def execAudRestart (who : Party) (s : State) := onDev (doAudRestart who) s

/-! ## The Dale side: side-tone, microphones, headsets, speakers (R415–R421) -/

/-- A side-tone register names a reserved source or gain (R430). -/
def stBad (w : Word) : Bool := decide (9 < fld w 11 8) || decide (120 < fld w 6 0 ∧ fld w 6 0 < 127)

/-- The elements of a change of a side-tone route (R416): 0 gain, 1 removal, 2 addition. -/
def stElems (act tgt : Word) : List Nat :=
  let moved := fld act 16 8 != fld tgt 16 8
  if bitOf act 31 && bitOf tgt 31 then (if moved then [1, 2] else if fld act 6 0 != fld tgt 6 0 then [0] else [])
  else if bitOf act 31 then [1] else if bitOf tgt 31 then [2] else []

/-- ST_STAT shows the side-tone routes. -/
def stShow (k : Nat) (d : Dev) : Dev :=
  sb (.afe 1) Reg.Afe1.ST_STAT (k + 4) (decide ((stOf d k).pend ≠ [])) (sb (.afe 1) Reg.Afe1.ST_STAT k (stOf d k).ramp.isSome d)

/-- An element is done: the configuration in force changes. -/
def stElem (k el : Nat) (d : Dev) : Dev :=
  let d := modSt k (fun s => { s with
    pend := s.pend.filter (· != el)
    act := if el = 1 then setFld s.act 31 31 0 else if el = 0 then setFld s.act 6 0 (fld s.tgt 6 0) else s.tgt }) d
  stShow k (if (List.range 4).all (fun j => (stOf d j).pend == []) then event (.afe 1) Reg.Afe1.EV_ST_APPLIED d else d)

/-- ST_APPLY: the changes wait for zero crossings, or bad codes refuse the whole (R416, R430). -/
def stApply (v : Word) (d : Dev) : Dev :=
  let bad := (List.range 4).any (fun k => stBad (rg d (.afe 1) (Reg.Afe1.ST_CFG k)))
  if !bitOf v 0 || bad then d
  else
    let d := forN (fun k d =>
      let w := rg d (.afe 1) (Reg.Afe1.ST_CFG k)
      stShow k (modSt k (fun s => { s with tgt := w, pend := if s.ramp.isSome ∧ stElems s.act w = [] then [] else stElems s.act w
                                           ramp := if s.ramp.isSome ∧ s.tgt ≠ w then some d.us else s.ramp }) d)) 4 d
    if (List.range 4).all (fun j => (stOf d j).pend == []) then event (.afe 1) Reg.Afe1.EV_ST_APPLIED d else d
def doStApply (who : Party) (v : Word) (d : Dev) : Dev := onWrite who (.afe 1) Reg.Afe1.ST_APPLY (stApply v) d
def execStApply (who : Party) (v : Word) (s : State) := onDev (doStApply who v) s

/-- ST_ZERO_CROSSING (R416). -/
def doStZero (k el : Nat) (d : Dev) : Dev := if (stOf d k).pend.contains el then stElem k el d else d
def execStZeroCrossing (k : Fin 4) (element : Fin 3) (s : State) := onDev (doStZero k.val element.val) s

/-- ST_FORCED: no crossing within 2 ms, so the element ramps over 0.5 ms (R416). -/
def doStForced (k el : Nat) (d : Dev) : Dev :=
  if (stOf d k).pend.contains el then
    event (.afe 1) Reg.Afe1.EV_ST_FORCED (stElem k el (modSt k (fun s => { s with ramp := some d.us }) d))
  else d
def execStForced (k : Fin 4) (element : Fin 3) (s : State) := onDev (doStForced k.val element.val) s

/-- A forced ramp ends 0.5 ms after it began. -/
def stIdle (d : Dev) : Dev :=
  forN (fun k d => match (stOf d k).ramp with
    | some t => if t + 500 ≤ d.us then stShow k (modSt k (fun s => { s with ramp := none }) d) else d
    | none => d) 4 d

/-- MIC_FAULT (R418). -/
def doMicFault (m : Nat) (d : Dev) : Dev :=
  if rb d (.afe 0) Reg.Afe0.MIC_CFG m && !rb d (.afe 0) Reg.Afe0.MIC_STAT m then
    raiseFault (.afe 0) Reg.Afe0.SRC_MIC_FAULT Reg.Afe0.EV_MIC_FAULT (sb (.afe 0) Reg.Afe0.MIC_STAT m true d)
  else d
def execMicFault (m : Fin 8) (s : State) := onDev (doMicFault m.val) s

/-- MIC_FAULT_CLEAR (R418). -/
def doMicClear (m : Nat) (d : Dev) : Dev := sb (.afe 0) Reg.Afe0.MIC_STAT m false d
def execMicFaultClear (m : Fin 8) (s : State) := onDev (doMicClear m.val) s

/-- A field of HS_STAT of a headset. -/
def setHs (h bit : Nat) (b : Bool) (d : Dev) : Dev := sb (.afe 0) (Reg.Afe0.HS_STAT h) bit b d

/-- HS_MIC_FAULT: a bias current over 3 mA turns the bias off, until the next plug (R419). -/
def doHsMicFault (h : Nat) (d : Dev) : Dev :=
  if rb d (.afe 0) (Reg.Afe0.HS_STAT h) 31 && rb d (.afe 0) (Reg.Afe0.HS_CFG h) 1 && !rb d (.afe 0) (Reg.Afe0.HS_STAT h) 29 then
    fireSource (.afe 0) Reg.Afe0.SRC_HS_MIC_FAULT (setHs h 30 false (setHs h 29 true d))
  else d
def execHsMicFault (h : Fin 2) (s : State) := onDev (doHsMicFault h.val) s

/-- HS_PLUG, with the bias current in µA (R419). -/
def doHsPlug (h uA : Nat) (d : Dev) : Dev :=
  let bias := rb d (.afe 0) (Reg.Afe0.HS_CFG h) 1
  let d := modEar h (fun _ => { from_ := amp1, dest := amp1 }) d
  let d := setHs h 29 false (setHs h 30 (bias && decide (100 ≤ uA ∧ uA ≤ 1500)) (setHs h 31 true d))
  let d := event (.afe 0) Reg.Afe0.EV_HS_PLUG d
  if bias && decide (3000 < uA) then doHsMicFault h d else d
def execHsPlug (h : Fin 2) (microamps : Nat) (s : State) := onDev (doHsPlug h.val microamps) s

/-- HS_UNPLUG (R419): the earpieces ramp to zero over 5 ms. -/
def doHsUnplug (h : Nat) (d : Dev) : Dev :=
  event (.afe 0) Reg.Afe0.EV_HS_UNPLUG (setHs h 30 false (setHs h 31 false (modEar h (fun r => r.goto 0 240) d)))
def execHsUnplug (h : Fin 2) (s : State) := onDev (doHsUnplug h.val) s

/-- SPK_STAT.STATE: 0 OFF, 1 LOAD_TEST, 2 ON, 3 FAULT, 4 SAFE. -/
def spkState (d : Dev) (o : Nat) : Nat := rf d (.afe 0) (Reg.Afe0.SPK_STAT o) 30 28
def setSpk (o st : Nat) (d : Dev) : Dev := sf (.afe 0) (Reg.Afe0.SPK_STAT o) 30 28 st d

/-- A write of SPK_CFG: enabling starts the load check, which an isolated page holds back (R420, R425). -/
def spkCfg (o : Nat) (v : Word) (d : Dev) : Dev :=
  let was := rb d (.afe 0) (Reg.Afe0.SPK_CFG o) 31
  let d := plainWrite (.afe 0) (Reg.Afe0.SPK_CFG o) v d
  if bitOf v 31 && !was then
    setSpk o (if isoOf d (.afe 0) then 4 else 1) (sf (.afe 0) (Reg.Afe0.SPK_STAT o) 26 24 0 (modSpk o (fun _ => {}) d))
  else if !bitOf v 31 then setSpk o 0 (sf (.afe 0) (Reg.Afe0.SPK_STAT o) 26 24 0 d)
  else d
def doSpkEnable (who : Party) (o : Nat) (v : Word) (d : Dev) : Dev :=
  onWrite who (.afe 0) (Reg.Afe0.SPK_CFG o) (spkCfg o v) d
def execSpkEnable (who : Party) (o : Fin 4) (v : Word) (s : State) := onDev (doSpkEnable who o.val v) s

/-- A speaker goes to FAULT (R421). -/
def spkFail (o kind : Nat) (d : Dev) : Dev :=
  raiseFault (.afe 0) Reg.Afe0.SRC_SPK_FAULT Reg.Afe0.EV_SPK_FAULT
    (setSpk o 3 (sf (.afe 0) (Reg.Afe0.SPK_STAT o) 26 24 kind d))

/-- LOAD_DONE: the result of the load check (R420). A resistance beyond 409.5 Ω has no LOAD that the spec gives. -/
def doLoadDone (o r : Nat) (gnd vspk : Bool) (d : Dev) : Dev :=
  if spkState d o ≠ 1 then d
  else
    let d := sf (.afe 0) (Reg.Afe0.SPK_STAT o) 11 0 (if r ≤ 4095 then r else Config.freeNat d.free 0x420) d
    let d := event (.afe 0) Reg.Afe0.EV_LOAD_DONE d
    if gnd then spkFail o 2 d
    else if vspk then spkFail o 3 d
    else if 400 < r then spkFail o 1 d
    else if r < 20 then spkFail o 4 d
    else setSpk o 2 (sf (.afe 0) (Reg.Afe0.SPK_STAT o) 26 24 0 d)
def execLoadDone (o : Fin 4) (tenthOhms : Nat) (toGround toVspk : Bool) (s : State) :=
  onDev (doLoadDone o.val tenthOhms toGround toVspk) s

/-- SPK_FAULT: kinds 5 to 7 of a speaker that plays; the fourth overcurrent within 10 s keeps it in FAULT (R421). -/
def doSpkFault (o kind : Nat) (d : Dev) : Dev :=
  if spkState d o ≠ 2 then d
  else
    let recent := (spkOf d o).times.filter (fun t => decide (d.us < t + 10000000)) ++ [d.us]
    let d := if kind = 5 then modSpk o (fun s => { times := recent, stuck := s.stuck || decide (4 ≤ recent.length) }) d else d
    spkFail o kind d
def execSpkFault (o : Fin 4) (kind : Fin 3) (s : State) := onDev (doSpkFault o.val (kind.val + 5)) s

/-- SPK_RECOVERY: the load check runs again; after kind 6 once VSPK is valid, after kind 7 at 10 °C below the junction limit
(R421). -/
def doSpkRecovery (o : Nat) (d : Dev) : Dev :=
  let kind := rf d (.afe 0) (Reg.Afe0.SPK_STAT o) 26 24
  let still := kind < 5 ∨ (kind = 6 ∧ railBad d 12 = true) ∨ (kind = 7 ∧ junctionLimit < daleTemp d + 10)
  if spkState d o = 3 ∧ ¬still ∧ (spkOf d o).stuck = false then setSpk o 1 d else d
def execSpkRecovery (o : Fin 4) (s : State) := onDev (doSpkRecovery o.val) s

/-- FELL_AUDIO_LOSS: the Fell-fed speakers and earpieces that are on end at 0 until a Fell sample frame comes again (R425). -/
def doFellAudioLoss (d : Dev) : Dev :=
  let on := fun c =>
    if c < 0x34 then spkState d (c - 0x30) == 2
    else rb d (.afe 0) (Reg.Afe0.HS_CFG ((c - 0x34) / 2)) 31 && rb d (.afe 0) (Reg.Afe0.HS_STAT ((c - 0x34) / 2)) 31
  modAfe (fun a => { a with lost := true })
    (if d.afe.lost then d else forN (fun k => when (on (0x30 + k)) (emit (.audio (0x30 + k) 0))) 8 d)
def execFellAudioLoss (s : State) := onDev doFellAudioLoss s

/-- AFE_RESTART: RESTART ends the isolation of the AFE pages (R430). -/
def afeCtrl (v : Word) (d : Dev) : Dev :=
  plainWrite (.afe 0) Reg.Afe0.AFE_CTRL v
    (when (bitOf v 31) (forN (fun k d => if isoOf d (.afe k) then endIso (.afe k) d else d) 2) d)
def doAfeRestart (who : Party) (d : Dev) : Dev :=
  onWrite who (.afe 0) Reg.Afe0.AFE_CTRL (fun d => afeCtrl (putBit (rg d (.afe 0) Reg.Afe0.AFE_CTRL) 31 true) d) d
def execAfeRestart (who : Party) (s : State) := onDev (doAfeRestart who) s

end Sys2Proof.Machine
end

