-- ==== Sys2Proof/Machine/Surface.lean ====
section
/-! DEFINITION. Writing Fleece surfaces to memory block row by block row (R129–R133, R157, R230), for camera streams and
writeback engines. A row of samples lists for each pixel its components in the order of R133. -/
namespace Sys2Proof.Machine

/-- The sample of a block at a place, or a value that the spec leaves open beyond the edge of the surface. -/
def sampleAt (tag n : Nat) (rows : List (List (List Nat))) (r c k : Nat) : Nat :=
  match (rows[r]?).bind (·[c]?) with
  | some p => p.getD k 0
  | none => Config.freeNat tag (r * 65536 + c * 8 + k) % 2 ^ n

/-- Block `bx` of a row of blocks whose lines are `rows`. -/
def blockOf (tag f : Nat) (rows : List (List (List Nat))) (bx : Nat) : BlockSamples :=
  let shape := packShape f
  { fmt := f
    comps := (List.range shape.length).map (fun k =>
      let s := shape.getD k (0, 0)
      (List.range s.2).map (fun i =>
        if s.2 = 64 then sampleAt tag s.1 rows (i / 8) (8 * bx + i % 8) k
        else sampleAt tag s.1 rows (i / 4) (8 * bx + 2 * (i % 4)) k)) }

/-- The descriptor and payload of one block written: whether both writes passed the check. -/
def writeBlock (w : Who) (l : Lane) (base f wd ht k : Nat) (b : BlockSamples) (r : Bool × Dev) : Bool × Dev :=
  if !r.1 then r
  else
    let x := blockWrite b
    let a := memWrite w l (base + 64 + 8 * k) (leBytes 8 x.1) r.2
    if x.2 = [] then a
    else
      let q := memWrite w l (base + payloadOff wd ht + fleeceSlot f * k) x.2 a.2
      (a.1 && q.1, q.2)

/-- Row `by` of the blocks of a surface of `wd` × `ht` pixels. -/
def writeBlockRow (w : Who) (l : Lane) (base f wd ht brow : Nat) (rows : List (List (List Nat))) (d : Dev) : Bool × Dev :=
  (List.range (blocksOf wd)).foldl
    (fun r bx => writeBlock w l base f wd ht (brow * blocksOf wd + bx) (blockOf d.free f rows bx) r) (true, tick d)

/-- The surface header, written last (R157, R230). -/
def writeHeader (w : Who) (l : Lane) (base f wd ht gen : Nat) (d : Dev) : Bool × Dev :=
  memWrite w l base (fleeceHeader f wd ht (gen % 2 ^ 32) base) d

end Sys2Proof.Machine
end

