-- ==== Sys2Proof/Machine/Cam.lean ====
section
/-! DEFINITION. Camera inputs: CSI-2 ports, streams, line rings, DRAM destinations and dewarp engines (R217–R255). -/
namespace Sys2Proof.Machine

/-! ## Ports (R217, R218, R251) -/

/-- Field accesses of a CSI port. -/
def csiOn (d : Dev) (p : Nat) : Bool := rb d .cam (Reg.Cam.CSI_CTRL p) 0
def csiRate (d : Dev) (p : Nat) : Nat := rf d .cam (Reg.Cam.CSI_RATE p) 11 0

/-- Lanes of a LANES code. -/
def csiLanes (c : Nat) : Nat := if c = 0 then 1 else if c = 1 then 2 else 4

/-- The used LANE_ORDER fields name distinct physical lanes (R218). -/
def csiOrderOk (lane : Word) (n : Nat) : Bool :=
  let xs := (List.range n).map (fun i => fld lane (2 * i + 1) (2 * i))
  decide (xs.eraseDups.length = n)

/-- Why an enable is refused: 1 rate, 2 lanes, 3 lane order; 0 not (R218). -/
def csiRefuse (d : Dev) (p lanes : Nat) : Nat :=
  if csiRate d p < 80 ∨ 2500 < csiRate d p then 1
  else if lanes = 3 then 2
  else if !csiOrderOk (rg d .cam (Reg.Cam.CSI_LANE p)) (csiLanes lanes) then 3
  else 0

/-- RESTART ends the isolation of the CAM page at the next FS (R249). -/
def camRestart (d : Dev) : Dev := if isoOf d .cam then modCam (fun c => { c with restart := true }) d else d

/-- A write of CSI_CTRL (R218): LANES changes only while the port is off; setting ENABLE passes the checks. -/
def csiCtrl (p : Nat) (v : Word) (d : Dev) : Dev :=
  let d := when (bitOf v 31) camRestart d
  let off := Reg.Cam.CSI_CTRL p
  if csiOn d p then
    if bitOf v 0 then d else sb .cam (Reg.Cam.CSI_STAT p) 31 false (sb .cam off 0 false d)
  else
    let d := sf .cam off 2 1 (fld v 2 1) d
    if !bitOf v 0 then d
    else
      let r := csiRefuse d p (fld v 2 1)
      let d := sf .cam (Reg.Cam.CSI_STAT p) 3 0 r d
      if r ≠ 0 then raiseFault .cam Reg.Cam.SRC_CSI_REFUSED (Reg.Cam.EV_CSI_REFUSED + p) d
      else
        event .cam (Reg.Cam.EV_PORT_UP + p)
          (sg .cam (Reg.Cam.CSI_STAT p) (rg d .cam (Reg.Cam.CSI_STAT p) &&& 0x50000000) (sb .cam off 0 true d))

/-- CSI_PORT_ENABLE: the write with ENABLE 1. -/
def execCsiPortEnable (who : Party) (p : Fin 4) (v : Word) (s : State) :=
  onDev (onWrite who .cam (Reg.Cam.CSI_CTRL p.val) (csiCtrl p.val (v ||| 1))) s

/-- CSI_RESTART: the write with RESTART 1 and the other fields as they are. -/
def execCsiRestart (who : Party) (p : Fin 4) (s : State) :=
  onDev (onWrite who .cam (Reg.Cam.CSI_CTRL p.val)
    (fun d => csiCtrl p.val (rg d .cam (Reg.Cam.CSI_CTRL p.val) ||| 0x80000000) d)) s

/-- The lanes enter or leave ULPS (R217). -/
def doCsiUlps (p : Nat) (enter : Bool) (d : Dev) : Dev :=
  if csiOn d p && !stands d .cam then sb .cam (Reg.Cam.CSI_STAT p) 30 enter d else d

/-- CSI_ULPS. -/
def execCsiUlps (p : Fin 4) (enter : Bool) (s : State) := onDev (doCsiUlps p.val enter) s

/-! ## Streams (R220–R225) -/

/-- Field accesses of a stream. -/
def stCtrl (d : Dev) (n hi lo : Nat) : Nat := rf d (.stream n) Reg.Stream.STREAM_CTRL hi lo
def stWidth (d : Dev) (n : Nat) : Nat := rf d (.stream n) Reg.Stream.STREAM_SIZE 12 0
def stHeight (d : Dev) (n : Nat) : Nat := rf d (.stream n) Reg.Stream.STREAM_SIZE 28 16
def stType (d : Dev) (n : Nat) : Nat := stCtrl d n 13 8
def stDest (d : Dev) (n : Nat) : Nat := stCtrl d n 22 20
def stDw (d : Dev) (n : Nat) : Option Nat := if stCtrl d n 27 27 = 1 then some (stCtrl d n 26 24) else none

/-- The stream has a ring, writes DRAM, writes it as Fleece (R222). -/
def stRing (d : Dev) (n : Nat) : Bool := stDest d n == 0 || stDest d n == 3 || stDest d n == 4
def stDram (d : Dev) (n : Nat) : Bool := decide (1 ≤ stDest d n ∧ stDest d n ≤ 4)
def stFleece (d : Dev) (n : Nat) : Bool := stDest d n == 2 || stDest d n == 4

/-- Bytes per pixel of a data type in memory (R227), and the pipe format that matches it. -/
def typeBytes (t : Nat) : Nat := if t = 0x1F then 4 else if t = 0x24 then 3 else 2
def typeFormat (t : Nat) : Nat := if t = 0x1E then 0x10 else if t = 0x1F then 0x11 else if t = 0x22 then 0x03 else 0x06
def typeYuv (t : Nat) : Bool := t == 0x1E || t == 0x1F
def typeFleece (t : Nat) : Nat := if t = 0x1E then 0x30 else 0x31

/-- The pitch of a ring of lines of `w` pixels (R227). -/
def pitchOf (w t : Nat) : Nat := ceilDiv (w * typeBytes t) 64 * 64

/-- The extent of the stream's ring in Pasture, and of its dewarp output ring. -/
def ringEnd (d : Dev) (n : Nat) : Nat :=
  rf d (.stream n) Reg.Stream.RING_ADDR 24 0 + rf d (.stream n) Reg.Stream.RING_LINES 11 0 * pitchOf (stWidth d n) (stType d n)

/-- A mesh as the registers of an engine give it. -/
def meshRegs (d : Dev) (e : Nat) : MeshCfg :=
  { addr := rf d (.dw e) Reg.Dw.DW_MESH_ADDR 24 0
    cols := rf d (.dw e) Reg.Dw.DW_MESH_DIM 7 0, rows := rf d (.dw e) Reg.Dw.DW_MESH_DIM 23 16
    cellW := rf d (.dw e) Reg.Dw.DW_CELL 7 0, cellH := rf d (.dw e) Reg.Dw.DW_CELL 23 16 }
def MeshCfg.outW (m : MeshCfg) : Nat := (m.cols - 1) * m.cellW
def MeshCfg.outH (m : MeshCfg) : Nat := (m.rows - 1) * m.cellH

/-- A mesh node as a number (R234). -/
def meshNode (d : Dev) (m : MeshCfg) (c r : Nat) : Nat :=
  leNat (readBytes (pastByte d) (m.addr + 8 * (r * m.cols + c)) 8)
def nodeMask (x : Nat) : Bool := x.testBit 63
def nodeX (x : Nat) : Int := signed 30 x
def nodeY (x : Nat) : Int := signed 30 (x / 2 ^ 30)

/-- The unmasked SY ÷ 256 of the nodes of mesh rows r and r + 1, clamped to the input, in 1/256 line (R236). -/
def bandYs (d : Dev) (m : MeshCfg) (h r : Nat) : List Int :=
  (((List.range m.cols).map (fun c => meshNode d m c r)) ++ ((List.range m.cols).map (fun c => meshNode d m c (r + 1)))).filterMap
    (fun x => if nodeMask x then none else some (clampI 0 (256 * ((h : Int) - 1)) (nodeY x)))

/-- The input line that band r waits for; none for a band whose nodes are all masked (R236). -/
def bandNeed (d : Dev) (m : MeshCfg) (h r : Nat) : Option Nat :=
  match bandYs d m h r with
  | [] => none
  | y :: ys => some (min (((ys.foldl max y) / 256).toNat + 1) (h - 1))

/-- ⌊Ymin⌋ of band r. -/
def bandLow (d : Dev) (m : MeshCfg) (h r : Nat) : Nat :=
  match bandYs d m h r with
  | [] => 0
  | y :: ys => ((ys.foldl min y) / 256).toNat

/-- MESH_AHEAD and MESH_SPAN of a mesh (R236). -/
def meshAhead (d : Dev) (m : MeshCfg) (h : Nat) : Nat :=
  (List.range (m.rows - 1)).foldl (fun x r => match bandNeed d m h r with | some n => max x (n - r * m.cellH) | none => x) 0
def meshSpan (d : Dev) (m : MeshCfg) (h : Nat) : Nat :=
  (List.range (m.rows - 1)).foldl (fun x r => match bandNeed d m h r with | some n => max x (n + 1 - bandLow d m h r) | none => x) 0

/-- Why a mesh is refused (R237, R254): 1 DIM, 2 CELL, 3 RING, 4 ADDR, 5 RATE; 0 not. -/
def meshRefuse (d : Dev) (n : Nat) (m : MeshCfg) : Nat :=
  let size := 8 * m.cols * m.rows
  let below := decide (m.addr + size ≤ pastFold d)
  if ¬(2 ≤ m.cols ∧ m.cols ≤ 129 ∧ 2 ≤ m.rows ∧ m.rows ≤ 97) then 1
  else if ¬(4 ≤ m.cellW ∧ m.cellW ≤ 128 ∧ 4 ≤ m.cellH ∧ m.cellH ≤ 128 ∧ 64 ≤ m.outW ∧ m.outW ≤ 4096 ∧
      64 ≤ m.outH ∧ m.outH ≤ 4096) then 2
  else if m.addr % 64 ≠ 0 ∨ 0x2000000 < m.addr + size ∨ (stCtrl d n 19 18 = 0 ∧ !below) ∨
      (stCtrl d n 19 18 ≠ 0 ∧ !ownedByFold d (.stream n) ∧ m.addr < pastFold d) then 4
  else if rf d (.stream n) Reg.Stream.RING_LINES 11 0 < meshSpan d m (stHeight d n) + m.cellH + 4 then 3
  else if 400000000 * rf d (.stream n) Reg.Stream.FRAME_PERIOD 19 0 < m.outW * m.outH * 1000000 then 5
  else 0

/-- The limits on the stream's ring, or on its size and strides (R221, R222, R224, R233, R237). -/
def ringBad (d : Dev) (n : Nat) : Bool :=
  let a := rf d (.stream n) Reg.Stream.RING_ADDR 24 0
  let l := rf d (.stream n) Reg.Stream.RING_LINES 11 0
  decide (l < 8 ∨ 2048 < l ∨ a % 256 ≠ 0 ∨ 0x2000000 < ringEnd d n) ||
    (match stDw d n with | some e => meshRefuse d n (meshRegs d e) == 3 | none => false)

/-- Another enabled stream matches the same port, virtual channel and data type (R220). -/
def stDuplicate (d : Dev) (n : Nat) : Bool :=
  (List.range 16).any (fun m => m != n && (streamOf d m).on && stCtrl d m 5 4 == stCtrl d n 5 4 &&
    stCtrl d m 17 16 == stCtrl d n 17 16 && stType d m == stType d n)

/-- The size limits of R221. -/
def sizeBad (d : Dev) (n : Nat) : Bool :=
  let w := stWidth d n
  let h := stHeight d n
  let s := rf d (.stream n) Reg.Stream.DRAM_STRIDE 19 0
  decide (w < 64 ∨ 4096 < w ∨ h < 64 ∨ 4096 < h ∨ (typeYuv (stType d n) ∧ w % 2 = 1)) ||
    decide (s < w * typeBytes (stType d n) ∨ s % 64 ≠ 0 ∨ 1048512 < s)

/-- A class-S stream breaks R224, or the class is reserved, or a party other than the Fold world asks for class S. -/
def classBad (d : Dev) (by_ : Party) (n : Nat) : Bool :=
  let c := stCtrl d n 19 18
  c == 3 || (c == 0 && (by_ != .fold || (stRing d n && decide (pastFold d < ringEnd d n)) ||
    (match stDw d n with
     | some e => decide (pastFold d < rf d (.dw e) Reg.Dw.DW_OUT_ADDR 24 0 + 8 * pitchOf (meshRegs d e).outW (stType d n))
     | none => false)))

/-- The stream's dewarp settings break R222, R233 or R237. -/
def dewarpBad (d : Dev) (n : Nat) : Bool :=
  match stDw d n with
  | none => false
  | some e =>
    !stRing d n || ((dwOf d e).serves != none && (dwOf d e).serves != some n) || meshRefuse d n (meshRegs d e) != 0 ||
      decide (rf d (.dw e) Reg.Dw.DW_OUT_ADDR 24 0 % 256 ≠ 0 ∨
        0x2000000 < rf d (.dw e) Reg.Dw.DW_OUT_ADDR 24 0 + 8 * pitchOf (meshRegs d e).outW (stType d n))

/-- Why the enable of a stream is refused, by the codes of STREAM_STAT.REFUSE in their order (R252); 0 not. -/
def streamRefuse (d : Dev) (by_ : Party) (n : Nat) : Nat :=
  if !csiOn d (stCtrl d n 5 4) then 1
  else if !([0x1E, 0x1F, 0x22, 0x24].contains (stType d n)) || (stFleece d n && !typeYuv (stType d n)) then 2
  else if stDuplicate d n then 3
  else if sizeBad d n then 4
  else if ringBad d n then 5
  else if classBad d by_ n then 6
  else if dewarpBad d n then 7
  else if rf d (.stream n) Reg.Stream.FRAME_PERIOD 19 0 < 1000 ∨ 1000000 < rf d (.stream n) Reg.Stream.FRAME_PERIOD 19 0 then 8
  else if 5 ≤ stDest d n then 9
  else 0

/-- A mesh enters use: MESH_AHEAD, MESH_SPAN and OUT_SIZE follow (R236). -/
def useMesh (e n : Nat) (m : MeshCfg) (d : Dev) : Dev :=
  let h := stHeight d n
  let d := modDw e (fun w => { w with mesh := some m }) d
  sg (.dw e) Reg.Dw.MESH_AHEAD (BitVec.ofNat 32 (meshAhead d m h % 4096))
    (sg (.dw e) Reg.Dw.MESH_SPAN (BitVec.ofNat 32 (meshSpan d m h % 4096))
      (sg (.dw e) Reg.Dw.OUT_SIZE (BitVec.ofNat 32 (m.outH % 8192 * 65536 + m.outW % 8192)) d))

/-- The engines that serve a stream follow its owner, but for one whose page is locked (R44, R254). -/
def dwFollow (n : Nat) (d : Dev) : Dev :=
  forN (fun e d => if (dwOf d e).serves = some n ∧ rb d (.dw e) Reg.OWNER 31 = false then
    sg (.dw e) Reg.OWNER (putBit (rg d (.stream n) Reg.OWNER) 31 false) d else d) 8 d

/-- The engine serves a stream from its enable (R233), and its OWNER follows the stream's (R254). -/
def dwServe (e n : Nat) (d : Dev) : Dev :=
  let d := modDw e (fun _ => { serves := some n }) d
  useMesh e n (meshRegs d e) (sb (.dw e) Reg.Dw.DW_STAT 31 true (dwFollow n d))

/-- The engine of a stream becomes free. -/
def dwFree (n : Nat) (d : Dev) : Dev :=
  forN (fun e d => if (dwOf d e).serves = some n then
    sb (.dw e) Reg.Dw.DW_STAT 31 false (modDw e (fun _ => {}) d) else d) 8 d

/-- The stream stands: it takes no packet any more. -/
def streamStop (n : Nat) (d : Dev) : Dev :=
  dwFree n (sg (.stream n) Reg.Stream.STREAM_STAT (rg d (.stream n) Reg.Stream.STREAM_STAT &&& 0x0403000F)
    (sb (.stream n) Reg.Stream.STREAM_CTRL 0 false
      (modStream n (fun s => { ({} : StreamS) with restart := s.restart, wrote := s.wrote }) d)))

/-- The stream starts: FRAME_SEQ counts from its enable. -/
def streamStart (n : Nat) (d : Dev) : Dev :=
  let d := modStream n (fun s => { ({} : StreamS) with on := true, restart := s.restart }) d
  let d := sg (.stream n) Reg.Stream.FRAME_SEQ 0 d
  let d := sf (.stream n) Reg.Stream.STREAM_STAT 31 27 0x02 d
  let d := sb (.stream n) Reg.Stream.STREAM_STAT 27 (stDram d n && !d.boot.dramUp) d
  match stDw d n with
  | some e => dwServe e n d
  | none => d

/-- A write of STREAM_CTRL. While the stream is on, FROZEN_HOLD, BAD_LINE_HOLD and the clearing of ENABLE alone take effect,
the last at the next FS (R225). -/
def streamCtrl (by_ : Party) (n : Nat) (v : Word) (d : Dev) : Dev :=
  let p := Page.stream n
  let o := Reg.Stream.STREAM_CTRL
  let d := when (bitOf v 31 && isoOf d p) (modStream n (fun s => { s with restart := true })) d
  if (streamOf d n).on then
    let d := sf p o 30 29 (fld v 30 29) d
    if bitOf v 0 then d else modStream n (fun s => { s with stopping := true }) (sb p o 0 false d)
  else
    let old := rg d p o
    let d := plainWrite p o (v &&& 0xFFFFFFFE) d
    if !bitOf v 0 then d
    else
      let r := streamRefuse d by_ n
      let d := sf p Reg.Stream.STREAM_STAT 3 0 r d
      if r = 0 then streamStart n (sb p o 0 true d)
      else
        let d := when (r == 6) (sf p o 19 18 (fld old 19 18)) d
        event p Reg.Stream.EV_STREAM_REFUSED d

/-- STREAM_ENABLE: the write with ENABLE 1. -/
def execStreamEnable (who : Party) (n : Fin 16) (v : Word) (s : State) :=
  onDev (onWrite who (.stream n.val) Reg.Stream.STREAM_CTRL (streamCtrl who n.val (v ||| 1))) s

/-- STREAM_RESTART: the write with RESTART 1 and the other fields as they are. -/
def execStreamRestart (who : Party) (n : Fin 16) (s : State) :=
  onDev (onWrite who (.stream n.val) Reg.Stream.STREAM_CTRL
    (fun d => streamCtrl who n.val (rg d (.stream n.val) Reg.Stream.STREAM_CTRL ||| 0x80000000) d)) s

/-! ## Frames (R219, R226, R231, R247, R248) -/

/-- An irregularity of a stream's input: ERR_COUNT.LINE and LINE_ERR (R226). -/
def lineErr (n : Nat) (d : Dev) : Dev :=
  event (.stream n) Reg.Stream.EV_LINE_ERR (bump (.stream n) Reg.Stream.ERR_COUNT 15 0 d)

/-- LINE_ERR for a packet that no one stream takes: in the streams of the port that are in a frame (DESIGN CHOICE: R226 sets the
event and does not say in which page). -/
def portLineErr (p : Nat) (d : Dev) : Dev :=
  (List.range 16).foldl (fun d n => if (streamOf d n).inFrame && stCtrl d n 5 4 == p then
    event (.stream n) Reg.Stream.EV_LINE_ERR d else d) d

/-- A packet is dropped as unmatched, or as of an unsupported data type or a non-zero VCX (R226). -/
def csiDrop (p : Nat) (unmatched : Bool) (d : Dev) : Dev :=
  portLineErr p (if unmatched then bump .cam (Reg.Cam.CSI_DROP p) 31 16 d else bump .cam (Reg.Cam.CSI_DROP p) 15 0 d)

/-- A packet whose header check ended: 1 is a corrected header, 2 a dropped packet (R217, R226). `true` where it is used. -/
def csiHeader (p hdr : Nat) (d : Dev) : Bool × Dev :=
  if hdr = 1 then (true, bump .cam (Reg.Cam.CSI_ERR p) 31 24 d)
  else if hdr = 0 then (true, d)
  else
    (false, portLineErr p (raiseFault .cam Reg.Cam.SRC_HDR_ERR (Reg.Cam.EV_HDR_ERR + p) (bump .cam (Reg.Cam.CSI_ERR p) 23 16 d)))

/-- High-speed traffic is seen: HS_ACTIVE, and DESKEW_DONE above 1,500 Mbit/s, where the transmitter must have sent the
initial deskew sequence (R217). -/
def csiTraffic (p : Nat) (d : Dev) : Dev :=
  sb .cam (Reg.Cam.CSI_STAT p) 29 (rb d .cam (Reg.Cam.CSI_STAT p) 29 || decide (1500 < csiRate d p))
    (sb .cam (Reg.Cam.CSI_STAT p) 31 true d)

/-- A packet reaches an enabled port that is not isolated. -/
def csiTakes (d : Dev) (p : Nat) : Bool := csiOn d p && !stands d .cam

/-- The next DRAM buffer after the last one written that is not held, of BUFS buffers (R231). -/
def nextBuf (d : Dev) (n : Nat) : Option Nat :=
  let k := rf d (.stream n) Reg.Stream.DRAM_BUF 1 0 + 1
  let from_ := match (streamOf d n).wrote with | some b => b + 1 | none => 0
  ((List.range k).map (fun i => (from_ + i) % k)).find? (fun b => !rb d (.stream n) Reg.Stream.DRAM_BUF (8 + b))

/-- The bytes of a DRAM buffer and the address of buffer `k` (R230). -/
def bufSize (d : Dev) (n : Nat) : Nat :=
  let b := if stFleece d n then fleeceFoot (typeFleece (stType d n)) (stWidth d n) (stHeight d n)
    else stHeight d n * rf d (.stream n) Reg.Stream.DRAM_STRIDE 19 0
  ceilDiv b 4096 * 4096
def bufAddr (d : Dev) (n k : Nat) : Nat := rg64 d (.stream n) Reg.Stream.DRAM_ADDR_LO + k * bufSize d n

/-- The DRAM side of a new frame: a buffer is chosen, or the frame is dropped (R230, R231). -/
def chooseBuf (n : Nat) (d : Dev) : Dev :=
  if !stDram d n then d
  else if !d.boot.dramUp then sb (.stream n) Reg.Stream.STREAM_STAT 27 true d
  else
    let d := sb (.stream n) Reg.Stream.STREAM_STAT 27 false d
    match nextBuf d n with
    | some b => modStream n (fun s => { s with buf := some b, wrote := some b }) d
    | none => event (.stream n) Reg.Stream.EV_FRAME_DROP (bump (.stream n) Reg.Stream.DROP_COUNT 15 0 d)

/-- A mesh that waits is checked at FS (R238). -/
def meshAtFs (n : Nat) (d : Dev) : Dev :=
  match stDw d n with
  | none => d
  | some e =>
    let p := Page.dw e
    let d := if isoOf d p && (dwOf d e).restart then endIso p (modDw e (fun w => { w with restart := false }) d) else d
    let d := modDw e (fun w => { w with seq := (streamOf d n).seq, next := 0 }) d
    if !rb d p Reg.Dw.DW_STAT 30 then d
    else
      let r := meshRefuse d n (meshRegs d e)
      let d := sf p Reg.Dw.DW_STAT 3 0 r (sb p Reg.Dw.DW_STAT 30 false d)
      if r = 0 then event p Reg.Dw.EV_MESH_APPLIED (useMesh e n (meshRegs d e) d)
      else raiseFault p Reg.Dw.SRC_MESH_REFUSED Reg.Dw.EV_MESH_REFUSED (bump p Reg.Dw.DW_COUNT 31 16 d)

/-- A frame start of stream `n`, or a frame begin of a lead head, gives a sync edge to the heads whose source it is (R190). -/
def edgesOf (code : Nat) (d : Dev) : Dev :=
  forN (fun h d => if (headOf d h).run && fld (BitVec.ofNat 32 (headOf d h).src) 15 8 == code then
    modHead h (fun s => { s with edgeDue := s.edgeDue + 1 }) d else d) 8 d

/-- A frame start for one stream (R219, R225, R226, R231, R247, R249). -/
def streamFs (n : Nat) (d : Dev) : Dev :=
  let p := Page.stream n
  let s := streamOf d n
  let d := when s.inFrame (fun d => sf p Reg.Stream.LINE_COUNT 12 0 s.line (lineErr n d)) d
  if s.stopping then streamStop n d
  else
    let d := if isoOf d p && s.restart then endIso p (modStream n (fun s => { s with restart := false }) d) else d
    if stands d p then modStream n (fun s => { s with inFrame := false }) (sb p Reg.Stream.STREAM_STAT 31 false d)
    else
      let d := edgesOf (0x10 + n) d
      let d := when s.lost (event p Reg.Stream.EV_STREAM_BACK) d
      let d := modStream n (fun s => { s with
        inFrame := true, seq := s.seq + 1, line := 0, buf := none, rows := [], lost := false
        crc := (leBytes 4 n).foldl (crcReflByte 0x82F63B78) 0xFFFFFFFF }) d
      let d := sg p Reg.Stream.FRAME_SEQ (BitVec.ofNat 32 (s.seq + 1)) d
      let d := sb p Reg.Stream.STREAM_STAT 31 true (sb p Reg.Stream.STREAM_STAT 30 false (sb p Reg.Stream.STREAM_STAT 28 false d))
      meshAtFs n (chooseBuf n d)

/-- The streams that a port and virtual channel feed. -/
def streamsOf (d : Dev) (p vc : Nat) : List Nat :=
  (List.range 16).filter (fun n => (streamOf d n).on && stCtrl d n 5 4 == p && stCtrl d n 17 16 == vc)

/-- A frame packet goes to the streams of its port and channel, or is dropped (R226). -/
def csiEach (act : Nat → Dev → Dev) (p vc : Nat) (d : Dev) : Dev :=
  if ¬(vc < 4) then csiDrop p false d
  else match streamsOf d p vc with
    | [] => csiDrop p true d
    | ns => ns.foldl (fun d n => act n d) d

/-- A frame-start packet. RESTART of an isolated CAM page takes effect at it. -/
def doCsiFs (p vc hdr : Nat) (d : Dev) : Dev :=
  let d := if isoOf d .cam && d.cam.restart then endIso .cam (modCam (fun c => { c with restart := false }) d) else d
  if !csiTakes d p then d
  else
    let h := csiHeader p hdr (csiTraffic p d)
    if h.1 then csiEach streamFs p vc h.2 else h.2

/-- CSI_FS. -/
def execCsiFs (p : Fin 4) (vc hdr : Nat) (s : State) := onDev (doCsiFs p.val vc hdr) s

/-! ## Lines (R226–R228, R232) -/

/-- The samples of a CSI-2 line in the order that memory holds them: the packings of CSI-2 for YUV422 send Cb, Y0, Cr, Y1,
and pack four 10-bit samples into five bytes (R217, R227). -/
def unpack8 : Nat → List Byte → List Byte
  | 0, _ => []
  | k + 1, bs =>
    match bs with
    | cb :: y0 :: cr :: y1 :: rest => y0 :: cb :: y1 :: cr :: unpack8 k rest
    | _ => []
def unpack10 : Nat → List Byte → List Byte
  | 0, _ => []
  | k + 1, bs =>
    match bs with
    | cb :: y0 :: cr :: y1 :: low :: rest =>
      let v := fun (b : Byte) i => leBytes 2 (b.toNat * 4 + fld (low.setWidth 32) (2 * i + 1) (2 * i))
      v y0 1 ++ v cb 0 ++ v y1 3 ++ v cr 2 ++ unpack10 k rest
    | _ => []

/-- A line's bytes in the memory layout of R113. -/
def lineBytes (t : Nat) (payload : List Byte) : List Byte :=
  if t = 0x1E then unpack8 (payload.length / 4) payload
  else if t = 0x1F then unpack10 (payload.length / 5) payload
  else payload.take (payload.length / typeBytes t * typeBytes t)

/-- A line brought to WIDTH pixels: longer ones are cut, shorter ones repeat their last pixel, in 4:2:2 with the chroma of
its pair (R226). A line without a pixel takes bytes that the spec leaves open. -/
def fitLine (tag t w : Nat) (bs : List Byte) : List Byte :=
  let n := typeBytes t
  if w * n ≤ bs.length then bs.take (w * n)
  else if bs.length = 0 then (List.range (w * n)).map (fun i => Config.freeByte tag i)
  else
    let last := if t = 0x1E then
        let q := bs.drop (bs.length - 4)
        [q.getD 2 0, q.getD 1 0, q.getD 2 0, q.getD 3 0]
      else if t = 0x1F then
        let q := bs.drop (bs.length - 8)
        (q.drop 4).take 2 ++ (q.drop 2).take 2 ++ (q.drop 4).take 2 ++ q.drop 6
      else bs.drop (bs.length - n)
    (bs ++ (List.replicate w last).flatten).take (w * n)

/-- A DRAM or ring write failed the ownership check: the frame is abandoned (R232). -/
def streamWriteFault (n : Nat) (d : Dev) : Dev :=
  raiseFault (.stream n) Reg.Stream.SRC_WRITE_FAULT Reg.Stream.EV_WRITE_FAULT
    (bump (.stream n) Reg.Stream.DROP_COUNT 31 16 (modStream n (fun s => { s with buf := none, rows := [] }) d))

/-- The samples of a line of YUV bytes, Y, Cb, Cr for each pixel, in the width of the data type. -/
def yuvSamples (t : Nat) (bs : List Byte) : List (List Nat) :=
  let v := fun i => if t = 0x1E then (bs.getD i 0).toNat else leNat ((bs.drop (2 * i)).take 2) % 1024
  (List.range (bs.length / typeBytes t)).map (fun x => [v (2 * x), v (4 * (x / 2) + 1), v (4 * (x / 2) + 3)])

/-- The DRAM side of a line: written at its place, or kept until a row of Fleece blocks is complete. -/
def lineToDram (n line : Nat) (bs : List Byte) (d : Dev) : Dev :=
  match (streamOf d n).buf with
  | none => d
  | some b =>
    let w := Who.party (ownerParty d (.stream n))
    let l : Lane := { tier := 0, iso := true }
    let base := bufAddr d n b
    if !stFleece d n then
      let r := memWrite w l (base + line * rf d (.stream n) Reg.Stream.DRAM_STRIDE 19 0) bs d
      if r.1 then r.2 else streamWriteFault n r.2
    else
      let rows := (streamOf d n).rows ++ [bs]
      if rows.length < 8 ∧ line + 1 ≠ stHeight d n then modStream n (fun s => { s with rows := rows }) d
      else
        let r := writeBlockRow w l base (typeFleece (stType d n)) (stWidth d n) (stHeight d n) (line / 8)
          (rows.map (yuvSamples (stType d n))) (modStream n (fun s => { s with rows := [] }) d)
        if r.1 then r.2 else streamWriteFault n r.2

/-- The ring side of a line: the bytes, then the tag (R227, R228). -/
def lineToRing (n line : Nat) (bad : Bool) (bs : List Byte) (d : Dev) : Dev :=
  if !stRing d n then d
  else
    let slot := line % rf d (.stream n) Reg.Stream.RING_LINES 11 0
    let a := pastBase + rf d (.stream n) Reg.Stream.RING_ADDR 24 0 + slot * pitchOf (stWidth d n) (stType d n)
    let r := memWrite (.party (ownerParty d (.stream n))) { tier := 0 } a bs d
    if r.1 then
      modStream n (fun s => { s with tags := tabSet (fun _ => none) s.tags slot (some { seq := s.seq, line := line, bad := bad }) }) r.2
    else streamWriteFault n r.2

/-- A line packet for one stream (R220, R226, R228, R246, R248). -/
def streamLine (n : Nat) (crcOk : Bool) (t : Nat) (payload : List Byte) (d : Dev) : Dev :=
  let p := Page.stream n
  let s := streamOf d n
  if stands d p then d
  else if !s.inFrame then lineErr n d
  else if stHeight d n ≤ s.line then modStream n (fun s => { s with line := s.line + 1 }) (lineErr n d)
  else
    let ty := stType d n
    let w := stWidth d n
    let raw := lineBytes ty payload
    let d := when (raw.length != w * typeBytes ty) (lineErr n) d
    let d := when (!crcOk) (event p Reg.Stream.EV_LINE_ERR) d
    let bad := !crcOk && rb d p Reg.Stream.STREAM_CTRL 29
    let bs := fitLine d.free ty w raw
    let d := tick d
    let d := when (s.line == 0) (sg p Reg.Stream.FS_TO_L0 (BitVec.ofNat 32 t)) d
    let d := lineToDram n s.line bs (lineToRing n s.line bad bs d)
    modStream n (fun x => { x with
      line := s.line + 1, tLast := t, t0 := if s.line = 0 then t else s.t0
      crc := payload.foldl (crcReflByte 0x82F63B78) x.crc }) d

/-- A long packet (R217, R220, R226). -/
def doCsiLongPacket (p vc dt hdr : Nat) (crcOk : Bool) (t : Nat) (payload : List Byte) (d : Dev) : Dev :=
  if !csiTakes d p then d
  else
    let h := csiHeader p hdr (csiTraffic p d)
    if !h.1 then h.2
    else if ¬(vc < 4) ∨ !([0x1E, 0x1F, 0x22, 0x24].contains dt) then csiDrop p false h.2
    else
      let d := when (!crcOk) (bump .cam (Reg.Cam.CSI_ERR p) 15 0) h.2
      match (streamsOf d p vc).filter (fun n => stType d n == dt) with
      | [] => csiDrop p true d
      | ns => ns.foldl (fun d n => streamLine n crcOk t payload d) d

/-- CSI_LONG_PACKET. -/
def execCsiLongPacket (p : Fin 4) (vc dt hdr : Nat) (crcOk : Bool) (t : Nat) (payload : List Byte) (s : State) :=
  onDev (doCsiLongPacket p.val vc dt hdr crcOk t payload) s

/-! ## The end of a frame -/

/-- The repeat count of a complete frame (R248). -/
def frozenJudge (n : Nat) (crc : Word) (d : Dev) : Dev :=
  let p := Page.stream n
  let s := streamOf d n
  let limit := rf d p Reg.Stream.FROZEN_N 7 0
  if s.prevCrc = some crc then
    let k := s.repeats + 1
    let d := modStream n (fun s => { s with repeats := k }) d
    if limit ≠ 0 ∧ k = limit then
      let d := modStream n (fun s => { s with frozen := true }) (sb p Reg.Stream.STREAM_STAT 29 true d)
      raiseFault p Reg.Stream.SRC_STREAM_FROZEN Reg.Stream.EV_STREAM_FROZEN (bump p Reg.Stream.ERR_COUNT 23 16 d)
    else d
  else
    modStream n (fun s => { s with repeats := 0, prevCrc := some crc, frozen := false
                                   okFrom := if s.frozen && rb d p Reg.Stream.STREAM_CTRL 30 then s.seq + 1 else s.okFrom })
      (sb p Reg.Stream.STREAM_STAT 29 false d)

/-- A frame's DRAM side ends: any Fleece header, then FRAME_DONE (R230, R231). -/
def dramDone (n : Nat) (d : Dev) : Dev :=
  match (streamOf d n).buf with
  | none => d
  | some b =>
    let done := fun d => event (.stream n) Reg.Stream.EV_FRAME_DONE (sf (.stream n) Reg.Stream.STREAM_STAT 17 16 b d)
    if !stFleece d n then done d
    else
      let r := writeHeader (.party (ownerParty d (.stream n))) { tier := 0, iso := true } (bufAddr d n b)
        (typeFleece (stType d n)) (stWidth d n) (stHeight d n) (streamOf d n).seq d
      if r.1 then done r.2 else streamWriteFault n r.2

/-- A frame end for one stream (R226, R231, R246, R248). -/
def streamFe (n : Nat) (d : Dev) : Dev :=
  let p := Page.stream n
  let s := streamOf d n
  if !s.inFrame then d
  else if stands d p then modStream n (fun s => { s with inFrame := false }) (sb p Reg.Stream.STREAM_STAT 31 false d)
  else
    let h := stHeight d n
    let d := modStream n (fun s => { s with inFrame := false }) (sb p Reg.Stream.STREAM_STAT 31 false d)
    let d := sf p Reg.Stream.LINE_COUNT 12 0 s.line d
    if s.line < h then modStream n (fun s => { s with buf := none, rows := [] }) (lineErr n d)
    else
      let crc := s.crc ^^^ 0xFFFFFFFF
      let d := sg p Reg.Stream.FRAME_CRC crc d
      let d := sg p Reg.Stream.LINE_PERIOD (BitVec.ofNat 32 (freeDiv 5 ((s.tLast - s.t0 : Nat) : Int) (h - 1)).toNat) d
      let d := frozenJudge n crc d
      modStream n (fun s => { s with buf := none }) (dramDone n d)

/-- A frame-end packet. -/
def doCsiFe (p vc hdr : Nat) (d : Dev) : Dev :=
  if !csiTakes d p then d
  else
    let h := csiHeader p hdr (csiTraffic p d)
    if h.1 then csiEach streamFe p vc h.2 else h.2

/-- CSI_FE. -/
def execCsiFe (p : Fin 4) (vc hdr : Nat) (s : State) := onDev (doCsiFe p.val vc hdr) s

/-- A loss of a head's lock (R195): in CAPTURE and LOCKED it is reported; the head runs free on its profile. -/
def lockLoss (h : Nat) (d : Dev) : Dev :=
  let st := rf d (.head h) Reg.Head.HEAD_STAT 30 28
  let d := modHead h (fun s => { s with good := 0, jumped := false, aligned := 0, alignNext := false, goto_ := none }) d
  if st < 2 then d
  else
    let d := sb (.head h) Reg.Head.HEAD_STAT 22 false (sg (.head h) Reg.Head.TRIM 0 (sf (.head h) Reg.Head.HEAD_STAT 30 28 1 d))
    raiseFault (.head h) Reg.Head.SRC_LOCK_LOST Reg.Head.EV_LOCK_LOST (bump (.head h) Reg.Head.MISS_COUNT 31 16 d)

/-- No FS within 1.5 × FRAME_PERIOD (R247). -/
def doStreamLost (n : Nat) (d : Dev) : Dev :=
  let s := streamOf d n
  if !s.on || s.lost then d
  else
    let d := modStream n (fun s => { s with lost := true, okFrom := s.seq + 1 }) d
    let d := sb (.stream n) Reg.Stream.STREAM_STAT 30 true d
    let d := raiseFault (.stream n) Reg.Stream.SRC_STREAM_LOST Reg.Stream.EV_STREAM_LOST (bump (.stream n) Reg.Stream.ERR_COUNT 31 24 d)
    forN (fun h d => if fld (BitVec.ofNat 32 (headOf d h).src) 15 8 = 0x10 + n then lockLoss h d else d) 8 d

/-- STREAM_LOST. -/
def execStreamLost (n : Fin 16) (s : State) := onDev (doStreamLost n.val) s

/-! ## Dewarp (R233–R239) -/

/-- A write of DW_APPLY: bit 0 asks for the mesh at the next FS of the stream, bit 31 for the restart (R238, R249). -/
def dwApply (e : Nat) (v : Word) (d : Dev) : Dev :=
  let d := when (bitOf v 0) (sb (.dw e) Reg.Dw.DW_STAT 30 true) d
  when (bitOf v 31 && isoOf d (.dw e)) (modDw e (fun w => { w with restart := true })) d

/-- DW_APPLY: the write with bit 0. -/
def execDwApply (who : Party) (n : Fin 8) (s : State) :=
  onDev (onWrite who (.dw n.val) Reg.Dw.DW_APPLY (dwApply n.val 1)) s

/-- DW_RESTART: the write with bit 31. -/
def execDwRestart (who : Party) (n : Fin 8) (s : State) :=
  onDev (onWrite who (.dw n.val) Reg.Dw.DW_APPLY (dwApply n.val 0x80000000)) s

/-- The components of the pixels of a line in their own width, and their widths. -/
def typeWidths (t : Nat) : List Nat := if t = 0x1F then [10, 10, 10] else if t = 0x22 then [5, 6, 5] else [8, 8, 8]
def typeSamples (t : Nat) (bs : List Byte) : List (List Nat) :=
  if typeYuv t then yuvSamples t bs
  else (List.range (bs.length / typeBytes t)).map (fun x =>
    let v := leNat ((bs.drop (x * typeBytes t)).take (typeBytes t))
    if t = 0x22 then [v / 2048 % 32, v / 32 % 64, v % 32] else [v / 65536 % 256, v / 256 % 256, v % 256])

/-- A line of samples in the memory layout of its data type; output chroma of a 4:2:2 pair is the mean of the two, halves
up (R235). -/
def samplesBytes (t : Nat) (px : List (List Nat)) : List Byte :=
  let g := fun x k => ((px.getD x []).getD k 0)
  if typeYuv t then
    let n := if t = 0x1F then 2 else 1
    ((List.range (px.length / 2)).map (fun q => leBytes n (g (2 * q) 0) ++ leBytes n (mean2 (g (2 * q) 1) (g (2 * q + 1) 1)) ++
      leBytes n (g (2 * q + 1) 0) ++ leBytes n (mean2 (g (2 * q) 2) (g (2 * q + 1) 2)))).flatten
  else ((List.range px.length).map (fun x =>
    if t = 0x22 then leBytes 2 (g x 0 * 2048 + g x 1 * 32 + g x 2) else leBytes 3 (g x 0 * 65536 + g x 1 * 256 + g x 2))).flatten

/-- The source position of an output pixel in 1/256 pixel; none where a corner of its cell is masked (R235). -/
def meshPos (m : MeshCfg) (node : Nat → Nat → Nat) (u v : Nat) : Option (Int × Int) :=
  let c := u / m.cellW
  let du : Int := (u % m.cellW : Nat)
  let dv : Int := (v % m.cellH : Nat)
  let n := fun i j => node (c + i) j
  if nodeMask (n 0 0) || nodeMask (n 1 0) || nodeMask (n 0 1) || nodeMask (n 1 1) then none
  else
    let cw : Int := m.cellW
    let ch : Int := m.cellH
    let mix := fun (f : Nat → Int) =>
      roundDiv ((f (n 0 0) * (cw - du) + f (n 1 0) * du) * (ch - dv) + (f (n 0 1) * (cw - du) + f (n 1 1) * du) * dv)
        (m.cellW * m.cellH)
    some (mix nodeX, mix nodeY)

/-- DW_FILL in the widths of a data type: the most significant bits of its 10-bit components. -/
def fillOf (d : Dev) (e t : Nat) : List Nat :=
  let w := rg d (.dw e) Reg.Dw.DW_FILL
  ([fld w 29 20, fld w 19 10, fld w 9 0].zip (typeWidths t)).map (fun p => p.1 / 2 ^ (10 - p.2))

/-- One output pixel: the bilinear blend of four source pixels, or DW_FILL (R235). -/
def dewarpPx (w h : Nat) (line : Nat → List (List Nat)) (fill : List Nat) (pos : Option (Int × Int)) : List Nat :=
  match pos with
  | none => fill
  | some (x, y) =>
    if x < -128 ∨ 256 * (w : Int) - 128 < x ∨ y < -128 ∨ 256 * (h : Int) - 128 < y then fill
    else
      let at_ := fun (i j : Int) (k : Nat) =>
        (((line (clampI 0 ((h : Int) - 1) j).toNat).getD (clampI 0 ((w : Int) - 1) i).toNat []).getD k 0 : Nat)
      let i := x / 256
      let j := y / 256
      let fx := x % 256
      let fy := y % 256
      (List.range 3).map (fun k =>
        (roundDiv (((at_ i j k : Nat) * (256 - fx) + (at_ (i + 1) j k : Nat) * fx) * (256 - fy) +
          ((at_ i (j + 1) k : Nat) * (256 - fx) + (at_ (i + 1) (j + 1) k : Nat) * fx) * fy) 65536).toNat)

/-- A read by the engine that serves stream `n`, for the stream's owner (R319, R548). -/
def dwRead (n a len : Nat) (d : Dev) : MemAns × Dev :=
  memRead (.party (ownerParty d (.stream n))) { tier := 1 } (pastBase + a) len d

/-- Input lines of the stream as its ring holds them, and whether each read passed the check without a poisoned word. -/
def ringLines (n : Nat) : List Nat → Dev → (List (Nat × List Byte) × Bool) × Dev
  | [], d => (([], true), d)
  | s :: ss, d =>
    let l := rf d (.stream n) Reg.Stream.RING_LINES 11 0
    let r := dwRead n (rf d (.stream n) Reg.Stream.RING_ADDR 24 0 + s % l * pitchOf (stWidth d n) (stType d n))
      (stWidth d n * typeBytes (stType d n)) d
    let q := ringLines n ss r.2
    (((s, r.1.bytes) :: q.1.1, r.1.ok && !r.1.poison && q.1.2), q.2)

/-- The tag of line `s` in a ring of `l` slots. -/
def tagOf (tags : Tab (Option RingTag)) (l s : Nat) : Option RingTag := tabGet (fun _ => none) tags (s % l)

/-- The engine has what its next line needs: it serves a stream, is not isolated, and the input line that the band waits for is
visible (R236, R239). -/
def dwInput (d : Dev) (e : Nat) : Bool :=
  match (dwOf d e).serves, (dwOf d e).mesh with
  | some n, some m =>
    !stands d (.dw e) && decide ((dwOf d e).next < m.outH ∧ 0 < (dwOf d e).seq) &&
      (match bandNeed d m (stHeight d n) ((dwOf d e).next / m.cellH) with
       | none => true
       | some s => (match tagOf (streamOf d n).tags (rf d (.stream n) Reg.Stream.RING_LINES 11 0) s with
          | some t => t.seq == (dwOf d e).seq && t.line == s
          | none => false))
  | _, _ => false

/-- The input lines that a band needs. -/
def bandLines (d : Dev) (n : Nat) (m : MeshCfg) (r : Nat) : List Nat :=
  match bandNeed d m (stHeight d n) r with
  | none => []
  | some s => (List.range (s + 1 - bandLow d m (stHeight d n) r)).map (· + bandLow d m (stHeight d n) r)

/-- A band's input lines are marked bad. -/
def bandTagBad (d : Dev) (n : Nat) (m : MeshCfg) (r : Nat) : Bool :=
  (bandLines d n m r).any (fun i =>
    match tagOf (streamOf d n).tags (rf d (.stream n) Reg.Stream.RING_LINES 11 0) i with | some t => t.bad | none => false)

/-- The engine produces its next output line into the output ring of 8 slots (R233, R235, R239), from the nodes and the input
lines of its band, read with the check and the ECC of every access (R319, R546). A line with a poisoned word is bad; one for which
a read fails the check is bad and holds DW_FILL (DESIGN CHOICE: R320 names no reaction of an engine). -/
def dwProduce (e n : Nat) (m : MeshCfg) (d : Dev) : Dev :=
  let j := (dwOf d e).next
  let t := stType d n
  let band := j / m.cellH
  let lines := bandLines d n m band
  let tagBad := bandTagBad d n m band
  let nodes := dwRead n (m.addr + 8 * (band * m.cols)) (16 * m.cols) d
  let input := ringLines n lines nodes.2
  let good := nodes.1.ok && !nodes.1.poison && input.1.2
  let d := input.2
  let node := fun c r => leNat ((nodes.1.bytes.drop (8 * (r * m.cols + c))).take 8)
  let samples := input.1.1.map (fun l => (l.1, typeSamples t l.2))
  let line := fun s => ((samples.find? (fun l => l.1 == s)).map (·.2)).getD []
  let px := (List.range m.outW).map (fun u =>
    dewarpPx (stWidth d n) (stHeight d n) line (fillOf d e t) (if good then meshPos m node u j else none))
  let a := pastBase + rf d (.dw e) Reg.Dw.DW_OUT_ADDR 24 0 + j % 8 * pitchOf m.outW t
  let r := memWrite (.party (ownerParty d (.stream n))) { tier := 0 } a (samplesBytes t px) d
  modDw e (fun w => { w with next := j + 1, waits := false
                             made := w.made ++ [{ seq := w.seq, line := j, bad := tagBad || !good }] }) r.2

/-- The oldest line begun becomes visible to readers (R239); the last line of a frame counts it. -/
def doDwLineVisible (e : Nat) (d : Dev) : Dev :=
  match (dwOf d e).made with
  | [] => d
  | t :: ts =>
    let d := modDw e (fun w => { w with made := ts, tags := tabSet (fun _ => none) w.tags (t.line % 8) (some t) }) d
    match (dwOf d e).mesh with
    | some m => when (t.line + 1 == m.outH) (bump (.dw e) Reg.Dw.DW_FRAMES 31 0) d
    | none => d

/-- DW_LINE_VISIBLE. -/
def execDwLineVisible (n : Fin 8) (s : State) := onDev (doDwLineVisible n.val) s

/-! ## Direct readers (R240–R244) -/

/-- The ring that direct pipes read of a stream: its tags and slots, its first byte, the size of its picture. -/
structure DirectRing where
  tags : Tab (Option RingTag)
  slots : Nat
  base : Nat
  width : Nat
  height : Nat
deriving DecidableEq, Repr

/-- The dewarp output ring if the stream uses dewarp, and the stream's own ring otherwise (R240). -/
def directRing (d : Dev) (n : Nat) : DirectRing :=
  match stDw d n with
  | some e =>
    let m := match (dwOf d e).mesh with | some m => m | none => meshRegs d e
    { tags := (dwOf d e).tags, slots := 8, base := rf d (.dw e) Reg.Dw.DW_OUT_ADDR 24 0, width := m.outW, height := m.outH }
  | none =>
    { tags := (streamOf d n).tags, slots := rf d (.stream n) Reg.Stream.RING_LINES 11 0
      base := rf d (.stream n) Reg.Stream.RING_ADDR 24 0, width := stWidth d n, height := stHeight d n }

/-- The stream counts as lost for its direct layers, which read frame `f` of it (R241, R247–R249). -/
def directLost (d : Dev) (n f : Nat) : Bool :=
  let s := streamOf d n
  !s.on || s.lost || f == 0 || decide (f < s.okFrom) || (s.frozen && rb d (.stream n) Reg.Stream.STREAM_CTRL 30) ||
    stands d (.stream n) || stands d .cam || (match stDw d n with | some e => stands d (.dw e) | none => false)

/-- The test of ring line `s` for frame `f` (R228, R242): 0 shown, 1 late, 2 overrun, 3 marked bad. -/
def directTest (d : Dev) (n f s : Nat) : Nat :=
  let r := directRing d n
  match tagOf r.tags r.slots s with
  | none => 1
  | some t =>
    if t.seq = f ∧ t.line = s then (if t.bad then 3 else 0)
    else if f < t.seq ∨ (t.seq = f ∧ s < t.line) then 2 else 1

/-- The stream records the cause for which a direct line is not shown (R244). -/
def directCause (n c : Nat) (d : Dev) : Dev :=
  match c with
  | 1 => raiseFault (.stream n) Reg.Stream.SRC_RING_LATE Reg.Stream.EV_RING_LATE (bump (.stream n) Reg.Stream.RING_COUNT 31 16 d)
  | 2 => raiseFault (.stream n) Reg.Stream.SRC_RING_OVERRUN Reg.Stream.EV_RING_OVERRUN (bump (.stream n) Reg.Stream.RING_COUNT 15 0 d)
  | 3 => lineErr n d
  | _ => d

end Sys2Proof.Machine
end

