-- ==== Sys2Proof/Machine/Fetch.lean ====
section
/-! DEFINITION. What a layer pipe fetches: the configurations of R118, the lines of a source with the ownership check,
ECC and Fleece checks of every access (R126–R134, R144, R240–R242, R305, R306, R319–R321). -/
namespace Sys2Proof.Machine

/-! ## Configurations -/

/-- The staged registers of a pipe (R164); COEF_DATA is held as coefficients. -/
def stagedOffsets (p : Nat) : List Nat :=
  (List.range 24).map (fun i => 0x040 + 4 * i) ++
    (if p < 48 then [] else [Reg.Pipe.SCALE_CTRL, Reg.Pipe.H_STEP, Reg.Pipe.V_STEP, Reg.Pipe.H_PHASE, Reg.Pipe.V_PHASE,
      Reg.Pipe.DIRECT_SRC])

/-- What an unlisted register of a configuration of pipe `p` reads as. -/
def cfgReset (p o : Nat) : Word := regReset ((Page.pipe p).base + o)

/-- A register of a configuration. -/
def cfgReg (p : Nat) (c : LayerCfg) (o : Nat) : Word := tabGet (cfgReset p) c.regs o
/-- A field of a register of a configuration. -/
def cf (p : Nat) (c : LayerCfg) (o hi lo : Nat) : Nat := fld (cfgReg p c o) hi lo

def cEnable (p : Nat) (c : LayerCfg) : Bool := cf p c Reg.Pipe.CTRL 0 0 == 1
def cHead (p : Nat) (c : LayerCfg) : Nat := cf p c Reg.Pipe.CTRL 14 12
def cClass (p : Nat) (c : LayerCfg) : Nat := cf p c Reg.Pipe.CTRL 11 10
def cZ (p : Nat) (c : LayerCfg) : Nat := cf p c Reg.Pipe.CTRL 9 5
def cFmt (p : Nat) (c : LayerCfg) : Nat := cf p c Reg.Pipe.FORMAT 7 0
def cRot (p : Nat) (c : LayerCfg) : Nat := cf p c Reg.Pipe.FORMAT 17 16
def cMirror (p : Nat) (c : LayerCfg) : Bool := cf p c Reg.Pipe.FORMAT 18 18 == 1
def cBlend (p : Nat) (c : LayerCfg) : Nat := cf p c Reg.Pipe.FORMAT 21 20
def cAddr (p : Nat) (c : LayerCfg) : Nat := (cfgReg p c Reg.Pipe.SRC_ADDR_LO).toNat + 2 ^ 32 * (cfgReg p c Reg.Pipe.SRC_ADDR_HI).toNat
def cAddr2 (p : Nat) (c : LayerCfg) : Nat := (cfgReg p c Reg.Pipe.SRC_ADDR2_LO).toNat + 2 ^ 32 * (cfgReg p c Reg.Pipe.SRC_ADDR2_HI).toNat
def cStride (p : Nat) (c : LayerCfg) : Nat := cf p c Reg.Pipe.SRC_STRIDE 19 0
def cSx (p : Nat) (c : LayerCfg) : Nat := cf p c Reg.Pipe.SRC_XY 13 0
def cSy (p : Nat) (c : LayerCfg) : Nat := cf p c Reg.Pipe.SRC_XY 29 16
def cSw (p : Nat) (c : LayerCfg) : Nat := cf p c Reg.Pipe.SRC_WH 13 0
def cSh (p : Nat) (c : LayerCfg) : Nat := cf p c Reg.Pipe.SRC_WH 29 16
def cDx (p : Nat) (c : LayerCfg) : Nat := cf p c Reg.Pipe.DST_XY 13 0
def cDy (p : Nat) (c : LayerCfg) : Nat := cf p c Reg.Pipe.DST_XY 29 16
def cDw (p : Nat) (c : LayerCfg) : Nat := cf p c Reg.Pipe.DST_WH 13 0
def cDh (p : Nat) (c : LayerCfg) : Nat := cf p c Reg.Pipe.DST_WH 29 16
def cTaps (p : Nat) (c : LayerCfg) : Nat := cf p c Reg.Pipe.SCALE_CTRL 2 0
def cHdec (p : Nat) (c : LayerCfg) : Nat := match cf p c Reg.Pipe.SCALE_CTRL 5 4 with | 1 => 2 | 2 => 4 | _ => 1
def cVdec (p : Nat) (c : LayerCfg) : Nat := cf p c Reg.Pipe.SCALE_CTRL 6 6 + 1
def cCustom (p : Nat) (c : LayerCfg) : Bool := cf p c Reg.Pipe.SCALE_CTRL 8 8 == 1
def cInter (p : Nat) (c : LayerCfg) : Bool := cf p c Reg.Pipe.SCALE_CTRL 9 9 == 1
def cHstep (p : Nat) (c : LayerCfg) : Nat := cf p c Reg.Pipe.H_STEP 19 0
def cVstep (p : Nat) (c : LayerCfg) : Nat := cf p c Reg.Pipe.V_STEP 19 0
def cStream (p : Nat) (c : LayerCfg) : Nat := cf p c Reg.Pipe.DIRECT_SRC 3 0

/-- Width and height of the turned source (R126). -/
def cTw (p : Nat) (c : LayerCfg) : Nat := if cRot p c % 2 = 1 then cSh p c else cSw p c
def cTh (p : Nat) (c : LayerCfg) : Nat := if cRot p c % 2 = 1 then cSw p c else cSh p c

/-- A custom coefficient in units of 1/256 (R136). -/
def cCoef (c : LayerCfg) (table phase tap : Nat) : Int := signed 10 (tabGet (fun _ => 0) c.coefs (table * 512 + phase * 8 + tap))

/-- The staged state of a pipe (R118). -/
def stagedCfg (d : Dev) (p : Nat) : LayerCfg :=
  { owner := ownerOf d (.pipe p), coefs := (pipeOf d p).coefs
    regs := (stagedOffsets p).foldl (fun t o => tabSet (cfgReset p) t o (rg d (.pipe p) o)) [] }

/-- The registers that R186 calls fetch registers, with the fields of CTRL and FORMAT that count. -/
def fetchKey (p : Nat) (c : LayerCfg) : List Nat × Tab Nat :=
  ([cf p c Reg.Pipe.CTRL 0 0, cFmt p c, cRot p c, cf p c Reg.Pipe.FORMAT 18 18, cAddr p c, cAddr2 p c, cStride p c] ++
    ([Reg.Pipe.SRC_GEN, Reg.Pipe.SRC_XY, Reg.Pipe.SRC_WH] ++ (if p < 48 then [] else
      [Reg.Pipe.SCALE_CTRL, Reg.Pipe.H_STEP, Reg.Pipe.V_STEP, Reg.Pipe.H_PHASE, Reg.Pipe.V_PHASE, Reg.Pipe.DIRECT_SRC])).map
      (fun o => (cfgReg p c o).toNat), c.coefs)

/-- The surface that a configuration reads. -/
def surfaceOf (p : Nat) (c : LayerCfg) : Surface :=
  { pipe := p, what := [cFmt p c, cAddr p c, cAddr2 p c, cStride p c, (cfgReg p c Reg.Pipe.SRC_GEN).toNat] ++
      (if cFmt p c = 0x40 then [cStream p c] else []) }

/-- Gather as the Fell blocks see it: the wire, or the die's own gather (R517, R518). -/
def gatherNow (d : Dev) : Bool := d.tet.gather || rb d .tet Reg.Tet.TET_STAT 30

/-- Whose access the fetch of a configuration is, and its lane (R319, R548, R583). -/
def cfgWho (c : LayerCfg) : Who := .party (partyOf (c.owner / 65536) (c.owner % 65536))
def pipeLane (p : Nat) : Lane := { tier := 1, iso := decide (8 ≤ p) }

/-! ## Causes (R144, R168, R169) -/

/-- The EVENT bit, source and place in FAULT_COUNT of a cause given by its LAYER_STAT bit. -/
def causeOf : Nat → Nat × Nat
  | 3 => (Reg.Pipe.EV_LAYER_FAULT, Reg.Pipe.SRC_LAYER_FAULT)
  | 4 => (Reg.Pipe.EV_GEN_MISMATCH, Reg.Pipe.SRC_GEN_MISMATCH)
  | 5 => (Reg.Pipe.EV_FLEECE_CORRUPT, Reg.Pipe.SRC_FLEECE_CORRUPT)
  | _ => (Reg.Pipe.EV_POISON, Reg.Pipe.SRC_POISON)

/-- A cause of R144 arises in a pipe: its event, its fault and its count of frames, once in each (R164). -/
def pipeCause (p k : Nat) (d : Dev) : Dev :=
  let new := !(pipeOf d p).counted.testBit k
  let d := modPipe p (fun s => { s with counted := s.counted ||| 2 ^ k }) d
  let d := if new ∧ k = 3 then bump (.pipe p) Reg.Pipe.FAULT_COUNT 15 0 d
    else if new ∧ k = 4 then bump (.pipe p) Reg.Pipe.FAULT_COUNT 31 16 d else d
  raiseFault (.pipe p) (causeOf k).2 (causeOf k).1 d

/-- A cause holds the layer for the rest of the frame. -/
def holdPipe (p k : Nat) (d : Dev) : Dev := modPipe p (fun s => { s with holds := s.holds ||| 2 ^ k }) d

/-- A read by a pipe: the LAYER_STAT bit of its failure, or 0 and the bytes (R319, R320, R144). -/
def pipeRead (p : Nat) (c : LayerCfg) (a n : Nat) (d : Dev) : (Nat × List Byte) × Dev :=
  let r := memRead (cfgWho c) (pipeLane p) a n d
  ((if !r.1.ok then 3 else if r.1.poison then 6 else 0, r.1.bytes), r.2)

/-! ## Lines of a source -/

/-- A row of a linear source, pixels SRC_X to SRC_X + SRC_W − 1 (R113, R127, R138, R305). -/
def linearRow (p : Nat) (c : LayerCfg) (sy : Nat) (d : Dev) : (Nat × List Px) × Dev :=
  let f := cFmt p c
  let pair := isYuv f
  let x0 := if pair then cSx p c / 2 * 2 else cSx p c
  let n := if pair then ceilDiv (cSx p c + cSw p c - x0) 2 * 2 else cSw p c
  let r := pipeRead p c (cAddr p c + sy * cStride p c + x0 * fmtBytes f) (n * fmtBytes f) d
  if r.1.1 ≠ 0 then ((r.1.1, []), r.2)
  else if isPlanar f then
    let q := pipeRead p c (cAddr2 p c + sy / 2 * cStride p c + x0 * fmtBytes f) (n * fmtBytes f) r.2
    if q.1.1 ≠ 0 then ((q.1.1, []), q.2)
    else ((0, ((siteRow (cInter p c) (planarRow (fmtBytes f) (n / 2) r.1.2 q.1.2)).drop (cSx p c - x0)).take (cSw p c)), q.2)
  else
    let row :=
      if f = 0x08 then r.1.2.map (fun b => rgbPx 0 (leNat (((pipeOf d p).palette.drop (4 * b.toNat)).take 4)))
      else if f = 0x10 then siteRow (cInter p c) (yuv8Row (n / 2) r.1.2)
      else if f = 0x11 then siteRow (cInter p c) (yuv10Row (n / 2) r.1.2)
      else rgbRow f (fmtBytes f) n r.1.2
    ((0, (row.drop (cSx p c - x0)).take (cSw p c)), r.2)

/-- One Fleece block fetched and decoded (R131–R134). -/
def fleeceBlock (p : Nat) (c : LayerCfg) (k : Nat) (d : Dev) : (Nat × List Px) × Dev :=
  match (pipeOf d p).hdr with
  | none => ((5, []), d)
  | some h =>
    let f := cFmt p c
    let r := pipeRead p c (cAddr p c + 64 + 8 * k) 8 d
    if r.1.1 ≠ 0 then ((r.1.1, []), r.2)
    else
      let x := leNat r.1.2
      if descBad f x then ((5, []), r.2)
      else
        let q := if descFetch f x = 0 then ((0, []), r.2)
          else pipeRead p c (cAddr p c + h.2 + fleeceSlot f * k) (descFetch f x * 32) r.2
        if q.1.1 ≠ 0 then ((q.1.1, []), q.2)
        else match blockPx f x q.1.2 with
          | none => ((5, []), q.2)
          | some px => ((0, px), q.2)

/-- Blocks fetched one after the other; the first failure ends the fetch. -/
def fleeceBlocks (p : Nat) (c : LayerCfg) : List Nat → Dev → (Nat × List (List Px)) × Dev
  | [], d => ((0, []), d)
  | k :: ks, d =>
    let r := fleeceBlock p c k d
    if r.1.1 ≠ 0 then ((r.1.1, []), r.2)
    else
      let q := fleeceBlocks p c ks r.2
      ((q.1.1, r.1.2 :: q.1.2), q.2)

/-- A row of a Fleece source. -/
def fleeceRow (p : Nat) (c : LayerCfg) (sy : Nat) (d : Dev) : (Nat × List Px) × Dev :=
  match (pipeOf d p).hdr with
  | none => ((5, []), d)
  | some h =>
    let b0 := cSx p c / 8
    let b1 := (cSx p c + cSw p c - 1) / 8
    let r := fleeceBlocks p c ((List.range (b1 + 1 - b0)).map (fun i => sy / 8 * blocksOf h.1 + b0 + i)) d
    let x0 := cSx p c / 2 * 2
    let row := (((r.1.2.map (fun b => (b.drop (sy % 8 * 8)).take 8)).flatten).drop (x0 - b0 * 8)).take (cSx p c + cSw p c - x0)
    ((r.1.1, ((siteRow (cInter p c && isYuv (cFmt p c)) row).drop (cSx p c - x0)).take (cSw p c)), r.2)

/-- A column of a Fleece source, for rotation by 90° and 270°. -/
def fleeceCol (p : Nat) (c : LayerCfg) (sx : Nat) (d : Dev) : (Nat × List Px) × Dev :=
  match (pipeOf d p).hdr with
  | none => ((5, []), d)
  | some h =>
    let b0 := cSy p c / 8
    let b1 := (cSy p c + cSh p c - 1) / 8
    let x := sx % 8
    let col := fun (i : Nat) => (List.range (b1 + 1 - b0)).map (fun j => (b0 + j) * blocksOf h.1 + i)
    let r := fleeceBlocks p c (col (sx / 8)) d
    -- Interstitial chroma needs the pair beside the pixel's own, which may lie in the next block.
    let inter := cInter p c && isYuv (cFmt p c)
    let side := if x % 2 = 0 then max (cSx p c / 2 * 2) (sx - 1) else min (sx + 1) (cSx p c + cSw p c - 1)
    let q := if inter then fleeceBlocks p c (col (side / 8)) r.2 else ((0, r.1.2), r.2)
    let pick := fun (bs : List (List Px)) (k : Nat) => (bs.map (fun b => (List.range 8).map (fun y => b.getD (y * 8 + k) {}))).flatten
    let px := if inter then
        ((pick r.1.2 x).zip (pick q.1.2 (side % 8))).map (fun a => { a.1 with c1 := mean2 a.1.c1 a.2.c1, c2 := mean2 a.1.c2 a.2.c2 })
      else pick r.1.2 x
    ((if r.1.1 ≠ 0 then r.1.1 else q.1.1, (px.drop (cSy p c - b0 * 8)).take (cSh p c)), q.2)

/-- Line `q` of the turned source (R126). -/
def turnedLine (p : Nat) (c : LayerCfg) (q : Nat) (d : Dev) : (Nat × List Px) × Dev :=
  let at_ := fun u => turned (cRot p c) (cMirror p c) (cSw p c) (cSh p c) u q
  if cRot p c % 2 = 0 then
    let sy := cSy p c + (at_ 0).2
    let r := if isFleece (cFmt p c) then fleeceRow p c sy d else linearRow p c sy d
    ((r.1.1, if r.1.1 ≠ 0 then [] else (List.range (cSw p c)).map (fun u => r.1.2.getD (at_ u).1 {})), r.2)
  else
    let r := fleeceCol p c (cSx p c + (at_ 0).1) d
    ((r.1.1, if r.1.1 ≠ 0 then [] else (List.range (cSh p c)).map (fun u => r.1.2.getD (at_ u).2 {})), r.2)

/-! ## Which lines a display line needs -/

/-- Unity vertical mode (R242). -/
def unityV (p : Nat) (c : LayerCfg) : Bool :=
  cVstep p c == 0x10000 && cf p c Reg.Pipe.V_PHASE 15 0 == 0 && cVdec p c == 1 && !cCustom p c

/-- The lines of the turned source that destination line `v` needs, with their weights in 1/256; the edge line stands for those
beyond the source rectangle (R135, R136, R242). -/
def needOf (p : Nat) (c : LayerCfg) (v : Nat) : List (Int × Nat) :=
  if p < 48 then [(256, v)]
  else if unityV p c then [(256, min v (cTh p c - 1))]
  else
    let pos := cf p c Reg.Pipe.V_PHASE 15 0 + v * cVstep p c
    let n := cTaps p c
    (List.range n).map (fun t =>
      (if cCustom p c then cCoef c 1 (phaseAt pos) t else builtInCoef n (cVstep p c) (phaseAt pos) t,
       tapAt n (ceilDiv (cTh p c) (cVdec p c)) pos t * cVdec p c))

/-- Rows combined and converted to a row of destination pixels (R135, R136, R139). -/
def shapeRows (p : Nat) (c : LayerCfg) (v : Nat) (rows : List (List Px)) : List Px :=
  let mode := cf p c Reg.Pipe.CSC_CTRL 3 0
  let s := fun (o hi lo : Nat) => signed (hi + 1 - lo) (cf p c o hi lo)
  let off := fun o => [s o 29 20, s o 19 10, s o 9 0]
  let csc := if mode = 7 then
      ([s (Reg.Pipe.CSC_C 0) 31 16, s (Reg.Pipe.CSC_C 0) 15 0, s (Reg.Pipe.CSC_C 1) 31 16, s (Reg.Pipe.CSC_C 1) 15 0,
        s (Reg.Pipe.CSC_C 2) 31 16, s (Reg.Pipe.CSC_C 2) 15 0, s (Reg.Pipe.CSC_C 3) 31 16, s (Reg.Pipe.CSC_C 3) 15 0,
        s (Reg.Pipe.CSC_C 4) 31 16], off Reg.Pipe.CSC_OFF_IN, off Reg.Pipe.CSC_OFF_OUT)
    else cscPreset mode
  let rows := if mode = 0 then rows else rows.map (·.map (cscPx csc))
  if p < 48 then rows.headD []
  else
    let rows := rows.map (decimate (cHdec p c))
    let row := match needOf p c v with
      | [_] => rows.headD []
      | ws => scaleCol (ws.map (·.1)) rows
    scaleRow (fun ph t => if cCustom p c then cCoef c 0 ph t else builtInCoef 8 (cHstep p c) ph t) (cHstep p c)
      (cf p c Reg.Pipe.H_PHASE 15 0) (cDw p c) row

/-! ## Fetching -/

/-- The line of a pipe's store. -/
def lineOf (d : Dev) (p k : Nat) : Option PipeLine := tabGet (fun _ => none) (pipeOf d p).lines k
/-- A line put into a pipe's store. -/
def setLine (p k : Nat) (l : Option PipeLine) (d : Dev) : Dev :=
  modPipe p (fun s => { s with lines := tabSet (fun _ => none) s.lines k l }) d

/-- A pipe reads no source: quiesced, isolated, in gather, its clock stopped, or held for a whole-frame cause (R143–R145,
R611). -/
def pipeBarred (d : Dev) (p : Nat) : Bool :=
  decide (2 ≤ (pipeOf d p).quiesce) || isoOf d (.pipe p) || (pipeOf d p).back || (gatherNow d && decide (8 ≤ p)) ||
    !blkRuns d (0x40 + p)

/-- Line `q` of the turned source is fetched; a failure raises its cause once in the frame. -/
def fetchLine (p : Nat) (c : LayerCfg) (q : Nat) (d : Dev) : Dev :=
  if (lineOf d p q).isSome then d
  else
    let r := turnedLine p c q d
    let again := (pipeOf r.2 p).lines.any (fun e => match e.2 with | some l => l.bad == r.1.1 | none => false)
    let d := setLine p q (some { bad := r.1.1, rows := if r.1.1 = 0 then [r.1.2] else [] }) r.2
    if r.1.1 ≠ 0 ∧ !again then pipeCause p r.1.1 d else d

/-- The ring lines that display line `y` of a direct layer needs (R242). -/
def directNeed (p : Nat) (c : LayerCfg) (y : Nat) : List Nat :=
  (needOf p c (y - cDy p c)).map (fun w => cSy p c + (turned (cRot p c) (cMirror p c) (cSw p c) (cSh p c) 0 w.2).2)

/-! ## The output ring of a dewarp engine (R239) -/

/-- A direct pipe has yet to read a line of the stream's dewarp output: of the frame that it shows, for a display line still to
be fetched; or of the newest frame, which it shows next. -/
def slotWanted (d : Dev) (n p : Nat) (t : RingTag) : Bool :=
  let s := pipeOf d p
  let c := s.act
  let h := headOf d (cHead p c)
  cEnable p c && cFmt p c == 0x40 && cStream p c == n && h.run && (t.seq == s.bound || t.seq == (streamOf d n).seq) &&
    (List.range (cDh p c)).any (fun i =>
      (t.seq != s.bound || (decide (h.line < ((cDy p c + i : Nat) : Int)) && !(lineOf d p (cDy p c + i)).any (fun l => l.rows != []))) &&
        (directNeed p c (cDy p c + i)).contains t.line)

/-- The slot that the engine's next line takes is free of every reader (R239). -/
def slotFree (d : Dev) (e : Nat) : Bool :=
  match (dwOf d e).serves, tabGet (fun _ => none) (dwOf d e).tags ((dwOf d e).next % 8) with
  | some n, some t => (List.range 16).all (fun i => !slotWanted d n (48 + i) t)
  | _, _ => true

/-- The engine may begin its next line. -/
def dwReady (d : Dev) (e : Nat) : Bool := dwInput d e && slotFree d e

/-- The engine begins an output line, or finds no free slot and waits. `waited`: it has waited, for a slot or for its input,
since the line before, as far as time alone shows it; a wait for a slot that a DW_LINE_BEGIN met counts too. -/
def doDwLineBegin (e : Nat) (waited : Bool) (d : Dev) : Dev :=
  if !dwReady d e then (if dwInput d e then modDw e (fun w => { w with waits := true }) d else d)
  else
    match (dwOf d e).serves, (dwOf d e).mesh with
    | some n, some m => dwProduce e n m (when (waited || (dwOf d e).waits) (bump (.dw e) Reg.Dw.DW_COUNT 15 0) d)
    | _, _ => d

/-- DW_LINE_BEGIN. -/
def execDwLineBegin (n : Fin 8) (waited : Bool) (s : State) := onDev (doDwLineBegin n.val waited) s

/-! ## Reading a line directly from a stream -/

/-- The outcome of the tests of all ring lines that a display line needs: 0 shown, otherwise the first cause. -/
def directOutcome (d : Dev) (n f : Nat) (need : List Nat) : Nat :=
  (need.map (directTest d n f)).foldl (fun m x => if m = 0 then x else m) 0

/-- The test of display line `y`, made at the start of line y − 2 (R242). A layer of a lost stream is not tested. -/
def directTestLine (p : Nat) (c : LayerCfg) (f y : Nat) (d : Dev) : Dev :=
  if directLost d (cStream p c) f then setLine p y (some { bad := 1 }) d
  else
    let o := directOutcome d (cStream p c) f (directNeed p c y)
    directCause (cStream p c) o (setLine p y (some { bad := if o = 0 then 0 else 1 }) d)

/-- The bytes of ring line `s` as pixels of the pipe's formats, SRC_X to SRC_X + SRC_W − 1; a word that is poisoned gives
cause 6 (R249). -/
def directRow (p : Nat) (c : LayerCfg) (s : Nat) (d : Dev) : (Nat × List Px) × Dev :=
  let n := cStream p c
  let r := directRing d n
  let t := stType d n
  let q := pipeRead p c (pastBase + r.base + s % r.slots * pitchOf r.width t) (r.width * typeBytes t) d
  if q.1.1 ≠ 0 then ((q.1.1, []), q.2)
  else
    let row := if t = 0x1E then siteRow (cInter p c) (yuv8Row (r.width / 2) q.1.2)
      else if t = 0x1F then siteRow (cInter p c) (yuv10Row (r.width / 2) q.1.2)
      else rgbRow (typeFormat t) (typeBytes t) r.width q.1.2
    let row := (row.drop (cSx p c)).take (cSw p c)
    ((0, (List.range (cSw p c)).map (fun u => row.getD (turned (cRot p c) (cMirror p c) (cSw p c) (cSh p c) u 0).1 {})), q.2)

/-- The rows of a direct display line; the first failure ends them. -/
def directRows (p : Nat) (c : LayerCfg) : List Nat → Dev → (Nat × List (List Px)) × Dev
  | [], d => ((0, []), d)
  | s :: ss, d =>
    let r := directRow p c s d
    if r.1.1 ≠ 0 then ((r.1.1, []), r.2)
    else
      let q := directRows p c ss r.2
      ((q.1.1, r.1.2 :: q.1.2), q.2)

/-- A tested display line of a direct layer is fetched, and its tags are read again (R228, R242). -/
def directFetch (p : Nat) (c : LayerCfg) (y : Nat) (d : Dev) : Dev :=
  match lineOf d p y with
  | some l =>
    if l.bad ≠ 0 ∨ l.rows ≠ [] then d
    else
      let n := cStream p c
      let r := directRows p c (directNeed p c y) d
      if directOutcome r.2 n (pipeOf d p).bound (directNeed p c y) ≠ 0 then
        directCause n 2 (setLine p y (some { bad := 1 }) r.2)
      else
        let d := setLine p y (some { bad := r.1.1, rows := r.1.2 }) r.2
        if r.1.1 ≠ 0 then pipeCause p r.1.1 d else d
  | none => d

/-- The Fleece header of a layer is read (R134): the layer is held for the whole frame, or the blocks can be found. -/
def readHeader (p : Nat) (c : LayerCfg) (d : Dev) : Dev :=
  let r := pipeRead p c (cAddr p c) 64 d
  if r.1.1 ≠ 0 then pipeCause p r.1.1 (holdPipe p r.1.1 r.2)
  else
    let b := r.1.2
    if !headerGood (cFmt p c) (cAddr p c) b ∨ headerWidth b < cSx p c + cSw p c ∨ headerHeight b < cSy p c + cSh p c then
      pipeCause p 5 (holdPipe p 5 r.2)
    else if headerGen b ≠ (cfgReg p c Reg.Pipe.SRC_GEN).toNat then pipeCause p 4 (holdPipe p 4 r.2)
    else modPipe p (fun s => { s with hdr := some (headerWidth b, headerPayload b) }) r.2

/-- The palette of a CLUT8 layer is loaded (R306). -/
def readPalette (p : Nat) (c : LayerCfg) (d : Dev) : Dev :=
  let r := pipeRead p c (cAddr2 p c) 1024 d
  if r.1.1 ≠ 0 then pipeCause p r.1.1 (holdPipe p r.1.1 r.2)
  else modPipe p (fun s => { s with palette := r.1.2 }) r.2

/-- A pipe starts to fetch for the coming or the present frame with a configuration (R134, R185, R186, R306): its clocks run
(R163), what it had fetched is gone, and the surface counts as read (R160). A pipe that is barred fetches nothing yet. -/
def beginFetch (h p : Nat) (c : LayerCfg) (d : Dev) : Dev :=
  let d := modPipe p (fun s => { s with
    pre := some c, lines := [], hdr := none, palette := [], holds := s.holds &&& 4, cut := pipeBarred d p, clkOff := false }) d
  if pipeBarred d p then d
  else
    let d := modHead h (fun s => { s with
      reading := if s.reading.contains (surfaceOf p c) then s.reading else s.reading ++ [surfaceOf p c] }) d
    if isFleece (cFmt p c) then readHeader p c d
    else if cFmt p c = 0x08 then readPalette p c d
    else d

/-- A pipe that is barred no more, or fetches again after gather, starts its fetch anew (R134, R145). -/
def resumeFetch (p : Nat) (c : LayerCfg) (d : Dev) : Dev :=
  if (pipeOf d p).cut && !pipeBarred d p then beginFetch (cHead p c) p c d else d

/-- Causes hold the layer for all its lines; a lost line of a camera stream is a matter of that line (R144, R242). -/
def heldOut (d : Dev) (p : Nat) : Bool := clrBit (pipeOf d p).holds 1 != 0

/-- A fetch by pipe `p` of line `k` of its turned source, or of display line `k` for a direct layer, completes. -/
def doPipeFetch (p k : Nat) (d : Dev) : Dev :=
  match (pipeOf d p).pre with
  | none => d
  | some c =>
    let d := resumeFetch p c d
    if pipeBarred d p || heldOut d p then d
    else if cFmt p c = 0x40 then directFetch p c k d
    else if k < cTh p c then fetchLine p c k d
    else d

end Sys2Proof.Machine
end

