-- ==== Sys2Proof/Machine/Layers.lean ====
section
/-! DEFINITION. Layers: the checks of a commit, commits and their application, surface release, the composition of a line,
the colour stages with their tables, the bandwidth shepherd and writeback (R116–R176, R187–R189). -/
namespace Sys2Proof.Machine

/-! ## The timing of a head (R177) -/

def hActive (d : Dev) (h : Nat) : Nat := rf d (.head h) Reg.Head.H_TIMING1 27 16
def vActive (d : Dev) (h : Nat) : Nat := rf d (.head h) Reg.Head.V_TIMING1 27 16
def hTotal (d : Dev) (h : Nat) : Nat :=
  hActive d h + rf d (.head h) Reg.Head.H_TIMING1 11 0 + rf d (.head h) Reg.Head.H_TIMING2 27 16 + rf d (.head h) Reg.Head.H_TIMING2 11 0
def vBlank (d : Dev) (h : Nat) : Nat :=
  rf d (.head h) Reg.Head.V_TIMING1 11 0 + rf d (.head h) Reg.Head.V_TIMING2 27 16 + rf d (.head h) Reg.Head.V_TIMING2 11 0
def vTotal (d : Dev) (h : Nat) : Nat := vActive d h + vBlank d h
def pclkKhz (d : Dev) (h : Nat) : Nat := rf d (.head h) Reg.Head.PCLK_KHZ 19 0
def closeLine (d : Dev) (h : Nat) : Int := signed 13 (rf d (.head h) Reg.Head.LINES 12 0)
def deadLine (d : Dev) (h : Nat) : Int := signed 13 (rf d (.head h) Reg.Head.LINES 28 16)
def lockLine (d : Dev) (h : Nat) : Int := signed 13 (rf d (.head h) Reg.Head.TIMING_FLAGS 15 3)

/-- A head whose ENABLE is 0: commits to it apply at once, also while its last frame runs (R124). -/
def headDisabled (d : Dev) (h : Nat) : Bool := !rb d (.head h) Reg.Head.HEAD_CTRL 0

/-! ## The checks of a commit (R122–R128, R135–R137, R229, R240, R302) -/

/-- The configuration of pipe `p` after commits. -/
def afterCommits (d : Dev) (cs : List CommitS) (p : Nat) : LayerCfg :=
  match (cs.filterMap (fun c => c.layers.find? (fun l => l.1 == p))).getLast? with
  | some l => l.2
  | none => (pipeOf d p).act

/-- The configuration that pipe `p` will have on a head when every commit that waits there is applied. -/
def projCfg (d : Dev) (h p : Nat) : LayerCfg :=
  afterCommits d ((headOf d h).latched ++ (headOf d h).opened ++ (headOf d h).trig) p

/-- The configuration that pipe `p` prefetches for the coming frame of a head: line triggers apply later (R185, R189). -/
def fetchCfg (d : Dev) (h p : Nat) : LayerCfg := afterCommits d ((headOf d h).latched ++ (headOf d h).opened) p

/-- Pipe `p` will be enabled on a head. -/
def projOn (d : Dev) (h p : Nat) : Bool := cEnable p (projCfg d h p) && cHead p (projCfg d h p) == h

/-- A range of addresses lies wholly in Pasture below the Pasture fold line. -/
def belowFold (d : Dev) (a n : Nat) : Bool := decide (pastBase ≤ a ∧ a + n ≤ pastBase + pastFold d)

/-- A source lies wholly below the Pasture fold line (R24, R302). The extent of a Fleece surface is the one its header
gives (R134). -/
def sourceBelow (d : Dev) (p : Nat) (c : LayerCfg) : Bool :=
  let f := cFmt p c
  if f = 0x40 then
    let n := cStream p c
    (!stRing d n || decide (ringEnd d n ≤ pastFold d)) &&
      (match stDw d n with
       | some e => decide (rf d (.dw e) Reg.Dw.DW_OUT_ADDR 24 0 + 8 * pitchOf (directRing d n).width (stType d n) ≤ pastFold d)
       | none => true)
  else if isFleece f then
    let hd := readBytes (pastByte d) (cAddr p c - pastBase) 64
    belowFold d (cAddr p c) (max 64 (headerPayload hd + headerPaySize hd))
  else
    let x := cSx p c * fmtBytes f
    let w := cSw p c * fmtBytes f
    belowFold d (cAddr p c + cSy p c * cStride p c + x) ((cSh p c - 1) * cStride p c + w) &&
      (f != 0x08 || belowFold d (cAddr2 p c) 1024) &&
      (!isPlanar f || belowFold d (cAddr2 p c + cSy p c / 2 * cStride p c + x)
        (((cSy p c + cSh p c - 1) / 2 - cSy p c / 2) * cStride p c + w))

/-- The pipes that read a stream's ring directly, pipe `p` apart (R229). -/
def ringReaders (d : Dev) (n p : Nat) : Nat :=
  ((List.range 16).filter (fun i => 48 + i != p && (cEnable (48 + i) (pipeOf d (48 + i)).chain &&
    cFmt (48 + i) (pipeOf d (48 + i)).chain == 0x40 && cStream (48 + i) (pipeOf d (48 + i)).chain == n))).length

/-- W' of R128. -/
def wPrime (p : Nat) (c : LayerCfg) : Nat := if p < 48 then cTw p c else ceilDiv (cTw p c) (cHdec p c)

/-- Code 3, FORMAT (R125, R229, R240). -/
def badFormat (d : Dev) (p : Nat) (c : LayerCfg) : Bool :=
  let f := cFmt p c
  let m := cf p c Reg.Pipe.CSC_CTRL 3 0
  !fmtAllowed p f || (m == 0 && (isYuv f || f == 0x40)) || cBlend p c == 3 || decide (8 ≤ m) ||
    (f == 0x40 && (!stRing d (cStream p c) || ownerOf d (.stream (cStream p c)) != c.owner ||
      decide (4 ≤ ringReaders d (cStream p c) p)))

/-- Code 7, ALIGN (R125, R127). -/
def badAlign (p : Nat) (c : LayerCfg) : Bool :=
  let f := cFmt p c
  if isFleece f then cAddr p c % 256 != 0
  else f != 0x40 && (cAddr p c % 64 != 0 || cStride p c % 64 != 0 || ((f == 0x08 || isPlanar f) && cAddr2 p c % 64 != 0))

/-- Code 12, SIZE (R125, R126, R240). -/
def badSize (d : Dev) (p : Nat) (c : LayerCfg) : Bool :=
  let f := cFmt p c
  let off := fun n => decide (n = 0 ∨ 8192 < n)
  off (cSw p c) || off (cSh p c) || off (cDw p c) || off (cDh p c) ||
    (!isFleece f && f != 0x40 && decide (cStride p c < (cSx p c + cSw p c) * fmtBytes f)) ||
    (decide (p < 48) && (cDw p c != cTw p c || cDh p c != cTh p c)) ||
    (f == 0x40 && decide ((directRing d (cStream p c)).width < cSx p c + cSw p c ∨
      (directRing d (cStream p c)).height < cSy p c + cSh p c))

/-- Code 11, COEF (R136). -/
def badCoef (p : Nat) (c : LayerCfg) : Bool :=
  decide (48 ≤ p) && cCustom p c &&
    !((List.range 64).all (fun ph => (List.range 8).foldl (fun m t => m + cCoef c 0 ph t) 0 == 256 &&
      (List.range (cTaps p c)).foldl (fun m t => m + cCoef c 1 ph t) 0 == 256))

/-- Code 13, HEAD (R125). -/
def badHead (d : Dev) (p : Nat) (c : LayerCfg) : Bool :=
  (cEnable p (pipeOf d p).act && cHead p c != cHead p (pipeOf d p).act) || (decide (p < 8) && cHead p c != p)

/-- The reason for which a layer of a commit is refused, the first rule in code order (R122, R125); 0 where it is taken. An
isolated pipe refuses every commit (R170). -/
def layerRefuse (d : Dev) (p : Nat) (c : LayerCfg) : Nat :=
  let h := cHead p c
  let video := decide (48 ≤ p)
  let steps := fun x => decide (x < 0x2000 ∨ 0x40000 < x)
  if isoOf d (.pipe p) then 14
  else if !cEnable p c then (if badHead d p c then 13 else 0)
  else if video && decide (2 ≤ cTaps p c ∧ cTaps p c ≤ 6 ∧ (if cTaps p c ≤ 3 then 8192 else 4096) < wPrime p c) then 1
  else if video && (decide (cTaps p c < 2 ∨ 6 < cTaps p c) || cf p c Reg.Pipe.SCALE_CTRL 5 4 == 3 || steps (cHstep p c) ||
      steps (cVstep p c)) then 2
  else if badFormat d p c then 3
  else if cRot p c % 2 == 1 && !isFleece (cFmt p c) then 4
  else if cClass p c == 3 || (cClass p c == 0 && c.owner != 0) || ((cClass p c == 0 || decide (p < 8)) && !sourceBelow d p c) then 5
  else if hActive d h < cDx p c + cDw p c ∨ vActive d h < cDy p c + cDh p c then 6
  else if badAlign p c then 7
  else if 8 ≤ p ∧ cClass p c ≠ 0 ∧ 15 < cZ p c then 8
  else if 24 ≤ ((List.range 64).filter (fun q => q != p && projOn d h q)).length then 9
  else if (if cRot p c % 2 = 1 then 2 else 4) * (hTotal d h * 800000 / pclkKhz d h) <
      wPrime p c * (if video then ceilDiv (cVstep p c) 65536 else 1) then 10
  else if badCoef p c then 11
  else if badSize d p c then 12
  else if badHead d p c then 13
  else 0

/-- A refused layer (R122). -/
def refuseLayer (p code : Nat) (d : Dev) : Dev :=
  raiseFault (.pipe p) Reg.Pipe.SRC_LAYER_REFUSED Reg.Pipe.EV_LAYER_REFUSED
    (sf (.pipe p) Reg.Pipe.REFUSE_STAT 3 0 code (bump (.pipe p) Reg.Pipe.REFUSE_STAT 31 16 d))

/-! ## Surface release (R160) -/

/-- A commit's surfaces may be released: it replaces none, or none of them is being read, and it is applied, or it waits for
the frame start whose frame no longer fetched them. -/
def ReleaseS.free (s : HeadS) (r : ReleaseS) : Bool :=
  r.olds == [] || (r.olds.all (fun x => !s.reading.contains x) && (r.applied || !r.trig))

/-- The releases that are due, in commit order of each owner, and those that wait. -/
def dueReleases (s : HeadS) : List ReleaseS × List ReleaseS :=
  s.relq.foldl (fun (r : List ReleaseS × List ReleaseS) (e : ReleaseS) =>
    if r.2.all (fun (w : ReleaseS) => w.owner != e.owner) && e.free s then (r.1 ++ [e], r.2) else (r.1, r.2 ++ [e])) ([], [])

/-- RELEASED_SEQ advances in commit order; commits that are released together raise RELEASE once in each of their pipes
(R160). -/
def tryRelease (h : Nat) (d : Dev) : Dev :=
  let r := dueReleases (headOf d h)
  let d := modHead h (fun s => { s with
    relq := r.2, rel := r.1.foldl (fun t (e : ReleaseS) => tabSet (fun _ => 0) t e.owner e.seq) s.rel }) d
  ((r.1.map (·.pipes)).flatten.eraseDups).foldl (fun d p => event (.pipe p) Reg.Pipe.EV_RELEASE d) d

/-- The last line of the frame has been fetched. -/
def doLastLineFetched (h : Nat) (d : Dev) : Dev := tryRelease h (modHead h (fun s => { s with reading := [] }) d)

/-- LAST_LINE_FETCHED. -/
def execLastLineFetched (h : Fin 8) (s : State) := onDev (doLastLineFetched h.val) s

/-! ## Commits (R119–R124, R182–R189) -/

/-- The pipes that an owner's commit to a head takes: those it owns whose staged HEAD names the head. -/
def commitSet (d : Dev) (owner h : Nat) : List Nat :=
  (List.range 64).filter (fun p => ownerOf d (.pipe p) == owner && rf d (.pipe p) Reg.Pipe.CTRL 14 12 == h)

/-- The layers of a commit checked in pipe order: those accepted, and the surfaces they replace. -/
def checkLayers (d : Dev) : List Nat → List (Nat × LayerCfg) × List Surface × Dev
  | [] => ([], [], d)
  | p :: ps =>
    let c := stagedCfg d p
    let r := layerRefuse d p c
    if r ≠ 0 then
      let q := checkLayers (refuseLayer p r d) ps
      (q.1, q.2.1, q.2.2)
    else
      let old := (pipeOf d p).chain
      let gone := if cEnable p old && (!cEnable p c || surfaceOf p old != surfaceOf p c) then [surfaceOf p old] else []
      -- The count of enabled layers of the head takes the layers already accepted (R123).
      let mark : CommitS := { owner := c.owner, seq := 0, layers := [(p, c)] }
      let d := modHead (cHead p c) (fun s => { s with opened := s.opened ++ [mark] }) (modPipe p (fun s => { s with chain := c }) d)
      let q := checkLayers d ps
      ((p, c) :: q.1, gone ++ q.2.1, q.2.2)

/-- The number after a commit's number (R120). -/
def nextSeq (n : Nat) : Nat := if n = 0xFFFFFFFF then 1 else n + 1

/-- A commit that arrives during the run-ahead makes a changed layer start its fetch again (R186). -/
def rearm (h : Nat) (l : Nat × LayerCfg) (d : Dev) : Dev :=
  match (pipeOf d l.1).pre with
  | some c =>
    if fetchKey l.1 c = fetchKey l.1 l.2 then modPipe l.1 (fun s => { s with pre := some l.2 }) d
    else
      let d := bump (.head h) Reg.Head.DISCARD_COUNT 15 0 d
      if cEnable l.1 l.2 then beginFetch h l.1 l.2 d
      else modPipe l.1 (fun s => { s with pre := none, lines := [], hdr := none }) d
  | none => if cEnable l.1 l.2 then beginFetch h l.1 l.2 d else d

/-- The staged state of every pipe of the set equals its active state but for what a line trigger may change (R188). -/
def ltrigAllowed (d : Dev) (ps : List Nat) : Bool :=
  ps.all (fun p =>
    let a := (pipeOf d p).act
    let c := stagedCfg d p
    c.coefs == a.coefs && (stagedOffsets p).all (fun o =>
      o == Reg.Pipe.ALPHA_KEY || o == Reg.Pipe.KEY_LO || o == Reg.Pipe.KEY_HI || o == Reg.Pipe.HOLD_COLOUR ||
      cfgReg p c o == cfgReg p a o ||
      (o == Reg.Pipe.CTRL && cEnable p a && cfgReg p c o == putBit (cfgReg p a o) 0 false)))

/-- A deadline call is answered by the first commit of its context that arrives after it (R184). -/
def answerCalls (ctx : Option Nat) (cs : List CallS) : List CallS :=
  match ctx with
  | none => cs
  | some k => cs.map (fun c => if c.ctx = k then { c with answered := true } else c)

/-- HEAD_STAT.LTRIG_PENDING shows the line triggers that wait. -/
def showTrig (h : Nat) (d : Dev) : Dev := sb (.head h) Reg.Head.HEAD_STAT 20 ((headOf d h).trig != []) d

/-- A line-trigger commit that is refused as a whole (R188). -/
def ltrigRefuse (h : Nat) (d : Dev) : Dev :=
  event (.head h) Reg.Head.EV_LTRIG_REFUSED (bump (.head h) Reg.Head.DISCARD_COUNT 31 16 d)

/-- A commit of an owner to a head, of the pipes `ps`: `trig` gives the line of a line trigger, `ctx` the context of a commit
packet. A commit to no pipe takes no number. -/
def commitPipes (h owner : Nat) (ps : List Nat) (trig : Option Nat) (ctx : Option Nat) (d : Dev) : Dev :=
  let s := headOf d h
  let mine := fun (c : CommitS) => c.owner == owner
  if ps = [] then d
  else if trig.any (fun l => !ltrigAllowed d ps || decide (l < 1 ∨ vActive d h ≤ l) || s.opened.any mine || s.trig.any mine) then
    ltrigRefuse h d
  else
    let n := nextSeq (tabGet (fun _ => 0) s.seqs owner)
    let r := checkLayers d ps
    let layers := r.1
    -- The marks that the checks left behind give way to the commit itself; a line trigger that waits goes with it (R189).
    let own := s.trig.filter mine
    let rec_ : CommitS := { owner := owner, seq := n, ctx := ctx, line := trig.getD 0
                            next := trig.any (fun l => decide ((l : Int) - 2 ≤ s.line) || !s.run)
                            layers := if trig.isSome then layers else (own.map (·.layers)).flatten ++ layers }
    let d := r.2.2
    let heads := (layers.map (fun l => cHead l.1 l.2)).eraseDups
    let d := heads.foldl (fun d k => modHead k (fun x => { x with opened := x.opened.filter (fun c => c.seq != 0) }) d) d
    let d := modHead h (fun x => { x with
      seqs := tabSet (fun _ => 0) x.seqs owner n
      opened := if trig.isSome then x.opened else x.opened ++ [rec_]
      trig := if trig.isSome then x.trig ++ [rec_] else x.trig.filter (fun c => !mine c)
      relq := x.relq ++ [{ owner := owner, seq := n, olds := r.2.1, pipes := ps, trig := trig.isSome, applied := false }]
      calls := answerCalls ctx x.calls }) d
    let d := showTrig h d
    let d := if trig.isNone && s.ahead && !s.closed && !headDisabled d h then layers.foldl (fun d l => rearm h l d) d else d
    if headDisabled d h then d else tryRelease h d

/-- A write of COMMIT (R119, R187). -/
def commitWrite (by_ : Party) (p : Nat) (v : Word) (d : Dev) : Dev :=
  if !bitOf v 0 then d
  else
    let h := rf d (.pipe p) Reg.Pipe.CTRL 14 12
    let owner := ownerCode (partyKind by_) (partyTag by_)
    intake by_ (commitPipes h owner (commitSet d owner h) (if bitOf v 1 then some (fld v 28 16) else none) none) d

/-- COMMIT: the write with bit 0 set and LINE_TRIG clear. -/
def execCommit (who : Party) (p : Fin 64) (s : State) :=
  onDev (onWrite who (.pipe p.val) Reg.Pipe.COMMIT (commitWrite who p.val 1)) s

/-- LINE_TRIG_COMMIT: the write with COMMIT and LINE_TRIG set. -/
def execLineTrigCommit (who : Party) (p : Fin 64) (line : BitVec 13) (s : State) :=
  onDev (onWrite who (.pipe p.val) Reg.Pipe.COMMIT (commitWrite who p.val (BitVec.ofNat 32 (line.toNat * 65536 + 3)))) s

/-- One layer of a commit takes effect, if its pipe still belongs to the owner; a layer that paddock quiesce held comes back
with a new commit once the paddock has left PENNED (R144). -/
def applyLayer (owner : Nat) (l : Nat × LayerCfg) (d : Dev) : Dev :=
  if ownerOf d (.pipe l.1) ≠ owner then d
  else modPipe l.1 (fun s => { s with
    act := l.2, quiesce := if s.quiesce = 3 then 0 else s.quiesce
    holds := if cEnable l.1 l.2 then s.holds else 0
    shown := cEnable l.1 l.2 && s.shown
    clkOff := if cEnable l.1 l.2 then false else s.clkOff }) d

/-- Commits take effect; COMMIT_APPLIED is set once for each pipe, and releases may follow (R121, R160). -/
def applyCommits (h : Nat) (cs : List CommitS) (d : Dev) : Dev :=
  let d := cs.foldl (fun d c => c.layers.foldl (fun d l => applyLayer c.owner l d) d) d
  let ps := ((cs.map (fun c => (c.layers.map (·.1)).filter (fun p => ownerOf d (.pipe p) == c.owner))).flatten).eraseDups
  let d := (List.range 64).foldl (fun d p => if ps.contains p then event (.pipe p) Reg.Pipe.EV_COMMIT_APPLIED d else d) d
  modHead h (fun s => { s with relq := s.relq.map (fun r =>
    if cs.any (fun c => c.owner == r.owner && c.seq == r.seq) then { r with applied := true } else r) }) d

/-- A layer that changes while its head ends its last frame is fetched anew (R124). -/
def refetch (h : Nat) (l : Nat × LayerCfg) (d : Dev) : Dev :=
  if (headOf d h).run && cEnable l.1 l.2 && ((pipeOf d l.1).pre.map (fetchKey l.1) != some (fetchKey l.1 l.2)) then
    beginFetch h l.1 l.2 d else d

/-- The commits of a disabled head apply (R124). -/
def doDisabledHeadCommitApply (h : Nat) (d : Dev) : Dev :=
  if !headDisabled d h then d
  else
    let s := headOf d h
    let cs := s.latched ++ s.opened ++ s.trig
    let d := applyCommits h cs (modHead h (fun s => { s with latched := [], opened := [], trig := [] }) d)
    tryRelease h (showTrig h (((cs.map (·.layers)).flatten).foldl (fun d l => refetch h l d) d))

/-- DISABLED_HEAD_COMMIT_APPLY. -/
def execDisabledHeadCommitApply (h : Fin 8) (s : State) := onDev (doDisabledHeadCommitApply h.val) s

/-- A write of the staged CTRL; HEAD of a fold pipe keeps its value. RESTART ends the pipe's isolation, and the layer shows
from the next frame start (R165, R170). -/
def pipeCtrl (p : Nat) (v : Word) (d : Dev) : Dev :=
  let w := if p < 8 then setFld v 14 12 (rf d (.pipe p) Reg.Pipe.CTRL 14 12) else v
  let d := plainWrite (.pipe p) Reg.Pipe.CTRL (w &&& 0x7FFFFFFF) d
  if bitOf v 31 && isoOf d (.pipe p) then endIso (.pipe p) (modPipe p (fun s => { s with back := true }) d) else d

/-- PIPE_RESTART: the write with RESTART 1 and the other fields as they are. -/
def execPipeRestart (who : Party) (p : Fin 64) (s : State) :=
  onDev (onWrite who (.pipe p.val) Reg.Pipe.CTRL
    (fun d => pipeCtrl p.val (rg d (.pipe p.val) Reg.Pipe.CTRL ||| 0x80000000) d)) s

/-- A write of COEF_DATA: a pair of taps is stored and the place moves on; PHASE wraps in its six bits (R164). DESIGN CHOICE: a
read of COEF_DATA answers the word written last, wherever COEF_INDEX points (R118). -/
def coefWrite (p : Nat) (v : Word) (d : Dev) : Dev :=
  let table := rf d (.pipe p) Reg.Pipe.COEF_INDEX 8 8
  let phase := rf d (.pipe p) Reg.Pipe.COEF_INDEX 5 0
  let taps := if table = 0 then 8 else 6
  let j := (pipeOf d p).tap
  let k := table * 512 + phase * 8 + 2 * j
  let last := decide (taps ≤ 2 * j + 2)
  let d := plainWrite (.pipe p) Reg.Pipe.COEF_DATA v d
  let d := modPipe p (fun s => { s with
    coefs := tabSet (fun _ => 0) (tabSet (fun _ => 0) s.coefs k (fld v 9 0)) (k + 1) (fld v 25 16)
    tap := if last then 0 else j + 1 }) d
  if last then sf (.pipe p) Reg.Pipe.COEF_INDEX 5 0 (phase + 1) d else d

/-- A write of COEF_INDEX starts the phase at its first pair. -/
def coefIndex (p : Nat) (v : Word) (d : Dev) : Dev :=
  modPipe p (fun s => { s with tap := 0 }) (plainWrite (.pipe p) Reg.Pipe.COEF_INDEX v d)

/-- COEF_DATA_WRITE. Graphic and fold pipes have no such register. -/
def execCoefDataWrite (who : Party) (p : Fin 64) (v : Word) (s : State) :=
  onDev (if p.val < 48 then id else onWrite who (.pipe p.val) Reg.Pipe.COEF_DATA (coefWrite p.val v)) s

/-- PIPE_FETCH. -/
def execPipeFetch (p : Fin 64) (line : Nat) (s : State) := onDev (doPipeFetch p.val line) s

/-! ## The registers that a pipe computes (R120, R160, R168) -/

/-- COMMIT_SEQ and RELEASED_SEQ of a pipe page: those of its owner on its staged head. -/
def commitSeq (d : Dev) (p : Nat) : Nat :=
  tabGet (fun _ => 0) (headOf d (rf d (.pipe p) Reg.Pipe.CTRL 14 12)).seqs (ownerOf d (.pipe p))
def releasedSeq (d : Dev) (p : Nat) : Nat :=
  tabGet (fun _ => 0) (headOf d (rf d (.pipe p) Reg.Pipe.CTRL 14 12)).rel (ownerOf d (.pipe p))

/-- LAYER_STAT of a pipe. -/
def layerStat (d : Dev) (p : Nat) : Word :=
  let s := pipeOf d p
  BitVec.ofNat 32 ((cEnable p s.act).toNat * 2 ^ 31 + (isoOf d (.pipe p)).toNat * 256 + (decide (2 ≤ s.quiesce)).toNat * 128 +
    s.holds % 128 / 2 * 2 + s.shown.toNat)

/-- LAYER_COUNT of a head: its enabled layers (R171). -/
def layerCount (d : Dev) (h : Nat) : Nat :=
  ((List.range 64).filter (fun p => cEnable p (pipeOf d p).act && cHead p (pipeOf d p).act == h)).length

/-! ## Composition of a line (R140–R145) -/

/-- The enabled layers of a head from the bottom up: rising Z and pipe index, the fold pipe on top (R140). -/
def layerOrder (d : Dev) (h : Nat) : List Nat :=
  let on := (List.range 64).filter (fun p => cEnable p (pipeOf d p).act && cHead p (pipeOf d p).act == h)
  ((List.range 32).map (fun z => (on.filter (fun p => decide (8 ≤ p) && cZ p (pipeOf d p).act == z)))).flatten ++
    on.filter (fun p => decide (p < 8))

/-- The row of a layer at display line `y`: its pixels, or none where it shows its hold colour; what has not been fetched
is fetched now. -/
def layerRow (p y : Nat) (d : Dev) : Option (List Px) × Dev :=
  let c := (pipeOf d p).act
  let d := resumeFetch p c d
  if pipeBarred d p || heldOut d p then (none, d)
  else if cFmt p c = 0x40 then
    let d := directFetch p c y d
    if directLost d (cStream p c) (pipeOf d p).bound then (none, d)
    else match lineOf d p y with
      | some l =>
        if l.bad = 0 then (some (shapeRows p c (y - cDy p c) l.rows), d)
        else if 3 ≤ l.bad then (none, holdPipe p l.bad d)
        else (none, d)
      | none => (none, d)
  else
    let v := y - cDy p c
    let need := (needOf p c v).map (·.2)
    let d := need.foldl (fun d q => fetchLine p c q d) d
    let ls := need.map (fun q => (lineOf d p q).getD { bad := 3 })
    match ls.filter (fun l => l.bad != 0) with
    | [] => (some (shapeRows p c v (ls.map (fun l => l.rows.headD []))), d)
    | bs => (none, bs.foldl (fun d l => holdPipe p l.bad d) d)

/-- A row of one colour blended over, or a row of pixels with the colour key (R141–R143). -/
def overRow (p : Nat) (c : LayerCfg) (px : Option (List Px)) (under : List Px) : List Px :=
  let plane := cf p c Reg.Pipe.ALPHA_KEY 7 0
  match px with
  | none => under.map (fun u => blendPx 1 plane (rgbPx 0 (cfgReg p c Reg.Pipe.HOLD_COLOUR).toNat) u)
  | some xs =>
    let key := cf p c Reg.Pipe.ALPHA_KEY 31 31 == 1
    (List.zip xs under).map (fun su =>
      let s := if key && keyHit (cfgReg p c Reg.Pipe.KEY_LO) (cfgReg p c Reg.Pipe.KEY_HI) su.1 then { su.1 with a := 0 } else su.1
      blendPx (cBlend p c) plane s su.2)

/-- The FOLD word of a pixel (R309). -/
def foldWord (x : Px) : Word := BitVec.ofNat 32 (x.a * 2 ^ 24 + x.c0 / 4 * 2 ^ 16 + x.c1 / 4 * 2 ^ 8 + x.c2 / 4)

/-- The stream of a direct layer is lost for display line `y` (R144, R242). -/
def lineLost (d : Dev) (p : Nat) (c : LayerCfg) (y : Nat) : Bool :=
  cFmt p c == 0x40 && (directLost d (cStream p c) (pipeOf d p).bound || (lineOf d p y).any (fun l => l.bad == 1))

/-- One layer composed over the line: the blended row, the FOLD words of the fold pipe, and the device. -/
def overLayer (y : Nat) (r : List Px × List Word × Dev) (p : Nat) : List Px × List Word × Dev :=
  let c := (pipeOf r.2.2 p).act
  if y < cDy p c ∨ cDy p c + cDh p c ≤ y then r
  else
    let x := layerRow p y r.2.2
    let d := modPipe p (fun s => { s with shown := x.1.isNone
                                          holds := if lineLost x.2 p c y then s.holds ||| 2 else clrBit s.holds 1 }) x.2
    let under := (r.1.drop (cDx p c)).take (cDw p c)
    let mid := overRow p c x.1 under
    -- The FOLD word of a pixel is that of its source, before any colour conversion (R309).
    let words := if 8 ≤ p then r.2.1
      else r.2.1.take (cDx p c) ++
        (match x.1 with
         | some _ => ((((lineOf x.2 p (y - cDy p c)).map (fun l => l.rows.headD [])).getD []).take under.length).map foldWord
         | none => under.map (fun _ => cfgReg p c Reg.Pipe.HOLD_COLOUR)) ++ r.2.1.drop (cDx p c + under.length)
    (r.1.take (cDx p c) ++ mid ++ r.1.drop (cDx p c + mid.length), words, d)

/-- The background of a head. -/
def bgPx (d : Dev) (h : Nat) : Px :=
  let w := rg d .cmp (Reg.Cmp.BG_COLOUR h)
  ⟨255, fld w 29 20, fld w 19 10, fld w 9 0⟩

/-- Line `y` of a head composed: the blended row, the FOLD words, and the device (R140). -/
def composeLine (h y : Nat) (d : Dev) : List Px × List Word × Dev :=
  let w := hActive d h
  (layerOrder d h).foldl (fun r p => overLayer y r p) (List.replicate w (bgPx d h), List.replicate w 0, d)

/-! ## Colour stages and their tables (R146–R151, R171–R173) -/

/-- The place of a table entry: table 0 degamma, 1 and its three components 3D LUT, 2 gamma. -/
def lutKey (h bank table i comp : Nat) : Nat := (((h * 2 + bank) * 3 + table) * 8192 + i) * 4 + comp

/-- A table entry; one that nothing has written is open (R151). -/
def lutGet (d : Dev) (h bank table i comp : Nat) : Nat :=
  match tabGet (fun _ => none) d.luts (lutKey h bank table i comp) with
  | some v => v
  | none => Config.lutWord (lutKey h bank table i comp) % (if table = 2 then 4096 else 65536)

/-- A table entry set. -/
def lutSet (h bank table i comp v : Nat) (d : Dev) : Dev :=
  { d with luts := tabSet (fun _ => none) d.luts (lutKey h bank table i comp) (some v) }

/-- Entries of a table; code 3 names none. -/
def lutSize (table : Nat) : Nat := if table = 0 then 1024 else if table = 1 then 4913 else if table = 2 then 1024 else 0

/-- The bank in use. -/
def lutBank (d : Dev) (h : Nat) : Nat := rf d .cmp (Reg.Cmp.COLOUR_CTRL h) 17 17

/-- OUT_BITS of a head (R172). -/
def outBits (d : Dev) (h : Nat) : Nat := match rf d .cmp (Reg.Cmp.COLOUR_CTRL h) 9 8 with | 0 => 6 | 1 => 8 | _ => 10

/-- The head colour stages of one pixel (R146–R150); an isolated CMP page puts the stages in bypass (R173). -/
def colourPx (d : Dev) (h x y : Nat) (p : Px) : Nat × Nat × Nat :=
  let w := rg d .cmp (Reg.Cmp.COLOUR_CTRL h)
  let on := fun k => bitOf w k && !stands d .cmp
  let b := lutBank d h
  let deg := fun c => if on 0 then lutGet d h b 0 c 0 else c * 64 + c / 16
  let v := (deg p.c0, deg p.c1, deg p.c2)
  let u := if on 1 then
      let t := fun k => tetra (fun r g bl => lutGet d h b 1 (r * 289 + g * 17 + bl) k) v.1 v.2.1 v.2.2
      (t 0, t 1, t 2)
    else v
  let out := fun c =>
    let g := if on 2 then gammaOf (fun i => lutGet d h b 2 i 0) c else c / 16
    ditherOf (fld w 5 4) (outBits d h) x y (rg d (.head h) Reg.Head.FRAME_COUNT).toNat g
  (out u.1, out u.2.1, out u.2.2)

/-- A row through the colour stages. -/
def colourRow (d : Dev) (h y : Nat) (row : List Px) : List (Nat × Nat × Nat) :=
  row.zipIdx.map (fun e => colourPx d h e.2 y e.1)

/-- LUT_INDEX and the half of a 3D entry move on after a word (R151). -/
def lutNext (table : Nat) (d : Dev) : Dev :=
  if table = 1 ∧ !d.lutHalf then { d with lutHalf := true }
  else bump .cmp Reg.Cmp.LUT_INDEX 12 0 { d with lutHalf := false }

/-- A write of LUT_DATA (R151). -/
def lutWrite (v : Word) (d : Dev) : Dev :=
  let h := rf d .cmp Reg.Cmp.LUT_SEL 18 16
  let t := rf d .cmp Reg.Cmp.LUT_SEL 9 8
  let i := rf d .cmp Reg.Cmp.LUT_INDEX 12 0
  let b := 1 - lutBank d h
  if rb d .cmp (Reg.Cmp.COLOUR_CTRL h) 16 then event .cmp Reg.Cmp.EV_LUT_BUSY d
  else if lutSize t ≤ i then event .cmp Reg.Cmp.EV_LUT_RANGE d
  else
    let d := if t = 1 then
        (if d.lutHalf then lutSet h b 1 i 2 (fld v 15 0) d else lutSet h b 1 i 0 (fld v 15 0) (lutSet h b 1 i 1 (fld v 31 16) d))
      else if t = 0 then lutSet h b 0 i 0 (fld v 15 0) d
      else lutSet h b 2 i 0 (fld v 11 0) d
    lutNext t d

/-- LUT_DATA_WRITE. -/
def execLutDataWrite (who : Party) (v : Word) (s : State) := onDev (onWrite who .cmp Reg.Cmp.LUT_DATA (lutWrite v)) s

/-- A read of LUT_DATA: the inactive bank's entry, and the place moves on as for a write (R171). Past the end of the table
the value is open and the place stays. -/
def lutRead (d : Dev) : Word × Dev :=
  let h := rf d .cmp Reg.Cmp.LUT_SEL 18 16
  let t := rf d .cmp Reg.Cmp.LUT_SEL 9 8
  let i := rf d .cmp Reg.Cmp.LUT_INDEX 12 0
  let b := 1 - lutBank d h
  if lutSize t ≤ i then (BitVec.ofNat 32 (Config.freeNat d.free 1), tick d)
  else
    let w := if t = 1 then (if d.lutHalf then lutGet d h b 1 i 2 else lutGet d h b 1 i 0 + 65536 * lutGet d h b 1 i 1)
      else lutGet d h b t i 0
    (BitVec.ofNat 32 w, lutNext t d)

/-- LUT_DATA_READ. -/
def execLutDataRead (who : Party) (s : State) := onDev (onRead who .cmp Reg.Cmp.LUT_DATA lutRead) s

/-- A write of COLOUR_CTRL: SWAP 1 asks for an exchange, SWAP 0 leaves one that waits (R151, R172). -/
def colourCtrl (h : Nat) (v : Word) (d : Dev) : Dev :=
  plainWrite .cmp (Reg.Cmp.COLOUR_CTRL h) (setFld v 16 16 ((bitOf v 16 || rb d .cmp (Reg.Cmp.COLOUR_CTRL h) 16).toNat)) d

/-- COLOUR_SWAP_REQUEST: the write with SWAP 1 and the other fields as they are. -/
def execColourSwapRequest (who : Party) (h : Fin 8) (s : State) :=
  onDev (onWrite who .cmp (Reg.Cmp.COLOUR_CTRL h.val)
    (fun d => colourCtrl h.val (rg d .cmp (Reg.Cmp.COLOUR_CTRL h.val) ||| 0x10000) d)) s

/-- The banks of a head are exchanged at its frame start (R151). -/
def swapBanks (h : Nat) (d : Dev) : Dev :=
  if rb d .cmp (Reg.Cmp.COLOUR_CTRL h) 16 then
    event .cmp (Reg.Cmp.EV_SWAP_DONE + h)
      (sf .cmp (Reg.Cmp.COLOUR_CTRL h) 17 16 ((1 - lutBank d h) * 2) d)
  else d

/-! ## The bandwidth shepherd (R152–R154) -/

/-- LEAD_MIN in force: clamped, and at its reset value while the CMP page is isolated (R154, R173). -/
def leadMin (d : Dev) (h : Nat) : Nat :=
  clampN 2 63 (if stands d .cmp then 8 else rf d .cmp (Reg.Cmp.SHEP_THRESH h) 5 0)

/-- Output line `y` of a layer needs no fetch any more: it lies outside the layer, or every line that it needs is fetched. -/
def lineFetched (d : Dev) (p : Nat) (c : LayerCfg) (y : Nat) : Bool :=
  decide (y < cDy p c ∨ cDy p c + cDh p c ≤ y) ||
    (if cFmt p c = 0x40 then (lineOf d p y).any (fun l => l.bad != 0 || l.rows != [])
     else (needOf p c (y - cDy p c)).all (fun w => (lineOf d p w.2).isSome))

/-- How many output lines from `y` on a layer has fetched; none where it has fetched all that its frame needs. -/
def layerLead (d : Dev) (p : Nat) (c : LayerCfg) (y : Nat) : Option Nat :=
  (List.range (cDy p c + cDh p c - y)).find? (fun i => !lineFetched d p c (y + i))

/-- The lead of a head in sixteenths of a line (R152): the least of its enabled layers of class O or C, those apart that show
their hold colour. `y`: the line that the blender comes to next; `part`: what has been fetched of the first line that is not
whole, in sixteenths. -/
def shepLead (d : Dev) (h y part : Nat) : Option Nat :=
  let ps := (List.range 64).filter (fun p =>
    let c := (pipeOf d p).act
    decide (8 ≤ p) && cEnable p c && cHead p c == h && (cClass p c == 1 || cClass p c == 2) && (pipeOf d p).holds == 0 &&
      !pipeBarred d p && !lineLost d p c y)
  ((ps.filterMap (fun p => layerLead d p (pipeOf d p).act y)).min?).map (fun n => n * 16 + part % 16)

/-- The lowest lead of the frame is kept (R171). -/
def noteLead (h : Nat) (lead : Option Nat) (d : Dev) : Dev :=
  match lead with
  | some l => if l < rf d .cmp (Reg.Cmp.SHEP_STAT h) 31 16 then sf .cmp (Reg.Cmp.SHEP_STAT h) 31 16 l d else d
  | none => d

/-- The line that the blender of a head comes to next. -/
def nextLine (d : Dev) (h : Nat) : Nat := ((headOf d h).line + 1).toNat

/-- The lead of a head is below its LEAD_MIN (R153). -/
def leadLow (d : Dev) (h : Nat) (lead : Option Nat) : Bool := lead.any (fun l => decide (l < leadMin d h))

/-- Every layer of a class on a head goes to its hold colour; fold pipes and layers of class S never do (R153, R302). -/
def demoteClass (h cls : Nat) (d : Dev) : Bool × Dev :=
  let ps := (List.range 64).filter (fun p => decide (8 ≤ p) && cEnable p (pipeOf d p).act && cHead p (pipeOf d p).act == h &&
    cClass p (pipeOf d p).act == cls)
  (ps != [], ps.foldl (fun d p => event (.pipe p) Reg.Pipe.EV_DEMOTED (holdPipe p 2 d)) d)

/-- The first step: every class-C layer is demoted, once in a frame. `part`: as `shepLead` takes it. -/
def doShepherdDemoteC (h part : Nat) (d : Dev) : Dev :=
  let lead := shepLead d h (nextLine d h) part
  let d0 := noteLead h lead d
  if !leadLow d h lead ∨ !(headOf d h).run ∨ (headOf d h).stepC then d0
  else
    let d := modHead h (fun s => { s with stepC := true }) d0
    let r := demoteClass h 2 d
    if r.1 then
      event .cmp (Reg.Cmp.EV_DEMOTION + h) (bump .cmp (Reg.Cmp.DEMOTE_C_COUNT h) 31 0 (sb .cmp (Reg.Cmp.SHEP_STAT h) 0 true
        (modHead h (fun s => { s with cDone := true, demoted2 := true }) r.2)))
    else r.2

/-- SHEPHERD_DEMOTE_C. -/
def execShepherdDemoteC (h : Fin 8) (part : Fin 16) (s : State) := onDev (doShepherdDemoteC h.val part.val) s

/-- The second step, after the first one: every class-O layer is demoted, once in a frame. -/
def doShepherdDemoteO (h part : Nat) (d : Dev) : Dev :=
  let lead := shepLead d h (nextLine d h) part
  let d := noteLead h lead d
  if !leadLow d h lead ∨ !(headOf d h).run ∨ !(headOf d h).stepC ∨ (headOf d h).oDone then d
  else
    let r := demoteClass h 1 d
    if r.1 then
      event .cmp (Reg.Cmp.EV_DEMOTION + h) (bump .cmp (Reg.Cmp.DEMOTE_O_COUNT h) 31 0 (sb .cmp (Reg.Cmp.SHEP_STAT h) 1 true
        (modHead h (fun s => { s with oDone := true, demoted2 := true }) r.2)))
    else r.2

/-- SHEPHERD_DEMOTE_O. -/
def execShepherdDemoteO (h : Fin 8) (part : Fin 16) (s : State) := onDev (doShepherdDemoteO h.val part.val) s

/-- The demotions of the last frame end at frame start (R23). The lowest lead of the new frame starts at the largest value
the field holds. -/
def endDemotions (h : Nat) (d : Dev) : Dev :=
  let d := forN (fun p d => if cHead p (pipeOf d p).act = h then modPipe p (fun s => { s with holds := clrBit s.holds 2 }) d else d) 64 d
  let was := (headOf d h).cDone || (headOf d h).oDone
  sg .cmp (Reg.Cmp.SHEP_STAT h) 0xFFFF0000
    (modHead h (fun s => { s with stepC := false, cDone := false, oDone := false, demoted2 := was }) d)

/-! ## Writeback (R155–R159, R174, R175) -/

/-- A register of the settings of an engine. -/
def wbReg (t : Tab Word) (o : Nat) : Word := tabGet (fun _ => 0) t o
/-- The registers that WB_ARM applies. -/
def wbOffsets : List Nat := [0x040, 0x044, 0x048, 0x04C, 0x050, 0x054, 0x058, 0x05C, 0x060, 0x064, 0x068, 0x06C]

/-- Why WB_ARM is refused, by the codes of R125: format, rectangle, alignment. A reserved MODE is refused with the code of a
format (DESIGN CHOICE: R175 gives it none). -/
def wbRefuse (d : Dev) (k : Nat) : Nat :=
  let p := Page.wb k
  let h := rf d p Reg.Wb.WB_CTRL 3 1
  let f := rf d p Reg.Wb.WB_CTRL 15 8
  let n := rf d p Reg.Wb.WB_CTRL 17 16 + 1
  if !([0x00, 0x01, 0x02, 0x20, 0x21, 0x22].contains f) ∨ 2 ≤ rf d p Reg.Wb.WB_CTRL 6 5 then 3
  else if hActive d h < rf d p Reg.Wb.WB_RECT_XY 13 0 + rf d p Reg.Wb.WB_RECT_WH 13 0 ∨
      vActive d h < rf d p Reg.Wb.WB_RECT_XY 29 16 + rf d p Reg.Wb.WB_RECT_WH 29 16 then 6
  else if (List.range n).any (fun i => rg64 d p (Reg.Wb.WB_ADDR (2 * i)) % (if isFleece f then 256 else 64) != 0) ||
      (!isFleece f && rf d p Reg.Wb.WB_STRIDE 19 0 % 64 != 0) then 7
  else 0

/-- A write of WB_ARM. The registers are taken as they stand at the write (DESIGN CHOICE: R156 applies them at the next frame
start and does not say when they are read), and with them the owner (R319). -/
def wbArm (k : Nat) (v : Word) (d : Dev) : Dev :=
  if !bitOf v 0 then d
  else
    let r := wbRefuse d k
    if r ≠ 0 then event (.wb k) Reg.Wb.EV_WB_REFUSED (sf (.wb k) Reg.Wb.WB_STAT 3 0 r d)
    else
      sf (.wb k) Reg.Wb.WB_STAT 3 0 0
        (modWb k (fun s => { s with
          armed := some (wbOffsets.foldl (fun t o => tabSet (fun _ => 0) t o (rg d (.wb k) o)) []), armedBy := ownerOf d (.wb k) }) d)

/-- WB_ARM. -/
def execWbArm (who : Party) (k : Fin 2) (s : State) := onDev (onWrite who (.wb k.val) Reg.Wb.WB_ARM (wbArm k.val 1)) s

/-- The engine at the frame start of a head: armed settings apply, and a frame's capture begins. -/
def wbFrameStart (h k : Nat) (d : Dev) : Dev :=
  let s := wbOf d k
  let s := match s.armed with
    | some t => if fld (wbReg t Reg.Wb.WB_CTRL) 3 1 = h then { ({} : WbS) with set := some t, owner := s.armedBy } else s
    | none => s
  match s.set with
  | none => d
  | some t =>
    let c := wbReg t Reg.Wb.WB_CTRL
    if fld c 3 1 ≠ h then d
    else
      let on := bitOf c 0
      sb (.wb k) Reg.Wb.WB_STAT 31 on
        (modWb k (fun _ => { s with busy := on, set := if on then s.set else none, lines := 0, rows := [], dead := false
                                    frame := rg d (.head h) Reg.Head.FRAME_COUNT }) d)

/-- Whose writes those of an engine are: the owner's that armed it (R319). -/
def wbWho (d : Dev) (k : Nat) : Who := .party (partyOf ((wbOf d k).owner / 65536) ((wbOf d k).owner % 65536))

/-- The captured components of a pixel: 10 bits from the blender or OUT_BITS bits from the port, brought to the width of the
format; A is the largest value (R155). -/
def wbComps (f bits : Nat) (c : Nat × Nat × Nat) : List Nat :=
  let n := if f % 0x20 = 2 then 10 else 8
  let cv := fun x => if bits = n then x else if bits < n then rep10 bits x / 2 ^ (10 - n)
    else min (2 ^ n - 1) (freeDiv 6 ((x : Nat) : Int) (2 ^ (bits - n))).toNat
  (if f = 0x21 then [] else [if n = 10 then 3 else 255]) ++ [cv c.1, cv c.2.1, cv c.2.2]

/-- The frame of an engine is given up: its single capture ends, a continuous one uses the same buffer again (R158). -/
def wbDrop (k : Nat) (fault : Bool) (d : Dev) : Dev :=
  let d := modWb k (fun s => { s with dead := true, rows := []
                                      set := match s.set with
                                        | some t => if fld (wbReg t Reg.Wb.WB_CTRL) 6 5 = 0 then none else some t
                                        | none => none }) d
  let d := if (wbOf d k).set.isNone then sb (.wb k) Reg.Wb.WB_STAT 31 false (modWb k (fun s => { s with busy := false }) d) else d
  if fault then raiseFault (.wb k) Reg.Wb.SRC_WB_FAULT Reg.Wb.EV_WB_FAULT d
  else raiseFault (.wb k) Reg.Wb.SRC_WB_OVERFLOW Reg.Wb.EV_OVERFLOW (bump (.wb k) Reg.Wb.WB_COUNT 31 16 d)

/-- The address of a buffer. -/
def wbAddr (t : Tab Word) (b : Nat) : Nat :=
  (wbReg t (Reg.Wb.WB_ADDR (2 * b))).toNat + 2 ^ 32 * (wbReg t (Reg.Wb.WB_ADDR (2 * b + 1))).toNat

/-- One line reaches an engine: `blend` is the blender's row, `port` the row as sent (R155, R158). -/
def wbLine (h y k : Nat) (blend : List Px) (port : List (Nat × Nat × Nat)) (wbLate : Bool) (d : Dev) : Dev :=
  let s := wbOf d k
  match s.set with
  | none => d
  | some t =>
    let c := wbReg t Reg.Wb.WB_CTRL
    let x0 := fld (wbReg t Reg.Wb.WB_RECT_XY) 13 0
    let y0 := fld (wbReg t Reg.Wb.WB_RECT_XY) 29 16
    let w := fld (wbReg t Reg.Wb.WB_RECT_WH) 13 0
    let ht := fld (wbReg t Reg.Wb.WB_RECT_WH) 29 16
    let f := fld c 15 8
    if !s.busy ∨ s.dead ∨ fld c 3 1 ≠ h ∨ stands d (.wb k) ∨ y < y0 ∨ y0 + ht ≤ y then d
    else if wbLate then wbDrop k false d
    else
      let row := (if bitOf c 4 then (port.drop x0).take w
        else ((blend.drop x0).take w).map (fun p => (p.c0, p.c1, p.c2))).map (wbComps f (if bitOf c 4 then outBits d h else 10))
      let who := wbWho d k
      let l : Lane := { tier := 1, iso := true }
      let d := modWb k (fun s => { s with lines := s.lines + 1 }) d
      if isFleece f then
        let rows := s.rows ++ [row]
        if rows.length < 8 ∧ y + 1 ≠ y0 + ht then modWb k (fun s => { s with rows := rows }) d
        else
          let r := writeBlockRow who l (wbAddr t s.buf) f w ht ((y - y0) / 8) rows (modWb k (fun s => { s with rows := [] }) d)
          if r.1 then r.2 else wbDrop k true r.2
      else
        let bytes := (row.map (fun x => leBytes 4 (x.foldl (fun m c => m * (if f = 0x02 then 1024 else 256) + c) 0))).flatten
        let r := memWrite who l (wbAddr t s.buf + (y - y0) * fld (wbReg t Reg.Wb.WB_STRIDE) 19 0) bytes d
        if r.1 then r.2 else wbDrop k true r.2

/-- The last line and any Fleece header of a captured frame are written (R156, R157). -/
def doWbFrameDone (k : Nat) (d : Dev) : Dev :=
  let s := wbOf d k
  match s.set with
  | none => d
  | some t =>
    let c := wbReg t Reg.Wb.WB_CTRL
    let f := fld c 15 8
    let w := fld (wbReg t Reg.Wb.WB_RECT_WH) 13 0
    let ht := fld (wbReg t Reg.Wb.WB_RECT_WH) 29 16
    if !s.busy ∨ s.dead ∨ s.lines ≠ ht then d
    else
      let r := if isFleece f then
          writeHeader (wbWho d k) { tier := 1, iso := true } (wbAddr t s.buf) f w ht (rg d (.wb k) Reg.Wb.WB_GEN).toNat d
        else (true, d)
      if !r.1 then wbDrop k true r.2
      else
        let d := when (isFleece f) (bump (.wb k) Reg.Wb.WB_GEN 31 0) r.2
        let single := fld c 6 5 == 0
        let d := sf (.wb k) Reg.Wb.WB_STAT 17 16 s.buf (sg (.wb k) Reg.Wb.WB_FRAME s.frame d)
        let d := modWb k (fun s => { s with
          busy := false, lines := 0, set := if single then none else s.set
          buf := if single then 0 else if s.buf = fld c 17 16 then 0 else s.buf + 1 }) d
        let d := when single (sb (.wb k) Reg.Wb.WB_STAT 31 false) d
        event (.wb k) Reg.Wb.EV_DONE (bump (.wb k) Reg.Wb.WB_COUNT 15 0 d)

/-- WB_FRAME_DONE. -/
def execWbFrameDone (k : Fin 2) (s : State) := onDev (doWbFrameDone k.val) s

end Sys2Proof.Machine
end

