-- ==== Sys2Proof/Machine/Chk.lean ====
section
/-! DEFINITION. Check windows: their commits, the CRC of a window's stream, evaluation and reactions (R307–R318,
R323–R326). -/
namespace Sys2Proof.Machine

/-- A register of a window's configuration. -/
def winReg (t : Tab Word) (o : Nat) : Word := tabGet (fun _ => 0) t o

/-- The staged registers of window `w`, by their offsets in the page of a first window. -/
def winOffsets : List Nat := [0x080, 0x084, 0x088] ++ (List.range 8).map (fun k => 0x200 + 4 * k)
/-- The offset of a first window's register in window `w`. -/
def winShift (o w : Nat) : Nat := if o < 0x200 then o + 16 * w else o + 32 * w

/-- The staged state of all 16 windows of a head, by their offsets. -/
def winStaged (d : Dev) (h : Nat) : Tab Word :=
  (List.range 16).foldl (fun t w => winOffsets.foldl (fun t o =>
    tabSet (fun _ => 0) t (winShift o w) (rg d (.chk h) (winShift o w))) t) []

/-- The configuration of one window out of those of a head. -/
def winPick (t : Tab Word) (w : Nat) : Tab Word :=
  winOffsets.foldl (fun u o => tabSet (fun _ => 0) u o (winReg t (winShift o w))) []

def wOn (t : Tab Word) : Bool := bitOf (winReg t 0x080) 0
def wTap (t : Tab Word) : Nat := fld (winReg t 0x080) 5 4
def wPoly (t : Tab Word) : Nat := fld (winReg t 0x080) 7 6
def wLive (t : Tab Word) : Bool := bitOf (winReg t 0x080) 10
def wInGather (t : Tab Word) : Bool := bitOf (winReg t 0x080) 11
def wReaction (t : Tab Word) : Nat := fld (winReg t 0x080) 14 12
def wCount (t : Tab Word) : Nat := fld (winReg t 0x080) 19 16
def wThreshold (t : Tab Word) : Nat := max 1 (fld (winReg t 0x080) 31 24)
def wX0 (t : Tab Word) : Nat := fld (winReg t 0x084) 12 0
def wY0 (t : Tab Word) : Nat := fld (winReg t 0x084) 28 16
def wW (t : Tab Word) : Nat := fld (winReg t 0x088) 12 0
def wH (t : Tab Word) : Nat := fld (winReg t 0x088) 28 16

/-- The rectangle breaks R308. -/
def winOutside (d : Dev) (h : Nat) (t : Tab Word) : Bool :=
  decide (wW t = 0 ∨ wH t = 0 ∨ hActive d h < wX0 t + wW t ∨ vActive d h < wY0 t + wH t)

/-- Why a staged window is refused: 1 BOUNDS, 2 CODE, 3 COUNT; 0 not. A window that is not enabled is not checked (R317). -/
def winRefuse (d : Dev) (h : Nat) (t : Tab Word) : Nat :=
  if !wOn t then 0
  else if winOutside d h t then 1
  else if wTap t = 3 ∨ wPoly t = 3 ∨ 4 ≤ wReaction t then 2
  else if wCount t < 1 ∨ 8 < wCount t ∨ (wLive t ∧ wCount t ≠ 1) then 3
  else 0

/-- The number of a window over all heads. -/
def winKey (h w : Nat) : Nat := h * 16 + w

/-- nFAULT_B follows the latched windows with REACTION 2 (R315, R526). -/
def winPins (h w : Nat) (d : Dev) : Dev :=
  let on := rb d (.chk h) Reg.Chk.FAIL_LATCH w &&
    (match (winOf d (winKey h w)).cfg with | some t => wReaction t == 2 | none => false)
  showPins (modSdg (fun g => { g with
    pinWindows := (g.pinWindows.filter (· != winKey h w)) ++ (if on then [winKey h w] else []) }) d)

/-- One window of an applied commit. -/
def winApply (h w : Nat) (t : Tab Word) (d : Dev) : Bool × Dev :=
  let c := winPick t w
  let r := winRefuse d h c
  let d := sf (.chk h) (Reg.Chk.WIN_STAT w) 3 0 r d
  if r ≠ 0 then (true, d)
  else
    (false, winPins h w (sb (.chk h) (Reg.Chk.WIN_STAT w) 31 (wOn c)
      (modWin (winKey h w) (fun _ => { cfg := some c }) d)))

/-- A commit of the windows of a head takes effect (R317). -/
def chkApply (h : Nat) (t : Tab Word) (d : Dev) : Dev :=
  let r := (List.range 16).foldl (fun (r : Bool × Dev) w => let q := winApply h w t r.2; (r.1 || q.1, q.2)) (false, d)
  let d := if r.1 then raiseFault (.chk h) Reg.Chk.SRC_CHK_REFUSED Reg.Chk.EV_CHK_REFUSED r.2 else r.2
  event (.chk h) Reg.Chk.EV_CHK_APPLIED d

/-- A write of CHK_COMMIT: bit 0 commits, bit 31 ends isolation, after which the windows wait for the frame start (R317, R325).
A head that is disabled has no frame start to wait for. -/
def chkWrite (h : Nat) (v : Word) (d : Dev) : Dev :=
  let d := if bitOf v 31 && isoOf d (.chk h) then endIso (.chk h) (modHead h (fun s => { s with winsOff := true }) d) else d
  if !bitOf v 0 then d
  else if headDisabled d h then chkApply h (winStaged d h) d
  else modHead h (fun s => { s with wins := some (winStaged d h) }) d

/-- CHK_COMMIT: the write with bit 0. -/
def execChkCommit (who : Party) (h : Fin 8) (s : State) := onDev (onWrite who (.chk h.val) Reg.Chk.CHK_COMMIT (chkWrite h.val 1)) s

/-- CHK_RESTART: the write with bit 31. -/
def execChkRestart (who : Party) (h : Fin 8) (s : State) :=
  onDev (onWrite who (.chk h.val) Reg.Chk.CHK_COMMIT (chkWrite h.val 0x80000000)) s

/-- The commit window of a head closes for its check windows too (R317). -/
def chkWindowClose (h : Nat) (d : Dev) : Dev :=
  modHead h (fun s => { s with wins := none, winsLatched := match s.wins with | some t => some t | none => s.winsLatched }) d

/-- The latched commit of windows at the frame start, and every window's rectangle begins anew. -/
def chkFrameStart (h : Nat) (d : Dev) : Dev :=
  let d := match (headOf d h).winsLatched with
    | some t => modHead h (fun s => { s with winsLatched := none }) (chkApply h t d)
    | none => d
  let d := if (headOf d h).winsOff then modHead h (fun s => { s with winsOff := false }) d else d
  forN (fun w d => if (winOf d (winKey h w)).full || (winOf d (winKey h w)).open_ then
    modWin (winKey h w) (fun s => { s with open_ := false, full := false }) d else d) 16 d

/-- A head whose ENABLE is cleared has no frame start to wait for: the commits of its windows that wait apply (R124, R317). -/
def chkFlush (h : Nat) (d : Dev) : Dev :=
  let s := headOf d h
  let d := modHead h (fun s => { s with wins := none, winsLatched := none }) d
  let d := match s.winsLatched with | some t => chkApply h t d | none => d
  match s.wins with | some t => chkApply h t d | none => d

/-- A window is suspended (R316, R325). -/
def winSuspended (d : Dev) (h w : Nat) : Bool :=
  !(headOf d h).run || (headOf d h).winsOff || isoOf d (.head h) || isoOf d (.chk h) || !blkRuns d (0x28 + h) ||
    (match (winOf d (winKey h w)).cfg with
     | some t => gatherNow d && (wTap t == 1 || wTap t == 2) && !wInGather t
     | none => rf d (.chk h) (Reg.Chk.WIN_STAT w) 3 0 != 0)

/-- WIN_STAT as read. -/
def winStat (d : Dev) (h w : Nat) : Word :=
  putBit (putBit (rg d (.chk h) (Reg.Chk.WIN_STAT w)) 30 (rb d (.chk h) Reg.Chk.FAIL_LATCH w)) 29 (winSuspended d h w)

/-- A 32-bit word fed into a window's CRC, least significant byte first (R310). -/
def crcFeed (poly : Nat) (c w : Word) : Word :=
  if poly = 0 then (wordBytes w).foldl (crcReflByte 0xEDB88320) c
  else if poly = 1 then (wordBytes w).foldl (crcReflByte 0x82F63B78) c
  else ((wordBytes w).foldl crc16Byte (c.setWidth 16)).setWidth 32

/-- The CRC before its first word, and its final XOR (R310). -/
def crcStart (poly : Nat) : Word := if poly = 2 then 0xFFFF else 0xFFFFFFFF
def crcFinal (poly : Nat) (c : Word) : Word := if poly = 2 then c else c ^^^ 0xFFFFFFFF

/-- The stamp words of a window (R311). -/
def winStamp (h w : Nat) (t : Tab Word) : List Word :=
  [BitVec.ofNat 32 (h * 2 ^ 29 + w * 2 ^ 25 + wX0 t), BitVec.ofNat 32 (wW t * 2 ^ 13 + wY0 t)]

/-- The words that a line gives a window (R309). -/
def winWords (t : Tab Word) (fold : List Word) (blend : List Px) (port : List (Nat × Nat × Nat)) : List Word :=
  let cut := fun {α : Type} (l : List α) => (l.drop (wX0 t)).take (wW t)
  match wTap t with
  | 0 => cut fold
  | 1 => (cut blend).map (fun p => BitVec.ofNat 32 (p.c0 * 2 ^ 20 + p.c1 * 2 ^ 10 + p.c2))
  | _ => (cut port).map (fun p => BitVec.ofNat 32 (p.1 * 2 ^ 20 + p.2.1 * 2 ^ 10 + p.2.2))

/-- Line `y` of a head passes the taps of a window (R311, R312). -/
def winLine (h y : Nat) (fold : List Word) (blend : List Px) (port : List (Nat × Nat × Nat)) (w : Nat) (d : Dev) : Dev :=
  match (winOf d (winKey h w)).cfg with
  | none => d
  | some t =>
    if !wOn t || decide (y < wY0 t ∨ wY0 t + wH t ≤ y) then d
    else if winSuspended d h w || (decide (y ≠ wY0 t) && !(winOf d (winKey h w)).open_) then
      modWin (winKey h w) (fun s => { s with open_ := false }) d
    else
      modWin (winKey h w) (fun s =>
        let c0 := if y = wY0 t then (winStamp h w t).foldl (crcFeed (wPoly t)) (crcStart (wPoly t)) else s.crc
        { s with crc := (winWords t fold blend port).foldl (crcFeed (wPoly t)) c0
                 open_ := true, full := decide (y + 1 = wY0 t + wH t) }) d

/-- A line passes every window of its head. -/
def chkLine (h y : Nat) (fold : List Word) (blend : List Px) (port : List (Nat × Nat × Nat)) (d : Dev) : Dev :=
  forN (winLine h y fold blend port) 16 d

/-- A window fails (R315): the reaction is carried out when the latch sets. -/
def winFail (h w : Nat) (t : Tab Word) (d : Dev) : Dev :=
  let was := rb d (.chk h) Reg.Chk.FAIL_LATCH w
  let d := bump (.chk h) (Reg.Chk.WIN_COUNT w) 15 0 (sb (.chk h) Reg.Chk.FAIL_LATCH w true d)
  let d := event (.chk h) (Reg.Chk.EV_WIN_FAIL + w) d
  if was then d
  else
    let d := if wReaction t = 1 ∨ wReaction t = 2 then fireSource (.chk h) Reg.Chk.SRC_CHECK_FAIL d
      else if wReaction t = 3 then fireSource (.chk h) Reg.Chk.SRC_CHECK_HARD d else d
    winPins h w d

/-- The result of a window's frame, and whether it counts as a mismatch or as unchanged (R313, R314). -/
def winResult (t : Tab Word) (s : WinS) : Word := crcFinal (wPoly t) s.crc
def winMatch (t : Tab Word) (r : Word) : Option Nat := (List.range (wCount t)).find? (fun k => winReg t (0x200 + 4 * k) == r)
def winBad (t : Tab Word) (s : WinS) : Bool :=
  if wLive t then s.prev == some (winResult t s) else (winMatch t (winResult t s)).isNone

/-- A window is evaluated, once in the frame in which its rectangle is complete (R312–R315). -/
def doWindowEval (h w : Nat) (d : Dev) : Dev :=
  let s := winOf d (winKey h w)
  match s.cfg with
  | none => d
  | some t =>
    if !s.full || !wOn t || winSuspended d h w then d
    else
      let r := winResult t s
      let bad := winBad t s
      let run := rf d (.chk h) (Reg.Chk.WIN_STAT w) 15 8
      let run' := if bad then min 255 (run + 1) else 0
      let d := sg (.chk h) (Reg.Chk.LAST_CRC w) r (sg (.chk h) Reg.Chk.CHK_FRAME (rg d (.head h) Reg.Head.FRAME_COUNT) d)
      let d := modWin (winKey h w) (fun s => { s with full := false, prev := some r }) d
      let d := sf (.chk h) (Reg.Chk.WIN_STAT w) 15 8 run' d
      let d := match winMatch t r with
        | some k => if wLive t then d else sf (.chk h) (Reg.Chk.WIN_STAT w) 26 24 k d
        | none => d
      let d := when bad (bump (.chk h) (Reg.Chk.WIN_COUNT w) 31 16) d
      if run < wThreshold t ∧ wThreshold t ≤ run' then winFail h w t d else d

/-- WINDOW_EVAL. -/
def execWindowEval (h : Fin 8) (w : Fin 16) (s : State) := onDev (doWindowEval h.val w.val) s

/-- A write of FAIL_CLEAR (R315). -/
def failClear (h : Nat) (v : Word) (d : Dev) : Dev :=
  forN (fun w d => if bitOf v w then
    winPins h w (sf (.chk h) (Reg.Chk.WIN_STAT w) 15 8 0 (sb (.chk h) Reg.Chk.FAIL_LATCH w false d)) else d) 16 d

/-- FAIL_CLEAR. -/
def execFailClear (who : Party) (h : Fin 8) (v : BitVec 16) (s : State) :=
  onDev (onWrite who (.chk h.val) Reg.Chk.FAIL_CLEAR (failClear h.val (v.setWidth 32))) s

/-- The windows of a head at its enable are checked for the new timing (R318). -/
def chkHeadEnabled (h : Nat) (d : Dev) : Dev :=
  let r := (List.range 16).foldl (fun (r : Bool × Dev) w =>
    match (winOf r.2 (winKey h w)).cfg with
    | some t =>
      if wOn t && winOutside r.2 h t then
        (true, sf (.chk h) (Reg.Chk.WIN_STAT w) 3 0 1 (sb (.chk h) (Reg.Chk.WIN_STAT w) 31 false
          (modWin (winKey h w) (fun s => { s with cfg := some (tabSet (fun _ => 0) t 0x080 (putBit (winReg t 0x080) 0 false)) }) r.2)))
      else r
    | none => r) (false, d)
  if r.1 then raiseFault (.chk h) Reg.Chk.SRC_CHK_REFUSED Reg.Chk.EV_CHK_REFUSED r.2 else r.2

end Sys2Proof.Machine
end

