-- ==== Sys2Proof/Machine/Crypto.lean ====
section
/-! DEFINITION. SHA-384 (FIPS 180-4) and the verification of ECDSA signatures over P-384 (FIPS 186-5), which the
spec takes from those standards (R76, R270). -/
namespace Sys2Proof.Machine

/-! ## SHA-384 -/

/-- Rotation of a 64-bit word to the right. -/
def rotr64 (x : BitVec 64) (n : Nat) : BitVec 64 := (x >>> n) ||| (x <<< (64 - n))

/-- The first 40 round constants: the fractions of the cube roots of the first primes. -/
def shaK1 : List (BitVec 64) := [
  0x428A2F98D728AE22, 0x7137449123EF65CD, 0xB5C0FBCFEC4D3B2F, 0xE9B5DBA58189DBBC,
  0x3956C25BF348B538, 0x59F111F1B605D019, 0x923F82A4AF194F9B, 0xAB1C5ED5DA6D8118,
  0xD807AA98A3030242, 0x12835B0145706FBE, 0x243185BE4EE4B28C, 0x550C7DC3D5FFB4E2,
  0x72BE5D74F27B896F, 0x80DEB1FE3B1696B1, 0x9BDC06A725C71235, 0xC19BF174CF692694,
  0xE49B69C19EF14AD2, 0xEFBE4786384F25E3, 0x0FC19DC68B8CD5B5, 0x240CA1CC77AC9C65,
  0x2DE92C6F592B0275, 0x4A7484AA6EA6E483, 0x5CB0A9DCBD41FBD4, 0x76F988DA831153B5,
  0x983E5152EE66DFAB, 0xA831C66D2DB43210, 0xB00327C898FB213F, 0xBF597FC7BEEF0EE4,
  0xC6E00BF33DA88FC2, 0xD5A79147930AA725, 0x06CA6351E003826F, 0x142929670A0E6E70,
  0x27B70A8546D22FFC, 0x2E1B21385C26C926, 0x4D2C6DFC5AC42AED, 0x53380D139D95B3DF,
  0x650A73548BAF63DE, 0x766A0ABB3C77B2A8, 0x81C2C92E47EDAEE6, 0x92722C851482353B]

/-- The last 40 round constants. -/
def shaK2 : List (BitVec 64) := [
  0xA2BFE8A14CF10364, 0xA81A664BBC423001, 0xC24B8B70D0F89791, 0xC76C51A30654BE30,
  0xD192E819D6EF5218, 0xD69906245565A910, 0xF40E35855771202A, 0x106AA07032BBD1B8,
  0x19A4C116B8D2D0C8, 0x1E376C085141AB53, 0x2748774CDF8EEB99, 0x34B0BCB5E19B48A8,
  0x391C0CB3C5C95A63, 0x4ED8AA4AE3418ACB, 0x5B9CCA4F7763E373, 0x682E6FF3D6B2B8A3,
  0x748F82EE5DEFB2FC, 0x78A5636F43172F60, 0x84C87814A1F0AB72, 0x8CC702081A6439EC,
  0x90BEFFFA23631E28, 0xA4506CEBDE82BDE9, 0xBEF9A3F7B2C67915, 0xC67178F2E372532B,
  0xCA273ECEEA26619C, 0xD186B8C721C0C207, 0xEADA7DD6CDE0EB1E, 0xF57D4F7FEE6ED178,
  0x06F067AA72176FBA, 0x0A637DC5A2C898A6, 0x113F9804BEF90DAE, 0x1B710B35131C471B,
  0x28DB77F523047D84, 0x32CAAB7B40C72493, 0x3C9EBE0A15C9BEBC, 0x431D67C49C100D4C,
  0x4CC5D4BECB3E42B6, 0x597F299CFC657E2A, 0x5FCB6FAB3AD6FAEC, 0x6C44198C4A475817]

/-- The initial hash value of SHA-384. -/
def sha384Init : List (BitVec 64) := [
  0xCBBB9D5DC1059ED8, 0x629A292A367CD507, 0x9159015A3070DD17, 0x152FECD8F70E5939,
  0x67332667FFC00B31, 0x8EB44A8768581511, 0xDB0C2E0D64F98FA7, 0x47B5481DBEFA4FA4]

/-- A number as `n` bytes, most significant first. -/
def beBytes (n x : Nat) : List Byte := (leBytes n x).reverse

/-- Bytes as a number, most significant first. -/
def beNat (bs : List Byte) : Nat := leNat bs.reverse

/-- The padded message: a one bit, zeros, and the length in bits as 16 bytes. -/
def shaPad (m : List Byte) : List Byte :=
  m ++ [0x80] ++ List.replicate ((239 - m.length % 128) % 128) 0 ++ beBytes 16 (8 * m.length)

/-- The message schedule: `w` holds the last 16 words, oldest first; `n` further words are made. -/
def shaSched : Nat → List (BitVec 64) → List (BitVec 64)
  | 0, w => w
  | n + 1, w =>
    let g := fun i => w.getD i 0
    let s0 := rotr64 (g 1) 1 ^^^ rotr64 (g 1) 8 ^^^ (g 1 >>> 7)
    let s1 := rotr64 (g 14) 19 ^^^ rotr64 (g 14) 61 ^^^ (g 14 >>> 6)
    g 0 :: shaSched n (w.drop 1 ++ [g 0 + s0 + g 9 + s1])

/-- One round on the eight working words. -/
def shaRound (s : List (BitVec 64)) (kw : BitVec 64) : List (BitVec 64) :=
  match s with
  | [a, b, c, d, e, f, g, h] =>
    let s1 := rotr64 e 14 ^^^ rotr64 e 18 ^^^ rotr64 e 41
    let ch := (e &&& f) ^^^ (~~~e &&& g)
    let t1 := h + s1 + ch + kw
    let s0 := rotr64 a 28 ^^^ rotr64 a 34 ^^^ rotr64 a 39
    let maj := (a &&& b) ^^^ (a &&& c) ^^^ (b &&& c)
    [t1 + s0 + maj, a, b, c, d + t1, e, f, g]
  | s => s

/-- One block of 128 bytes. -/
def shaBlock (h : List (BitVec 64)) (blk : List Byte) : List (BitVec 64) :=
  let w := (List.range 16).map (fun i => BitVec.ofNat 64 (beNat ((blk.drop (8 * i)).take 8)))
  let kw := List.zipWith (· + ·) (shaSched 64 w) (shaK1 ++ shaK2)
  List.zipWith (· + ·) h (kw.foldl shaRound h)

/-- The blocks of a padded message; the first argument bounds their number. -/
def shaBlocks : Nat → List (BitVec 64) → List Byte → List (BitVec 64)
  | 0, h, _ => h
  | n + 1, h, m => if m = [] then h else shaBlocks n (shaBlock h (m.take 128)) (m.drop 128)

/-- SHA-384 of bytes: 48 bytes. -/
def sha384 (m : List Byte) : List Byte :=
  let p := shaPad m
  (((shaBlocks (p.length / 128 + 1) sha384Init p).take 6).map (fun w => beBytes 8 w.toNat)).flatten

/-! ## ECDSA over P-384 -/

/-- The field prime, the coefficient b, the order and the base point of P-384. -/
def p384 : Nat := 0xfffffffffffffffffffffffffffffffffffffffffffffffffffffffffffffffeffffffff0000000000000000ffffffff
def b384 : Nat := 0xb3312fa7e23ee7e4988e056be3f82d19181d9c6efe8141120314088f5013875ac656398d8a2ed19d2a85c8edd3ec2aef
def n384 : Nat := 0xffffffffffffffffffffffffffffffffffffffffffffffffc7634d81f4372ddf581a0db248b0a77aecec196accc52973
def gx384 : Nat := 0xaa87ca22be8b05378eb1c71ef320ad746e1d3b628ba79b9859f741e082542a385502f25dbf55296c3a545e3872760ab7
def gy384 : Nat := 0x3617de4a96262c6f5d9e98bf9292dc29f8f41dbd289a147ce9da3113b5f0b8c00a60b1ce1d7e819d7a431d7c90ea0e5f

/-- `x ^ e` modulo `m`, the exponent taken bit by bit from bit `k - 1` down. -/
def powMod (m x e : Nat) : Nat → Nat
  | 0 => 1 % m
  | k + 1 => if e.testBit 0 then x * powMod m (x * x % m) (e / 2) k % m else powMod m (x * x % m) (e / 2) k

/-- The inverse modulo a prime of 384 bits. -/
def invMod (m x : Nat) : Nat := powMod m (x % m) (m - 2) 384

/-- The sum of two points; none is the point at infinity. -/
def ecAdd (a b : Option (Nat × Nat)) : Option (Nat × Nat) :=
  match a, b with
  | none, q => q
  | q, none => q
  | some (x1, y1), some (x2, y2) =>
    let sub := fun x y => (x + p384 - y % p384) % p384
    let third := fun l => (sub (sub (l * l) x1) x2, sub (l * sub x1 (sub (sub (l * l) x1) x2)) y1)
    if x1 = x2 then
      if (y1 + y2) % p384 = 0 then none
      else some (third (sub (3 * x1 * x1) 3 * invMod p384 (2 * y1) % p384))
    else some (third (sub y2 y1 * invMod p384 (sub x2 x1) % p384))

/-- A multiple of a point, over the low `k` bits of the number. -/
def ecMul : Nat → Nat → Option (Nat × Nat) → Option (Nat × Nat)
  | 0, _, _ => none
  | k + 1, e, q => if e.testBit 0 then ecAdd q (ecMul k (e / 2) (ecAdd q q)) else ecMul k (e / 2) (ecAdd q q)

/-- The point lies on the curve. -/
def onCurve (x y : Nat) : Bool :=
  decide (x < p384 ∧ y < p384) && (y * y % p384 == (x * x * x + b384 + 3 * (p384 - x)) % p384)

/-- The signature (r, s) over a digest of 48 bytes is valid under the key (x, y). -/
def ecdsaValid (x y r s : Nat) (digest : List Byte) : Bool :=
  if onCurve x y ∧ 0 < r ∧ r < n384 ∧ 0 < s ∧ s < n384 then
    let w := invMod n384 s
    match ecAdd (ecMul 384 (beNat digest * w % n384) (some (gx384, gy384))) (ecMul 384 (r * w % n384) (some (x, y))) with
    | none => false
    | some (px, _) => px % n384 == r
  else false

end Sys2Proof.Machine
end

