-- ==== Sys2Proof/Machine/Gpu.lean ====
section
/-! DEFINITION. The Nuroton GPU: contexts with their queues and packets, pipelines and translation, passes with pens and
partial renders, Bellwether calls and preemption, clock levels and thermal limits (R256–R301, R605, R606). -/
namespace Sys2Proof.Machine

/-! ## Context states and memory -/

def cxState (d : Dev) (n : Nat) : Nat := rf d (.ctx n) Reg.Ctx.CTX_STAT 3 0
def cxEnabled (d : Dev) (n : Nat) : Bool := rb d (.ctx n) Reg.Ctx.CTX_CTRL 0
def cxLevel (d : Dev) (n : Nat) : Nat := rf d (.ctx n) Reg.Ctx.CTX_CTRL 17 16
def cxClass (d : Dev) (n : Nat) : Nat := rf d (.ctx n) Reg.Ctx.CTX_CTRL 13 12
def cxBw (d : Dev) (n : Nat) : Bool := rb d (.ctx n) Reg.Ctx.CTX_CTRL 18
def cxWho (d : Dev) (n : Nat) : Who := .party (ownerParty d (.ctx n))

/-- The lane of the front end, and of the flocks (R548, R587). -/
def frontLane : Lane := { tier := 1, port := 5 }
def flockLane (f : Nat) : Lane := { tier := 1, port := 1 + f }

/-- The GPU runs a context: it is enabled and has started at "DRAM trained", is not in gather mode, and neither page is
isolated (R96, R290, R296, R611). -/
def gpuRuns (d : Dev) : Bool :=
  d.boot.dramUp && rb d .gpu Reg.Gpu.GPU_CTRL 0 && !gatherNow d && !isoOf d .gpu && blkRuns d (Page.code .gpu)

/-- A read of a context's memory; a failure faults the context (R263). -/
def cxRead (n : Nat) (l : Lane) (a len : Nat) (d : Dev) : Option (List Byte) × Dev :=
  let r := memRead (cxWho d n) l a len d
  if !r.1.ok then (none, ctxFault n 2 0 a r.2)
  else if r.1.poison then (none, ctxFault n 3 0 a r.2)
  else (some r.1.bytes, r.2)

/-- A write of a context's memory; a failure faults the context (R263). -/
def cxWrite (n : Nat) (l : Lane) (a : Nat) (bs : List Byte) (d : Dev) : Bool × Dev :=
  let r := memWrite (cxWho d n) l a bs d
  if r.1 then r else (false, ctxFault n 2 0 a r.2)

/-- An address lies in what the firmware placed for a Bellwether context: the GPU reaches its pen ring, pens and spill area there
itself, whoever owns the context (R281). -/
def inPlaced (d : Dev) (n a len : Nat) : Bool :=
  decide ((ctxOf d n).placed.1 ≤ a ∧ a + len ≤ (ctxOf d n).placed.1 + (ctxOf d n).placed.2)

/-- A read of a pen ring or of a spill area. -/
def ownRead (n : Nat) (l : Lane) (a len : Nat) (d : Dev) : Option (List Byte) × Dev :=
  if !inPlaced d n a len then cxRead n l a len d
  else
    let r := memRead (.party .fold) l a len d
    if !r.1.ok then (none, ctxFault n 2 0 a r.2) else if r.1.poison then (none, ctxFault n 3 0 a r.2) else (some r.1.bytes, r.2)

/-- A write of a pen or of a spill area. -/
def ownWrite (n : Nat) (l : Lane) (a : Nat) (bs : List Byte) (d : Dev) : Bool × Dev :=
  if !inPlaced d n a bs.length then cxWrite n l a bs d
  else
    let r := memWrite (.party .fold) l a bs d
    if r.1 then r else (false, ctxFault n 2 0 a r.2)

/-- Bytes whose values the spec leaves open. -/
def freeBytes (n : Nat) (d : Dev) : List Byte := (List.range n).map (Config.freeByte d.free)

/-! ## The queue (R262–R264) -/

def qSize (d : Dev) (n : Nat) : Nat := 2 ^ rf d (.ctx n) Reg.Ctx.QUEUE_SIZE 4 0
def qBase (d : Dev) (n : Nat) : Nat := rg64 d (.ctx n) Reg.Ctx.QUEUE_BASE_LO
def qRptr (d : Dev) (n : Nat) : Nat := rf d (.ctx n) Reg.Ctx.QUEUE_RPTR 19 0
/-- The write pointer: a multiple of 4 within the ring. -/
def qWptr (d : Dev) (n : Nat) : Nat := rf d (.ctx n) Reg.Ctx.QUEUE_WPTR 19 2 * 4 % qSize d n

/-- Bytes of the ring from an offset on, which wrap from its end to its start. -/
def ringRead (n off len : Nat) (d : Dev) : Option (List Byte) × Dev :=
  let size := qSize d n
  let m := min len (size - off % size)
  let r := cxRead n frontLane (qBase d n + off % size) m d
  match r.1 with
  | none => r
  | some a =>
    if m = len then r
    else
      let q := cxRead n frontLane (qBase d n) (len - m) r.2
      (q.1.map (a ++ ·), q.2)

/-- A context whose ENABLE was cleared has completed every started packet and enters OFF (R298). -/
def cxClosed (n : Nat) (d : Dev) : Dev :=
  ctxState n 0 0 (modCtx n (fun c => { c with stop := false, closing := false }) (ctxHalt n (sf (.ctx n) Reg.Ctx.CTX_STAT 11 10 0 d)))

/-- A packet has started and is not complete: it waits for a fence, a call, pens or a translation, renders a part, or its waves
are stopped or saved. Draws and dispatches that nothing holds complete at once. -/
def cxStarted (d : Dev) (n : Nat) : Bool :=
  let c := ctxOf d n
  c.fence.isSome || c.callWait || c.transWait || c.want != 0 || c.partialOn || c.stopped || c.stopping || c.saving || cxState d n == 6

/-- A running context with an empty queue and no work in flight becomes IDLE (R262); one that closes becomes OFF. -/
def cxSettle (n : Nat) (d : Dev) : Dev :=
  if (ctxOf d n).closing ∧ !cxStarted d n ∧ 1 ≤ cxState d n ∧ cxState d n ≤ 6 then cxClosed n d
  else if cxState d n = 3 ∧ qRptr d n = qWptr d n ∧ !(ctxOf d n).work ∧ (ctxOf d n).want = 0 ∧ !(ctxOf d n).partialOn then
    event (.ctx n) Reg.Ctx.EV_QUEUE_EMPTY (ctxState n 1 0 d)
  else d

/-- An IDLE context with packets becomes READY (R262). -/
def cxKick (n : Nat) (d : Dev) : Dev :=
  if cxState d n = 1 ∧ !(ctxOf d n).stop ∧ qRptr d n ≠ qWptr d n then ctxState n 2 0 d else d

/-- The cause for which a context must still wait, or 0: fence, call, pens, translation (R261). -/
def cxCause (d : Dev) (n : Nat) : Nat :=
  let c := ctxOf d n
  if c.fence.isSome then 1 else if c.callWait then 2 else if c.want ≠ 0 then 3 else if c.transWait then 4 else 0

/-- A context's wait ends, unless another cause stands: it becomes READY (R262). With nothing left in its queue, the packet that
waited is its last: it runs to its end, from READY through RUNNING to IDLE. -/
def cxWake (n : Nat) (d : Dev) : Dev :=
  if cxState d n ≠ 4 then cxSettle n d
  else if cxCause d n ≠ 0 then ctxState n 4 (cxCause d n) d
  else if qRptr d n = qWptr d n ∧ !(ctxOf d n).work then cxSettle n (ctxState n 3 0 d)
  else cxSettle n (ctxState n 2 0 d)

/-- All earlier work of a context has completed (R265). -/
def finishWork (n : Nat) (d : Dev) : Dev := modCtx n (fun c => { c with work := false, waves := [] }) d

/-- The waves on a core: those of every context that do not stand saved (R256, R286, R289). -/
def coreWaves (d : Dev) (core : Nat) : Nat :=
  ((List.range 64).map (fun m =>
    if cxState d m = 6 ∨ (ctxOf d m).slots.any (·.1 == core) then 0
    else (((ctxOf d m).waves.filter (·.1 == core)).map (·.2)).foldl (· + ·) 0)).foldl (· + ·) 0

/-- The preemption slot of a core holds saved waves (R287); those of a Bellwether context stand in its own save area. -/
def slotHeld (d : Dev) (core : Nat) : Bool :=
  (List.range 64).any (fun m => (ctxOf d m).area.isNone && (ctxOf d m).slots.any (·.1 == core))

/-- A core is in use: no error has removed it (R297). -/
def coreOk (d : Dev) (core : Nat) : Bool := rb d (.flock (core / 6)) Reg.Flock.FLOCK_STAT (core % 6)

/-- The waves of a draw or dispatch can issue: their cores are in use and have room for them beside the 48 that a core holds, and
no wave of levels 1–3 issues on a core whose slot holds saved waves. Otherwise they wait (R256, R260, R287, R297). -/
def canIssue (d : Dev) (n : Nat) (run : ShaderRun) : Bool :=
  run.waves.all (fun w =>
    coreOk d w.1.val && decide (coreWaves d w.1.val + ((run.waves.filter (·.1 == w.1)).map (·.2)).foldl (· + ·) 0 ≤ 48) &&
      (cxBw d n || !slotHeld d w.1.val))

/-- The header of a packet has a known opcode, its length and zero FLAGS where the table marks them (R264). -/
def headerOk (op dw fl : Nat) : Bool :=
  match op with
  | 0x00 => fl == 0
  | 0x01 => dw == 2 && fl == 0
  | 0x02 => dw == 3 && fl == 0
  | 0x03 => decide (1 ≤ dw ∧ dw ≤ 64) && fl == 0
  | 0x10 => dw == 2 && fl == 0
  | 0x11 => dw == 0 && fl == 0
  | 0x12 => dw == 4 && fl == 0
  | 0x13 => dw == 7 && decide (fl < 2)
  | 0x14 => dw == 3 && fl == 0
  | 0x20 => dw == 3 && fl == 0
  | 0x21 => dw == 2 && fl == 0
  | 0x30 => dw == 0 && decide (fl < 16)
  | 0x31 => dw == 4 && decide (fl < 2)
  | 0x32 => dw == 4 && fl == 0
  | 0x40 => dw == 3 && fl == 0
  | 0x50 => dw == 0 && fl == 0
  | 0x51 => decide (1 ≤ dw) && fl == 0
  | _ => false

/-- Packets are fetched for a context: it is READY or RUNNING on a running GPU, nothing holds it, and the queue has a packet
below the mark of a drain. -/
def pktReady (d : Dev) (n : Nat) : Bool :=
  let c := ctxOf d n
  (cxState d n == 2 || cxState d n == 3) && gpuRuns d && cxCause d n == 0 && !c.partialOn && !c.saving && !c.stop &&
    !c.stopping && !c.closing && qRptr d n != qWptr d n && c.drain != some (qRptr d n)

/-- A packet as fetched: FLAGS, the words after the header, and the offset of the header. -/
structure Pkt where
  flags : Nat
  words : List Nat
  at_ : Nat
deriving DecidableEq, Repr

/-- Word k of a packet, counted from 1, and the address in words k and k + 1. -/
def Pkt.w (p : Pkt) (k : Nat) : Nat := p.words.getD (k - 1) 0
def Pkt.addr (p : Pkt) (k : Nat) : Nat := p.w k + 2 ^ 32 * p.w (k + 1)

/-- A context faults with reason PACKET at a packet. -/
def pktFault (n : Nat) (p : Pkt) (d : Dev) : Dev := ctxFault n 1 0 p.at_ d

/-- The little-endian words of bytes. -/
def wordsOf : Nat → List Byte → List Nat
  | 0, _ => []
  | k + 1, bs => leNat (bs.take 4) :: wordsOf k (bs.drop 4)

/-- A READY context that a cause of waiting still holds takes its packet up again, and waits (R262). -/
def cxHold (n : Nat) (d : Dev) : Dev :=
  if cxState d n = 2 ∧ gpuRuns d ∧ cxCause d n ≠ 0 ∧ !(ctxOf d n).saving ∧ !(ctxOf d n).stop ∧ !(ctxOf d n).stopping then
    ctxState n 4 (cxCause d n) d
  else d

/-- The packet at the read pointer is fetched: a bad header faults the context, a packet of another opcode than the
command's is left alone, and a packet of this one takes effect (R263–R265). -/
def doPkt (n op : Nat) (act : Pkt → Dev → Dev) (d : Dev) : Dev :=
  if !pktReady d n then cxHold n d
  else
    let rp := qRptr d n
    let h := ringRead n rp 4 d
    match h.1 with
    | none => h.2
    | some hb =>
      let w := leNat hb
      let dw := w % 65536
      if !headerOk (w / 2 ^ 24) dw (w / 65536 % 256) then ctxFault n 1 0 rp h.2
      else if w / 2 ^ 24 ≠ op then d
      else
        let b := if op = 0 then (some [], h.2) else ringRead n (rp + 4) (4 * dw) h.2
        match b.1 with
        | none => b.2
        | some bs =>
          let d := sf (.ctx n) Reg.Ctx.QUEUE_RPTR 19 0 ((rp + 4 + 4 * dw) % qSize d n) b.2
          cxSettle n (act { flags := w / 65536 % 256, words := wordsOf dw bs, at_ := rp } (ctxState n 3 0 d))

/-! ## Pipelines (R267–R274) -/

/-- The capabilities of R269. -/
def spirvCaps : List Nat := [0, 1, 9, 11, 22, 35, 39, 50, 51, 56, 61, 62, 63, 64, 65, 5345]

/-- What the declarations of a module have said so far: the bytes of each type, and of what a pointer to Workgroup storage names;
the constants and the numbers by which they are specialised; the execution models of its entry points; the Workgroup storage;
the constants of LocalSizeId; and whether every limit has held. -/
structure Spv where
  sizes : Tab Nat := []
  ptrs : Tab Nat := []
  consts : Tab Nat := []
  specs : Tab Nat := []
  models : List Nat := []
  shared : Nat := 0
  local_ : List Nat := []
  ok : Bool := true
deriving DecidableEq, Repr

/-- A workgroup within the limits of R269. -/
def groupOk (x y z : Nat) : Bool := decide (x ≤ 1024 ∧ y ≤ 1024 ∧ z ≤ 1024 ∧ x * y * z ≤ 1024)

/-- One instruction of a module: its opcode and its operands. `spec`: the specialisation pairs. -/
def spvStep (spec : List Nat) (op : Nat) (ops : List Nat) (e : Spv) : Spv :=
  let a := fun i => ops.getD i 0
  let put := fun (t : Tab Nat) i v => tabSet (fun _ => 0) t i v
  let get := fun (t : Tab Nat) i => tabGet (fun _ => 0) t i
  let pairs := (List.range (spec.length / 2)).map (fun i => (spec.getD (2 * i) 0, spec.getD (2 * i + 1) 0))
  match op with
  | 17 => { e with ok := e.ok && spirvCaps.contains (a 0) }
  | 14 => { e with ok := e.ok && a 0 == 0 && (a 1 == 1 || a 1 == 3) }
  | 15 => { e with models := e.models ++ [a 0], ok := e.ok && (a 0 == 0 || a 0 == 4 || a 0 == 5) }
  | 16 => { e with ok := e.ok && (a 1 != 17 || groupOk (a 2) (a 3) (a 4)) }
  | 331 => if a 1 = 38 then { e with local_ := [a 2, a 3, a 4] } else e
  | 71 => if a 1 = 1 then { e with specs := put e.specs (a 0) (a 2 + 1) } else e
  | 20 => { e with sizes := put e.sizes (a 0) 4 }
  | 21 => { e with sizes := put e.sizes (a 0) (a 1 / 8) }
  | 22 => { e with sizes := put e.sizes (a 0) (a 1 / 8) }
  | 23 => { e with sizes := put e.sizes (a 0) (get e.sizes (a 1) * a 2) }
  | 24 => { e with sizes := put e.sizes (a 0) (get e.sizes (a 1) * a 2) }
  | 28 => { e with sizes := put e.sizes (a 0) (get e.sizes (a 1) * get e.consts (a 2)) }
  | 30 => { e with sizes := put e.sizes (a 0) ((ops.drop 1).foldl (fun s m => s + get e.sizes m) 0) }
  | 32 => if a 1 = 4 then { e with ptrs := put e.ptrs (a 0) (get e.sizes (a 2)) } else e
  | 43 => { e with consts := put e.consts (a 1) (a 2) }
  | 50 =>
    let own := match pairs.find? (fun q => q.1 + 1 == get e.specs (a 1)) with | some q => q.2 | none => a 2
    { e with consts := put e.consts (a 1) own }
  | 59 => if a 2 = 4 then { e with shared := e.shared + get e.ptrs (a 0) } else e
  | _ => e

/-- The instructions of a module, one after the other. The fuel bounds their number. -/
def spirvScan (spec : List Nat) : Nat → List Nat → Spv → Spv
  | 0, _, e => e
  | _ + 1, [], e => e
  | k + 1, w :: ws, e =>
    if w / 65536 = 0 then { e with ok := false }
    else spirvScan spec k (ws.drop (w / 65536 - 1)) (spvStep spec (w % 65536) (ws.take (w / 65536 - 1)) e)

/-- A module breaks a limit of R269 that its words show: magic, version 1.0 to 1.6, size, the declarations, 64 KiB of Workgroup
storage, a workgroup's size; or it has no entry point of the stage's execution model (R267). -/
def spirvBad (model : Nat) (spec : List Nat) (bs : List Byte) : Bool :=
  let ws := wordsOf (bs.length / 4) bs
  let e := spirvScan spec ws.length (ws.drop 5) {}
  let g := fun i => tabGet (fun _ => 0) e.consts (e.local_.getD i 0)
  bs.length % 4 != 0 || decide (262144 * 4 < bs.length) || ws.getD 0 0 != 0x07230203 ||
    ws.getD 1 0 / 65536 != 1 || decide (6 < ws.getD 1 0 / 256 % 256) || ws.getD 1 0 % 256 != 0 || !e.ok ||
    decide (65536 < e.shared) || !e.models.contains model || (e.local_ != [] && !groupOk (g 0) (g 1) (g 2))

/-- A descriptor breaks its table (R267): a graphics descriptor with a value that it does not list or a reserved bit set, or a
module that is not aligned. -/
def descBroken (b : List Byte) (stages : List (List Byte)) : Bool :=
  let g := fun o n => leNat ((b.drop o).take n)
  stages.any (fun st => leNat (st.take 8) % 4 != 0) || decide (1 < g 0 1) ||
    (g 0 1 == 0 && ((g 1 1 != 1 && g 1 1 != 4) || decide (5 < g 2 1 ∨ g 3 1 % 4 = 3 ∨ 8 ≤ g 3 1 ∨ 2 ^ 18 ≤ g 4 4) ||
      (List.range 4).any (fun i => decide (8 ≤ g (0xC + 4 * i) 4 % 16))))

/-- One stage of a descriptor read: the bytes that the hash takes, and whether the stage breaks a limit. A module above the
size limit is read no further than the limit. -/
def stageBytes (n model : Nat) (rec_ : List Byte) (d : Dev) : Option (List Byte × Bool) × Dev :=
  let size := leNat ((rec_.drop 8).take 4)
  let spec := leNat ((rec_.drop 12).take 4)
  let r := cxRead n frontLane (leNat (rec_.take 8)) (min size (262144 * 4)) d
  match r.1 with
  | none => (none, r.2)
  | some m =>
    let q := cxRead n frontLane (leNat ((rec_.drop 16).take 8)) (min spec 256) r.2
    match q.1 with
    | none => (none, q.2)
    | some s => (some (leBytes 4 size ++ m ++ leBytes 4 spec ++ s,
        spirvBad model (wordsOf (min spec 256 / 4) s) m || decide (262144 * 4 < size) || decide (256 < spec) || spec % 8 != 0), q.2)

/-- The stages of a descriptor that are present, hashed with its head (R270): the pipeline, if every read passes. A descriptor
that breaks its table is none of the kinds, and reads no module. -/
def hashPipe (n addr : Nat) (b : List Byte) (d : Dev) : Option GPipe × Dev :=
  let g := fun o n => leNat ((b.drop o).take n)
  let stages := [(if g 0 1 = 1 then 5 else 0, (b.drop 32).take 32)] ++
    (if g 0 1 = 0 ∧ g 72 4 ≠ 0 then [(4, (b.drop 64).take 32)] else [])
  if descBroken b (stages.map (·.2)) then (some { addr := addr, key := 0, kind := 2, samples := 0, bad := true }, d)
  else
    let r := stages.foldl (fun (r : Option (List Byte × Bool) × Dev) st =>
      match r.1 with
      | none => r
      | some (acc, bad) =>
        let q := stageBytes n st.1 st.2 r.2
        (q.1.map (fun x => (acc ++ x.1, bad || x.2)), q.2)) (some ([], false), d)
    (r.1.map (fun x => { addr := addr, key := leNat ((sha384 ([0xB0] ++ b.take 32 ++ x.1)).take 16), kind := g 0 1
                         samples := g 1 1, depth := g 4 4, blend := (List.range 4).map (fun i => g (0xC + 4 * i) 4)
                         bad := x.2 }), r.2)

/-- The pipeline table with an entry used now; the least recently used one gives way above 1,024 (R271). -/
def tableUse (t : List GPipe) (g : GPipe) : List GPipe :=
  let t := t.filter (fun x => x.addr != g.addr) ++ [g]
  t.drop (t.length - 1024)

/-- A descriptor is found in the table, or read and hashed; none where a read has faulted the context (R271). -/
def tableLook (n addr : Nat) (d : Dev) : Option GPipe × Dev :=
  match (ctxOf d n).table.find? (fun x => x.addr == addr) with
  | some g => (some g, modCtx n (fun c => { c with table := tableUse c.table g }) d)
  | none =>
    let r := cxRead n frontLane addr 96 d
    match r.1 with
    | none => (none, r.2)
    | some b =>
      let q := hashPipe n addr b r.2
      match q.1 with
      | none => q
      | some g => (some g, modCtx n (fun c => { c with table := tableUse c.table g }) q.2)

/-- The pipeline's translation is in the cache (R272). -/
def cacheHas (d : Dev) (g : GPipe) : Bool := d.gpu.cache.any (fun e => e.1 == g.key)

/-- A hit makes the entry the one used last. -/
def cacheUse (key : Nat) (d : Dev) : Dev :=
  modGpu (fun g => { g with cache := g.cache.filter (fun e => e.1 != key) ++ g.cache.filter (fun e => e.1 == key) }) d

/-- A translation is refused: the refusal count and EVENT.TRANS_REFUSED, and the context faults with reason SHADER (R269,
R274). -/
def transFail (n detail : Nat) (d : Dev) : Dev :=
  ctxFault n 4 detail 0 (event .gpu Reg.Gpu.EV_TRANS_REFUSED (bump .gpu Reg.Gpu.TRANS_COUNT 15 0 d))

/-- No Field part will serve translations: the image carries none, or it was refused (R274). -/
def noTranslator (d : Dev) : Bool := decide (8 ≤ d.boot.stage) && !d.wld.fieldPart

/-- No Field part will ever serve the misses that wait: each faults its context (R274). -/
def missesFail (d : Dev) : Dev :=
  (d.gpu.reqs.map (·.ctx)).foldl (fun d n => if d.gpu.reqs.any (fun r => r.ctx == n) then transFail n 0xFFFE d else d) d

/-- A pipeline is looked up in the cache; a miss asks for a translation, once for a context and key (R272, R274). -/
def cacheLook (n : Nat) (g : GPipe) (d : Dev) : Dev :=
  if cacheHas d g then cacheUse g.key d
  else if noTranslator d then transFail n 0xFFFE d
  else if d.gpu.reqs.any (fun r => r.ctx == n && r.pipe.key == g.key) then d
  else modGpu (fun x => { x with reqs := x.reqs ++ [{ ctx := n, pipe := g, since := d.us }] }) d

/-- A PIPELINE packet. -/
def pktPipeline (n : Nat) (p : Pkt) (d : Dev) : Dev :=
  if p.addr 1 % 64 ≠ 0 then pktFault n p d
  else
    let r := tableLook n (p.addr 1) d
    match r.1 with
    | none => r.2
    | some g =>
      if 1 < g.kind then pktFault n p r.2
      else
        let hit := cacheHas r.2 g
        let d := cacheLook n g (modCtx n (fun c => { c with bound := some g }) r.2)
        if hit ∨ noTranslator d then d else ctxState n 4 4 (modCtx n (fun c => { c with transWait := true }) d)

/-- Bytes as they stand in memory, read ahead without any effect. -/
def peekMem (d : Dev) (w : Who) (a len : Nat) : Option (List Byte) :=
  if rangeOk d w a len then
    some ((List.range len).map (fun i => match locOf d w (a + i) with
      | some (.past o) => pastByte d o
      | some (.dram x) => dramByte d x
      | none => 0))
  else none

/-- The packets that the front end decodes ahead of a call (R283): the pipelines named from the read pointer on, and
whether a packet that issues waves follows them before the write pointer. The fuel bounds the packets. -/
def lookAhead (d : Dev) (n : Nat) : Nat → Nat → List Nat → List Nat × Bool
  | 0, _, acc => (acc, false)
  | k + 1, off, acc =>
    if off = qWptr d n then (acc, false)
    else
      match peekMem d (cxWho d n) (qBase d n + off) 4 with
      | none => (acc, false)
      | some hb =>
        let w := leNat hb
        let dw := w % 65536
        let next := (off + 4 + 4 * dw) % qSize d n
        let word := fun i => ((peekMem d (cxWho d n) (qBase d n + (off + 4 + 4 * i) % qSize d n) 4).map leNat).getD 0
        if !headerOk (w / 2 ^ 24) dw (w / 65536 % 256) ∨ w / 2 ^ 24 = 0x50 then (acc, false)
        else if [0x12, 0x13, 0x14, 0x20, 0x21].contains (w / 2 ^ 24) then (acc, true)
        else lookAhead d n k next (if w / 2 ^ 24 = 1 then acc ++ [word 0 + 2 ^ 32 * word 1] else acc)

/-- What the front end finds ahead of the read pointer. -/
def ahead (d : Dev) (n : Nat) : List Nat × Bool := lookAhead d n (qSize d n / 4) (qRptr d n) []

/-- A pipeline is translated: its key is recorded and in the cache. -/
def pipeReady (d : Dev) (n addr : Nat) : Bool :=
  match (ctxOf d n).table.find? (fun x => x.addr == addr) with
  | some g => cacheHas d g
  | none => false

/-- The conditions of R283 hold. -/
def callReady (d : Dev) (n : Nat) : Bool := (ahead d n).2 && (ahead d n).1.all (pipeReady d n)

/-- Ahead of a call, the front end looks up the next pipeline that is not recorded or not translated (R283). -/
def lookUpAhead (n : Nat) (d : Dev) : Dev :=
  match (ahead d n).1.find? (fun a => !pipeReady d n a && a % 64 == 0) with
  | none => d
  | some a =>
    let r := tableLook n a d
    match r.1 with
    | none => r.2
    | some g => if 1 < g.kind then r.2 else cacheLook n g r.2

/-- PIPELINE: a packet at the read pointer, or the look-up ahead of a call. -/
def doPipeline (n : Nat) (d : Dev) : Dev :=
  if cxState d n = 4 ∧ cxCause d n = 2 ∧ gpuRuns d then lookUpAhead n d else doPkt n 0x01 (pktPipeline n) d

/-- TCACHE_STAT.ENTRIES follows the cache. -/
def showCache (d : Dev) : Dev := sf .gpu Reg.Gpu.TCACHE_STAT 31 16 d.gpu.cache.length d

/-- The cache without the `k` entries used least recently, those of SHADER_CACHE apart. -/
def evictKeys : Nat → List (Nat × Bool) → List (Nat × Bool)
  | 0, c => c
  | _ + 1, [] => []
  | k + 1, e :: c => if e.2 then e :: evictKeys (k + 1) c else evictKeys k c

/-- TRANSLATION_DONE: of the requests served, at most the two oldest, on a running Field part (R272). -/
def doTranslationDone (n evict : Nat) (refused : Option Nat) (d : Dev) : Dev :=
  match (d.gpu.reqs.take 2).find? (fun r => r.ctx == n) with
  | none => d
  | some r =>
    if !d.wld.fieldReady then d
    else
      let d := modGpu (fun g => { g with reqs := g.reqs.filter (fun x => x != r) }) d
      if r.pipe.bad ∨ refused.isSome then
        transFail n (refused.getD (Config.freeNat d.free 0 % 65536)) (tick d)
      else
        let kept := evictKeys evict d.gpu.cache
        let d := addTo .gpu Reg.Gpu.TCACHE_STAT 15 0 (d.gpu.cache.length - kept.length)
          (modGpu (fun g => { g with cache := kept ++ [(r.pipe.key, false)] }) d)
        let d := bump .gpu Reg.Gpu.TRANS_COUNT 31 16 (showCache d)
        let d := sg (.ctx n) Reg.Ctx.TRANS_WAIT (BitVec.ofNat 32 (d.us - r.since)) d
        if (ctxOf d n).bound.any (fun g => g.key == r.pipe.key) then
          cxWake n (modCtx n (fun c => { c with transWait := false }) d)
        else d

/-- TRANSLATION_TIMEOUT: 100 ms have passed since a request (R274). -/
def doTranslationTimeout (n : Nat) (d : Dev) : Dev :=
  if d.gpu.reqs.any (fun r => r.ctx == n) then transFail n 0xFFFF d else d

/-! ## Resources, passes and draws (R268, R275–R281) -/

/-- A BIND_RESOURCES packet. -/
def pktBind (n : Nat) (p : Pkt) (d : Dev) : Dev :=
  if p.addr 2 % 64 ≠ 0 then pktFault n p d
  else modCtx n (fun c => { c with sets := tabSet (fun _ => 0) c.sets (p.w 1 % 4) (p.addr 2) }) d

/-- A PUSH packet. -/
def pktPush (n : Nat) (p : Pkt) (d : Dev) : Dev :=
  let put := fun (t : Tab Word) => (p.words.zip (List.range p.words.length)).foldl
    (fun t e => tabSet (fun _ => 0) t e.2 (BitVec.ofNat 32 e.1)) t
  modCtx n (fun c => { c with push := put c.push }) d

/-- An attachment record (R275). -/
def attOf (b : List Byte) : GAtt :=
  let g := fun o n => leNat ((b.drop o).take n)
  { fmt := g 0 1, load := g 1 1, store := g 2 1, stride := g 4 4, addr := g 8 8, clear := g 16 4, last := g 20 4 }

/-- The attachment keeps the rules of R275 and the alignment of R125 code 7. -/
def attOk (colour : Bool) (a : GAtt) : Bool :=
  (if colour then [0x00, 0x01, 0x02, 0x03, 0x20, 0x21, 0x22, 0x50].contains a.fmt else [0, 0x60, 0x61].contains a.fmt) &&
    decide (a.load ≤ 2 ∧ a.store ≤ 1) &&
    (if isFleece a.fmt then a.addr % 256 == 0 else (!colour && a.fmt == 0) || (a.addr % 64 == 0 && a.stride % 64 == 0))

/-- A PASS_BEGIN packet. A second one inside a pass breaks the order of packets. -/
def pktPassBegin (n : Nat) (p : Pkt) (d : Dev) : Dev :=
  if p.addr 1 % 64 ≠ 0 ∨ (ctxOf d n).pass.isSome then pktFault n p d
  else
    let r := cxRead n frontLane (p.addr 1) 128 d
    match r.1 with
    | none => r.2
    | some b =>
      let g := fun o n => leNat ((b.drop o).take n)
      let dep := attOf (b.drop 8)
      let cols := (List.range (min 4 (g 5 1))).map (fun i => attOf (b.drop (0x20 + 24 * i)))
      if g 0 2 < 1 ∨ 8192 < g 0 2 ∨ g 2 2 < 1 ∨ 8192 < g 2 2 ∨ (g 4 1 ≠ 1 ∧ g 4 1 ≠ 4) ∨ 4 < g 5 1 ∨ !attOk false dep ∨
          !cols.all (attOk true) then pktFault n p r.2
      else
        sb (.ctx n) Reg.Ctx.CTX_STAT 12 true
          (modCtx n (fun c => { c with pass := some { w := g 0 2, h := g 2 2, samples := g 4 1, colour := cols, depth := dep } }) r.2)

/-- Bytes of a pixel of an attachment format. -/
def attBytes (f : Nat) : Nat := if f = 0x50 then 8 else if f = 0x60 ∨ f = 0x61 then 4 else fmtBytes (if isFleece f then f - 0x20 else f)

/-- The components of a pixel of an attachment format, from the low end: their widths, and the bits that name them in a write mask
(B 0, G 1, R 2, A 3; depth 0, stencil 1). The order within RGBA16F and D24S8 is the model's. -/
def attComps (f : Nat) : List (Nat × Nat) :=
  match f with
  | 0x02 | 0x22 => [(10, 0), (10, 1), (10, 2), (2, 3)]
  | 0x03 => [(5, 0), (6, 1), (5, 2)]
  | 0x50 => [(16, 2), (16, 1), (16, 0), (16, 3)]
  | 0x60 => [(8, 1), (24, 0)]
  | 0x61 => [(32, 0)]
  | _ => [(8, 0), (8, 1), (8, 2), (8, 3)]

/-- What a cleared pixel of an attachment holds: CLEAR; what it gives of a pixel of RGBA16F or D24S8 is open. -/
def clearWord (tag i : Nat) (a : GAtt) : Nat :=
  if a.fmt = 0x50 ∨ a.fmt = 0x60 then Config.freeNat tag (2 ^ 32 + i) % 2 ^ (8 * attBytes a.fmt) else a.clear % 2 ^ (8 * attBytes a.fmt)

/-- A component that the shaders have left, open as they are: the sample, or of four samples of an integer colour format the mean,
rounded half up (R276). -/
def drawnComp (tag i w samples f : Nat) : Nat :=
  let v := fun k => Config.freeNat tag (4 * i + k) % 2 ^ w
  if samples = 4 ∧ f < 0x50 then (v 0 + v 1 + v 2 + v 3 + 2) / 4 else v 0

/-- A pixel of a rendered tile: the components that the draws may have changed are open; the others are those that the tile began
with, `base` (R276). -/
def pixelOut (tag i samples mask base : Nat) (a : GAtt) : Nat :=
  ((attComps a.fmt).foldl (fun (r : Nat × Nat × Nat) c =>
    (r.1 + c.1, r.2.1 + 1,
      r.2.2 + 2 ^ r.1 * (if mask.testBit c.2 then drawnComp tag (8 * i + r.2.1) c.1 samples a.fmt else base / 2 ^ r.1 % 2 ^ c.1)))
    (0, 0, 0)).2.2

/-- Row `y` of attachment `i` after its tiles are rendered. `old`: the pixels that the tiles loaded, if they did. -/
def passRow (tag y i : Nat) (ps : GPass) (a : GAtt) (old : Option (List Nat)) : List Nat :=
  let base := match old with
    | some l => l
    | none => (List.range ps.w).map (fun x =>
        if a.load = 1 ∧ !ps.spilled then clearWord tag (y * 8192 + x) a
        else Config.freeNat tag (2 ^ 33 + y * 8192 + x) % 2 ^ (8 * attBytes a.fmt))
  (base.zip (List.range ps.w)).map (fun e =>
    pixelOut tag (y * 8192 + e.2) ps.samples
      (tabGet (fun _ => 0) ps.touched (i * 65536 + y / 32 * ceilDiv ps.w 32 + e.2 / 32)) e.1 a)

/-- The samples of a pixel of a Fleece attachment. -/
def wordSamples (f v : Nat) : List Nat :=
  if f = 0x22 then [v / 2 ^ 30 % 4, v / 2 ^ 20 % 1024, v / 2 ^ 10 % 1024, v % 1024]
  else (if f = 0x21 then [] else [v / 2 ^ 24 % 256]) ++ [v / 2 ^ 16 % 256, v / 2 ^ 8 % 256, v % 256]

/-- The word of a pixel of a Fleece surface. -/
def pxWord (f : Nat) (p : Px) : Nat :=
  if f = 0x22 then p.a / 256 * 2 ^ 30 + p.c0 * 2 ^ 20 + p.c1 * 2 ^ 10 + p.c2
  else p.a / 4 * 2 ^ 24 + p.c0 / 4 * 2 ^ 16 + p.c1 / 4 * 2 ^ 8 + p.c2 / 4

/-- A block of a Fleece surface read for a context; a bad one faults it with reason FLEECE (R131, R268). -/
def cxBlock (n : Nat) (a : GAtt) (pay k : Nat) (d : Dev) : Option (List Px) × Dev :=
  let r := cxRead n (flockLane 0) (a.addr + 64 + 8 * k) 8 d
  match r.1 with
  | none => (none, r.2)
  | some b =>
    let x := leNat b
    if descBad a.fmt x then (none, ctxFault n 12 0 a.addr r.2)
    else
      let q := if descFetch a.fmt x = 0 then (some [], r.2)
        else cxRead n (flockLane 0) (a.addr + pay + fleeceSlot a.fmt * k) (descFetch a.fmt x * 32) r.2
      match q.1 with
      | none => (none, q.2)
      | some bs => match blockPx a.fmt x bs with
        | none => (none, ctxFault n 12 0 a.addr q.2)
        | some px => (some px, q.2)

/-- Rows read one after the other; the first failure ends the reading. -/
def readRows {α : Type} (f : Nat → Dev → Option α × Dev) : List Nat → Dev → Option (List α) × Dev
  | [], d => (some [], d)
  | y :: ys, d =>
    let r := f y d
    match r.1 with
    | none => (none, r.2)
    | some x =>
      let q := readRows f ys r.2
      (q.1.map (x :: ·), q.2)

/-- The pixels of a Fleece attachment, whose blocks begin at `pay`. -/
def fleeceRows (n : Nat) (ps : GPass) (a : GAtt) (pay : Nat) (d : Dev) : Option (List (List Nat)) × Dev :=
  let r := readRows (fun y d =>
    let q := readRows (fun x => cxBlock n a pay (y * blocksOf ps.w + x)) (List.range (blocksOf ps.w)) d
    (q.1.map (fun bs => (List.range 8).map (fun i =>
      ((bs.map (fun b => (b.drop (8 * i)).take 8)).flatten.take ps.w).map (pxWord a.fmt))), q.2)) (List.range (blocksOf ps.h)) d
  (r.1.map (fun x => x.flatten.take ps.h), r.2)

/-- What the tiles of an attachment load: the surface, where LOAD says so or a partial render has stored it (R276, R280). A Fleece
surface that another writer left is found by its header, which must pass the checks of R134. -/
def loadAtt (n : Nat) (ps : GPass) (a : GAtt) (d : Dev) : Option (List (List Nat)) × Dev :=
  if isFleece a.fmt then
    if ps.spilled then fleeceRows n ps a (payloadOff ps.w ps.h) d
    else
      let r := cxRead n (flockLane 0) a.addr 64 d
      match r.1 with
      | none => (none, r.2)
      | some b =>
        if headerGood a.fmt a.addr b ∧ ps.w = headerWidth b ∧ ps.h ≤ headerHeight b then fleeceRows n ps a (headerPayload b) r.2
        else (none, ctxFault n 12 0 a.addr r.2)
  else
    readRows (fun y d =>
      let r := cxRead n (flockLane 0) (a.addr + y * a.stride) (ps.w * attBytes a.fmt) d
      (r.1.map (fun b => (List.range ps.w).map (fun x => leNat ((b.drop (x * attBytes a.fmt)).take (attBytes a.fmt)))), r.2))
      (List.range ps.h) d

/-- The tiles of attachment `i` rendered: loaded, drawn, and stored to memory if `store` says so, linear row by row or Fleece block
by block without its header (R276, R277). The depth attachment (4) of a spilled pass comes from the spill area. -/
def renderAtt (n : Nat) (ps : GPass) (store : Bool) (i : Nat) (a : GAtt) (r : Bool × Dev) : Bool × Dev :=
  if !r.1 then r
  else
    let l := if (a.load = 0 ∧ !(ps.spilled && i == 4)) ∨ (ps.spilled && i != 4) = true then
        (fun (q : Option (List (List Nat)) × Dev) => (some q.1, q.2)) (loadAtt n ps a r.2)
      else (none, r.2)
    match l.1 with
    | some none => (false, l.2)
    | old =>
      let row := fun (tag y : Nat) => passRow tag y i ps a (old.map (fun o => (o.getD []).getD y []))
      let w := cxWho l.2 n
      if !store then (true, l.2)
      else
        let res :=
          if isFleece a.fmt then
            (List.range (blocksOf ps.h)).foldl (fun (r : Bool × Dev) brow =>
              if !r.1 then r
              else
                let rows := (List.range (min 8 (ps.h - 8 * brow))).map (fun k =>
                  (row r.2.free (8 * brow + k)).map (wordSamples a.fmt))
                writeBlockRow w (flockLane 0) a.addr a.fmt ps.w ps.h brow rows r.2) (true, l.2)
          else
            (List.range ps.h).foldl (fun (r : Bool × Dev) y =>
              if !r.1 then r
              else memWrite w (flockLane 0) (a.addr + y * a.stride) ((row r.2.free y).map (leBytes (attBytes a.fmt))).flatten r.2)
              (true, l.2)
        if res.1 then (true, tick res.2) else (false, ctxFault n 2 0 a.addr res.2)

/-- The bytes of the spill area that a pass needs (R280). -/
def spillBytes (ps : GPass) : Nat := 1024 + 8 * ps.w * ps.h * ps.samples

/-- Every tile of a pass rendered: depth and stencil of a spilled pass come back from the spill area, and each attachment is loaded
and stored as its record says, colour in any case where a partial render stores it (R276, R280). -/
def renderPass (n : Nat) (ps : GPass) (part : Bool) (d : Dev) : Bool × Dev :=
  let s := if ps.spilled then
      (fun (q : Option (List Byte) × Dev) => (q.1.isSome, q.2))
        (ownRead n (flockLane 0) (rg64 d (.ctx n) Reg.Ctx.SPILL_LO) (spillBytes ps) d)
    else (true, d)
  let c := (ps.colour.zip (List.range 4)).foldl (fun r x => renderAtt n ps (part || x.1.store == 0) x.2 x.1 r) s
  if ps.depth.fmt = 0 then c else renderAtt n ps (!part && ps.depth.store == 0) 4 ps.depth c

/-- The tiles of a pass, counted by the flocks that rendered them (R257, R276, R300). -/
def countTiles (ps : GPass) (t0 t1 t2 : Nat) (d : Dev) : Dev :=
  let all := ceilDiv ps.w 32 * ceilDiv ps.h 32
  let a := min t0 all
  let b := min t1 (all - a)
  let c := min t2 (all - a - b)
  let add := fun f k d => addTo (.flock f) Reg.Flock.FLOCK_TILES 31 0 k d
  add 0 a (add 1 b (add 2 c (add 3 (all - a - b - c) d)))

/-- PEN_STAT.HELD: the pens a context holds (R278). -/
def showPens (n : Nat) (d : Dev) : Dev :=
  sf (.ctx n) Reg.Ctx.PEN_STAT 31 16 ((ctxOf d n).penFree.length + (ctxOf d n).penUsed.length) d

/-- Pens that hold bin lists go to the free list (R278). -/
def freePens (n : Nat) (d : Dev) : Dev := modCtx n (fun c => { c with penFree := c.penFree ++ c.penUsed, penUsed := [] }) d

/-- The headers of Fleece attachments, last of all (R277). -/
def storeHeaders (n : Nat) (ps : GPass) (as : List GAtt) (d : Dev) : Bool × Dev :=
  as.foldl (fun (r : Bool × Dev) a =>
    if !r.1 ∨ !isFleece a.fmt then r
    else
      let q := writeHeader (cxWho r.2 n) (flockLane 0) a.addr a.fmt ps.w ps.h a.last r.2
      if q.1 then q else (false, ctxFault n 2 0 a.addr q.2)) (true, d)

/-- A PASS_END packet, once every tile is done. -/
def pktPassEnd (n t0 t1 t2 : Nat) (p : Pkt) (d : Dev) : Dev :=
  match (ctxOf d n).pass with
  | none => pktFault n p d
  | some ps =>
    let cols := ps.colour.filter (fun a => a.store == 0)
    let r := renderPass n ps false (countTiles ps t0 t1 t2 (finishWork n d))
    let q := if r.1 then storeHeaders n ps cols r.2 else r
    if !q.1 then q.2
    else showPens n (freePens n (sb (.ctx n) Reg.Ctx.CTX_STAT 12 false (modCtx n (fun c => { c with pass := none }) q.2)))

/-- Bytes of a pixel of an image format (R113, R268). -/
def imageBytes (f : Nat) : Nat := if f = 0x50 then 8 else if f = 0x52 then 1 else fmtBytes f

/-- The ranges of one resource: a buffer; the rows of a linear image, WIDTH pixels of each; the footprint of a Fleece image as its
header has it (R134, R268). -/
def entryRanges (d : Dev) (w : Who) (e : List Byte) : List (Nat × Nat) :=
  let g := fun o n => leNat ((e.drop o).take n)
  let a := g 8 8
  if g 0 1 = 1 ∨ g 0 1 = 2 then [(a, a + g 0x10 4)]
  else if !([3, 4, 6].contains (g 0 1)) then []
  else if isFleece (g 1 1) then
    match peekMem d w a 64 with
    | some h => [(a, a + headerPayload h + headerPaySize h)]
    | none => [(a, a + 64)]
  else (List.range (min 8192 (g 6 2))).map (fun y => (a + y * g 0x10 4, a + y * g 0x10 4 + g 4 2 * imageBytes (g 1 1)))

/-- The resources that the bound sets describe: first address, end, and whether shaders may store there (R268). -/
def resourceRanges (d : Dev) (w : Who) (b : List Byte) : List (Nat × Nat × Bool) :=
  ((List.range 64).map (fun i =>
    let e := b.drop (32 * i)
    let g := fun o n => leNat ((e.drop o).take n)
    (entryRanges d w e).map (fun r => (r.1, r.2, g 0 1 == 2 || (g 0 1 == 4 && !isFleece (g 1 1)))))).flatten

/-- The resource tables of the bound sets, read for a draw or a dispatch. -/
def readSets (n : Nat) (d : Dev) : Option (List (Nat × List Byte)) × Dev :=
  (ctxOf d n).sets.foldl (fun (r : Option (List (Nat × List Byte)) × Dev) e =>
    match r.1 with
    | none => r
    | some acc =>
      let q := cxRead n frontLane e.2 2048 r.2
      (q.1.map (fun b => acc ++ [(e.1, b)]), q.2)) (some [], d)

/-- A read of a Fleece image: its header must pass the checks of R134, WIDTH and HEIGHT of the entry among them, and carry the
entry's generation (R268). -/
def fleeceImage (n f : Nat) (e : List Byte) (r : Bool × Dev) : Bool × Dev :=
  let g := fun o n => leNat ((e.drop o).take n)
  if !r.1 ∨ !([3, 6].contains (g 0 1)) ∨ !isFleece (g 1 1) then r
  else
    let q := cxRead n (flockLane f) (g 8 8) 64 r.2
    match q.1 with
    | none => (false, q.2)
    | some h =>
      if headerGood (g 1 1) (g 8 8) h && headerGen h == g 0x14 4 && decide (g 4 2 ≤ headerWidth h ∧ g 6 2 ≤ headerHeight h) then
        (true, q.2)
      else (false, ctxFault n 12 0 (g 8 8) q.2)

/-- The loads of a run reach into an image. -/
def imageLoaded (d : Dev) (w : Who) (run : ShaderRun) (e : List Byte) : Bool :=
  run.loads.any (fun x => (entryRanges d w e).any (fun q => decide (q.1 ≤ x.1 ∧ x.1 + x.2 ≤ q.2)))

/-- What the waves of a draw or dispatch do to memory, within the resources bound; a failing access faults the context and
ends them. -/
def runShader (n : Nat) (run : ShaderRun) (d : Dev) : Bool × Dev :=
  let t := readSets n d
  match t.1 with
  | none => (false, t.2)
  | some sets =>
    let w := cxWho d n
    let ranges := (sets.map (fun s => resourceRanges t.2 w s.2)).flatten
    let f := run.flock.val
    let named := sets.map (fun s => ((List.range 64).filter (fun i =>
      run.images.any (fun x => x.1.val == s.1 && x.2.val == i) || imageLoaded t.2 w run (s.2.drop (32 * i)))).map
        (fun i => s.2.drop (32 * i)))
    let im := named.flatten.foldl (fun r e => fleeceImage n f e r) (true, t.2)
    let ld := run.loads.foldl (fun (r : Bool × Dev) x =>
      if !r.1 ∨ !ranges.any (fun q => decide (q.1 ≤ x.1 ∧ x.1 + x.2 ≤ q.2.1)) then r
      else
        let q := cxRead n (flockLane f) x.1 x.2 r.2
        (q.1.isSome, q.2)) im
    run.stores.foldl (fun (r : Bool × Dev) x =>
      if !r.1 ∨ !ranges.any (fun q => decide (q.1 ≤ x.1 ∧ x.1 + x.2.length ≤ q.2.1) && q.2.2) then r
      else cxWrite n (flockLane f) x.1 x.2 r.2) ld

/-- Work arrives: flocks that are powered down begin to wake (R294). -/
def wakeFlocks (d : Dev) : Dev :=
  forN (fun f d => if rb d (.flock f) Reg.Flock.FLOCK_STAT 31 then d else sb (.flock f) Reg.Flock.FLOCK_STAT 30 true d) 4 d

/-- A draw or dispatch is taken up when its waves can issue. -/
def whenIssued (n : Nat) (run : ShaderRun) (act : Dev → Dev) (d : Dev) : Dev := if canIssue d n run then act d else d

/-! ### Pens (R278–R280) -/

def penQuota (d : Dev) (n : Nat) : Nat := if rf d (.ctx n) Reg.Ctx.PEN_CFG 15 0 = 0 then 65535 else rf d (.ctx n) Reg.Ctx.PEN_CFG 15 0
def penHeld (d : Dev) (n : Nat) : Nat := (ctxOf d n).penFree.length + (ctxOf d n).penUsed.length

/-- The binner writes a bin list into a pen, whose content is its own. -/
def usePen (n pen : Nat) (d : Dev) : Bool × Dev :=
  ownWrite n frontLane pen (freeBytes 4096 d)
    (tick (modCtx n (fun c => { c with penFree := c.penFree.filter (· != pen), penUsed := c.penUsed ++ [pen], want := c.want - 1 }) d))

/-- A pass without a spill area that holds its depth is abandoned: reason SPILL (R280). -/
def spillFits (d : Dev) (n : Nat) (ps : GPass) : Bool :=
  decide (rf d (.ctx n) Reg.Ctx.SPILL_SIZE 11 0 ≠ 0 ∧ spillBytes ps ≤ rf d (.ctx n) Reg.Ctx.SPILL_SIZE 11 0 * 2 ^ 20)

/-- A partial render begins, or the pass is abandoned: at the quota of a running context, or for one that waits for pens in
vain, which goes on waiting until the render has freed its own (R279). -/
def beginPartial (n : Nat) (d : Dev) : Dev :=
  match (ctxOf d n).pass with
  | none => d
  | some ps =>
    if spillFits d n ps then modCtx n (fun c => { c with partialOn := true }) d
    else
      ctxFault n 5 0 0 (showPens n (freePens n
        (sb (.ctx n) Reg.Ctx.CTX_STAT 12 false (modCtx n (fun c => { c with pass := none }) d))))

/-- The binner takes the pens it wants: from the free list, and then from the ring; at the quota it goes over to a partial
render, and with both empty it starves. The fuel bounds the pens. -/
def takePens : Nat → Nat → Nat → Dev → Dev
  | 0, _, _, d => d
  | k + 1, n, need, d =>
    let c := ctxOf d n
    if c.want = 0 ∨ c.partialOn then d
    else
      match c.penFree with
      | pen :: _ =>
        let r := usePen n pen d
        if r.1 then takePens k n need r.2 else r.2
      | [] =>
        let ring := 2 ^ rf d (.ctx n) Reg.Ctx.PEN_RING_LOG2 4 0
        let rp := rf d (.ctx n) Reg.Ctx.PEN_RPTR 15 0
        if penQuota d n ≤ penHeld d n then beginPartial n d
        else if rp % ring = rf d (.ctx n) Reg.Ctx.PEN_WPTR 15 0 % ring then
          ctxState n 4 3 (raiseFault (.ctx n) Reg.Ctx.SRC_PEN_STARVE Reg.Ctx.EV_PEN_STARVE
            (sf (.ctx n) Reg.Ctx.PEN_STAT 15 0 need d))
        else
          let q := ownRead n frontLane (rg64 d (.ctx n) Reg.Ctx.PEN_RING_LO + 8 * (rp % ring)) 8 d
          match q.1 with
          | none => q.2
          | some b =>
            let d := sf (.ctx n) Reg.Ctx.PEN_RPTR 15 0 ((rp + 1) % ring) q.2
            let r := usePen n (leNat b) d
            let d := showPens n r.2
            if !r.1 then d
            else if penHeld d n = penQuota d n then beginPartial n d
            else takePens k n need d

/-- The binner goes on with the pens it wants, and the context with it once it has them. -/
def bin (n need : Nat) (d : Dev) : Dev := cxWake n (showPens n (takePens ((ctxOf d n).want + 1) n need d))

/-- A comparison that no fragment passes: the test is on, and compares NEVER (R267). -/
def testNever (g : GPipe) (on lo : Nat) : Bool := g.depth.testBit on && g.depth / 2 ^ lo % 8 == 0

/-- What the fragments of a pipeline may change of attachment `i` (R267): of a colour attachment the components of its write
mask, of the depth attachment (4) the depth where it is tested and written, and the stencil value where it is tested with a
write mask. A fragment that fails a test changes nothing but the stencil. -/
def pipeTouches (g : GPipe) (ps : GPass) (i : Nat) : Nat :=
  let none_ := ps.depth.fmt ≠ 0 ∧ (testNever g 0 2 = true ∨ (ps.depth.fmt = 0x60 ∧ testNever g 5 6 = true))
  if i = 4 then
    (if ps.depth.fmt ≠ 0 ∧ g.depth % 4 = 3 ∧ ¬none_ then 1 else 0) + (if ps.depth.fmt = 0x60 ∧ g.depth.testBit 5 = true then 2 else 0)
  else if none_ then 0 else g.blend.getD i 0 / 16 % 16

/-- A pass after a draw: the tiles that its fragments reach. -/
def touchTiles (g : GPipe) (run : ShaderRun) (ps : GPass) : GPass :=
  let put := fun (t : Tab Nat) (k m : Nat) => tabSet (fun _ => 0) t k (tabGet (fun _ => 0) t k ||| m)
  { ps with
    drawn := true
    touched := run.tiles.foldl (fun t x => [0, 1, 2, 3, 4].foldl (fun t i => put t (i * 65536 + x) (pipeTouches g ps i)) t) ps.touched }

/-- Draws inside a pass with a graphics pipeline of the pass's samples: the waves run, and the binner takes its pens (R265,
R267, R278). -/
def drawWork (n : Nat) (p : Pkt) (run : ShaderRun) (pens need : Nat) (some_ : Bool) (d : Dev) : Dev :=
  match (ctxOf d n).pass, (ctxOf d n).bound with
  | some ps, some g =>
    if g.kind ≠ 0 ∨ g.samples ≠ ps.samples then pktFault n p d
    else if !some_ then d
    else
      let r := runShader n run (wakeFlocks d)
      if !r.1 then r.2
      else
        bin n need (modCtx n (fun c => { c with
          work := true, want := pens, pass := some (touchTiles g run ps)
          waves := c.waves ++ run.waves.map (fun w => (w.1.val, w.2)) }) r.2)
  | _, _ => pktFault n p d

/-- A DRAW packet. -/
def pktDraw (n : Nat) (run : ShaderRun) (pens need : Nat) (p : Pkt) (d : Dev) : Dev :=
  drawWork n p run pens need (p.w 1 != 0 && p.w 2 != 0) d

/-- A DRAW_INDEXED packet: the indices are read from the index buffer. -/
def pktDrawIndexed (n : Nat) (run : ShaderRun) (pens need : Nat) (p : Pkt) (d : Dev) : Dev :=
  let size := if p.flags = 1 then 4 else 2
  if (ctxOf d n).pass.isNone ∨ (ctxOf d n).bound.isNone then pktFault n p d
  else
    let r := cxRead n frontLane (p.addr 6 + p.w 3 * size) (p.w 1 * size) d
    match r.1 with
    | none => r.2
    | some _ => drawWork n p run pens need (p.w 1 != 0 && p.w 2 != 0) r.2

/-- A DRAW_INDIRECT packet: COUNT arguments of four words each. -/
def pktDrawIndirect (n : Nat) (run : ShaderRun) (pens need : Nat) (p : Pkt) (d : Dev) : Dev :=
  if p.addr 1 % 4 ≠ 0 ∨ (ctxOf d n).pass.isNone ∨ (ctxOf d n).bound.isNone then pktFault n p d
  else
    let r := cxRead n frontLane (p.addr 1) (16 * p.w 3) d
    match r.1 with
    | none => r.2
    | some b =>
      let w := wordsOf (4 * p.w 3) b
      drawWork n p run pens need ((List.range (p.w 3)).any (fun i => w.getD (4 * i) 0 != 0 && w.getD (4 * i + 1) 0 != 0)) r.2

/-- A dispatch outside a pass with a compute pipeline (R265). -/
def dispatchWork (n : Nat) (p : Pkt) (run : ShaderRun) (x y z : Nat) (d : Dev) : Dev :=
  let bad := fun k => decide (k < 1 ∨ 65535 < k)
  if (ctxOf d n).pass.isSome ∨ !(ctxOf d n).bound.any (fun g => g.kind == 1) ∨ bad x ∨ bad y ∨ bad z then pktFault n p d
  else
    let r := runShader n run (wakeFlocks d)
    if !r.1 then r.2
    else modCtx n (fun c => { c with work := true, waves := c.waves ++ run.waves.map (fun w => (w.1.val, w.2)) }) r.2

/-- A DISPATCH packet. -/
def pktDispatch (n : Nat) (run : ShaderRun) (p : Pkt) (d : Dev) : Dev := dispatchWork n p run (p.w 1) (p.w 2) (p.w 3) d

/-- A DISPATCH_INDIRECT packet. -/
def pktDispatchIndirect (n : Nat) (run : ShaderRun) (p : Pkt) (d : Dev) : Dev :=
  if (ctxOf d n).pass.isSome ∨ !(ctxOf d n).bound.any (fun g => g.kind == 1) then pktFault n p d
  else
    let r := cxRead n frontLane (p.addr 1) 12 d
    match r.1 with
    | none => r.2
    | some b =>
      let w := wordsOf 3 b
      dispatchWork n p run (w.getD 0 0) (w.getD 1 0) (w.getD 2 0) r.2

/-- A PEN_RING packet; inside a pass it faults (R265). -/
def pktPenRing (n : Nat) (p : Pkt) (d : Dev) : Dev :=
  if (ctxOf d n).pass.isSome ∨ p.addr 1 % 8 ≠ 0 then pktFault n p d
  else sf (.ctx n) Reg.Ctx.PEN_RING_LOG2 4 0 (p.w 3) (sg64 (.ctx n) Reg.Ctx.PEN_RING_LO (p.addr 1) d)

/-- PEN_WPTR: pens arrive, and a starved binner goes on (R279). -/
def penWptrWrite (n : Nat) (v : Word) (d : Dev) : Dev :=
  let d := plainWrite (.ctx n) Reg.Ctx.PEN_WPTR v d
  if cxState d n = 4 ∧ (ctxOf d n).want ≠ 0 ∧ !(ctxOf d n).partialOn ∧ gpuRuns d then
    bin n (rf d (.ctx n) Reg.Ctx.PEN_STAT 15 0) d
  else d

/-- PEN_TIMEOUT. -/
def doPenTimeout (n : Nat) (d : Dev) : Dev :=
  if cxState d n = 4 ∧ (ctxOf d n).want ≠ 0 ∧ !(ctxOf d n).partialOn then beginPartial n d else d

/-- PARTIAL_RENDER: the binned tiles are stored whatever STORE says, depth and stencil go to the spill area, and the pens
are free again (R280). -/
def doPartialRender (n t0 t1 t2 : Nat) (d : Dev) : Dev :=
  match (ctxOf d n).pass with
  | none => d
  | some ps =>
    if !(ctxOf d n).partialOn then d
    else
      let r := renderPass n ps true (countTiles ps t0 t1 t2 (modCtx n (fun c => { c with partialOn := false }) d))
      let q := if r.1 then ownWrite n (flockLane 0) (rg64 r.2 (.ctx n) Reg.Ctx.SPILL_LO)
          (freeBytes (spillBytes ps) r.2) (tick r.2) else r
      if !q.1 then q.2
      else
        let d := modCtx n (fun c => { c with pass := some { ps with spilled := true, touched := [] } }) (freePens n q.2)
        let d := raiseFault (.ctx n) Reg.Ctx.SRC_PARTIAL_RENDER Reg.Ctx.EV_PARTIAL_RENDER (bump (.ctx n) Reg.Ctx.PREEMPT_COUNT 15 0 d)
        if cxState d n = 3 ∨ cxState d n = 4 then bin n (rf d (.ctx n) Reg.Ctx.PEN_STAT 15 0) d else d

/-! ## Synchronisation and commits (R265, R266) -/

/-- The value of a fence, if it can be read. -/
def fenceValue (n addr : Nat) (d : Dev) : Option Nat × Dev :=
  let r := cxRead n frontLane addr 8 d
  (r.1.map leNat, r.2)

/-- A waiting fence is read again (R265). -/
def fenceCheck (n : Nat) (d : Dev) : Dev :=
  match (ctxOf d n).fence with
  | none => d
  | some f =>
    if (cxState d n ≠ 2 ∧ cxState d n ≠ 4) ∨ !gpuRuns d then d
    else
      let r := fenceValue n f.1 d
      match r.1 with
      | none => r.2
      | some v => if f.2 ≤ v then cxWake n (modCtx n (fun c => { c with fence := none }) r.2) else r.2

/-- Every waiting fence is read again. -/
def doFenceRecheck (d : Dev) : Dev := forN fenceCheck 64 d

/-- A FENCE_SIGNAL packet. -/
def pktFenceSignal (n : Nat) (p : Pkt) (d : Dev) : Dev :=
  if p.addr 1 % 8 ≠ 0 then pktFault n p d
  else
    let r := cxWrite n frontLane (p.addr 1) (leBytes 8 (p.addr 3)) (finishWork n d)
    if !r.1 then r.2
    else doFenceRecheck (if p.flags % 2 = 1 then event (.ctx n) Reg.Ctx.EV_FENCE r.2 else r.2)

/-- A FENCE_WAIT packet. -/
def pktFenceWait (n : Nat) (p : Pkt) (d : Dev) : Dev :=
  if p.addr 1 % 8 ≠ 0 then pktFault n p d
  else
    let r := fenceValue n (p.addr 1) d
    match r.1 with
    | none => r.2
    | some v =>
      if p.addr 3 ≤ v then r.2
      else ctxState n 4 1 (modCtx n (fun c => { c with fence := some (p.addr 1, p.addr 3) }) r.2)

/-- A WAIT_CALL packet (R265, R283, R288). -/
def pktWaitCall (n : Nat) (p : Pkt) (d : Dev) : Dev :=
  if !cxBw d n then pktFault n p d
  else if rb d (.ctx n) Reg.Ctx.CTX_STAT 11 then sb (.ctx n) Reg.Ctx.CTX_STAT 11 false d
  else ctxState n 4 2 (modCtx n (fun c => { c with callWait := true }) (sb (.ctx n) Reg.Ctx.CTX_STAT 10 false d))

/-- A write to a register of a pipe page, as its chapter has it. -/
def pipeRegWrite (p o : Nat) (v : Word) (d : Dev) : Dev :=
  if o = Reg.Pipe.CTRL then pipeCtrl p v d
  else if o = Reg.Pipe.COEF_INDEX ∧ 48 ≤ p then coefIndex p v d
  else if o = Reg.Pipe.COEF_DATA ∧ 48 ≤ p then coefWrite p v d
  else plainWrite (.pipe p) o v d

/-- A LAYER_COMMIT packet (R266). -/
def pktLayerCommit (n : Nat) (p : Pkt) (d : Dev) : Dev :=
  let count := p.w 1 / 256 % 256
  let pipe := p.w 1 % 64
  let owner := ownerParty d (.ctx n)
  let pairs := (List.range count).map (fun i => (p.w (2 + 2 * i), BitVec.ofNat 32 (p.w (3 + 2 * i))))
  let staged := fun o => (stagedOffsets pipe).contains o || (o == Reg.Pipe.COEF_DATA && decide (48 ≤ pipe))
  if 32 < count ∨ p.words.length ≠ 1 + 2 * count then pktFault n p d
  else
    let d := finishWork n d
    if !isOwner d (.pipe pipe) owner ∨ !pairs.all (fun x => staged x.1) then ctxFault n 10 0 p.at_ d
    else
      let d := pairs.foldl (fun d x => onWrite owner (.pipe pipe) x.1 (pipeRegWrite pipe x.1 x.2) d) d
      onWrite owner (.pipe pipe) Reg.Pipe.COMMIT (fun d =>
        let h := rf d (.pipe pipe) Reg.Pipe.CTRL 14 12
        let code := ownerCode (partyKind owner) (partyTag owner)
        intake owner (commitPipes h code (commitSet d code h) none (some n)) d) d

/-! ## Context registers and commands (R259, R262, R263, R288, R289, R298) -/

/-- A context is enabled: IDLE with valid queue registers, or FAULTED (R262, R263). During gather mode or the GPU's
isolation it faults at once (R290). -/
def cxEnable (n : Nat) (d : Dev) : Dev :=
  let lg := rf d (.ctx n) Reg.Ctx.QUEUE_SIZE 4 0
  if cxState d n ≠ 0 then d
  else if gatherNow d then ctxFault n 8 0 0 d
  else if isoOf d .gpu then ctxFault n 13 0 0 d
  else if lg < 12 ∨ 20 < lg ∨ qBase d n % 2 ^ lg ≠ 0 then ctxFault n 11 0 0 d
  else cxKick n (ctxState n 1 0 (sf (.ctx n) Reg.Ctx.QUEUE_RPTR 19 0 (qRptr d n % qSize d n) d))

/-- A context is disabled: it completes every started packet, fetches no more, and enters OFF (R298). -/
def cxDisable (n : Nat) (d : Dev) : Dev :=
  if cxState d n = 8 then d
  else if cxStarted d n && cxState d n != 0 && cxState d n != 7 then modCtx n (fun c => { c with closing := true }) d
  else cxClosed n d

/-- A write of CTX_CTRL (R21, R259, R262, R298). Of a write that clears ENABLE only that takes effect; until the context then
enters OFF, it cannot be enabled again. -/
def ctxCtrl (by_ : Party) (n : Nat) (v : Word) (d : Dev) : Dev :=
  let p := Page.ctx n
  let d := if bitOf v 31 && isoOf d p then sf p Reg.Ctx.CTX_CTRL 0 0 0 (endIso p d) else d
  let old := rg d p Reg.Ctx.CTX_CTRL
  let lv := fld v 17 16
  let isPad := match by_ with | .paddock _ => true | _ => false
  if bitOf old 0 then
    if bitOf v 0 then event p Reg.Ctx.EV_CFG_BUSY d else cxDisable n (sf p Reg.Ctx.CTX_CTRL 0 0 0 d)
  else if (ctxOf d n).closing && bitOf v 0 then event p Reg.Ctx.EV_CFG_BUSY d
  else if !bitOf old 18 && (lv == 0 || (isPad && decide (lv < (ctxOf d n).lease))) then
    if isPad then event p Reg.Ctx.EV_CFG_BUSY d else d
  else
    let cl := fld v 13 12
    let v := if bitOf old 18 then setFld v 17 16 (fld old 17 16) else v
    let v := if cl = 3 ∨ (cl = 0 ∧ by_ ≠ .fold) then setFld v 13 12 (fld old 13 12) else v
    let d := plainWrite p Reg.Ctx.CTX_CTRL v d
    if bitOf v 0 then cxEnable n d else d

/-- CTX_CMD.RESET: waves, pass and pens are discarded, the queue pointers read 0 and the pipeline table is empty (R262,
R271, R278). An isolated context leaves its state only by RESTART. -/
def cxReset (n : Nat) (d : Dev) : Dev :=
  if cxState d n = 8 then d
  else
    let d := ctxHalt n d
    let d := modCtx n (fun c => { ({} : CtxS) with lease := c.lease, bwHead := c.bwHead, area := c.area, placed := c.placed }) d
    let d := sg (.ctx n) Reg.Ctx.QUEUE_WPTR 0 (sg (.ctx n) Reg.Ctx.QUEUE_RPTR 0 d)
    let d := sg (.ctx n) Reg.Ctx.PEN_STAT 0 (sg (.ctx n) Reg.Ctx.SAVE_NEED 0 d)
    sg (.ctx n) Reg.Ctx.CTX_STAT 0 (sf (.ctx n) Reg.Ctx.CTX_CTRL 0 0 0 d)

/-- CTX_CMD.PREEMPT_SAVE: the save begins, or without a save area the drain to the present write pointer (R289). -/
def cxSave (n : Nat) (drain : Bool) (d : Dev) : Dev :=
  if cxState d n < 1 ∨ 5 < cxState d n then d
  else if drain ∨ rg64 d (.ctx n) Reg.Ctx.SAVE_LO = 0 then
    modCtx n (fun c => { c with drain := some (qWptr d n), stop := false }) d
  else modCtx n (fun c => { c with saving := true }) d

/-- CTX_SAVE_DONE: the state stands in the save area, 16 KiB to 6,160 KiB of it (R289). -/
def doCtxSaveDone (n kib : Nat) (d : Dev) : Dev :=
  if !(ctxOf d n).saving then d
  else
    let k := clampN 16 6160 kib
    let r := cxWrite n frontLane (rg64 d (.ctx n) Reg.Ctx.SAVE_LO) (freeBytes (k * 1024) d) (tick d)
    if !r.1 then r.2
    else
      event (.ctx n) Reg.Ctx.EV_SAVED (ctxState n 6 0
        (modCtx n (fun c => { c with saving := false, stopping := false, stopped := false }) (sg (.ctx n) Reg.Ctx.SAVE_NEED (BitVec.ofNat 32 k) r.2)))

/-- CTX_DRAIN_DONE: the queue is complete up to the mark (R289). -/
def doCtxDrainDone (n : Nat) (d : Dev) : Dev :=
  if (ctxOf d n).drain ≠ some (qRptr d n) ∨ cxState d n < 1 ∨ 3 < cxState d n then d
  else ctxState n 1 0 (modCtx n (fun c => { c with drain := none, stop := true }) (finishWork n d))

/-- CTX_CMD.RESUME restores the state from the save area, and ends the stop of a drain (R262, R289). -/
def cxResume (n : Nat) (d : Dev) : Dev :=
  let d := modCtx n (fun c => { c with stop := false }) d
  if cxState d n ≠ 6 then cxKick n d
  else
    let r := cxRead n frontLane (rg64 d (.ctx n) Reg.Ctx.SAVE_LO) (rf d (.ctx n) Reg.Ctx.SAVE_NEED 12 0 * 1024) d
    match r.1 with
    | none => r.2
    | some _ =>
      let d := sg (.ctx n) Reg.Ctx.SAVE_NEED 0 (ctxState n 2 0 r.2)
      if (ctxOf d n).want ≠ 0 ∧ !(ctxOf d n).partialOn ∧ gpuRuns d then bin n (rf d (.ctx n) Reg.Ctx.PEN_STAT 15 0) (ctxState n 3 0 d)
      else cxSettle n d

/-- A write of CTX_CMD: only the lowest set bit acts. -/
def ctxCmd (n : Nat) (v : Word) (d : Dev) : Dev :=
  if bitOf v 0 then cxReset n d else if bitOf v 1 then cxSave n false d else if bitOf v 2 then cxResume n d else d

/-- A write of QUEUE_WPTR, the doorbell; gather mode accepts it without running anything (R263, R290, R460). -/
def queueDoorbell (by_ : Party) (n : Nat) (v : Word) (d : Dev) : Dev :=
  intake by_ (fun d => cxKick n (plainWrite (.ctx n) Reg.Ctx.QUEUE_WPTR v d)) d

/-- A write of another register of a context page, dropped while the context is enabled (R298). -/
def ctxOther (n o : Nat) (v : Word) (d : Dev) : Dev :=
  if cxEnabled d n && o != Reg.Ctx.PEN_CFG && o != Reg.Ctx.RUN_LIMIT then event (.ctx n) Reg.Ctx.EV_CFG_BUSY d
  else plainWrite (.ctx n) o v d

/-- A write of a read-only register of a context page beyond the header: dropped as ever, and CFG_BUSY while the context is enabled
(R298). -/
def ctxReadOnly (n o : Nat) (d : Dev) : Dev :=
  if 0x40 ≤ o ∧ cxEnabled d n = true then event (.ctx n) Reg.Ctx.EV_CFG_BUSY d else d

/-- A write to a register of a context page beyond the header. -/
def ctxRegWrite (by_ : Party) (n o : Nat) (v : Word) (d : Dev) : Dev :=
  if o = Reg.Ctx.CTX_CTRL then ctxCtrl by_ n v d
  else if o = Reg.Ctx.QUEUE_WPTR then queueDoorbell by_ n v d
  else if o = Reg.Ctx.PEN_WPTR then penWptrWrite n v d
  else if o = Reg.Ctx.CTX_CMD then ctxCmd n v d
  else ctxOther n o v d

/-- RUN_LIMIT_TIMEOUT. -/
def doRunLimit (n : Nat) (d : Dev) : Dev :=
  if cxState d n = 3 ∧ (ctxOf d n).work ∧ rf d (.ctx n) Reg.Ctx.RUN_LIMIT 15 0 ≠ 0 then ctxFault n 6 0 0 d else d

/-- The bound of R284 is broken, for a call whose conditions of R283 held. -/
def boundBroken (n : Nat) (d : Dev) : Dev :=
  if (ctxOf d n).held then
    raiseFault .gpu Reg.Gpu.SRC_BW_BOUND Reg.Gpu.EV_BW_BOUND (modCtx n (fun c => { c with held := false }) d)
  else d

/-- A call whose first wave has not issued after 40 µs of idle time, or by the next call, breaks the bound (R284). -/
def callLate (n : Nat) (d : Dev) : Dev :=
  if (ctxOf d n).called ∧ (ctxOf d n).callUs + 40 < d.us then boundBroken n d else d

/-- Work in flight of contexts whose queue is empty ends when the block has nothing else to do, and a call without a wave
breaks its bound. -/
def gpuIdle (d : Dev) : Dev :=
  forN (fun n d =>
    callLate n (if (ctxOf d n).work ∧ (cxState d n = 3 ∨ cxState d n = 4) ∧ !(ctxOf d n).stopping then cxSettle n (finishWork n d) else d))
    64 d

/-! ## Clock levels (R291–R294, R605, R606) -/

def gLevel (d : Dev) : Nat := rf d .gpu Reg.Gpu.GPU_STAT 2 0
def gTarget (d : Dev) : Nat := rf d .gpu Reg.Gpu.GPU_STAT 6 4
def gTrip (d : Dev) : Bool := rb d .gpu Reg.Gpu.GPU_STAT 12
def levelMax (d : Dev) : Nat := rf d .gpu Reg.Gpu.GPU_CTRL 22 20

/-- The cap in force: the thermal cap, or level 0 while the Sheepdog's action caps the GPU (R293, R522). -/
def gCap (d : Dev) : Nat := if (actionsNow d).testBit 6 then 0 else rf d .gpu Reg.Gpu.GPU_STAT 10 8

/-- A call is outstanding (R288). -/
def callOut (d : Dev) : Bool := (List.range 64).any (fun n => rb d (.ctx n) Reg.Ctx.CTX_STAT 10)

/-- The lowest level: LEVEL_MIN, and BW_FLOOR during an outstanding call; each above LEVEL_MAX is taken as LEVEL_MAX (R292,
R296). -/
def levelMin (d : Dev) : Nat :=
  min (max (rf d .gpu Reg.Gpu.GPU_CTRL 18 16) (if callOut d then rf d .gpu Reg.Gpu.GPU_CTRL 26 24 else 0)) (levelMax d)

/-- A level kept within the lowest level to LEVEL_MAX and at or below the cap (R292). -/
def clampLevel (d : Dev) (x : Nat) : Nat := min (max (min x (levelMax d)) (levelMin d)) (gCap d)

/-- The same, never below the present target while a call is outstanding or a fall is deferred (R31, R292). -/
def holdLevel (d : Dev) (x : Nat) : Nat :=
  if callOut d || d.gpu.deferred then max (gTarget d) (clampLevel d x) else clampLevel d x

/-- The setpoint code of a level, and its setpoint in mV (R291, R605). -/
def levelCode (l : Nat) : Nat := l - 3
def codeMv (c : Nat) : Nat := 720 + 20 * c

/-- The supply request of a level in MODE 1 (R605). -/
def driveCode (l : Nat) (d : Dev) : Dev :=
  if rb d (.sys 2) Reg.Sys2.SUP_CFG 0 then
    sf (.sys 2) Reg.Sys2.SUP_STAT 2 0 (levelCode l) (sf (.sys 2) Reg.Sys2.SUP_STAT 25 16 (codeMv (levelCode l)) d)
  else d

/-- The GPU switches its clock to a level. -/
def setLevel (l : Nat) (d : Dev) : Dev :=
  if gLevel d = l then d else bump .gpu Reg.Gpu.LEVEL_COUNT 15 0 (sf .gpu Reg.Gpu.GPU_STAT 2 0 l d)

/-- A raise or a lowering toward the target begins: a raise drives the new code and waits; a lowering takes effect at once
and drives the code after it. A failed raise is tried again only after 1 ms (R292, R606). -/
def kickLevel (d : Dev) : Dev :=
  let t := gTarget d
  if t < gLevel d then
    driveCode t (setLevel t { modGpu (fun g => { g with raising := none }) d with pwr := { d.pwr with masked1 := false } })
  else if gLevel d < t ∧ d.gpu.raising ≠ some t ∧ d.pwr.raiseUs.all (fun u => decide (u ≤ d.us)) then
    driveCode t { modGpu (fun g => { g with raising := some t }) d with
      pwr := { d.pwr with masked1 := rb d (.sys 2) Reg.Sys2.SUP_CFG 0, raiseUs := none } }
  else d

/-- The target moves, and the level after it. -/
def setTarget (t : Nat) (d : Dev) : Dev := kickLevel (sf .gpu Reg.Gpu.GPU_STAT 6 4 t d)

/-- The cap or a limit has changed: the target follows, but a fall waits while a call is outstanding (R31, R292). -/
def relimit (d : Dev) : Dev :=
  let t := clampLevel d (gTarget d)
  if gTrip d then d
  else if t < gTarget d ∧ callOut d then modGpu (fun g => { g with deferred := true }) d
  else setTarget t d

/-- GPU_LEVEL_WINDOW (R292). At the thermal trip the level stays 0. -/
def doLevelWindow (busy slots : Nat) (d : Dev) : Dev :=
  if !gpuRuns d ∨ gTrip d then d
  else
    let low := busy * 100 < 45 * slots
    let run := if low then d.gpu.lowRun + 1 else 0
    let d := modGpu (fun g => { g with lowRun := if 4 ≤ run then 0 else run }) d
    let d :=
      if 85 * slots < busy * 100 then setTarget (holdLevel d (gTarget d + 1)) d
      else if 4 ≤ run ∧ !callOut d then setTarget (clampLevel d (gTarget d - 1)) d
      else d
    if d.gpu.deferred then d else relimit d

/-- LEVEL_DEFERRAL_END (R292). -/
def doDeferralEnd (d : Dev) : Dev :=
  if !d.gpu.deferred ∨ gTrip d then modGpu (fun g => { g with deferred := false }) d
  else setTarget (clampLevel d (gTarget d)) (modGpu (fun g => { g with deferred := false }) d)

/-- VOLTAGE_RAMP_DONE: with a fixed regulator (MODE 0) the raise takes effect; in MODE 1 the check of R606 decides. -/
def doRampDone (d : Dev) : Dev :=
  match d.gpu.raising with
  | some l => if rb d (.sys 2) Reg.Sys2.SUP_CFG 0 then d else setLevel l (modGpu (fun g => { g with raising := none }) d)
  | none => d

/-- VFG_SETTLE (R606). -/
def doVfgSettle (mv : Nat) (d : Dev) : Dev :=
  match d.gpu.raising with
  | none => d
  | some l =>
    if !rb d (.sys 2) Reg.Sys2.SUP_CFG 0 then d
    else
      let e := { modGpu (fun g => { g with raising := none }) d with pwr := { d.pwr with masked1 := false } }
      if codeMv (levelCode l) ≤ mv + 25 then setLevel l e
      else
        raiseFault (.sys 2) Reg.Sys2.SRC_VFG_RAISE Reg.Sys2.EV_VFG_RAISE
          (bump (.sys 2) Reg.Sys2.SUP_STAT 15 8
            (driveCode (gLevel e) { e with pwr := { e.pwr with raiseUs := some (e.us + 1000) } }))

/-- The trip and the throttle temperature (R296). -/
def tripC (d : Dev) : Int := signed 8 (rf d .gpu Reg.Gpu.THERMAL 15 8)
def throttleC (d : Dev) : Int := min (signed 8 (rf d .gpu Reg.Gpu.THERMAL 7 0)) (tripC d - 2)

/-- A temperature is measured. -/
def gpuTemp (t : BitVec 8) (d : Dev) : Dev := sf .gpu Reg.Gpu.GPU_STAT 31 24 t.toNat d

/-- THROTTLE (R293). -/
def doThrottle (t : BitVec 8) (d : Dev) : Dev :=
  let d := gpuTemp t d
  if t.toInt ≤ throttleC d then d
  else relimit (event .gpu Reg.Gpu.EV_THROTTLE (sf .gpu Reg.Gpu.GPU_STAT 10 8 (rf d .gpu Reg.Gpu.GPU_STAT 10 8 - 1) d))

/-- CAP_RISE (R293). -/
def doCapRise (t : BitVec 8) (d : Dev) : Dev :=
  let d := gpuTemp t d
  if throttleC d - 5 ≤ t.toInt then d
  else relimit (sf .gpu Reg.Gpu.GPU_STAT 10 8 (min 7 (rf d .gpu Reg.Gpu.GPU_STAT 10 8 + 1)) d)

/-- THERMAL_TRIP: level 0 whatever calls are outstanding and whatever raise is in progress (R293, R606). -/
def doThermalTrip (t : BitVec 8) (d : Dev) : Dev :=
  let d := gpuTemp t d
  if t.toInt < tripC d ∨ gTrip d then d
  else
    let d := modGpu (fun g => { g with deferred := false, raising := none }) { d with pwr := { d.pwr with masked1 := false } }
    let d := driveCode 0 (setLevel 0 (sb .gpu Reg.Gpu.GPU_STAT 12 true (sf .gpu Reg.Gpu.GPU_STAT 6 4 0 d)))
    raiseFault .gpu Reg.Gpu.SRC_THERMAL_TRIP Reg.Gpu.EV_THERMAL_TRIP (bump .gpu Reg.Gpu.LEVEL_COUNT 31 16 d)

/-- GPU_TRIP_CLEAR (R293). -/
def doTripClear (t : BitVec 8) (d : Dev) : Dev :=
  let d := gpuTemp t d
  if tripC d - 10 ≤ t.toInt ∨ !gTrip d then d else relimit (sb .gpu Reg.Gpu.GPU_STAT 12 false d)

/-! ## Flocks and cores (R294, R297, R300) -/

/-- A flock is powered, or not. -/
def flockPower (f : Nat) (on : Bool) (d : Dev) : Dev :=
  sb .gpu Reg.Gpu.GPU_STAT (16 + f) on
    (sb (.flock f) Reg.Flock.FLOCK_STAT 30 false (sb (.flock f) Reg.Flock.FLOCK_STAT 31 on d))

/-- A Bellwether context is bound to some head (R294). -/
def anyBound (d : Dev) : Bool := (List.range 8).any (fun h => rb d (.head h) Reg.Head.BW_CTX 7)

/-- Flock 0 is powered while a Bellwether context is bound (R294). -/
def flock0On (d : Dev) : Dev := if anyBound d && !rb d (.flock 0) Reg.Flock.FLOCK_STAT 31 then flockPower 0 true d else d

/-- FLOCK_POWER_DOWN: flock 0 stays powered while a Bellwether context is bound. -/
def doFlockDown (f : Nat) (d : Dev) : Dev := if f = 0 ∧ anyBound d then d else flockPower f false d

/-- FLOCK_WAKE. -/
def doFlockWake (f : Nat) (d : Dev) : Dev :=
  if rb d (.flock f) Reg.Flock.FLOCK_STAT 30 then flockPower f true d else d

/-- CORE_ERR: the core leaves use, and the context of the wave faults (R297). FLOCK_ERR counts the error, and the errors that the
flock has corrected since its report before (R300). -/
def doCoreErr (n core corrected : Nat) (d : Dev) : Dev :=
  let f := core / 6
  let d := addTo (.flock f) Reg.Flock.FLOCK_ERR 31 16 corrected
    (bump (.flock f) Reg.Flock.FLOCK_ERR 15 0 (sb (.flock f) Reg.Flock.FLOCK_STAT (core % 6) false d))
  raiseFault .gpu Reg.Gpu.SRC_CORE_ERR Reg.Gpu.EV_CORE_ERR (ctxFault n 9 0 0 d)

/-! ## Bellwether calls and preemption (R282–R290) -/

/-- A context stands in the way of a called Bellwether context: levels 1–3, and Bellwether contexts of a lower class
(R285). -/
def inWay (d : Dev) (n m : Nat) : Bool :=
  m != n && cxState d m == 3 && ((ctxOf d m).work || (ctxOf d m).pass.any (·.drawn)) &&
    (!cxBw d m || decide (cxClass d n < cxClass d m))

/-- What every call does, whether or not the one before is still outstanding: it is timed, the level rises to BW_FLOOR, the flocks
wake, and the waves in the way are to stop (R284, R285, R292, R294). -/
def callStart (n : Nat) (d : Dev) : Dev :=
  let d := if (ctxOf d n).called then boundBroken n d else d
  let d := modCtx n (fun c => { c with called := true, held := callReady d n && gpuRuns d, callUs := d.us })
    (sb (.ctx n) Reg.Ctx.CTX_STAT 10 true d)
  let d := if gTrip d then d else setTarget (holdLevel d (gTarget d)) d
  let d := forN (fun f d => if rb d (.flock f) Reg.Flock.FLOCK_STAT 31 then d else flockPower f true d) 4 d
  forN (fun m d => if inWay d n m then modCtx m (fun c => { c with stopping := true }) d else d) 64 d

/-- A deadline call reaches a context (R183, R283–R288, R292): it counts, and a context that stands at WAIT_CALL goes on.
A context that is OFF, FAULTED or isolated answers no call. -/
def deadlineCall (n : Nat) (d : Dev) : Dev :=
  let d := bump (.ctx n) Reg.Ctx.CALL_COUNT 31 16 d
  if cxState d n = 0 ∨ cxState d n = 7 ∨ cxState d n = 8 then d
  else if rb d (.ctx n) Reg.Ctx.CTX_STAT 10 then
    callStart n (raiseFault (.ctx n) Reg.Ctx.SRC_CALL_OVERLAP Reg.Ctx.EV_CALL_OVERLAP
      (bump (.ctx n) Reg.Ctx.CALL_COUNT 15 0 (sb (.ctx n) Reg.Ctx.CTX_STAT 11 true d)))
  else
    let d := modCtx n (fun c => { c with callWait := false }) (callStart n d)
    if (ctxOf d n).saving then d else cxWake n d

/-- Stopped waves' state written to Pasture, of which only the size is the spec's. -/
def saveTo (a len : Nat) (d : Dev) : Dev := pastWrite (len / 64 + 2) 1 a (freeBytes len d) (tick d)

/-- The waves of a context have begun to stop: with the first that stop, it is PREEMPTED (R262, R286). -/
def cxPreempt (n : Nat) (d : Dev) : Dev :=
  let d := modCtx n (fun c => { c with stopping := false, stopped := true }) d
  if cxState d n = 3 then bump (.ctx n) Reg.Ctx.PREEMPT_COUNT 31 16 (ctxState n 5 0 d) else d

/-- Waves of a context stop or have stopped for a call. -/
def cxStops (d : Dev) (n : Nat) : Bool :=
  ((ctxOf d n).stopping && cxState d n == 3) || ((ctxOf d n).stopped && cxState d n == 5)

/-- Where the waves of a core of a context are saved: in the core's preemption slot, or in the save area of a Bellwether context
after those of the cores before it; and how many of their bytes (R286, R287). -/
def slotAt (d : Dev) (n core before len : Nat) : Nat × Nat :=
  match (ctxOf d n).area with
  | some a => (a.1 + before, min len (a.2 * 1024 - before))
  | none => (rf d .gpu Reg.Gpu.PREEMPT_AREA 24 0 + core * 262144, min 262144 len)

/-- The bytes that stand saved in front of the next ones. -/
def slotSum (l : List (Nat × Nat)) : Nat := (l.map (·.2)).foldl (· + ·) 0

/-- PREEMPT_SAVE_DONE: stopped waves of a context stand in the preemption slots of their cores, or in the save area of a
Bellwether context of a lower class (R286). A core that has been removed has none. -/
def doPreemptSaveDone (n : Nat) (cores : List (Fin 24 × Nat)) (d : Dev) : Dev :=
  if !cxStops d n ∨ !(ctxOf d n).work then d
  else
    let d := (cores.filter (fun e => coreOk d e.1.val)).foldl (fun d e =>
      let q := slotAt d n e.1.val (slotSum (ctxOf d n).slots) e.2
      modCtx n (fun c => { c with slots := c.slots ++ [(e.1.val, q.2)] }) (saveTo q.1 q.2 d)) d
    cxPreempt n d

/-- TILE_STOP_TIMEOUT: a tile is discarded and will be rendered again (R286). -/
def doTileStop (n f : Nat) (d : Dev) : Dev :=
  if !cxStops d n ∨ (ctxOf d n).pass.isNone then d else cxPreempt n (bump (.flock f) Reg.Flock.FLOCK_REDO 15 0 d)

/-- BELLWETHER_FIRST_WAVE: the latency of the call, in fabric cycles of 1 ns; above 40 µs the bound is broken if the
conditions of R283 held (R284). -/
def doFirstWave (n : Nat) (lat : Word) (d : Dev) : Dev :=
  if !(ctxOf d n).called then d
  else
    let d := modCtx n (fun c => { c with called := false }) (sg (.ctx n) Reg.Ctx.CALL_LAT lat d)
    let up := fun (p : Page) o (d : Dev) => if (rg d p o).toNat < lat.toNat then sg p o lat d else d
    let d := up .gpu Reg.Gpu.BW_LAT_MAX (up (.ctx n) Reg.Ctx.CALL_LAT_MAX d)
    if 40000 < lat.toNat then boundBroken n d else d

/-- No wave goes before the restore of a context: none of level 0 is left on the cores whose slots hold its waves, and none of a
higher class for a Bellwether context (R287). -/
def restoreFree (d : Dev) (n : Nat) : Bool :=
  (List.range 64).all (fun m => m == n || !cxBw d m || (cxBw d n && decide (cxClass d n ≤ cxClass d m)) ||
    !(ctxOf d n).slots.any (fun e => (ctxOf d m).waves.any (·.1 == e.1)))

/-- The saved waves of a context are read back; an uncorrectable error in them faults it with reason POISON (R263, R287). -/
def readSlots (n : Nat) : List (Nat × Nat) → Nat → Dev → Bool × Dev
  | [], _, d => (true, d)
  | e :: es, before, d =>
    let q := slotAt d n e.1 before e.2
    let r := memRead (.party .fold) frontLane (pastBase + q.1) q.2 d
    if r.1.poison then (false, ctxFault n 3 0 (pastBase + q.1) r.2) else readSlots n es (before + e.2) r.2

/-- PREEMPT_RESTORE_DONE: no level-0 waves are left, the waves are restored, and the context runs on (R287). A context whose tile
still ends is free again in the same way. -/
def doRestoreDone (n : Nat) (d : Dev) : Dev :=
  if !restoreFree d n then d
  else
    let r := readSlots n (ctxOf d n).slots 0 d
    if !r.1 then r.2
    else
      let d := modCtx n (fun c => { c with stopping := false, stopped := false, slots := [] }) r.2
      let d := if cxState d n = 5 then ctxState n 3 0 d else d
      if cxState d n = 3 ∧ (ctxOf d n).want ≠ 0 ∧ !(ctxOf d n).partialOn then bin n (rf d (.ctx n) Reg.Ctx.PEN_STAT 15 0) d
      else cxSettle n d

/-- The GPU leaves gather mode or isolation: the firmware resets the Bellwether contexts and rebinds them (R290). -/
def gpuRelease (d : Dev) : Dev :=
  forN (fun n d =>
    match (ctxOf d n).bwHead with
    | some h =>
      if d.boot.full then flock0On (sg (.head h) Reg.Head.BW_CTX (BitVec.ofNat 32 (0x80 + n)) (cxReset n d)) else cxReset n d
    | none => d) 64 d

/-- The GPU in gather mode (R290). -/
def gpuGather (on : Bool) (d : Dev) : Dev :=
  let d := sb .gpu Reg.Gpu.GPU_STAT 13 on d
  if on then ctxFaultAll 8 d else gpuRelease d

/-- A write of GPU_CTRL: RESTART ends isolation, ENABLE starts the GPU unless the firmware leaves it disabled, and the
levels follow (R290, R292, R296). -/
def gpuCtrl (v : Word) (d : Dev) : Dev :=
  let d := if bitOf v 31 && isoOf d .gpu then gpuRelease (endIso .gpu d) else d
  relimit (plainWrite .gpu Reg.Gpu.GPU_CTRL v d)

/-- A write to a register of the GPU global page beyond the header. -/
def gpuRegWrite (o : Nat) (v : Word) (d : Dev) : Dev :=
  if o = Reg.Gpu.GPU_CTRL then gpuCtrl v d
  else if o = Reg.Gpu.THERMAL then plainWrite .gpu o v d
  else lockedWrite .gpu o v d

/-! ## The commands -/

def cxW (who : Party) (n o : Nat) (act : Dev → Dev) (d : Dev) : Dev := onWrite who (.ctx n) o act d

/-- CTX_ENABLE: the write with ENABLE 1 and the other fields as they are. -/
def execCtxEnable (who : Party) (n : Fin 64) (s : State) := onDev (cxW who n.val Reg.Ctx.CTX_CTRL
  (fun d => ctxCtrl who n.val (putBit (rg d (.ctx n.val) Reg.Ctx.CTX_CTRL) 0 true) d)) s
/-- CTX_DISABLE. -/
def execCtxDisable (who : Party) (n : Fin 64) (s : State) := onDev (cxW who n.val Reg.Ctx.CTX_CTRL
  (fun d => ctxCtrl who n.val (putBit (rg d (.ctx n.val) Reg.Ctx.CTX_CTRL) 0 false) d)) s
/-- QUEUE_WPTR. -/
def execQueueWptr (who : Party) (n : Fin 64) (v : BitVec 20) (s : State) :=
  onDev (cxW who n.val Reg.Ctx.QUEUE_WPTR (queueDoorbell who n.val (v.setWidth 32))) s
/-- NOP. -/
def execNop (n : Fin 64) (s : State) := onDev (doPkt n.val 0x00 (fun _ d => d)) s
/-- PIPELINE. -/
def execPipeline (n : Fin 64) (s : State) := onDev (doPipeline n.val) s
/-- BIND_RESOURCES. -/
def execBindResources (n : Fin 64) (s : State) := onDev (doPkt n.val 0x02 (pktBind n.val)) s
/-- PUSH. -/
def execPush (n : Fin 64) (s : State) := onDev (doPkt n.val 0x03 (pktPush n.val)) s
/-- PASS_BEGIN. -/
def execPassBegin (n : Fin 64) (s : State) := onDev (doPkt n.val 0x10 (pktPassBegin n.val)) s
/-- PASS_END. -/
def execPassEnd (n : Fin 64) (t0 t1 t2 : Nat) (s : State) := onDev (doPkt n.val 0x11 (pktPassEnd n.val t0 t1 t2)) s
/-- DRAW. -/
def execDraw (n : Fin 64) (run : ShaderRun) (pens need : Nat) (s : State) :=
  onDev (whenIssued n.val run (doPkt n.val 0x12 (pktDraw n.val run pens need))) s
/-- DRAW_INDEXED. -/
def execDrawIndexed (n : Fin 64) (run : ShaderRun) (pens need : Nat) (s : State) :=
  onDev (whenIssued n.val run (doPkt n.val 0x13 (pktDrawIndexed n.val run pens need))) s
/-- DRAW_INDIRECT. -/
def execDrawIndirect (n : Fin 64) (run : ShaderRun) (pens need : Nat) (s : State) :=
  onDev (whenIssued n.val run (doPkt n.val 0x14 (pktDrawIndirect n.val run pens need))) s
/-- DISPATCH. -/
def execDispatch (n : Fin 64) (run : ShaderRun) (s : State) := onDev (whenIssued n.val run (doPkt n.val 0x20 (pktDispatch n.val run))) s
/-- DISPATCH_INDIRECT. -/
def execDispatchIndirect (n : Fin 64) (run : ShaderRun) (s : State) :=
  onDev (whenIssued n.val run (doPkt n.val 0x21 (pktDispatchIndirect n.val run))) s
/-- BARRIER: earlier work is complete and its writes are visible. -/
def execBarrier (n : Fin 64) (s : State) := onDev (doPkt n.val 0x30 (fun _ d => finishWork n.val d)) s
/-- FENCE_SIGNAL. -/
def execFenceSignal (n : Fin 64) (s : State) := onDev (doPkt n.val 0x31 (pktFenceSignal n.val)) s
/-- FENCE_WAIT. -/
def execFenceWait (n : Fin 64) (s : State) := onDev (doPkt n.val 0x32 (pktFenceWait n.val)) s
/-- FENCE_RECHECK. -/
def execFenceRecheck (s : State) := onDev doFenceRecheck s
/-- PEN_RING. -/
def execPenRing (n : Fin 64) (s : State) := onDev (doPkt n.val 0x40 (pktPenRing n.val)) s
/-- WAIT_CALL. -/
def execWaitCall (n : Fin 64) (s : State) := onDev (doPkt n.val 0x50 (pktWaitCall n.val)) s
/-- LAYER_COMMIT. -/
def execLayerCommit (n : Fin 64) (s : State) := onDev (doPkt n.val 0x51 (pktLayerCommit n.val)) s
/-- TRANSLATION_DONE. -/
def execTranslationDone (n : Fin 64) (evict : Nat) (refused : Option (BitVec 16)) (s : State) :=
  onDev (doTranslationDone n.val evict (refused.map (·.toNat))) s
/-- TRANSLATION_TIMEOUT. -/
def execTranslationTimeout (n : Fin 64) (s : State) := onDev (doTranslationTimeout n.val) s
/-- PREEMPT_SAVE_DONE. -/
def execPreemptSaveDone (n : Fin 64) (cores : List (Fin 24 × Nat)) (s : State) := onDev (doPreemptSaveDone n.val cores) s
/-- TILE_STOP_TIMEOUT. -/
def execTileStopTimeout (n : Fin 64) (f : Fin 4) (s : State) := onDev (doTileStop n.val f.val) s
/-- BELLWETHER_FIRST_WAVE. -/
def execBellwetherFirstWave (n : Fin 64) (lat : Word) (s : State) := onDev (doFirstWave n.val lat) s
/-- PREEMPT_RESTORE_DONE. -/
def execPreemptRestoreDone (n : Fin 64) (s : State) := onDev (doRestoreDone n.val) s
/-- CTX_CMD_RESET. -/
def execCtxCmdReset (who : Party) (n : Fin 64) (s : State) := onDev (cxW who n.val Reg.Ctx.CTX_CMD (ctxCmd n.val 1)) s
/-- PREEMPT_SAVE. -/
def execPreemptSave (who : Party) (n : Fin 64) (s : State) := onDev (cxW who n.val Reg.Ctx.CTX_CMD (ctxCmd n.val 2)) s
/-- CTX_SAVE_DONE. -/
def execCtxSaveDone (n : Fin 64) (kib : Nat) (s : State) := onDev (doCtxSaveDone n.val kib) s
/-- CTX_DRAIN_DONE. -/
def execCtxDrainDone (n : Fin 64) (s : State) := onDev (doCtxDrainDone n.val) s
/-- RESUME. -/
def execResume (who : Party) (n : Fin 64) (s : State) := onDev (cxW who n.val Reg.Ctx.CTX_CMD (ctxCmd n.val 4)) s
/-- CTX_RESTART: the write with RESTART 1, ENABLE 0 and the other fields as they are. -/
def execCtxRestart (who : Party) (n : Fin 64) (s : State) := onDev (cxW who n.val Reg.Ctx.CTX_CTRL
  (fun d => ctxCtrl who n.val (putBit (putBit (rg d (.ctx n.val) Reg.Ctx.CTX_CTRL) 0 false) 31 true) d)) s
/-- PEN_WPTR. -/
def execPenWptr (who : Party) (n : Fin 64) (v : BitVec 16) (s : State) :=
  onDev (cxW who n.val Reg.Ctx.PEN_WPTR (penWptrWrite n.val (v.setWidth 32))) s
/-- PEN_TIMEOUT. -/
def execPenTimeout (n : Fin 64) (s : State) := onDev (doPenTimeout n.val) s
/-- PARTIAL_RENDER. -/
def execPartialRender (n : Fin 64) (t0 t1 t2 : Nat) (s : State) := onDev (doPartialRender n.val t0 t1 t2) s
/-- RUN_LIMIT_TIMEOUT. -/
def execRunLimitTimeout (n : Fin 64) (s : State) := onDev (doRunLimit n.val) s
/-- GPU_LEVEL_WINDOW. -/
def execGpuLevelWindow (busy slots : Nat) (s : State) := onDev (doLevelWindow busy slots) s
/-- LEVEL_DEFERRAL_END. -/
def execLevelDeferralEnd (s : State) := onDev doDeferralEnd s
/-- VOLTAGE_RAMP_DONE. -/
def execVoltageRampDone (s : State) := onDev doRampDone s
/-- VFG_SETTLE. -/
def execVfgSettle (mv : Nat) (s : State) := onDev (doVfgSettle mv) s
/-- THROTTLE. -/
def execThrottle (temp : BitVec 8) (s : State) := onDev (doThrottle temp) s
/-- CAP_RISE. -/
def execCapRise (temp : BitVec 8) (s : State) := onDev (doCapRise temp) s
/-- THERMAL_TRIP. -/
def execThermalTrip (temp : BitVec 8) (s : State) := onDev (doThermalTrip temp) s
/-- GPU_TRIP_CLEAR. -/
def execGpuTripClear (temp : BitVec 8) (s : State) := onDev (doTripClear temp) s
/-- FLOCK_POWER_DOWN. -/
def execFlockPowerDown (f : Fin 4) (s : State) := onDev (doFlockDown f.val) s
/-- FLOCK_WAKE. -/
def execFlockWake (f : Fin 4) (s : State) := onDev (doFlockWake f.val) s
/-- CORE_ERR. -/
def execCoreErr (n : Fin 64) (fail : CoreFail) (s : State) := onDev (doCoreErr n.val fail.core.val fail.corrected.toNat) s
/-- GPU_RESTART: the write with RESTART 1 and the other fields as they are. -/
def execGpuRestart (who : Party) (s : State) :=
  onDev (onWrite who .gpu Reg.Gpu.GPU_CTRL (fun d => gpuCtrl (rg d .gpu Reg.Gpu.GPU_CTRL ||| 0x80000000) d)) s

end Sys2Proof.Machine
end

