-- ==== Sys2Proof/Machine/Haptics.lean ====
section
/-! DEFINITION. Piezo haptics and the Whistle library (R373–R398). -/
namespace Sys2Proof.Machine

/-! ## Effects (R379–R381) -/

/-- A number within a range, of a parameter that R380 gives only as a range. -/
def romRange (n k lo hi : Nat) : Nat := lo + Config.romParam n k % (hi + 1 - lo)

/-- Attack, sustain and brake samples and PEAK_V of a ROM effect (R380), at 48 samples a millisecond. The worked example of
the chapter gives PEAK_V of effects 40 and 41. -/
def romShape (n : Nat) : Nat × Nat × Nat × Nat :=
  if n < 32 then (24, 0, 96, romRange n 0 40 100)
  else if n < 64 then (48, 240, 192, if n = 40 ∨ n = 41 then 60 else romRange n 0 30 80)
  else if n < 96 then (romRange n 1 96 240, romRange n 2 960 4800, romRange n 3 288 576, romRange n 0 60 100)
  else (romRange n 1 240 960, romRange n 2 480 9600, romRange n 3 384 576, romRange n 0 20 100)

/-- The parameters of an effect, if it is present: class, PEAK_V and the three counts. -/
def effectOf (d : Dev) (n : Nat) : Option (Nat × Nat × Nat × Nat × Nat) :=
  if n < 128 then
    let s := romShape n
    some (2, s.2.2.2, s.1, s.2.1, s.2.2.1)
  else (tabGet (fun _ => none) d.hap.image n).map (fun e => (e.cls, e.peak, e.attack, e.sustain, e.brake))

/-- Sample `i` of an effect; none beyond its end. -/
def effectSample (d : Dev) (n i : Nat) : Option Int :=
  match effectOf d n with
  | none => none
  | some (_, _, a, s, b) =>
    if a + s + b ≤ i then none
    else if n < 128 then some (Config.romSample n i).toInt
    else (tabGet (fun _ => none) d.hap.image n).bind (fun e => e.samples[i]?)

/-- WH_INFO0 and WH_INFO1 of the effect that WH_SEL names (R396). -/
def whInfo (d : Dev) : Word × Word :=
  match effectOf d (rf d (.hap 0) Reg.Hap.WH_SEL 7 0) with
  | none => (0, 0)
  | some (c, p, a, s, b) =>
    (setFld (setFld (setFld (setFld (0 : Word) 31 24 p) 21 20 c) 16 16 1) 9 0 b, setFld (setFld (0 : Word) 31 16 s) 15 0 a)

/-- WH_DATA: the sample that WH_SEL names, sign-extended; beyond the end the spec gives no value (R396). -/
def whData (d : Dev) : Word :=
  match effectSample d (rf d (.hap 0) Reg.Hap.WH_SEL 7 0) (rf d (.hap 0) Reg.Hap.WH_SEL 30 16) with
  | some x => BitVec.ofInt 32 x
  | none => BitVec.ofNat 32 (Config.freeNat d.free 0x396)

/-- WH_DATA_READ: a read of WH_DATA increments INDEX (R396). -/
def doWhDataRead (who : Party) (d : Dev) : Dev :=
  onRead who (.hap 0) Reg.Hap.WH_DATA (fun d => (whData d, tick (bump (.hap 0) Reg.Hap.WH_SEL 30 16 d))) d
def execWhDataRead (who : Party) (s : State) := onDev (doWhDataRead who) s

/-! ## Boosts (R373, R391) -/

/-- The boost of a channel. -/
def bankOfCh (n : Nat) : Nat := n / 8
/-- BST_CTRL of a boost. -/
def bstCtrl (b : Nat) : Nat := Reg.Hap.BST_CTRL0 + 4 * b
/-- A field of a boost's half of BST_STAT. -/
def bst (d : Dev) (b hi lo : Nat) : Nat := rf d (.hap 0) Reg.Hap.BST_STAT (16 * b + hi) (16 * b + lo)
def setBst (b hi lo x : Nat) (d : Dev) : Dev := sf (.hap 0) Reg.Hap.BST_STAT (16 * b + hi) (16 * b + lo) x d
/-- The setpoint of a boost in 0.5 V, a code outside 40–210 taken as the nearer end. -/
def vhvSet (d : Dev) (b : Nat) : Nat := clampN 40 210 (rf d (.hap 0) (bstCtrl b) 7 0)

/-- Nothing may drive (R378, R392, R522): gather mode, the Sheepdog's action, isolation, the block's own ENABLE, or its
clock, power or reset. -/
def hapOff (d : Dev) : Bool :=
  gatherWire d || (actionsNow d).testBit 5 || isoOf d (.hap 0) || !rb d (.hap 0) Reg.Hap.HAP_CTRL 0 || !blkRuns d 0xF2

/-- A boost ramps its rail. -/
def boostRamp (b : Nat) (d : Dev) : Dev := setBst b 15 13 3 (setBst b 2 0 0 d)
/-- A boost stops, and its rail bleeds. -/
def boostStop (b : Nat) (d : Dev) : Dev := setBst b 15 13 0 d

/-- A boost follows its ENABLE and what holds the block off: it starts to ramp, or stops. A faulted one waits for its
retry. -/
def boostSettle (b : Nat) (d : Dev) : Dev :=
  let want := rb d (.hap 0) (bstCtrl b) 31 && !hapOff d && bst d b 2 0 == 0
  if want && bst d b 13 13 == 0 then boostRamp b d
  else if !want && bst d b 13 13 == 1 then boostStop b d
  else d

/-! ## Channels -/

/-- A channel is held at its safe value (R378). -/
def chSafe (d : Dev) (n : Nat) : Bool :=
  !rb d (.hap 0) (Reg.Hap.CH_CFG n) 0 || (hapChOf d n).fault != 0 || hapOff d || bst d (bankOfCh n) 15 15 == 0

/-- CH_STAT.STATE of a channel. -/
def chState (d : Dev) (n : Nat) : Nat :=
  if !rb d (.hap 0) (Reg.Hap.CH_CFG n) 0 then 0
  else if (hapChOf d n).fault != 0 then 5
  else if chSafe d n then 6
  else match (hapChOf d n).run with
    | none => 1
    | some r => r.phase

/-- The slot of a class. -/
def slotOf (d : Dev) (n c : Nat) : Option HapTrig := tabGet (fun _ => none) (hapChOf d n).slots c
def setSlot (n c : Nat) (t : Option HapTrig) (d : Dev) : Dev :=
  modHapCh n (fun h => { h with slots := tabSet (fun _ => none) h.slots c t }) d

/-- CH_STAT shows the channel (R396). A channel whose boost has failed shows kind 5. -/
def chShow (n : Nat) (d : Dev) : Dev :=
  let st := chState d n
  let kind := if st = 5 then (hapChOf d n).fault else if st = 6 ∧ bst d (bankOfCh n) 2 0 ≠ 0 then 5 else 0
  let w := setFld (rg d (.hap 0) (Reg.Hap.CH_STAT n)) 2 0 st
  let w := setFld w 14 12 kind
  let w := setFld w 10 8 ((slotOf d n 0).isSome.toNat + 2 * (slotOf d n 1).isSome.toNat + 4 * (slotOf d n 2).isSome.toNat)
  let w := match (hapChOf d n).run with
    | none => setFld (setFld w 31 24 0) 5 4 0
    | some r => setFld (setFld w 31 24 r.trig.effect) 5 4 r.trig.cls
  sg (.hap 0) (Reg.Hap.CH_STAT n) w d

/-- A channel at its safe value drives nothing, and its effect has ended. -/
def chRest (n : Nat) (d : Dev) : Dev :=
  chShow n (if chSafe d n then modHapCh n (fun h => { h with run := none, drive := 0 }) d else d)

/-- While gather mode is active, every pending slot is empty (R392). -/
def chEmpty (n : Nat) (d : Dev) : Dev := modHapCh n (fun h => { h with slots := [] }) d

/-- The block follows what holds it off (R378, R392). -/
def hapSettle (d : Dev) : Dev :=
  let d := boostSettle 1 (boostSettle 0 d)
  let d := if gatherWire d then modHap (fun h => { h with queue := [] }) (forN chEmpty 16 d) else d
  forN chRest 16 d

/-- The trigger page of a paddock or of the block. -/
def trigPage (pad : Option Nat) : Page := match pad with | none => .hap 1 | some p => .pset p 12

/-- A trigger is dropped and counted (R384–R386). -/
def hapDrop (n : Nat) (t : HapTrig) (d : Dev) : Dev :=
  event (trigPage t.pad) Reg.Trig.EV_DROP
    (event (.hap 0) Reg.Hap.EV_DROP (bump (.hap 0) (Reg.Hap.CH_COUNT n) 31 24 d))

/-- A trigger enters the slot of its class; one that stood there is dropped (R385). -/
def enterSlot (n : Nat) (t : HapTrig) (d : Dev) : Dev :=
  let d := match slotOf d n t.cls with
    | some old => hapDrop n old d
    | none => d
  setSlot n t.cls (some t) d

/-- A running effect in attack or sustain goes into its brake. -/
def goBrake (n : Nat) (d : Dev) : Dev :=
  modHapCh n (fun h => { h with run := h.run.map (fun r => if r.phase < 4 then { r with phase := 4, pos := 0 } else r) }) d

/-- An effect starts its attack. -/
def startEffect (n : Nat) (t : HapTrig) (d : Dev) : Dev :=
  bump (.hap 0) (Reg.Hap.CH_COUNT n) 15 0
    (modHapCh n (fun h => { h with run := some { trig := t, phase := 2, pos := 0, left := t.rep + 1, clipped := false } }) d)

/-- A trigger that is taken at a boundary, from which its age counts (R385, R386). A channel at its safe value keeps it
pending. -/
def takeTrig (n : Nat) (t : HapTrig) (d : Dev) : Dev :=
  let t := { t with taken := d.hap.now }
  if chState d n = 1 then startEffect n t d
  else if chState d n = 2 ∨ chState d n = 3 then goBrake n (enterSlot n t d)
  else enterSlot n t d

/-- Triggers of one channel taken at one boundary: the newest of each class, S first (R384). -/
def takeTrigs (n : Nat) (d : Dev) : Dev :=
  let mine := (d.hap.queue.filter (fun q => q.1 == n)).map (·.2)
  [0, 1, 2].foldl (fun d c =>
    match (mine.filter (fun t => t.cls == c)).reverse with
    | [] => d
    | t :: olds => takeTrig n t (olds.foldl (fun d o => hapDrop n o d) d)) d

/-- The trigger in the highest occupied slot starts (R386). -/
def startPending (n : Nat) (d : Dev) : Dev :=
  match [0, 1, 2].find? (fun c => (slotOf d n c).isSome) with
  | none => d
  | some c =>
    match slotOf d n c with
    | some t => startEffect n t (setSlot n c none d)
    | none => d

/-- The phases move on as far as their samples are done; the fuel bounds the steps (R379, R385, R386). -/
def movePhase : Nat → Nat → Dev → Dev
  | 0, _, d => d
  | k + 1, n, d =>
    match (hapChOf d n).run with
    | none => if (slotOf d n 0).isSome || (slotOf d n 1).isSome || (slotOf d n 2).isSome then movePhase k n (startPending n d) else d
    | some r =>
      match effectOf d r.trig.effect with
      | none => modHapCh n (fun h => { h with run := none }) d
      | some (_, _, a, s, b) =>
        let go := fun (r : HapRun) => movePhase k n (modHapCh n (fun h => { h with run := some r }) d)
        if r.phase = 2 ∧ a ≤ r.pos then go { r with phase := 3, pos := 0 }
        else if r.phase = 3 ∧ (s ≤ r.pos ∨ s = 0) then
          (if 1 < r.left ∧ s ≠ 0 then go { r with pos := 0, left := r.left - 1 } else go { r with phase := 4, pos := 0 })
        else if r.phase = 4 ∧ b ≤ r.pos then movePhase k n (modHapCh n (fun h => { h with run := none, drive := 0 }) d)
        else d

/-- The limit of a channel's voltage in 0.5 V (R388). -/
def chLimit (d : Dev) (n : Nat) : Nat :=
  min (2 * clampN 5 100 (rf d (.hap 0) (Reg.Hap.CH_CFG n) 14 8)) (vhvSet d (bankOfCh n) - 10)

/-- One sample of the running effect is driven (R388, R389). -/
def playSample (n : Nat) (d : Dev) : Dev :=
  match (hapChOf d n).run with
  | none => d
  | some r =>
    match effectOf d r.trig.effect with
    | none => d
    | some (_, peak, a, s, _) =>
      let i := if r.phase = 2 then r.pos else if r.phase = 3 then a + r.pos else a + s + r.pos
      let x := (effectSample d r.trig.effect i).getD 0
      let half := d.hap.warm && r.trig.cls != 0
      let v : Int := x * peak * r.trig.level * (if half then 1 else 2)
      let lim : Int := ((chLimit d n * 32767 * 255 : Nat) : Int)
      let clips := decide (v < -lim ∨ lim < v)
      let d := modHapCh n (fun h => { h with
        drive := clampI (-lim) lim v, ms := h.ms + 1
        run := some { r with pos := r.pos + 1, driven := r.driven + 1, clipped := r.clipped || clips } }) d
      if clips && !r.clipped then event (.hap 0) Reg.Hap.EV_CLIP d else d

/-- A channel fault (R390). -/
def chFault (n kind : Nat) (d : Dev) : Dev :=
  let d := modHapCh n (fun h => { h with fault := kind, goods := 0 }) d
  raiseFault (.hap 0) (if kind = 1 then Reg.Hap.SRC_HAP_OPEN else Reg.Hap.SRC_HAP_SHORT) Reg.Hap.EV_CH_FAULT (chRest n d)

/-- A short counts; the fourth within 10 s keeps the channel in FAULT (R390). -/
def chShort (n kind : Nat) (d : Dev) : Dev :=
  let recent := (hapChOf d n).shorts.filter (fun t => decide (d.us < t + 10000000)) ++ [d.us]
  chFault n kind (modHapCh n (fun h => { h with shorts := recent, stuck := h.stuck || decide (4 ≤ recent.length) }) d)

/-- A capacitance in nF is measured and judged (R376, R377, R390); CAP_MIN counts 10 nF and CAP_MAX 20 nF. -/
def measureCap (n nF : Nat) (d : Dev) : Dev :=
  let d := sf (.hap 0) (Reg.Hap.CH_STAT n) 23 16 (min 255 (freeDiv 15 (nF : Int) 20).toNat) d
  let low := decide (nF < 10 * rf d (.hap 0) (Reg.Hap.CH_CFG n) 23 16)
  let high := decide (20 * rf d (.hap 0) (Reg.Hap.CH_CFG n) 31 24 < nF)
  let d := modHapCh n (fun h => { h with lows := if low then h.lows + 1 else 0, highs := if high then h.highs + 1 else 0
                                         goods := if low || high then 0 else h.goods + 1 }) d
  let h := hapChOf d n
  if h.fault = 0 ∧ 3 ≤ h.lows then chFault n 1 d
  else if h.fault = 0 ∧ 3 ≤ h.highs then chShort n 4 (modHapCh n (fun h => { h with highs := 0 }) d)
  else if h.fault = 1 ∧ 3 ≤ h.goods then chShow n (modHapCh n (fun h => { h with fault := 0 }) d)
  else d

/-- HAP_SAMPLE: the 48 kHz boundary (R384–R386, R388). `nF` are the capacitances measured from the drive of effects. -/
def doHapSample (nF : List (Nat × Nat)) (d : Dev) : Dev :=
  let d := forN takeTrigs 16 (hapSettle d)
  let d := modHap (fun h => { h with queue := [], now := h.now + 1 }) d
  let d := forN (fun n d => chShow n (if chSafe d n then d else playSample n (movePhase 16 n d))) 16 d
  nF.foldl (fun d m => if (hapChOf d m.1).run.isSome then measureCap m.1 m.2 d else d) d
def execHapSample (nF : List (Fin 16 × Nat)) (s : State) := onDev (doHapSample (nF.map (fun m => (m.1.val, m.2)))) s

/-! ## Triggers (R382, R383, R387) -/

/-- The class of a trigger: CLASS 3 stands for the effect's own. -/
def trigClass (d : Dev) (v : Word) : Nat :=
  let c := fld v 9 8
  if c = 3 then (match effectOf d (fld v 7 0) with | some (k, _) => k | none => 3) else c

/-- The paddock does not hold the channel (R383). -/
def notLeased (d : Dev) (pad : Option Nat) (n : Nat) : Bool :=
  pad.any (fun p => tabGet (fun _ => 0) d.pad.hapOwner n != p + 1)

/-- The refusal reason of a trigger, 0 for none (R383). -/
def trigRefuse (d : Dev) (who : Party) (pad : Option Nat) (n effect cls : Nat) : Nat :=
  if chState d n = 0 ∨ chState d n = 5 ∨ notLeased d pad n = true then 1
  else if (effectOf d effect).isNone then 2
  else if cls = 0 ∧ who ≠ .fold then 3
  else if gatherWire d then 4
  else if d.hap.trip then 5
  else if cls ≠ 0 ∧ clampN 10 100 (rf d (.hap 0) (Reg.Hap.CH_LIM n) 31 24) * 48000 < 100 * (hapChOf d n).duty then 6
  else if pad.any (fun p => padState d p != 1) then 7
  else 0

/-- A trigger is refused (R383, R389). -/
def trigRefused (pad : Option Nat) (n code : Nat) (d : Dev) : Dev :=
  let pg := trigPage pad
  let d := match pad with | some p => when (code == 7) (intakeRefused p) d | none => d
  let d := when (code == 6) (bump (.hap 0) (Reg.Hap.CH_COUNT n) 23 16) d
  let d := sg pg Reg.Trig.TRIG_STAT (BitVec.ofNat 32 (n * 256 + code)) (bump pg Reg.Trig.TRIG_COUNT 31 16 d)
  raiseFault pg Reg.Trig.SRC_TRIG_REFUSED Reg.Trig.EV_TRIG_REFUSED d

/-- A trigger is submitted: refused, or accepted for the next boundary (R383, R384). -/
def submit (who : Party) (pad : Option Nat) (n effect cls level rep : Nat) (d : Dev) : Dev :=
  let code := trigRefuse d who pad n effect cls
  if code ≠ 0 then trigRefused pad n code d
  else
    modHap (fun h => { h with queue := h.queue ++ [(n, { effect := effect, cls := cls, level := level, rep := rep, pad := pad })] })
      (bump (trigPage pad) Reg.Trig.TRIG_COUNT 15 0 d)

/-- A write of TRIG_n with STOP: it is checked for reasons 1, 3 and 7 only (R387). Class 3 names no slot. -/
def trigStop (who : Party) (pad : Option Nat) (n : Nat) (v : Word) (d : Dev) : Dev :=
  let c := fld v 9 8
  let code :=
    if chState d n = 0 ∨ chState d n = 5 ∨ notLeased d pad n = true then 1
    else if c = 0 ∧ who ≠ .fold then 3
    else if pad.any (fun p => padState d p != 1) then 7 else 0
  if code ≠ 0 then trigRefused pad n code d
  else
    let d := setSlot n c none d
    chShow n (if (hapChOf d n).run.any (fun r => r.trig.cls == c) then goBrake n d else d)

/-- A write of TRIG_n (R397); an isolated trigger page takes none (R12). -/
def trigWrite (who : Party) (pad : Option Nat) (n : Nat) (v : Word) (d : Dev) : Dev :=
  if isoOf d (trigPage pad) then d
  else if bitOf v 31 then trigStop who pad n v d
  else submit who pad n (fld v 7 0) (trigClass d v) (max 1 (fld v 23 16)) (fld v 27 24) d

/-- TRIGGER: a write without STOP. -/
def doTrigger (who : Party) (pad : Option Nat) (n : Nat) (v : Word) (d : Dev) : Dev :=
  onWrite who (trigPage pad) (Reg.Trig.TRIG n) (trigWrite who pad n (putBit v 31 false)) d
def execTrigger (who : Party) (page : Option (Fin 512)) (n : Fin 16) (v : Word) (s : State) :=
  onDev (doTrigger who (page.map (·.val)) n.val v) s

/-- STOP: a write with STOP. -/
def doStop (who : Party) (pad : Option Nat) (n : Nat) (v : Word) (d : Dev) : Dev :=
  onWrite who (trigPage pad) (Reg.Trig.TRIG n) (trigWrite who pad n (putBit v 31 true)) d
def execStop (who : Party) (page : Option (Fin 512)) (n : Fin 16) (v : Word) (s : State) :=
  onDev (doStop who (page.map (·.val)) n.val v) s

/-! ## Configuration -/

/-- A write of BST_CTRL (R373): the boost starts, stops, or ramps to another setpoint; VHV_OK stays while the rail lies within
3 % of the new one. -/
def boostCtrl (b : Nat) (v : Word) (d : Dev) : Dev :=
  let old := vhvSet d b
  let d := plainWrite (.hap 0) (bstCtrl b) v d
  let d := if bitOf v 31 then d else setBst b 2 0 0 d
  let meas := rf d (.hap 0) Reg.Hap.VHV_MEAS (16 * b + 15) (16 * b)
  let set := 5 * vhvSet d b
  let near := decide (97 * set ≤ 100 * meas ∧ 100 * meas ≤ 103 * set)
  let d := if vhvSet d b ≠ old ∧ bst d b 13 13 = 1 ∧ near = false then setBst b 15 14 1 d else d
  hapSettle d
/-- BOOST_CTRL_WRITE. -/
def doBoostCtrl (who : Party) (b : Nat) (v : Word) (d : Dev) : Dev := onWrite who (.hap 0) (bstCtrl b) (boostCtrl b v) d
def execBoostCtrlWrite (who : Party) (b : Fin 2) (v : Word) (s : State) := onDev (doBoostCtrl who b.val v) s

/-- VHV_OK: the rail, in 0.1 V, lies within 3 % of its setpoint (R373). -/
def doVhvOk (b tenths : Nat) (d : Dev) : Dev :=
  let set := 5 * vhvSet d b
  let d := sf (.hap 0) Reg.Hap.VHV_MEAS (16 * b + 15) (16 * b) tenths d
  if bst d b 14 14 = 1 ∧ 97 * set ≤ 100 * tenths ∧ 100 * tenths ≤ 103 * set then hapSettle (setBst b 15 14 2 d) else d
def execVhvOk (b : Fin 2) (tenths : BitVec 16) (s : State) := onDev (doVhvOk b.val tenths.toNat) s

/-- A write of CH_CFG (R377, R378, R390): an enabled channel probes its load, and a disabled one forgets its fault and its
slots. -/
def chCfg (n : Nat) (v : Word) (nF : Nat) (d : Dev) : Dev :=
  let was := rb d (.hap 0) (Reg.Hap.CH_CFG n) 0
  let d := plainWrite (.hap 0) (Reg.Hap.CH_CFG n) v d
  if bitOf v 0 && !was then chRest n (measureCap n nF d)
  else if was && !bitOf v 0 then
    chRest n (modHapCh n (fun h => { h with fault := 0, slots := [], shorts := [], stuck := false, lows := 0, highs := 0, goods := 0 }) d)
  else chRest n d
/-- CH_ENABLE. -/
def doChEnable (who : Party) (n : Nat) (v : Word) (nF : Nat) (d : Dev) : Dev :=
  onWrite who (.hap 0) (Reg.Hap.CH_CFG n) (chCfg n v nF) d
def execChEnable (who : Party) (n : Fin 16) (v : Word) (nF : Nat) (s : State) := onDev (doChEnable who n.val v nF) s

/-- PEND_TIMEOUT (R386): of a trigger whose age, at 48 boundaries a millisecond, has reached PEND_MAX; 0 means no limit. -/
def doPendTimeout (n c : Nat) (d : Dev) : Dev :=
  match slotOf d n c with
  | none => d
  | some t =>
    let lim := 48 * rf d (.hap 0) (Reg.Hap.CH_LIM n) 23 16
    if lim = 0 ∨ d.hap.now < t.taken + lim then d else chShow n (hapDrop n t (setSlot n c none d))
def execPendTimeout (n : Fin 16) (cls : Fin 3) (s : State) := onDev (doPendTimeout n.val cls.val) s

/-- ON_MAX of a channel in samples; a value outside its range is taken as the nearer end (R389). -/
def onMax (d : Dev) (n : Nat) : Nat := 48 * clampN 10 5000 (rf d (.hap 0) (Reg.Hap.CH_LIM n) 15 0)

/-- ON_LIMIT (R389): of an effect in attack or sustain whose drive has reached ON_MAX. -/
def doOnLimit (n : Nat) (d : Dev) : Dev :=
  if (hapChOf d n).run.any (fun r => decide (r.phase < 4 ∧ onMax d n ≤ r.driven)) then
    raiseFault (.hap 0) Reg.Hap.SRC_ON_LIMIT Reg.Hap.EV_ON_LIMIT (chShow n (goBrake n d))
  else d
def execOnLimit (n : Fin 16) (s : State) := onDev (doOnLimit n.val) s

/-- DUTY_UPDATE: a millisecond ends on every channel (R389). -/
def doDutyUpdate (d : Dev) : Dev :=
  forN (fun n => modHapCh n (fun h =>
    let win := (h.ms :: h.win).take 1000
    { h with ms := 0, win := if win.all (· == 0) then [] else win, duty := win.foldl (· + ·) 0 })) 16 d
def execDutyUpdate (s : State) := onDev doDutyUpdate s

/-- O and C effects play at half LEVEL from T_WARN on, until TEMP is 5 °C below it (R389). -/
def judgeWarm (t : Int) (d : Dev) : Dev :=
  let warn := signed 8 (rf d (.hap 0) Reg.Hap.HAP_THERM 7 0)
  if warn ≤ t ∧ d.hap.warm = false then event (.hap 0) Reg.Hap.EV_THERM_WARN (modHap (fun h => { h with warm := true }) d)
  else if t + 5 ≤ warn then modHap (fun h => { h with warm := false }) d
  else d

/-- At the junction limit the block trips: running effects brake, the slots empty, and triggers are refused until TEMP is 10 °C
below it (R389). -/
def judgeTrip (t : Int) (d : Dev) : Dev :=
  if junctionLimit ≤ t ∧ d.hap.trip = false then
    raiseFault (.hap 0) Reg.Hap.SRC_HAP_THERM_TRIP Reg.Hap.EV_THERM_TRIP
      (forN (fun n d => chShow n (goBrake n (chEmpty n d))) 16 (modHap (fun h => { h with trip := true, queue := [] }) d))
  else if t + 10 ≤ junctionLimit then modHap (fun h => { h with trip := false }) d
  else d

/-- TEMP is measured, and judged against T_WARN and the junction limit (R389). -/
def hapTemp (t : BitVec 8) (d : Dev) : Dev :=
  judgeTrip t.toInt (judgeWarm t.toInt (sf (.hap 0) Reg.Hap.HAP_THERM 31 24 t.toNat d))

/-- THERM_WARN: a measurement at or above T_WARN. -/
def doThermWarn (t : BitVec 8) (d : Dev) : Dev := hapTemp t d
def execThermWarn (temp : BitVec 8) (s : State) := onDev (doThermWarn temp) s

/-- THERM_WARN_CLEAR: a measurement 5 °C below T_WARN. -/
def doThermWarnClear (t : BitVec 8) (d : Dev) : Dev := hapTemp t d
def execThermWarnClear (temp : BitVec 8) (s : State) := onDev (doThermWarnClear temp) s

/-- HAP_THERM_TRIP: a measurement at the junction limit. -/
def doHapThermTrip (t : BitVec 8) (d : Dev) : Dev := hapTemp t d
def execHapThermTrip (temp : BitVec 8) (s : State) := onDev (doHapThermTrip temp) s

/-- HAP_TRIP_CLEAR: a measurement 10 °C below the limit. -/
def doHapTripClear (t : BitVec 8) (d : Dev) : Dev := hapTemp t d
def execHapTripClear (temp : BitVec 8) (s : State) := onDev (doHapTripClear temp) s

/-- CAP_PROBE: of an idle channel, or one in FAULT for an open load (R377, R390). -/
def doCapProbe (n nF : Nat) (d : Dev) : Dev :=
  if chState d n = 1 ∨ (hapChOf d n).fault = 1 then chRest n (measureCap n nF d) else d
def execCapProbe (n : Fin 16) (nF : Nat) (s : State) := onDev (doCapProbe n.val nF) s

/-- HAP_SHORT: kinds 2 to 4, of a channel that drives or idles (R390). -/
def doHapShort (n kind : Nat) (d : Dev) : Dev := if chSafe d n then d else chShort n (kind + 2) d
def execHapShort (n : Fin 16) (kind : Fin 3) (s : State) := onDev (doHapShort n.val kind.val) s

/-- CH_SHORT_RETRY (R390). -/
def doChShortRetry (n : Nat) (d : Dev) : Dev :=
  let h := hapChOf d n
  if 2 ≤ h.fault ∧ h.stuck = false then chShow n (modHapCh n (fun h => { h with fault := 0, highs := 0 }) d) else d
def execChShortRetry (n : Fin 16) (s : State) := onDev (doChShortRetry n.val) s

/-- BOOST_FAULT: kinds 1 to 4 of R391; undervoltage only after VHV_OK. -/
def doBoostFault (b kind : Nat) (d : Dev) : Dev :=
  if bst d b 13 13 = 0 ∨ (kind = 2 ∧ bst d b 15 15 = 0) then d
  else
    let d := boostStop b (setBst b 2 0 kind d)
    let d := forN (fun k d => chRest (8 * b + k) (chEmpty (8 * b + k) d)) 8 d
    raiseFault (.hap 0) Reg.Hap.SRC_BOOST_FAULT Reg.Hap.EV_BOOST_FAULT d
def execBoostFault (b : Fin 2) (kind : Fin 4) (s : State) := onDev (doBoostFault b.val (kind.val + 1)) s

/-- BOOST_RETRY (R391); after a VMACH fault only once VMACH is valid. -/
def doBoostRetry (b : Nat) (d : Dev) : Dev :=
  if bst d b 2 0 = 0 ∨ (bst d b 2 0 = 4 ∧ railBad d 11 = true) then d else hapSettle (setBst b 2 0 0 d)
def execBoostRetry (b : Fin 2) (s : State) := onDev (doBoostRetry b.val) s

/-- A write of HAP_CTRL: RESTART ends isolation, frees channels that shorts keep in FAULT, and lets the boosts ramp again
(R390, R396). -/
def hapCtrl (v : Word) (d : Dev) : Dev :=
  let d :=
    if bitOf v 31 then
      let d := if isoOf d (.hap 0) then endIso (.hap 0) d else d
      forN (fun n => modHapCh n (fun h => { h with stuck := false, shorts := [], fault := if h.stuck then 0 else h.fault })) 16 d
    else d
  hapSettle (plainWrite (.hap 0) Reg.Hap.HAP_CTRL v d)
/-- HAP_RESTART. -/
def doHapRestart (who : Party) (d : Dev) : Dev :=
  onWrite who (.hap 0) Reg.Hap.HAP_CTRL (fun d => hapCtrl (putBit (rg d (.hap 0) Reg.Hap.HAP_CTRL) 31 true) d) d
def execHapRestart (who : Party) (s : State) := onDev (doHapRestart who) s

/-- What starts to quiesce is a paddock, or one channel of it is unleased: its effects brake, and its pending triggers are
dropped and counted (R393, R448). -/
def hapQuiesce (p : Nat) (only : Option Nat) (d : Dev) : Dev :=
  let hit := fun n => only.all (· == n)
  let d := forN (fun n d =>
    if !hit n then d
    else
      let d := if (hapChOf d n).run.any (fun r => r.trig.pad == some p) then goBrake n d else d
      let d := [0, 1, 2].foldl (fun d c =>
        match slotOf d n c with
        | some t => if t.pad == some p then hapDrop n t (setSlot n c none d) else d
        | none => d) d
      let late := d.hap.queue.filter (fun q => q.1 == n && q.2.pad == some p)
      chShow n (late.foldl (fun d q => hapDrop n q.2 d) d)) 16 d
  modHap (fun h => { h with queue := h.queue.filter (fun q => !(hit q.1 && q.2.pad == some p)) }) d

end Sys2Proof.Machine
end

