-- ==== Sys2Proof/Machine/Image.lean ====
section
/-! DEFINITION. The Puette image: its header, section table and sections as the NVM holds them, and the checks that
authenticate it (R68–R80, R86, R93). -/
namespace Sys2Proof.Machine

/-! ## Reading a slot -/

/-- The NVM offset of a slot: 0 A, 1 B (R68). -/
def slotBase (slot : Nat) : Nat := slot % 2 * 0x02000000

/-- Bytes of a slot, and a little-endian integer in it (R69). -/
def imgBytes (d : Dev) (slot a n : Nat) : List Byte := readBytes (nvmByte d) (slotBase slot + a) n
def imgN (d : Dev) (slot a n : Nat) : Nat := leNat (imgBytes d slot a n)

/-- A little-endian integer in the bytes of a section. -/
def at_ (bs : List Byte) (a n : Nat) : Nat := leNat ((bs.drop a).take n)
def u8 (bs : List Byte) (a : Nat) : Nat := at_ bs a 1
def u16 (bs : List Byte) (a : Nat) : Nat := at_ bs a 2
def u32 (bs : List Byte) (a : Nat) : Nat := at_ bs a 4
def u64 (bs : List Byte) (a : Nat) : Nat := at_ bs a 8

/-- Bytes with `n` of them, from offset `a`, read as zero (R75). -/
def zeroedAt (a n : Nat) (bs : List Byte) : List Byte := bs.take a ++ List.replicate n 0 ++ bs.drop (a + n)

/-- An entry of the section table (R72). -/
def sectAt (d : Dev) (slot i : Nat) : Sect :=
  let e := imgN d slot 0x24 4 + 32 * i
  { idx := i, typ := imgN d slot e 2, inst := imgN d slot (e + 2) 2, off := imgN d slot (e + 8) 4
    len := imgN d slot (e + 12) 4, crc := imgN d slot (e + 28) 4 }

/-- The entries of the section table, at most the 64 that SECTION_COUNT may give. -/
def sectsOf (d : Dev) (slot : Nat) : List Sect := (List.range (min 64 (imgN d slot 0x0C 2))).map (sectAt d slot)

/-- The group of a section (R74); 0 for an unknown TYPE, and for an INSTANCE that its type does not have. -/
def sectGroup (s : Sect) : Nat :=
  match s.typ with
  | 0x0012 => if s.inst = 0 then 1 else if s.inst = 1 then 2 else 0
  | 0x0013 => if s.inst = 0 then 2 else 0
  | 0x0026 => if s.inst < 16 then 1 else 0
  | 0x0030 => if s.inst < 8 then 1 else 0
  | 0x0032 => if 128 ≤ s.inst ∧ s.inst < 160 then 1 else 0
  | t =>
    if s.inst = 0 ∧ [0x0001, 0x0002, 0x0010, 0x0011, 0x0020, 0x0021, 0x0022, 0x0023, 0x0024, 0x0025, 0x0031, 0x0033, 0x0040,
        0x0041, 0x0042, 0x0043, 0x0044, 0x0050].contains t then 1 else 0

/-- The types that R74 requires. -/
def requiredTypes : List Nat := [0x0001, 0x0002, 0x0010, 0x0011, 0x0020, 0x0021, 0x0041, 0x0043]

/-- The section of a type and instance. -/
def sectFind (l : List Sect) (typ inst : Nat) : Option Sect := l.find? (fun s => s.typ == typ && s.inst == inst)

/-- The offset and length of a section of a type, both 0 if there is none. -/
def sectPlace (l : List Sect) (typ : Nat) : Nat × Nat :=
  match sectFind l typ 0 with
  | some s => (s.off, s.len)
  | none => (0, 0)

/-! ## The conditions of R73 -/

/-- The sections lie in index order, without overlap and within IMAGE_SIZE. -/
def inOrder (size : Nat) : List Sect → Bool
  | [] => true
  | [s] => decide (s.off + s.len ≤ size)
  | s :: t :: l => decide (s.off + s.len ≤ t.off ∧ s.off + s.len ≤ size) && inOrder size (t :: l)

/-- No TYPE and INSTANCE pair occurs twice. -/
def noTwice : List Sect → Bool
  | [] => true
  | s :: l => !l.any (fun t => t.typ == s.typ && t.inst == s.inst) && noTwice l

/-- The table is valid (R71–R73). R71 gives SECTION_COUNT as 3–64 and TABLE_OFFSET as a multiple of 256; that a header outside
these fails here, with reason 4, is the model's (DESIGN CHOICE: no check of R73 or R86 names them). -/
def tableOk (d : Dev) (slot : Nat) : Bool :=
  let l := sectsOf d slot
  let n := imgN d slot 0x0C 2
  let toff := imgN d slot 0x24 4
  let g1 := imgN d slot 0x22 1
  decide (3 ≤ n ∧ n ≤ 64 ∧ toff % 256 = 0) &&
    crcFold 0xFFFFFFFE (imgBytes d slot toff (32 * n)) == BitVec.ofNat 32 (imgN d slot 0x40 4) &&
    (l[0]?.any (fun s => s.typ == 1)) && (l[1]?.any (fun s => s.typ == 2)) &&
    inOrder (imgN d slot 8 4) l && noTwice l && requiredTypes.all (fun t => (sectFind l t 0).isSome) &&
    l.all (fun s => if sectGroup s = 1 then decide (s.idx ≤ g1) else if sectGroup s = 2 then decide (g1 < s.idx) else true)

/-! ## Placement of the firmware (R78) -/

/-- Where FELL_FW starts in Pasture for a fold line in 64 KiB units; none below offset 0. -/
def fwStart (fold len : Nat) : Option Nat :=
  if len ≤ fold * 0x10000 then some ((fold * 0x10000 - len) / 0x10000 * 0x10000) else none

/-! ## The checks of R86 -/

/-- A check: its place in the order, the bytes of the slot that it needs, whether it fails, and its reason code. -/
structure Check where
  step : Nat
  need : Nat
  bad : Unit → Bool
  reason : Nat

/-- The DER-free key of SIGNATURE: 0x04, X and Y (R76); none if the first byte is another. -/
def keyPoint (key : List Byte) : Option (Nat × Nat) :=
  if key.take 1 = [4] ∧ key.length = 97 then some (beNat ((key.drop 1).take 48), beNat (key.drop 49)) else none

/-- A signature of 96 bytes over a digest holds under a key (R76, R94). -/
def sigHolds (key rs digest : List Byte) : Bool :=
  match keyPoint key with
  | some (x, y) => ecdsaValid x y (beNat (rs.take 48)) (beNat ((rs.drop 48).take 48)) digest
  | none => false

/-- The hash that MANIFEST lists for a section from index 2 on (R75). -/
def manifestHash (d : Dev) (slot : Nat) (man : Nat) (i : Nat) : List Byte := imgBytes d slot (man + 0x68 + 48 * (i - 2)) 48

/-- The CRC and, from index 2 on, the hash of a section hold (R70, R75). -/
def sectGood (d : Dev) (slot man : Nat) (s : Sect) : Bool :=
  let bs := imgBytes d slot s.off s.len
  crcFold s.idx bs == BitVec.ofNat 32 s.crc && (decide (s.idx < 2) || sha384 bs == manifestHash d slot man s.idx)

/-- The checks of a slot that need no section, in the order of R86. -/
def headChecks (d : Dev) (slot : Nat) : List Check :=
  [⟨1, 256, fun _ => imgN d slot 0 4 != 0x54455550 || imgN d slot 4 2 != 1 ||
      crcFold 0xFFFFFFFF (imgBytes d slot 0 0xFC) != BitVec.ofNat 32 (imgN d slot 0xFC 4), 2⟩,
   ⟨2, 256, fun _ => imgN d slot 0x14 2 != 0x8816 || imgN d slot 0x16 1 != 0xB0, 3⟩,
   ⟨3, imgN d slot 0x24 4 + 32 * imgN d slot 0x0C 2, fun _ => !tableOk d slot, 4⟩]

/-- The checks that follow. `blank` and `owner`, `svn`: the life-cycle state is BLANK, the owner key hash and the fused security
version. A PASTURE_FOLD above 512 leaves FELL_FW no place in Pasture. -/
def sectChecks (d : Dev) (slot : Nat) (blank : Bool) (owner svn : Nat) : List Check :=
  let n := imgN d slot 0x0C 2
  let toff := imgN d slot 0x24 4
  let g1 := imgN d slot 0x22 1
  let l := sectsOf d slot
  let head := toff + 32 * n
  let man := sectPlace l 1
  let sig := sectPlace l 2
  let fw := sectPlace l 0x10
  let tab := sectPlace l 0x11
  let mem := sectPlace l 0x41
  let sigEnd := max head (max (man.1 + man.2) (sig.1 + 208))
  let isSvn := imgN d slot 0x10 4
  [⟨4, head, fun _ => decide (33554432 < imgN d slot 8 4) ||
      (l.filter (fun s => s.idx ≤ g1)).any (fun s => decide (16777216 < s.off + s.len)) ||
      decide (man.2 < 0x68 + 48 * (n - 2) ∨ sig.2 < 208 ∨ fw.2 < 16 ∨ tab.2 < 16 ∨ mem.2 < 72), 5⟩,
   ⟨4, tab.1 + 16, fun _ => decide (tab.2 < 16 + 16 * imgN d slot tab.1 2), 5⟩,
   ⟨5, sigEnd, fun _ => !blank && beNat (sha384 (imgBytes d slot sig.1 97)) != owner, 7⟩,
   ⟨6, sigEnd, fun _ =>
      !sigHolds (imgBytes d slot sig.1 97) (imgBytes d slot (sig.1 + 100) 96) (sha384 (imgBytes d slot man.1 man.2)), 6⟩,
   ⟨7, sigEnd, fun _ => sha384 (zeroedAt 0x40 4 (zeroedAt 0xFC 4 (imgBytes d slot 0 256))) != imgBytes d slot (man.1 + 8) 48, 2⟩,
   ⟨7, sigEnd, fun _ => imgN d slot man.1 2 != n ||
      sha384 (zeroedAt 0x1C 4 (zeroedAt 0x3C 4 (imgBytes d slot toff (32 * n)))) != imgBytes d slot (man.1 + 0x38) 48, 4⟩,
   ⟨8, 256, fun _ => decide (63 < isSvn) || (!blank && decide (isSvn < svn)), 8⟩] ++
  (l.filter (fun s => s.idx ≤ g1)).map (fun s => ⟨9, s.off + s.len, fun _ => !sectGood d slot man.1 s, 9⟩) ++
  [⟨10, fw.1 + 16, fun _ => imgN d slot fw.1 4 != 0x57464C46 || decide (fw.2 - 16 < imgN d slot (fw.1 + 12) 4), 11⟩,
   ⟨10, fw.1 + 16, fun _ => imgN d slot (fw.1 + 4) 2 != 0x8816 || imgN d slot (fw.1 + 6) 1 != 0xB0, 3⟩,
   ⟨10, max (fw.1 + 16) (mem.1 + 72), fun _ =>
      let fold := imgN d slot (mem.1 + 2) 2
      decide (512 < fold) || !(fwStart fold fw.2).any (fun a => decide (0x10000 ≤ a)), 5⟩]

/-- The first failing check of a list among those with a step up to `last` whose bytes have been read. -/
def failing (last read : Nat) (l : List Check) : Option Check :=
  l.find? (fun c => decide (c.step ≤ last ∧ c.need ≤ read) && c.bad ())

/-- The reason of the first failing check; 0 if none fails. -/
def imageReason (d : Dev) (f : Fuses) (slot last read : Nat) : Nat :=
  match failing last read (headChecks d slot) with
  | some c => c.reason
  | none =>
    if last < 4 then 0
    else match failing last read (sectChecks d slot (f.lcState == 0) f.ownerKey f.svn) with
      | some c => c.reason
      | none => 0

/-- Every byte of a slot has been read. -/
def wholeSlot : Nat := 2 ^ 33

/-! ## What a start takes from an accepted image -/

/-- The group-1 sections of an image with their bytes, and the group-2 sections with their hashes, RES_APP and SHADER_CACHE with
their leading fields and entries. An unknown section keeps no bytes. -/
def imageSects (d : Dev) (slot : Nat) : List Sect :=
  let l := sectsOf d slot
  let man := (sectPlace l 1).1
  l.map (fun s =>
    { s with hash := if s.idx < 2 then [] else manifestHash d slot man s.idx
             bytes := if sectGroup s = 1 then imgBytes d slot s.off s.len
               else if sectGroup s = 2 then
                 imgBytes d slot s.off (min s.len (if s.typ = 0x12 then 32 else 16 + 32 * imgN d slot s.off 4))
               else [] })

/-- The bytes of a configuration section of the running image. -/
def cfgSect (d : Dev) (typ inst : Nat) : Option (List Byte) := (sectFind d.boot.sects typ inst).map (·.bytes)

/-- The records of `size` bytes from offset `a` of a section, `n` of them at most and no more than it holds. -/
def recordsAt (bs : List Byte) (a size n : Nat) : List (List Byte) :=
  (List.range (min n ((bs.length - a) / size))).map (fun i => (bs.drop (a + size * i)).take size)

/-! ## Fault classes of the image (R14, R83) -/

/-- The records of FAULT_CLASSES; one of four zero bytes is padding. -/
def classRecords (d : Dev) : List (List Byte) :=
  let bs := (cfgSect d 0x44 0).getD []
  (recordsAt bs 0 4 bs.length).filter (fun b => at_ b 0 4 != 0)

/-- FAULT_CLASS of a page as its reset value and the records for its block code give it. -/
def imageClass (d : Dev) (p : Page) : Word :=
  (classRecords d).foldl (fun w b =>
    if u8 b 0 = p.code ∧ (p.source (u8 b 1)).isSome = true then
      setFld w (3 * u8 b 1 + 2) (3 * u8 b 1) (p.adjustClass (u8 b 1) (u8 b 2))
    else w) (BitVec.ofNat 32 p.classReset)

/-- The pages of a paddock's page set that carry a header of their own take their classes (R83). -/
def padClasses (p : Nat) (d : Dev) : Dev :=
  [0, 1, 11, 12, 13, 14, 15].foldl (fun d k => sg (.pset p k) Reg.FAULT_CLASS (imageClass d (.pset p k)) d) d

end Sys2Proof.Machine
end

