-- ==== Sys2Proof/Machine/Touch.lean ====
section
/-! DEFINITION. Touch: Laiga ports, panels, tracks, regions and report rings (R327–R361, R368–R370). -/
namespace Sys2Proof.Machine

/-! ## Lists of numbers -/

/-- A number put into a sorted list. -/
def insertI (x : Int) : List Int → List Int
  | [] => [x]
  | y :: ys => if x ≤ y then x :: y :: ys else y :: insertI x ys

/-- A list sorted upward. -/
def sortI (xs : List Int) : List Int := xs.foldl (fun ys x => insertI x ys) []

/-- The median; of an even number of values the mean of the middle two, rounded as the spec leaves open (R340, R341, R346,
R360), and 0 of none. -/
def median (xs : List Int) : Int :=
  let s := sortI xs
  let n := s.length
  if n = 0 then 0
  else if n % 2 = 1 then s.getD (n / 2) 0
  else freeDiv 7 (s.getD (n / 2 - 1) 0 + s.getD (n / 2) 0) 2

/-- The integer square root of a number below 2⁸⁰. -/
def isqrt (n : Nat) : Nat :=
  (List.range 40).foldr (fun k r => if (r + 2 ^ k) * (r + 2 ^ k) ≤ n then r + 2 ^ k else r) 0

/-- An RMS in 1/16 of the values' unit, from their squares; its rounding is open (R339). -/
def rms16 (xs : List Int) : Nat :=
  if xs = [] then 0
  else
    let q := (freeDiv 8 (256 * xs.foldl (fun m x => m + x * x) 0) xs.length).toNat
    let r := isqrt q
    if r * r = q then r else r + (if Config.roundsUp 9 (q : Int) 1 then 1 else 0)

/-! ## Report rings (R356–R358) -/

/-- The page and the block of a ring: 0 the Fold ring, 1 the Field ring, 2 + p the ring of paddock p. -/
def ringPage (k : Nat) : Page := if k < 2 then .tch else .pset (k - 2) 11
/-- The offset of a ring's block in its page. -/
def ringBase (k : Nat) : Nat := if k = 0 then 0x048 else if k = 1 then 0x060 else 0x040
/-- The party that owns a ring. -/
def ringParty (k : Nat) : Party := if k = 0 then .fold else if k = 1 then .field else .paddock (Fin.ofNat 512 (k - 2))
/-- A register of a ring. -/
def ringReg (d : Dev) (k o : Nat) : Word := rg d (ringPage k) (ringBase k + o)
/-- The ring has records: ENABLE is set. -/
def ringOn (d : Dev) (k : Nat) : Bool := bitOf (ringReg d k Reg.Ring.RING_CFG) 31
/-- The records of a ring. -/
def ringSize (d : Dev) (k : Nat) : Nat := 2 ^ fld (ringReg d k Reg.Ring.RING_CFG) 4 0
/-- The next record that the device writes. -/
def ringWptr (d : Dev) (k : Nat) : Nat := fld (ringReg d k Reg.Ring.RING_WPTR) 13 0
/-- The records that fit: the ring is full when RING_WPTR + 1 equals RING_RPTR (R357). -/
def ringFree (d : Dev) (k : Nat) : Nat :=
  let n := ringSize d k
  (fld (ringReg d k Reg.Ring.RING_RPTR) 13 0 % n + n - 1 - ringWptr d k % n) % n
/-- The address of a ring. -/
def ringAddr (d : Dev) (k : Nat) : Nat := rg64 d (ringPage k) (ringBase k + Reg.Ring.RING_LO)

/-- The EVENT bit of a ring's REPORT, GAP or RING_REFUSED. -/
def ringEvent (k what : Nat) : Nat :=
  if k < 2 then (if what = 0 then k else if what = 1 then 2 + k else Reg.Tch.EV_RING_REFUSED) else what

/-- The fields of a record (R358); those that the spec does not give a kind are open: position and prediction, SIGNAL,
TIME. -/
structure RecF where
  kind : Nat
  panel : Nat
  unit : Nat
  ev : Nat
  track : Nat := 0
  type : Nat := 0
  flags : Nat := 0
  pos : Option (Nat × Nat × Nat × Nat) := none
  signal : Option Nat := none
  area : Nat := 0
  scan : Nat
  time : Option Nat := none

/-- A field of `n` bytes, or bytes that the spec leaves open. -/
def optBytes (n site : Nat) (tag : Nat) (x : Option Nat) : List Byte :=
  match x with
  | some v => leBytes n v
  | none => (List.range n).map (fun i => Config.freeByte tag (site * 16 + i))

/-- The 32 bytes of a record with its number (R358). -/
def RecF.bytes (r : RecF) (tag rseq : Nat) : List Byte :=
  leBytes 1 r.kind ++ leBytes 1 r.panel ++ leBytes 1 r.unit ++ leBytes 1 r.ev ++ leBytes 2 r.track ++ leBytes 1 r.type ++
    leBytes 1 r.flags ++ optBytes 2 0 tag (r.pos.map (·.1)) ++ optBytes 2 1 tag (r.pos.map (·.2.1)) ++
    optBytes 2 2 tag (r.pos.map (·.2.2.1)) ++ optBytes 2 3 tag (r.pos.map (·.2.2.2)) ++ optBytes 2 4 tag r.signal ++
    leBytes 2 r.area ++ leBytes 4 r.scan ++ optBytes 4 5 tag r.time ++ leBytes 4 rseq

/-- A record is dropped and counted; the first after each GAP raises RING_OVERFLOW (R357, R368). -/
def ringDrop (k : Nat) (d : Dev) : Dev :=
  let first := (ringOf d k).lost = 0
  let d := modRing k (fun r => { r with lost := r.lost + 1 })
    (bump (ringPage k) (ringBase k + Reg.Ring.RING_STAT) 31 16 d)
  if first then fireSource (ringPage k) Reg.Tch.SRC_RING_OVERFLOW d else d

/-- A record is written at RING_WPTR, which then moves; a write that fails the check of R319 is dropped (R356). -/
def ringPut (k : Nat) (r : RecF) (d : Dev) : Dev :=
  let bs := r.bytes d.free (ringOf d k).rseq
  let w := memWrite (.party (ringParty k)) { tier := 1, port := 17 } (ringAddr d k + 32 * (ringWptr d k % ringSize d k)) bs (tick d)
  if w.1 then
    sf (ringPage k) (ringBase k + Reg.Ring.RING_WPTR) 13 0 ((ringWptr d k + 1) % ringSize d k)
      (modRing k (fun r => { r with rseq := if r.rseq = 0xFFFFFFFF then 1 else r.rseq + 1 }) w.2)
  else ringDrop k w.2

/-- The GAP record with the number lost, once two records fit again (R357). -/
def ringGap (k : Nat) (d : Dev) : Dev :=
  if (ringOf d k).lost ≠ 0 ∧ 2 ≤ ringFree d k ∧ ringOn d k = true ∧ stands d (ringPage k) = false ∧ stands d .tch = false then
    let lost := (ringOf d k).lost
    let w0 := ringWptr d k
    let d := ringPut k { kind := 4, panel := 0xFF, unit := 0, ev := 0, scan := lost } d
    if ringWptr d k = w0 then d
    else
      event (ringPage k) (ringEvent k 1)
        (bump (ringPage k) (ringBase k + Reg.Ring.RING_STAT) 15 0 (modRing k (fun r => { r with lost := r.lost - lost }) d))
  else d

/-- One record for a ring: written, or dropped by a full ring, a disabled one, or an isolated page (R357, R368). -/
def ringPush (k : Nat) (r : RecF) (d : Dev) : Dev :=
  let d := ringGap k d
  if stands d .tch || stands d (ringPage k) || !ringOn d k || ringFree d k == 0 || (ringOf d k).lost != 0 then ringDrop k d
  else ringPut k r d

/-- A batch of records for a ring, and the owner's REPORT event once they are visible (R357). -/
def ringBatch (k : Nat) (rs : List RecF) (d : Dev) : Dev :=
  let w0 := ringWptr d k
  let d := rs.foldl (fun d r => ringPush k r d) d
  if ringWptr d k = w0 then d else event (ringPage k) (ringEvent k 0) d

/-- The range of a ring lies wholly below a fold line (R356, R486). -/
def ringBelow (d : Dev) (a n : Nat) : Bool :=
  decide ((pastBase ≤ a ∧ a + n ≤ pastBase + pastFold d) ∨ a + n ≤ dramFold d)

/-- A write of RING_CFG (R356). -/
def ringCfg (k : Nat) (v : Word) (d : Dev) : Dev :=
  let n := fld v 4 0
  let bad := bitOf v 31 && (decide (n < 6 ∨ 14 < n) || ringAddr d k % (32 * 2 ^ n) != 0 ||
    (k == 0 && !ringBelow d (ringAddr d k) (32 * 2 ^ n)))
  if bad then event (ringPage k) (ringEvent k 2) d
  else plainWrite (ringPage k) (ringBase k + Reg.Ring.RING_CFG) v d

/-- RING_CFG_WRITE. -/
def doRingCfg (who : Party) (k : Nat) (v : Word) (d : Dev) : Dev :=
  onWrite who (ringPage k) (ringBase k + Reg.Ring.RING_CFG) (ringCfg k v) d
def execRingCfgWrite (who : Party) (k : Fin 514) (v : Word) (s : State) := onDev (doRingCfg who k.val v) s

/-- A write of RING_RPTR, which may let the GAP record be written (R357). -/
def ringRptr (k : Nat) (v : Word) (d : Dev) : Dev :=
  ringBatch k [] (let d := plainWrite (ringPage k) (ringBase k + Reg.Ring.RING_RPTR) v d
                  let w0 := ringWptr d k
                  let d := ringGap k d
                  if ringWptr d k = w0 then d else event (ringPage k) (ringEvent k 0) d)
/-- RING_RPTR_WRITE. -/
def doRingRptr (who : Party) (k : Nat) (v : Word) (d : Dev) : Dev :=
  onWrite who (ringPage k) (ringBase k + Reg.Ring.RING_RPTR) (ringRptr k v) d
def execRingRptrWrite (who : Party) (k : Fin 514) (v : Word) (s : State) := onDev (doRingRptr who k.val v) s

/-- A write of TCH_CTRL: RESTART ends the isolation of the page (R368). -/
def tchCtrl (v : Word) (d : Dev) : Dev :=
  plainWrite .tch Reg.Tch.TCH_CTRL v (when (bitOf v 31 && isoOf d .tch) (endIso .tch) d)
/-- TCH_RESTART. -/
def doTchRestart (who : Party) (d : Dev) : Dev :=
  onWrite who .tch Reg.Tch.TCH_CTRL (fun d => tchCtrl (putBit (rg d .tch Reg.Tch.TCH_CTRL) 31 true) d) d
def execTchRestart (who : Party) (s : State) := onDev (doTchRestart who) s

/-! ## Panels and their registers -/

/-- A register field of a panel page. -/
def pf (d : Dev) (n o hi lo : Nat) : Nat := rf d (.panel n) o hi lo
/-- TX and RX of a panel. -/
def txOf (d : Dev) (n : Nat) : Nat := pf d n Reg.Panel.PANEL_SIZE 25 16
def rxOf (d : Dev) (n : Nat) : Nat := pf d n Reg.Panel.PANEL_SIZE 9 0
/-- PANEL_CTRL.ENABLE. -/
def panelOn (d : Dev) (n : Nat) : Bool := rb d (.panel n) Reg.Panel.PANEL_CTRL 0
/-- PANEL_STAT.READY. -/
def panelReady (d : Dev) (n : Nat) : Bool := rb d (.panel n) Reg.Panel.PANEL_STAT 31
/-- LG_STAT.STATE: 0 OFF, 1 ALIGN, 2 HELLO, 3 UP, 4 LOST, 5 ISOLATED. -/
def lgState (d : Dev) (n : Nat) : Nat := rf d (.lg n) Reg.Lg.LG_STAT 2 0
def setLg (n x : Nat) (d : Dev) : Dev := sf (.lg n) Reg.Lg.LG_STAT 2 0 x d
/-- PANEL_STAT.STATE: 0 OFF, 1 WAIT_LINK, 2 BASELINE, 3 RUN, 4 ISOLATED. -/
def setPanelState (n x : Nat) (d : Dev) : Dev :=
  sb (.panel n) Reg.Panel.PANEL_STAT 31 (decide (x = 3)) (sf (.panel n) Reg.Panel.PANEL_STAT 30 28 x d)
/-- TCH_TIME. -/
def tchTime (d : Dev) : Nat := (d.us - d.tch.t0) % 2 ^ 32
/-- The counts of tracks and suspect nodes in PANEL_STAT. -/
def panelShow (n : Nat) (d : Dev) : Dev :=
  sf (.panel n) Reg.Panel.PANEL_STAT 23 16 (tpOf d n).tracks.length
    (sf (.panel n) Reg.Panel.PANEL_STAT 15 4 (tpOf d n).suspect.length d)

/-- Slot `k` of the pattern, and its length (R337). -/
def slotCode (pat k : Nat) : Nat := pat / 4 ^ k % 4
def slotLen (pat : Nat) : Nat := pat / 4096 % 16

/-- The pattern passes the check of R338. -/
def patternOk (pat : Nat) : Bool :=
  decide (1 ≤ slotLen pat ∧ slotLen pat ≤ 6) &&
    (let ks := (List.range (slotLen pat)).map (slotCode pat)
     !ks.contains 3 && ks.contains 0 && ks.contains 1)

/-- The panel has a HELLO reply whose MAX_TX or MAX_RX its size exceeds (R338). -/
def feCapBad (d : Dev) (n : Nat) : Bool := decide ((tpOf d n).feMax.1 < txOf d n ∨ (tpOf d n).feMax.2 < rxOf d n)

/-- The refusal code of a panel enable, 0 for none (R338). -/
def panelRefuse (d : Dev) (n : Nat) : Nat :=
  let tx := txOf d n
  let rx := rxOf d n
  let rate := pf d n Reg.Panel.PANEL_SCAN 23 16
  if tx < 4 ∨ 512 < tx ∨ rx < 4 ∨ 512 < rx ∨ 32768 < tx * rx then 1
  else if !patternOk (pf d n Reg.Panel.PANEL_SCAN 15 0) then 2
  else if rate < 30 ∨ 240 < rate then 3
  else if 1000000000 < 50 * (22 + ceilDiv (3 * tx * rx) 2) * rate then 4
  else if lgState d n = 3 ∧ feCapBad d n = true then 5
  else 0

/-! ## The Laiga link (R327–R336) -/

/-- A downlink frame: CMD, LEN, SEQ, the arguments and the CRC (R334, R335). -/
def lgFrame (n cmd seq : Nat) (args : List Byte) : List Byte :=
  let b := leBytes 1 cmd ++ leBytes 1 args.length ++ leBytes 2 seq ++ args
  b ++ wordBytes (crcFold (2 ^ 31 + n * 65536 + seq % 65536) b)

/-- HELLO (1) or CONFIG (2) is sent for the `t`th time. -/
def lgSend (n cmd t : Nat) (d : Dev) : Dev :=
  let seq := (tpOf d n).scan % 65536
  let args := if cmd = 2 then leBytes 2 (txOf d n) ++ leBytes 2 (rxOf d n) ++
    leBytes 1 (rf d (.lg n) Reg.Lg.LG_GAIN 7 0) ++ leBytes 3 0 else []
  emit (.laiga n (lgFrame n cmd seq args))
    (modTp n (fun t' => { t' with cmd := some { cmd := cmd, type := 0, freq := 0, seq := seq }, tries := t }) d)

/-- The panel waits for its link, or configures the front end and then scans (R338). -/
def panelStart (n : Nat) (d : Dev) : Dev :=
  let d := modTp n (fun t => { t with scanning := false }) d
  if lgState d n = 3 then lgSend n 2 1 (setPanelState n 1 d) else setPanelState n 1 d

/-- The baselines start anew, and with them everything that is measured against them (R345). Tracks stay, unreported, as
R359 says of a panel that is not READY; so do the judgements of the electrodes, which clear only by R360. -/
def panelRebase (n : Nat) (d : Dev) : Dev :=
  panelShow n (setPanelState n 2 (modTp n (fun t => { t with
    nM := 0, nS := 0, base := [], self := [], ds := [], e := [], v := [], anti := [], suspect := [], rearm := []
    reb := [], blobs := [], offset := 0, fresh := false, above := 0, rNoise := [], hopTo := none
    tracks := t.tracks.map (fun k => { k with told := false }) }) d))

/-! ## Records of a panel -/

/-- The region as the frame uses it. -/
def regOf (d : Dev) (n r : Nat) : RegionS := tabGet (fun _ => {}) (tpOf d n).regions r
def RegionS.on (r : RegionS) : Bool := bitOf r.ctrl 0
def RegionS.cls (r : RegionS) : Nat := fld r.ctrl 3 2
def RegionS.holds (r : RegionS) (x y : Nat) : Bool :=
  decide (fld r.x 15 0 ≤ x ∧ x ≤ fld r.x 31 16 ∧ fld r.y 15 0 ≤ y ∧ y ≤ fld r.y 31 16)

/-- The regions of a panel in the order of R354: by class, then by index. -/
def regOrder : List Nat := (List.range 3).flatMap (fun c => (List.range 64).map (fun r => c * 64 + r))

/-- The enabled region that a position belongs to (R354). -/
def regionAt (d : Dev) (n x y : Nat) : Option Nat :=
  (regOrder.find? (fun k => (regOf d n (k % 64)).on && (regOf d n (k % 64)).cls == k / 64 && (regOf d n (k % 64)).holds x y)).map
    (· % 64)

/-- The ring of a region's owner (R356): its registers name the owner at once. -/
def regRing (d : Dev) (n r : Nat) : Nat :=
  match pf d n (Reg.Panel.REGION_CTRL r) 21 20 with
  | 0 => 0
  | 3 => 2 + pf d n (Reg.Panel.REGION_CTRL r) 31 22
  | _ => 1

/-- A region is silent while its panel is READY (R359): its paddock is not open, or the device gathers and its class is not
S. -/
def regSilent (d : Dev) (n r : Nat) : Bool :=
  (decide (2 ≤ regRing d n r) && padState d (regRing d n r - 2) != 1) || (d.tet.gather && (regOf d n r).cls != 0)

/-- Records of one panel, by region in ascending order, sent to the rings of their owners, one batch for each ring. -/
def sendRecs (n : Nat) (rs : List (Nat × RecF)) (d : Dev) : Dev :=
  let order := (List.range 64).flatMap (fun r => (rs.filter (fun x => x.1 == r)))
  let rings := (order.map (fun x => regRing d n x.1)).eraseDups
  rings.foldl (fun d k => ringBatch k ((order.filter (fun x => regRing d n x.1 == k)).map (·.2)) d) d

/-- STATUS records for regions (R345, R360, R361): not for a region that is silent. -/
def statusRecs (d : Dev) (n ev : Nat) (rs : List Nat) : List (Nat × RecF) :=
  (rs.filter (fun r => !regSilent d n r)).map (fun r =>
    (r, { kind := 3, panel := n, unit := r, ev := ev, scan := (tpOf d n).scan, time := some (tpOf d n).scanAt }))

/-- The enabled regions of a panel. -/
def enabledRegs (d : Dev) (n : Nat) : List Nat := (List.range 64).filter (fun r => (regOf d n r).on)

/-- The registers' regions become those in use (R353). -/
def takeRegions (n : Nat) (d : Dev) : Dev :=
  modTp n (fun t => { t with regions := (List.range 64).foldl (fun m r =>
    tabSet (fun _ => {}) m r ({ x := rg d (.panel n) (Reg.Panel.REGION_X r), y := rg d (.panel n) (Reg.Panel.REGION_Y r)
                                ctrl := rg d (.panel n) (Reg.Panel.REGION_CTRL r) } : RegionS)) [] }) d

/-- A CONTACT record of a track (R350–R352, R358). `ev`: 1 DOWN, 2 MOVE, 3 UP, 4 RETRACT. A RETRACT to WATER has no type
that the spec gives. -/
def contactRec (d : Dev) (n r ev extra : Nat) (t : TrackS) : RecF :=
  let g := regOf d n r
  { kind := 1, panel := n, unit := r, ev := ev, track := t.id
    type := if t.type < 4 then t.type else Config.freeNat d.free 0x351 % 4
    flags := (if bitOf g.ctrl 17 ∧ 3 ≤ t.seen then 1 else 0) + extra + (if g.holds t.x t.y then 0 else 4)
    pos := some (t.x, t.y, t.px, t.py), signal := some (unsigned 16 t.peak), area := t.area
    scan := (tpOf d n).scan, time := some (tpOf d n).scanAt }

/-- The panel's link is gone, or its page is isolated: reported tracks end with SENSE_LOST, every enabled region takes
STATUS SENSE_LOST, and PANEL_SENSE_LOST is raised (R361). -/
def senseLoss (n : Nat) (d : Dev) : Dev :=
  if !(tpOf d n).scanning then d
  else
    let told := (tpOf d n).tracks.filter (·.told)
    let ups := told.filterMap (fun t => t.region.map (fun r => (r, contactRec d n r 3 8 t)))
    let recs := if panelReady d n then ups ++ statusRecs d n 2 (enabledRegs d n) else []
    let d := sendRecs n recs d
    let d := modTp n (fun t => { t with scanning := false, cmd := none, tracks := [], blobs := [], suspect := [], rearm := [], back := true }) d
    let d := panelShow n (if isoOf d (.panel n) then d else setPanelState n (if panelOn d n then 1 else 0) d)
    raiseFault (.panel n) Reg.Panel.SRC_PANEL_SENSE_LOST Reg.Panel.EV_SENSE_LOST d

/-- Panels whose page or link was isolated stop: taken when the block has nothing else to do (R361). -/
def tchIdle (d : Dev) : Dev :=
  forN (fun n d => if stands d (.panel n) || lgState d n != 3 then senseLoss n d else d) 8 d

/-- The link goes to LOST (R331). -/
def linkLost (n : Nat) (d : Dev) : Dev :=
  senseLoss n (event (.lg n) Reg.Lg.EV_LINK_LOST (modTp n (fun t => { t with cmd := none }) (setLg n 4 d)))

/-- A write of LG_CTRL (R331): RESTART takes an isolated port to OFF, and ENABLE moves it between OFF and ALIGN. -/
def lgCtrl (n : Nat) (v : Word) (d : Dev) : Dev :=
  let d := when (bitOf v 31 && isoOf d (.lg n)) (endIso (.lg n)) d
  let d := plainWrite (.lg n) Reg.Lg.LG_CTRL v d
  if stands d (.lg n) then d
  else if bitOf v 0 then (if lgState d n = 0 then setLg n 1 d else d)
  else if lgState d n = 0 then d
  else senseLoss n (modTp n (fun t => { t with cmd := none }) (setLg n 0 d))

/-- LG_ENABLE. -/
def doLgEnable (who : Party) (n : Nat) (v : Word) (d : Dev) : Dev := onWrite who (.lg n) Reg.Lg.LG_CTRL (lgCtrl n v) d
def execLgEnable (who : Party) (n : Fin 8) (v : Word) (s : State) := onDev (doLgEnable who n.val v) s

/-- LG_RESTART: a write of LG_CTRL with RESTART set. -/
def doLgRestart (who : Party) (n : Nat) (v : Word) (d : Dev) : Dev :=
  onWrite who (.lg n) Reg.Lg.LG_CTRL (lgCtrl n (putBit v 31 true)) d
def execLgRestart (who : Party) (n : Fin 8) (v : Word) (s : State) := onDev (doLgRestart who n.val v) s

/-- UPLINK_ALIGNED: the link leaves ALIGN and HELLO is sent (R330, R331). -/
def doUplinkAligned (n : Nat) (inverted : Bool) (d : Dev) : Dev :=
  if lgState d n ≠ 1 then d
  else
    let d := if inverted then event (.lg n) Reg.Lg.EV_POLARITY (sb (.lg n) Reg.Lg.LG_STAT 8 true d) else d
    lgSend n 1 1 (setLg n 2 d)
def execUplinkAligned (n : Fin 8) (inverted : Bool) (s : State) := onDev (doUplinkAligned n.val inverted) s

/-- HELLO_RETRY: an unanswered HELLO or CONFIG goes again, three times in all (R331, R335). -/
def doHelloRetry (n : Nat) (d : Dev) : Dev :=
  match (tpOf d n).cmd with
  | none => d
  | some c =>
    if c.cmd = 3 ∨ (lgState d n ≠ 2 ∧ lgState d n ≠ 3) then d
    else if (tpOf d n).tries < 3 then lgSend n c.cmd ((tpOf d n).tries + 1) d
    else linkLost n d
def execHelloRetry (n : Fin 8) (s : State) := onDev (doHelloRetry n.val) s

/-- UPLINK_LOSS: a loss takes the link from UP to LOST (R331). -/
def doUplinkLoss (n : Nat) (d : Dev) : Dev :=
  if lgState d n ≠ 3 then d else linkLost n (bump (.lg n) Reg.Lg.LG_DROP 15 0 d)
def execUplinkLoss (n : Fin 8) (s : State) := onDev (doUplinkLoss n.val) s

/-- LOST_TO_ALIGN (R331). -/
def doLostToAlign (n : Nat) (d : Dev) : Dev := if lgState d n = 4 then setLg n 1 d else d
def execLostToAlign (n : Fin 8) (s : State) := onDev (doLostToAlign n.val) s

/-- A field of a frame's header. -/
def hdr (bytes : List Byte) (o n : Nat) : Nat := leNat ((bytes.drop o).take n)
/-- The payload of a frame. -/
def payload (bytes : List Byte) : List Byte := (bytes.drop 16).take (bytes.length - 20)

/-- A frame has its length and its CRC (R332, R334). -/
def frameCrcOk (n : Nat) (bytes : List Byte) : Bool :=
  decide (20 ≤ bytes.length) &&
    leNat (bytes.drop (bytes.length - 4)) == (crcFold (n * 65536 + hdr bytes 2 2) (bytes.take (bytes.length - 4))).toNat

/-- The samples that a frame of a type holds (R333). -/
def sampleCount (d : Dev) (n type : Nat) : Nat :=
  if type = 1 then txOf d n * rxOf d n else if type = 2 then txOf d n + rxOf d n else rxOf d n

/-- The header agrees with the command it answers: a SCAN of this type (R332, R334). -/
def scanHeaderOk (d : Dev) (n type : Nat) (bytes : List Byte) : Bool :=
  match (tpOf d n).cmd with
  | none => false
  | some c =>
    c.cmd == 3 && c.type == type && hdr bytes 0 1 == type && hdr bytes 1 1 == c.freq && hdr bytes 2 2 == c.seq &&
      hdr bytes 4 2 == txOf d n && hdr bytes 6 2 == rxOf d n && hdr bytes 8 2 == sampleCount d n type &&
      (payload bytes).length == ceilDiv (3 * sampleCount d n type) 2

/-- An uplink frame is received: counted, discarded or taken (R334, R336). A receiver that is off hears nothing. -/
def lgReceive (n : Nat) (bytes : List Byte) (codeErr late ok : Bool) (act : Dev → Dev) (d : Dev) : Dev :=
  if lgState d n ≠ 2 ∧ lgState d n ≠ 3 then d
  else if codeErr then bump (.lg n) Reg.Lg.LG_ERR 15 0 d
  else if !frameCrcOk n bytes || !ok then
    raiseFault (.lg n) Reg.Lg.SRC_LINK_CRC Reg.Lg.EV_CRC_ERR (bump (.lg n) Reg.Lg.LG_ERR 31 16 d)
  else if late then
    raiseFault (.lg n) Reg.Lg.SRC_FRAME_LATE Reg.Lg.EV_FRAME_LATE (bump (.lg n) Reg.Lg.LG_DROP 31 16 d)
  else
    let d := bump (.lg n) Reg.Lg.LG_FRAMES 31 0 d
    let d := sf (.lg n) Reg.Lg.LG_FE_STAT 15 0 (hdr bytes 10 2) d
    let d := modTp n (fun t => { t with cmd := none, recfg := t.recfg || (hdr bytes 10 1).testBit 2 }) d
    act d

/-- A panel refused at the HELLO reply (R338). -/
def panelRefused (n code : Nat) (d : Dev) : Dev :=
  event (.panel n) Reg.Panel.EV_PANEL_REFUSED
    (sf (.panel n) Reg.Panel.PANEL_STAT 3 0 code (setPanelState n 0 (sb (.panel n) Reg.Panel.PANEL_CTRL 0 false d)))

/-- A reply to HELLO brings the link UP (R331, R335). -/
def helloReply (n : Nat) (p : List Byte) (d : Dev) : Dev :=
  let d := setLg n 3 (sf (.lg n) Reg.Lg.LG_STAT 19 16 (hdr p 8 1) d)
  let d := sg (.lg n) Reg.Lg.LG_FE_ID (BitVec.ofNat 32 (hdr p 0 4)) d
  let d := sf (.lg n) Reg.Lg.LG_FE_CAP 25 16 (hdr p 4 2) (sf (.lg n) Reg.Lg.LG_FE_CAP 9 0 (hdr p 6 2) d)
  let d := modTp n (fun t => { t with feMax := (hdr p 4 2, hdr p 6 2) }) d
  let d := event (.lg n) Reg.Lg.EV_LINK_UP d
  if panelOn d n && !stands d (.panel n) then (if feCapBad d n then panelRefused n 5 d else panelStart n d) else d

/-- A reply to CONFIG starts the scanning, with new baselines unless it was going on (R338, R345, R361). -/
def configReply (n : Nat) (d : Dev) : Dev :=
  let d := modTp n (fun t => { t with recfg := rb d (.lg n) Reg.Lg.LG_FE_STAT 2 }) d
  if (tpOf d n).scanning then d else panelRebase n (modTp n (fun t => { t with scanning := true, slot := 0 }) d)

/-- The header of a REPLY agrees with the command (R332, R335). -/
def replyOk (d : Dev) (n : Nat) (bytes : List Byte) : Bool :=
  match (tpOf d n).cmd with
  | none => false
  | some c =>
    hdr bytes 0 1 == 0x10 && hdr bytes 2 2 == c.seq && hdr bytes 8 2 == (payload bytes).length &&
      ((c.cmd == 1 && (payload bytes).length == 12 && decide (1 ≤ hdr (payload bytes) 8 1 ∧ hdr (payload bytes) 8 1 ≤ 8)) ||
        (c.cmd == 2 && (payload bytes).isEmpty && hdr bytes 4 2 == txOf d n && hdr bytes 6 2 == rxOf d n))

/-- REPLY. -/
def doReply (n : Nat) (bytes : List Byte) (codeErr : Bool) (d : Dev) : Dev :=
  let hello := (tpOf d n).cmd.any (fun c => c.cmd == 1)
  lgReceive n bytes codeErr false (replyOk d n bytes)
    (fun d => if hello then helloReply n (payload bytes) d else configReply n d) d
def execReply (n : Fin 8) (bytes : List Byte) (codeErr : Bool) (s : State) := onDev (doReply n.val bytes codeErr) s

/-- The enabled frequencies (R339). -/
def freqs (d : Dev) (n : Nat) : List Nat :=
  (List.range 8).filter (fun f => (pf d n Reg.Panel.PANEL_HOP 7 0).testBit f && decide (f < rf d (.lg n) Reg.Lg.LG_STAT 19 16))

/-- The enabled frequency after `f` in rising order, round and round; `f` itself if there is no other. -/
def nextFreq (fs : List Nat) (f : Nat) : Nat := ((fs.find? (fun g => decide (f < g))).getD (fs.headD f))

/-- The frequency in use. -/
def freqNow (d : Dev) (n : Nat) : Nat := pf d n Reg.Panel.PANEL_FREQ 2 0

/-- A hop applies from this SCAN (R340). -/
def applyHop (n : Nat) (d : Dev) : Dev :=
  match (tpOf d n).hopTo with
  | none => d
  | some f =>
    let d := modTp n (fun t => { t with hopTo := none, fresh := true, above := 0, lastHop := some d.us }) d
    event (.panel n) Reg.Panel.EV_HOP
      (bump (.panel n) Reg.Panel.PANEL_FREQ 31 16 (sf (.panel n) Reg.Panel.PANEL_FREQ 2 0 f d))

/-- The next SCAN of the pattern (R337, R339). -/
def sendScan (n : Nat) (d : Dev) : Dev :=
  let d := applyHop n d
  let pat := pf d n Reg.Panel.PANEL_SCAN 15 0
  let t := tpOf d n
  let type := slotCode pat (t.slot % slotLen pat) + 1
  let cur := freqNow d n
  let others := (freqs d n).filter (· != cur)
  let f := if type = 3 then (if others = [] then cur else nextFreq others t.listen) else cur
  let scan := t.scan + 1
  emit (.laiga n (lgFrame n 3 (scan % 65536) (leBytes 1 type ++ leBytes 1 f ++ leBytes 2 0)))
    (modTp n (fun t => { t with slot := (t.slot + 1) % slotLen pat, scan := scan, scanAt := tchTime d
                                listen := if type = 3 then f else t.listen
                                cmd := some { cmd := 3, type := type, freq := f, seq := scan % 65536 } }) d)

/-- SCAN_TICK: the next SCAN, or CONFIG again where the front end lost its own (R336, R337). -/
def doScanTick (n : Nat) (d : Dev) : Dev :=
  let t := tpOf d n
  if !t.scanning || lgState d n != 3 || stands d (.panel n) || t.cmd.any (fun c => c.cmd != 3) then d
  else if t.recfg then lgSend n 2 1 d
  else sendScan n d
def execScanTick (n : Fin 8) (s : State) := onDev (doScanTick n.val) s

/-! ## From raw frame to contact (R341–R347) -/

/-- Twelve-bit samples unpacked (R333). -/
def samples (bs : List Byte) (count : Nat) : List Int :=
  (List.range count).map (fun i =>
    let o := i / 2 * 3
    if i % 2 = 0 then ((hdr bs o 1 + hdr bs (o + 1) 1 % 16 * 256 : Nat) : Int)
    else ((hdr bs (o + 1) 1 / 16 + hdr bs (o + 2) 1 * 16 : Nat) : Int))

/-- The nodes around a node, of a panel `rx` wide with `tx` rows. -/
def around (tx rx i : Nat) : List Nat :=
  ((List.range 3).flatMap (fun a => (List.range 3).map (fun b => (a, b)))).filterMap (fun p =>
    let t := i / rx + p.1
    let r := i % rx + p.2
    if 1 ≤ t ∧ t ≤ tx ∧ 1 ≤ r ∧ r ≤ rx ∧ (p.1 ≠ 1 ∨ p.2 ≠ 1) then some ((t - 1) * rx + (r - 1)) else none)

/-- Two nodes touch, also at a corner. -/
def beside (rx i j : Nat) : Bool :=
  decide (i / rx ≤ j / rx + 1 ∧ j / rx ≤ i / rx + 1 ∧ i % rx ≤ j % rx + 1 ∧ j % rx ≤ i % rx + 1)

/-- The nodes of `pool` connected with those of `seen`; the fuel bounds the rounds. -/
def spread : Nat → Nat → List Nat → List Nat → List Nat
  | 0, _, _, seen => seen
  | k + 1, rx, pool, seen =>
    let more := pool.filter (fun i => !seen.contains i && seen.any (beside rx i))
    if more = [] then seen else spread k rx pool (seen ++ more)

/-- The connected area of `pool` that holds node `i`. -/
def areaOf (rx : Nat) (pool : List Nat) (i : Nat) : List Nat :=
  if pool.contains i then spread pool.length rx pool [i] else []

/-- T_touch from a noise in 1/16 count (R342). -/
def tTouch (d : Dev) (n noise16 : Nat) : Nat :=
  clampN (pf d n Reg.Panel.PANEL_THRESH 11 0) (pf d n Reg.Panel.PANEL_THRESH 23 12)
    (ceilDiv (pf d n Reg.Panel.PANEL_THRESH 29 24 * noise16) 64)

/-- T_touch of a region. -/
def regTouch (d : Dev) (n r : Nat) : Nat := tTouch d n (tabGet (fun _ => 0) (tpOf d n).rNoise r)

/-- The highest T_touch of the enabled regions; with none enabled the spec gives none, within its clamp (R342). -/
def topTouch (d : Dev) (n : Nat) : Nat :=
  match enabledRegs d n with
  | [] => clampN (pf d n Reg.Panel.PANEL_THRESH 11 0) (pf d n Reg.Panel.PANEL_THRESH 23 12) (Config.freeNat d.free 0x342)
  | rs => rs.foldl (fun m r => max m (regTouch d n r)) 0

/-- T_touch of a node (R342, R354). -/
def nodeTouch (d : Dev) (n i : Nat) : Nat :=
  match regionAt d n (64 * (i % rxOf d n) + 32) (64 * (i / rxOf d n) + 32) with
  | some r => regTouch d n r
  | none => topTouch d n

/-- A blob: its peak node, and its nodes (R341). -/
structure Blob where
  peak : Nat
  nodes : List Nat

/-- A node put into a list of nodes by falling value. -/
def insertNode (e : Nat → Int) (i : Nat) : List Nat → List Nat
  | [] => [i]
  | j :: js => if e j < e i then i :: j :: js else j :: insertNode e i js

/-- A node joins the blobs it touches, which join each other, unless the node is a saddle at which two peaks above T_touch
part: below half the lower of them (R341). Blobs stand by falling peak. -/
def joinNode (rx : Nat) (e : Nat → Int) (tt : Nat → Nat) (bs : List Blob) (i : Nat) : List Blob :=
  match bs.find? (fun b => b.nodes.any (beside rx i)) with
  | none => bs ++ [{ peak := i, nodes := [i] }]
  | some top =>
    let apart := fun (b : Blob) => decide ((tt b.peak : Int) < e b.peak ∧ (tt top.peak : Int) < e top.peak ∧ 2 * e i < e b.peak)
    let joins := fun (b : Blob) => b.peak == top.peak || (b.nodes.any (beside rx i) && !apart b)
    let nodes := i :: (bs.filter joins).flatMap (·.nodes)
    bs.filterMap (fun b => if b.peak == top.peak then some { b with nodes := nodes } else if joins b then none else some b)

/-- The blobs of a frame (R341). -/
def blobsOf (rx : Nat) (e : Nat → Int) (tt : Nat → Nat) (count : Nat) : List Blob :=
  let hot := (List.range count).filter (fun i => decide ((((tt i) / 2 : Nat) : Int) ≤ e i))
  (hot.foldl (fun js i => insertNode e i js) []).foldl (joinNode rx e tt) []

/-- A contact: its type, its position, its peak and area, and the nodes of its blob (R341, R343). -/
structure Contact where
  type : Nat
  x : Nat
  y : Nat
  peak : Int
  area : Nat
  nodes : List Nat

/-- The centroid of `e` over the 3 × 3 nodes about a peak (R341); open where the sum of `e` is not positive. -/
def centroid (d : Dev) (tx rx : Nat) (e : Nat → Int) (i : Nat) : Nat × Nat :=
  let ns := i :: around tx rx i
  let s := ns.foldl (fun m j => m + e j) 0
  let top := fun (k : Nat) => ((64 * k - 1 : Nat) : Int)
  if s ≤ 0 then (Config.freeNat d.free 0x341 % (64 * rx), Config.freeNat d.free 0x1341 % (64 * tx))
  else
    let at_ := fun (f : Nat → Nat) => freeDiv 10 (ns.foldl (fun m j => m + e j * ((64 * f j + 32 : Nat) : Int)) 0) s.toNat
    ((clampI 0 (top rx) (at_ (· % rx))).toNat, (clampI 0 (top tx) (at_ (· / rx))).toNat)

/-- The type of a blob, if it is a contact (R343): 0 FINGER, 1 GLOVE, 2 HOVER, 3 PALM, 4 WATER. `first` is the scan in which
it appeared. -/
def classify (d : Dev) (n : Nat) (e : Nat → Int) (tt : Nat → Nat) (b : Blob) (area first : Nat) : Option Nat :=
  let t := tpOf d n
  let rx := rxOf d n
  let pk := e b.peak
  let touch : Int := tt b.peak
  let s := t.ds.getD (b.peak / rx) 0 + t.ds.getD (txOf d n + b.peak % rx) 0
  let judged := decide (first < t.selfScan)
  let water : Int := pf d n Reg.Panel.PANEL_CLASS 11 0
  if pf d n Reg.Panel.PANEL_CLASS 31 24 < area then some 3
  else if touch ≤ pk ∧ judged = true ∧ s < water then some 4
  else if (pf d n Reg.Panel.PANEL_CLASS 23 16 : Int) * touch ≤ 8 * pk then some 0
  else if touch ≤ pk then some 1
  else if ((tt b.peak / 2 : Nat) : Int) ≤ pk ∧ judged = true ∧ water ≤ s then some 2
  else none

/-! ## Tracks (R349–R352) -/

/-- The square of a distance. -/
def dist2 (ax ay bx by_ : Nat) : Nat :=
  (((ax : Int) - bx) * ((ax : Int) - bx) + ((ay : Int) - by_) * ((ay : Int) - by_)).toNat

/-- The assignment of contacts to tracks that matches the most pairs within the jump and, among those, has the least total
distance (R349): contacts unmatched, the total in 1/256, and the track of each contact. -/
def bestMatch (jump : Nat) : List Contact → List TrackS → Nat × Nat × List (Option Nat)
  | [], _ => (0, 0, [])
  | c :: cs, ts =>
    let skip := bestMatch jump cs ts
    let none_ := (skip.1 + 1, skip.2.1, none :: skip.2.2)
    (ts.filter (fun t => decide (dist2 c.x c.y t.px t.py ≤ jump * jump))).foldl (fun best t =>
      let r := bestMatch jump cs (ts.filter (fun u => u.id != t.id))
      let a := (r.1, r.2.1 + isqrt (65536 * dist2 c.x c.y t.px t.py), some t.id :: r.2.2)
      if a.1 < best.1 ∨ (a.1 = best.1 ∧ a.2.1 < best.2.1) then a else best) none_

/-- A track after a contact was matched with it (R352). `rate` is SCAN_RATE, so that its last two mutual scans lie
(scan − last) ÷ rate seconds apart. -/
def moveTrack (d : Dev) (n : Nat) (t : TrackS) (c : Contact) : TrackS :=
  let rate := pf d n Reg.Panel.PANEL_SCAN 23 16
  let scan := (tpOf d n).scan
  let k : Nat := max 1 (scan - t.scan) * 1000000
  let vx : Int := t.vx * k + ((c.x : Int) - t.x) * rate * t.vd
  let vy : Int := t.vy * k + ((c.y : Int) - t.y) * rate * t.vd
  let vd : Nat := 2 * t.vd * k
  let g := max 1 (Nat.gcd vd (Nat.gcd vx.natAbs vy.natAbs))
  let seen := t.seen + 1
  let on := (t.region.any (fun r => bitOf (regOf d n r).ctrl 17)) && decide (3 ≤ seen)
  let pr : Int := pf d n Reg.Panel.PANEL_TRACK 15 0
  let at_ := fun (x : Nat) (v : Int) (top : Nat) =>
    if on then (clampI 0 ((64 * top - 1 : Nat) : Int) (x + freeDiv 11 (v * pr) vd)).toNat else x
  { t with x := c.x, y := c.y, px := at_ c.x vx (rxOf d n), py := at_ c.y vy (txOf d n), vx := vx / g, vy := vy / g
           vd := vd / g, type := c.type, seen := seen, scan := scan, peak := c.peak, area := c.area, nodes := c.nodes }

/-- A contact left unmatched starts a track, or is not tracked (R349). -/
def newTrack (n : Nat) (c : Contact) (d : Dev) : Dev :=
  if 40 ≤ (tpOf d n).tracks.length then
    event (.panel n) Reg.Panel.EV_TRACK_OVF (bump (.panel n) Reg.Panel.PANEL_COUNT2 31 16 d)
  else
    modTp n (fun t => { t with
      nextTrack := if t.nextTrack = 0xFFFF then 1 else t.nextTrack + 1
      tracks := t.tracks ++ [{ id := t.nextTrack, region := regionAt d n c.x c.y, x := c.x, y := c.y, px := c.x, py := c.y
                               type := c.type, scan := t.scan, peak := c.peak, area := c.area, nodes := c.nodes }] }) d

/-- A type is in a region's REPORT mask (R350, R351). -/
def reported (g : RegionS) (type : Nat) : Bool := decide (type < 4) && (fld g.ctrl 7 4).testBit type

/-- What a mutual frame reports of a track that goes on: the track after it, and its record with its place in the order of
R357 (0 RETRACT, 1 MOVE, 2 DOWN). -/
def reportTrack (d : Dev) (n : Nat) (t : TrackS) : TrackS × List (Nat × Nat × RecF) :=
  match t.region with
  | none => (t, [])
  | some r =>
    if regSilent d n r then
      ({ t with told := false, mute := t.mute || !reported (regOf d n r) t.type }, [])
    else if t.mute then (t, [])
    else if reported (regOf d n r) t.type then
      let t' := if t.told then t else { t with told := true, vx := 0, vy := 0, vd := 1, px := t.x, py := t.y }
      (t', [(r, if t.told then 1 else 2, contactRec d n r (if t.told then 2 else 1) 0 t')])
    else ({ t with told := false, mute := true }, if t.told then [(r, 0, contactRec d n r 4 0 t)] else [])

/-- The UP of a track that ends. -/
def endRecs (d : Dev) (n extra : Nat) (t : TrackS) : List (Nat × Nat × RecF) :=
  match t.region with
  | none => []
  | some r => if t.told && !regSilent d n r then [(r, 0, contactRec d n r 3 extra t)] else []

/-- Records in the order of R357: within a region by place, then by track. -/
def orderRecs (rs : List (Nat × Nat × RecF)) : List (Nat × RecF) :=
  (List.range 3).flatMap (fun k =>
    let ks := rs.filter (fun x => x.2.1 == k)
    ((ks.map (fun x => (x.2.2.track : Int))).foldl (fun ys x => insertI x ys) []).eraseDups.flatMap (fun id =>
      (ks.filter (fun x => (x.2.2.track : Int) == id)).map (fun x => (x.1, x.2.2))))

/-- Contacts are matched to tracks, and tracks begin, go on and end (R349–R351). -/
def doTracks (n : Nat) (cs : List Contact) (warm : List (Nat × Nat)) (d : Dev) : Dev :=
  let jump := pf d n Reg.Panel.PANEL_TRACK 31 16
  let old := (tpOf d n).tracks
  let m := (bestMatch jump cs old).2.2
  let pairs := cs.zip m
  let goes := old.filterMap (fun t =>
    match pairs.find? (fun p => p.2 == some t.id) with
    | some p => some (moveTrack d n t p.1)
    | none => if warm.any (fun w => decide (dist2 w.1 w.2 t.x t.y ≤ jump * jump)) then some { t with nodes := [] } else none)
  let gone := old.filter (fun t => !goes.any (fun g => g.id == t.id))
  let ends := gone.flatMap (endRecs d n 0)
  let d := modTp n (fun t => { t with tracks := goes }) d
  let d := (pairs.filter (fun p => p.2 == none)).foldl (fun d p => newTrack n p.1 d) d
  let rs := (tpOf d n).tracks.map (reportTrack d n)
  let recs := ends ++ rs.flatMap (·.2)
  let retr := ((rs.flatMap (·.2)).filter (fun x => x.2.2.ev == 4)).length
  let d := modTp n (fun t => { t with tracks := rs.map (·.1) }) d
  sendRecs n (orderRecs recs) (tick (addTo (.panel n) Reg.Panel.PANEL_COUNT1 31 16 retr d))

/-! ## The MUTUAL frame -/

/-- Faulted electrodes' nodes, those whose electrodes build new baselines, suspect and re-arming ones (R341, R360). -/
def marked (d : Dev) (n i : Nat) : Bool :=
  let t := tpOf d n
  let tx := i / rxOf d n
  let rx := txOf d n + i % rxOf d n
  t.suspect.contains i || (tabGet (fun _ => none) t.rearm i).isSome || t.dead.contains tx || t.dead.contains rx ||
    t.reb.any (fun r => r.el == tx || r.el == rx)

/-- The mean of eight frames, rounded half up (R345). -/
def mean8 (s : Int) : Int := (s + 4) / 8

/-- The suspect test (R346). -/
def suspects (d : Dev) (n : Nat) : List Nat :=
  let t := tpOf d n
  let tx := txOf d n
  let rx := rxOf d n
  let mB := median t.base
  let mT := median (t.self.take tx)
  let mR := median (t.self.drop tx)
  (List.range (tx * rx)).filter (fun i =>
    let bm := t.base.getD i 0 - mB
    let bs := (t.self.getD (i / rx) 0 - mT) + (t.self.getD (tx + i % rx) 0 - mR)
    decide ((pf d n Reg.Panel.PANEL_BASE 27 16 : Int) < bm.natAbs ∧ ((bm < 0 ∧ 0 < bs) ∨ (0 < bm ∧ bs < 0))))

/-- Both means are complete: the panel is READY, and the suspect test runs once (R345, R361). -/
def becomeReady (n : Nat) (d : Dev) : Dev :=
  let d := takeRegions n (setPanelState n 3 d)
  let back := (tpOf d n).back
  let d := modTp n (fun t => { t with suspect := suspects d n, back := false, e := t.base.map (fun _ => 0) }) d
  let d := event (.panel n) Reg.Panel.EV_READY (panelShow n d)
  let d := when back (event (.panel n) Reg.Panel.EV_SENSE_BACK) d
  sendRecs n (statusRecs d n 1 (enabledRegs d n)) d

/-- READY once both means are complete. -/
def readyDue (n : Nat) (d : Dev) : Dev :=
  if (tpOf d n).nM = 8 ∧ (tpOf d n).nS = 8 ∧ panelReady d n = false then becomeReady n d else d

/-- A frame added to sums, which become means with the eighth. -/
def addFrame (k : Nat) (sums vs : List Int) : List Int :=
  let s := if k = 0 then vs else List.zipWith (· + ·) sums vs
  if k = 7 then s.map mean8 else s

/-- The nodes of an electrode in the order of the panel. -/
def elNodes (tx rx el : Nat) : List Nat :=
  if el < tx then (List.range rx).map (fun r => el * rx + r) else (List.range tx).map (fun t => t * rx + (el - tx))

/-- Electrodes that work again take their eight mutual frames (R360). -/
def rebMutual (n : Nat) (v : List Int) (d : Dev) : Dev :=
  let tx := txOf d n
  let rx := rxOf d n
  let step := fun (r : RebS) => if r.n < 8 then { r with n := r.n + 1, sums := addFrame r.n r.sums ((elNodes tx rx r.el).map (fun i => v.getD i 0)) } else r
  modTp n (fun t =>
    let rs := t.reb.map step
    let fresh := rs.filter (fun r => r.n == 8 && t.reb.any (fun o => o.el == r.el && o.n == 7))
    let base := fresh.foldl (fun b r => ((elNodes tx rx r.el).zip r.sums).foldl (fun b p => b.set p.1 p.2) b) t.base
    { t with base := base, reb := rs.filter (fun r => r.n < 8 || r.ns < 8) }) d

/-- An area takes B = v at once, and its marks clear (R347). -/
def rebaseArea (n : Nat) (area : List Nat) (d : Dev) : Dev :=
  let d := modTp n (fun t => { t with
    base := area.foldl (fun b i => b.set i (t.v.getD i 0)) t.base
    suspect := t.suspect.filter (fun i => !area.contains i)
    rearm := t.rearm.filter (fun e => !area.contains e.1)
    anti := t.anti.filter (fun e => !area.contains e.1) }) d
  panelShow n (bump (.panel n) Reg.Panel.PANEL_COUNT2 15 0 d)

/-- The anti-touch rule, node by node in rising order (R347). -/
def antiTouch (n : Nat) (dl : List Int) (d : Dev) : Dev :=
  let rx := rxOf d n
  let at_ : Int := pf d n Reg.Panel.PANEL_BASE 11 0
  let runs := fun (t : TpS) => (List.range dl.length).foldl (fun m i =>
    tabSet (fun _ => 0) m i (if dl.getD i 0 ≤ -at_ then min 4 (tabGet (fun _ => 0) t.anti i + 1) else 0)) []
  let d := modTp n (fun t => { t with anti := runs t }) d
  let neg := (List.range dl.length).filter (fun i => decide (dl.getD i 0 < 0))
  (List.range dl.length).foldl (fun d i =>
    if tabGet (fun _ => 0) (tpOf d n).anti i = 4 then
      rebaseArea n ((areaOf rx neg i ++ areaOf rx (tpOf d n).suspect i ++ [i]).eraseDups) d
    else d) d

/-- The re-arm rule (R347). -/
def reArm (n : Nat) (v : List Int) (d : Dev) : Dev :=
  let lim : Int := pf d n Reg.Panel.PANEL_FILTER 11 0
  (List.range v.length).foldl (fun d i =>
    match tabGet (fun _ => none) (tpOf d n).rearm i with
    | none => d
    | some r =>
      let mv := v.getD i 0 - r
      if mv < -lim then rebaseArea n (areaOf (rxOf d n) ((tpOf d n).rearm.map (·.1)) i) d
      else if lim < mv then modTp n (fun t => { t with rearm := tabSet (fun _ => none) t.rearm i none }) d
      else d) d

/-- A noise moved an IIR step of 1/16 towards a new value (R339). -/
def iir16 (old new : Nat) : Nat := ((old : Int) + freeDiv 12 ((new : Int) - old) 16).toNat

/-- The target of a hop, if the panel hops (R339). -/
def hopTarget (d : Dev) (n : Nat) : Option Nat :=
  let t := tpOf d n
  let cur := freqNow d n
  let noise := pf d n Reg.Panel.PANEL_NOISE 15 0
  if t.above < 3 ∨ t.lastHop.any (fun u => decide (d.us < u + 100000)) then none
  else
    let others := (freqs d n).filter (· != cur)
    let quiet := others.filterMap (fun f =>
      match tabGet (fun _ => none) t.noise f with
      | some x => if d.us ≤ x.2 + 500000 ∧ 4 * x.1 < 3 * noise then some (f, x.1) else none
      | none => none)
    match quiet with
    | q :: qs => some (qs.foldl (fun b x => if x.2 < b.2 then x else b) q).1
    | [] =>
      let pat := pf d n Reg.Panel.PANEL_SCAN 15 0
      if (List.range (slotLen pat)).any (fun k => slotCode pat k == 2) || others == [] then none
      else some (nextFreq (freqs d n) cur)

/-- The noises of the frame, of the panel and of each region (R339, R342), and the hop they may bring. -/
def noises (n : Nat) (quiet : List Nat) (d : Dev) : Dev :=
  let t := tpOf d n
  let rx := rxOf d n
  let ev := fun is => rms16 (is.map (fun i => t.e.getD i 0))
  let regs := (List.range 64).foldl (fun m r =>
    let is := quiet.filter (fun i => (regOf d n r).holds (64 * (i % rx) + 32) (64 * (i / rx) + 32))
    if (regOf d n r).on && is != [] then tabSet (fun _ => 0) m r (iir16 (tabGet (fun _ => 0) m r) (ev is)) else m) t.rNoise
  let x := if quiet = [] then pf d n Reg.Panel.PANEL_NOISE 15 0 else min 0xFFFF (iir16 (pf d n Reg.Panel.PANEL_NOISE 15 0) (ev quiet))
  let d := sf (.panel n) Reg.Panel.PANEL_NOISE 15 0 x d
  let above := decide (pf d n Reg.Panel.PANEL_HOP 27 16 < x)
  let d := modTp n (fun t => { t with rNoise := regs, above := if above then t.above + 1 else 0 }) d
  match hopTarget d n with
  | none => d
  | some f => modTp n (fun t => { t with hopTo := some f }) d

/-- The deltas after the common mode (R341). -/
def deltas (d : Dev) (n : Nat) (raw v : List Int) : List Int :=
  let t := tpOf d n
  let rx := rxOf d n
  let d0 := (List.range raw.length).map (fun i =>
    if raw.getD i 0 = 0 ∨ raw.getD i 0 = 4095 then 0 else t.base.getD i 0 - v.getD i 0)
  if pf d n Reg.Panel.PANEL_FILTER 16 16 = 1 then
    let meds := (List.range (txOf d n)).map (fun r => median ((d0.drop (r * rx)).take rx))
    let top := topTouch d n
    (List.range raw.length).map (fun i =>
      let m := meds.getD (i / rx) 0
      d0.getD i 0 - (if 2 * m.natAbs < top then m else 0))
  else d0

/-- The recursive filter (R341). -/
def filtered (k : Nat) (e dl : Int) (touch : Nat) : Int :=
  if (touch : Int) ≤ dl then dl else if k = 0 then dl else e + freeDiv 13 (dl - e) (2 ^ k)

/-- The scan in which a blob first appeared: that of a blob of the last frame with which it shares a node. -/
def firstSeen (t : TpS) (nodes : List Nat) : Nat :=
  (t.blobs.filter (fun b => b.1.any (fun i => nodes.contains i))).foldl (fun m b => min m b.2) t.scan

/-- A MUTUAL frame of a READY panel (R341–R352). -/
def runMutual (n : Nat) (raw v : List Int) (d : Dev) : Dev :=
  let tx := txOf d n
  let rx := rxOf d n
  let t := tpOf d n
  let tts := (List.range raw.length).map (nodeTouch d n)
  let tt := fun i => tts.getD i 0
  let dl := deltas d n raw v
  let es := (List.range raw.length).map (fun i =>
    if marked d n i then 0 else filtered (pf d n Reg.Panel.PANEL_FILTER 21 20) (t.e.getD i 0) (dl.getD i 0) (tt i))
  let e := fun i => es.getD i 0
  let bs := blobsOf rx e tt raw.length
  let inBlob := bs.flatMap (·.nodes)
  let inTrack := t.tracks.flatMap (·.nodes)
  let calm := fun i => !inBlob.contains i && !inTrack.contains i && !marked d n i
  let base := (List.range raw.length).map (fun i =>
    let b := t.base.getD i 0
    if decide ((dl.getD i 0).natAbs < tt i / 2) && calm i then b + (v.getD i 0 - b) / 64 else b)
  let cs := bs.filterMap (fun b =>
    let area := (b.nodes.filter (fun i => decide ((tt i : Int) ≤ e i))).length
    (classify d n e tt b area (firstSeen t b.nodes)).map (fun k =>
      let p := centroid d tx rx e b.peak
      { type := k, x := p.1, y := p.2, peak := e b.peak, area := area, nodes := b.nodes : Contact }))
  let warm := (bs.filter (fun b => decide (((3 * tt b.peak / 4 : Nat) : Int) ≤ e b.peak))).map (fun b => centroid d tx rx e b.peak)
  let d := modTp n (fun t => { t with base := base, e := es, v := v, blobs := bs.map (fun b => (b.nodes, firstSeen t b.nodes)) }) d
  let d := doTracks n cs warm d
  let d := rebMutual n v (noises n ((List.range raw.length).filter calm) d)
  panelShow n (reArm n v (antiTouch n dl d))

/-- A MUTUAL frame: it builds the baselines, or is processed (R340, R341, R345). -/
def mutualFrame (n : Nat) (raw : List Int) (d : Dev) : Dev :=
  let d := takeRegions n d
  let t := tpOf d n
  let quiet := (List.range raw.length).filter (fun i =>
    !marked d n i && !t.blobs.any (fun b => b.1.contains i) && !t.tracks.any (fun k => k.nodes.contains i))
  let off := if t.fresh ∧ t.nM = 8 ∧ quiet ≠ [] then median (quiet.map (fun i => raw.getD i 0 - t.base.getD i 0)) else t.offset
  let v := raw.map (· - off)
  let d := modTp n (fun t => { t with offset := off, fresh := false, v := v }) d
  if panelReady d n then runMutual n raw v d
  else if t.nM < 8 then readyDue n (modTp n (fun t => { t with nM := t.nM + 1, base := addFrame t.nM t.base v }) d)
  else d

/-- MUTUAL. -/
def doMutual (n : Nat) (bytes : List Byte) (codeErr late : Bool) (d : Dev) : Dev :=
  lgReceive n bytes codeErr late (scanHeaderOk d n 1 bytes)
    (fun d => if (tpOf d n).scanning then mutualFrame n (samples (payload bytes) (sampleCount d n 1)) d else d) d
def execMutualC (n : Fin 8) (bytes : List Byte) (codeErr late : Bool) (s : State) := onDev (doMutual n.val bytes codeErr late) s

/-! ## SELF and LISTEN frames -/

/-- The judgement of an electrode: 0 within the limits, 1 open, 2 short between electrodes, 3 to ground (R360). -/
def judgeEl (raw med : Int) : Nat := if raw = 4095 then 3 else if 4 * raw < med then 1 else if 2 * med < raw then 2 else 0

/-- The regions that an electrode crosses. -/
def crossed (d : Dev) (n el : Nat) : List Nat :=
  let tx := txOf d n
  (enabledRegs d n).filter (fun r =>
    let g := regOf d n r
    if el < tx then decide (fld g.y 15 0 ≤ 64 * el + 63 ∧ 64 * el ≤ fld g.y 31 16)
    else decide (fld g.x 15 0 ≤ 64 * (el - tx) + 63 ∧ 64 * (el - tx) ≤ fld g.x 31 16))

/-- An electrode fault holds (R360). -/
def elFault (n el kind : Nat) (d : Dev) : Dev :=
  let tx := txOf d n
  let d := modTp n (fun t => { t with dead := t.dead ++ [el], reb := t.reb.filter (fun r => r.el != el) }) d
  let w := setFld (setFld (setFld (setFld (0 : Word) 31 30 kind) 28 28 (if el < tx then 0 else 1)) 24 16
    (if el < tx then el else el - tx)) 9 0 (tpOf d n).dead.length
  let d := raiseFault (.panel n) Reg.Panel.SRC_ELECTRODE_FAULT Reg.Panel.EV_ELECTRODE_FAULT (sg (.panel n) Reg.Panel.ELEC_STAT w d)
  if panelReady d n then sendRecs n (statusRecs d n 3 (crossed d n el)) d else d

/-- An electrode fault clears: its nodes rebaseline alone (R360). -/
def elClear (n el : Nat) (d : Dev) : Dev :=
  let d := modTp n (fun t => { t with dead := t.dead.filter (· != el), reb := t.reb ++ [{ el := el, sums := [] }] }) d
  let d := sf (.panel n) Reg.Panel.ELEC_STAT 9 0 (tpOf d n).dead.length d
  if panelReady d n then sendRecs n (statusRecs d n 4 (crossed d n el)) d else d

/-- One electrode is judged at a SELF frame; a judgement holds after 16 in a row (R360). -/
def judgeOne (n : Nat) (raw : List Int) (el : Nat) (d : Dev) : Dev :=
  let tx := txOf d n
  let j := judgeEl (raw.getD el 0) (if el < tx then median (raw.take tx) else median (raw.drop tx))
  let old := tabGet (fun _ => (0, 0)) (tpOf d n).elec el
  let run := if old.1 = j then min 16 (old.2 + 1) else 1
  let d := modTp n (fun t => { t with elec := tabSet (fun _ => (0, 0)) t.elec el (j, run) }) d
  let dead := (tpOf d n).dead.contains el
  if run = 16 ∧ j ≠ 0 ∧ dead = false then elFault n el j d
  else if run = 16 ∧ j = 0 ∧ dead = true then elClear n el d
  else d

/-- Electrodes that work again take their eight SELF frames (R360). -/
def rebSelf (n : Nat) (raw : List Int) (d : Dev) : Dev :=
  let step := fun (r : RebS) =>
    if r.ns < 8 then
      let s := r.selfSum + raw.getD r.el 0
      { r with ns := r.ns + 1, selfSum := if r.ns = 7 then mean8 s else s }
    else r
  modTp n (fun t =>
    let rs := t.reb.map step
    let fresh := rs.filter (fun r => r.ns == 8 && t.reb.any (fun o => o.el == r.el && o.ns == 7))
    { t with self := fresh.foldl (fun b r => b.set r.el r.selfSum) t.self, reb := rs.filter (fun r => r.n < 8 || r.ns < 8) }) d

/-- The deltas of a SELF frame after the common mode, that of the TX and that of the RX electrodes (R341): d_s is v − B_s. -/
def selfDeltas (d : Dev) (n : Nat) (raw : List Int) : List Int :=
  let tx := txOf d n
  let d0 := (List.range raw.length).map (fun i =>
    if raw.getD i 0 = 0 ∨ raw.getD i 0 = 4095 then 0 else raw.getD i 0 - (tpOf d n).self.getD i 0)
  if pf d n Reg.Panel.PANEL_FILTER 16 16 = 1 then
    let common := fun (l : List Int) => if 2 * (median l).natAbs < topTouch d n then l.map (· - median l) else l
    common (d0.take tx) ++ common (d0.drop tx)
  else d0

/-- An electrode takes no part: it is faulted or builds a new baseline. -/
def elMarked (d : Dev) (n el : Nat) : Bool := (tpOf d n).dead.contains el || (tpOf d n).reb.any (fun r => r.el == el)

/-- A SELF frame (R341, R345, R360): the self baselines, d_s, and the electrodes. It passes the stages of a mutual frame, electrode
by electrode: saturation, common mode, filter, exclusion, and baselines that follow by 1/64 where no blob, track or mark is. -/
def selfFrame (n : Nat) (raw : List Int) (d : Dev) : Dev :=
  let t := tpOf d n
  let d :=
    if t.nS < 8 then modTp n (fun t => { t with nS := t.nS + 1, self := addFrame t.nS t.self raw }) d
    else
      let rx := rxOf d n
      let tx := txOf d n
      let busy := fun el => (elNodes tx rx el).any (fun i =>
        marked d n i || t.blobs.any (fun b => b.1.contains i) || t.tracks.any (fun b => b.nodes.contains i))
      let dl := selfDeltas d n raw
      let ds := (List.range raw.length).map (fun i =>
        if elMarked d n i then 0
        else filtered (pf d n Reg.Panel.PANEL_FILTER 21 20) (t.ds.getD i 0) (dl.getD i 0) (topTouch d n))
      let self := (List.range raw.length).map (fun i =>
        let b := t.self.getD i 0
        if decide ((dl.getD i 0).natAbs < topTouch d n / 2) && !busy i then b + (raw.getD i 0 - b) / 64 else b)
      modTp n (fun t => { t with ds := ds, self := self, selfScan := t.scan }) d
  let d := rebSelf n raw d
  readyDue n (forN (judgeOne n raw) raw.length d)

/-- SELF. -/
def doSelf (n : Nat) (bytes : List Byte) (codeErr late : Bool) (d : Dev) : Dev :=
  lgReceive n bytes codeErr late (scanHeaderOk d n 2 bytes)
    (fun d => if (tpOf d n).scanning then selfFrame n (samples (payload bytes) (sampleCount d n 2)) d else d) d
def execSelf (n : Fin 8) (bytes : List Byte) (codeErr late : Bool) (s : State) := onDev (doSelf n.val bytes codeErr late) s

/-- A LISTEN frame: the noise of its frequency is the RMS of the values about their mean (R339). -/
def listenFrame (n f : Nat) (raw : List Int) (d : Dev) : Dev :=
  let mean := freeDiv 14 (raw.foldl (· + ·) 0) (max 1 raw.length)
  let x := rms16 (raw.map (· - mean))
  if f = freqNow d n then d
  else modTp n (fun t => { t with noise := tabSet (fun _ => none) t.noise f (some (x, d.us)) }) d

/-- LISTEN. -/
def doListen (n : Nat) (bytes : List Byte) (codeErr late : Bool) (d : Dev) : Dev :=
  lgReceive n bytes codeErr late (scanHeaderOk d n 3 bytes)
    (fun d => if (tpOf d n).scanning then listenFrame n (hdr bytes 1 1) (samples (payload bytes) (sampleCount d n 3)) d else d) d
def execListen (n : Fin 8) (bytes : List Byte) (codeErr late : Bool) (s : State) := onDev (doListen n.val bytes codeErr late) s

/-! ## Time limits -/

/-- SUSPECT_TIMEOUT: the suspect area of a node is cleared, and B is kept (R347). -/
def doSuspectTimeout (n i : Nat) (d : Dev) : Dev :=
  let area := areaOf (rxOf d n) (tpOf d n).suspect i
  if !panelReady d n then d
  else panelShow n (modTp n (fun t => { t with suspect := t.suspect.filter (fun j => !area.contains j) }) d)
def execSuspectTimeout (n : Fin 8) (i : Nat) (s : State) := onDev (doSuspectTimeout n.val i) s

/-- A track is forced up: its nodes and the ring around them take B = v and re-arm (R347). -/
def liftTrack (n : Nat) (k : TrackS) (d : Dev) : Dev :=
  let t := tpOf d n
  let touched := k.nodes.filter (fun i => decide (((3 * nodeTouch d n i / 4 : Nat) : Int) ≤ t.e.getD i 0))
  let area := (touched ++ touched.flatMap (around (txOf d n) (rxOf d n))).eraseDups
  let recs := endRecs d n 2 k
  let d := modTp n (fun t => { t with
    tracks := t.tracks.filter (fun u => u.id != k.id)
    base := area.foldl (fun b i => b.set i (t.v.getD i 0)) t.base
    rearm := area.foldl (fun m i => tabSet (fun _ => none) m i (some (t.v.getD i 0))) t.rearm }) d
  let d := event (.panel n) Reg.Panel.EV_FORCED_LIFT (bump (.panel n) Reg.Panel.PANEL_COUNT1 15 0 d)
  sendRecs n (orderRecs recs) (panelShow n d)

/-- FORCED_LIFT: the track has been down for MAX_TOUCH_S of its region, 0 being no limit (R347). -/
def doForcedLift (n id : Nat) (d : Dev) : Dev :=
  match (tpOf d n).tracks.find? (fun t => t.id == id) with
  | none => d
  | some k =>
    if panelReady d n && k.region.any (fun r => fld (regOf d n r).ctrl 15 8 != 0) then liftTrack n k d else d
def execForcedLift (n : Fin 8) (track : Nat) (s : State) := onDev (doForcedLift n.val track) s

/-! ## Panel and region registers -/

/-- A disabled panel stops and forgets its tracks. -/
def panelOff (n : Nat) (d : Dev) : Dev :=
  let d := modTp n (fun t => { t with scanning := false, cmd := if t.cmd.any (fun c => c.cmd == 1) then t.cmd else none
                                      tracks := [], blobs := [], suspect := [], rearm := [] }) d
  panelShow n (if isoOf d (.panel n) then d else setPanelState n 0 d)

/-- A panel enable: the checks of R338, and the start or the refusal. -/
def panelEnable (n : Nat) (d : Dev) : Dev :=
  let code := panelRefuse d n
  if code ≠ 0 then panelRefused n code d
  else
    panelStart n (sf (.panel n) Reg.Panel.ELEC_STAT 9 0 0 (modTp n (fun t => { t with elec := [], dead := [] })
      (sf (.panel n) Reg.Panel.PANEL_STAT 3 0 0 d)))

/-- A write of PANEL_CTRL (R338, R345, R369). -/
def panelCtrl (n : Nat) (v : Word) (d : Dev) : Dev :=
  let was := panelOn d n
  let ends := bitOf v 31 && isoOf d (.panel n)
  let d := when ends (endIso (.panel n)) d
  let d := plainWrite (.panel n) Reg.Panel.PANEL_CTRL v d
  if !bitOf v 0 then (if was then panelOff n d else d)
  else if isoOf d (.panel n) then d
  else if !was || ends then panelEnable n d
  else if bitOf v 31 || bitOf v 30 then (if (tpOf d n).scanning then panelRebase n d else d)
  else d

/-- PANEL_ENABLE. -/
def doPanelEnable (who : Party) (n : Nat) (v : Word) (d : Dev) : Dev :=
  onWrite who (.panel n) Reg.Panel.PANEL_CTRL (panelCtrl n v) d
def execPanelEnable (who : Party) (n : Fin 8) (v : Word) (s : State) := onDev (doPanelEnable who n.val v) s

/-- REBASE: PANEL_CTRL with REBASE set. -/
def doRebase (who : Party) (n : Nat) (d : Dev) : Dev :=
  onWrite who (.panel n) Reg.Panel.PANEL_CTRL (fun d => panelCtrl n (putBit (rg d (.panel n) Reg.Panel.PANEL_CTRL) 30 true) d) d
def execRebase (who : Party) (n : Fin 8) (s : State) := onDev (doRebase who n.val) s

/-- PANEL_RESTART: PANEL_CTRL with RESTART set. -/
def doPanelRestart (who : Party) (n : Nat) (d : Dev) : Dev :=
  onWrite who (.panel n) Reg.Panel.PANEL_CTRL (fun d => panelCtrl n (putBit (rg d (.panel n) Reg.Panel.PANEL_CTRL) 31 true) d) d
def execPanelRestart (who : Party) (n : Fin 8) (s : State) := onDev (doPanelRestart who n.val) s

/-- The offset of REGION_X, REGION_Y or REGION_CTRL of a region. -/
def regionOff (r reg : Nat) : Nat :=
  if reg = 0 then Reg.Panel.REGION_X r else if reg = 1 then Reg.Panel.REGION_Y r else Reg.Panel.REGION_CTRL r

/-- The region's registers are valid (R353). -/
def regionValid (d : Dev) (n r : Nat) : Bool :=
  let x := rg d (.panel n) (Reg.Panel.REGION_X r)
  let y := rg d (.panel n) (Reg.Panel.REGION_Y r)
  decide (fld x 15 0 ≤ fld x 31 16 ∧ fld x 31 16 < 64 * rxOf d n ∧ fld y 15 0 ≤ fld y 31 16 ∧ fld y 31 16 < 64 * txOf d n) &&
    pf d n (Reg.Panel.REGION_CTRL r) 3 2 != 3

/-- A write of a region register: dropped for a leased region, refused where it is invalid or where a party other than the
Fold world sets class S or touches a region of class S (R353, R355). -/
def regionWrite (by_ : Party) (n r reg : Nat) (v : Word) (d : Dev) : Dev :=
  if by_ ≠ .fold ∧ pf d n (Reg.Panel.REGION_CTRL r) 21 20 = 3 then d
  else
    let d' := plainWrite (.panel n) (regionOff r reg) v d
    let s := fun (x : Dev) => pf x n (Reg.Panel.REGION_CTRL r) 3 2 == 0
    if !regionValid d' n r || (by_ != .fold && (s d || s d' || ((regOf d n r).cls == 0 && (regOf d n r).on))) then
      event (.panel n) Reg.Panel.EV_REGION_REFUSED d
    else d'

/-- REGION_WRITE. -/
def doRegionWrite (who : Party) (n r reg : Nat) (v : Word) (d : Dev) : Dev :=
  onWrite who (.panel n) (regionOff r reg) (regionWrite who n r reg v) d
def execRegionWrite (who : Party) (n : Fin 8) (r : Fin 64) (reg : Fin 3) (v : Word) (s : State) :=
  onDev (doRegionWrite who n.val r.val reg.val v) s

/-- A KEY record reaches the Fold ring, or the Field ring, once the Fell firmware runs; before that it is dropped (R363). -/
def keyRecord (cls : Nat) (r : RecF) (d : Dev) : Dev :=
  if d.boot.stage < 8 ∨ d.sdg.fellHeld = true ∨ tetUp d = false then d
  else ringBatch (if cls = 0 then 0 else 1) [{ r with time := some (tchTime d) }] d

end Sys2Proof.Machine
end

