-- ==== Sys2Proof/Machine/Paddocks.lean ====
section
/-! DEFINITION. Paddocks: functions and their reset causes, manager commands, leases, paddock states, device memory and
MSI-X ("Paddocks, Gates and Managers", R432–R448, R456–R468). Gates and copy queues stand in Gates. -/
namespace Sys2Proof.Machine

/-! ## Manager pages (R467) -/

/-- The bit of a paddock in GATE_PEND or STATE_PEND of its port, and PF vector 1 or 2 when the first bit is set (R465). -/
def pendBit (reg : Nat → Nat) (vec p : Nat) (b : Bool) (d : Dev) : Dev :=
  match portOf d p with
  | none => d
  | some u =>
    let any := fun (d : Dev) => (List.range 16).any (fun i => rg d (.padg u) (reg i) != 0)
    let d' := sb (.padg u) (reg (p / 32)) (p % 32) b d
    if !any d && any d' then sendMsix u vec d'
    else if any d && !any d' then sb (msixPage u) Reg.PBA vec false d' else d'

/-- A paddock enters a state (R458, R459). -/
def padTo (p st : Nat) (d : Dev) : Dev :=
  pendBit Reg.Mgr.STATE_PEND 2 p true
    (event (.pset p 0) Reg.Pad.EV_STATE (sf (.pset p 0) Reg.Pad.PAD_STAT 2 0 st d))

/-- PAD_STAT as it reads: the Bus Master Enable and the presence of the VF, and gather mode, beside what is stored (R462,
R469). -/
def padStat (d : Dev) (p : Nat) : Word :=
  putBit (putBit (putBit (rg d (.pset p 0) Reg.Pad.PAD_STAT) 12 (vfLive d p && (fnOf d (2 + p)).bme)) 11 (vfLive d p)) 10 d.tet.gather

/-- Frames that a manager holds, its own and those of its paddocks (R435). Only a listed entry can be one of them. -/
def heldFrames (d : Dev) (u : Nat) : Nat :=
  (d.pad.fot.filter (fun e => (fld e.2 31 28 == fkManager && fld e.2 25 16 == u) ||
    (fld e.2 31 28 == fkPaddock && portOf d (fld e.2 25 16) == some u))).length

/-- FREE frames of the ownership table. -/
def freeFrames (d : Dev) : Nat := ((List.range 16384).filter (fun f => fotKind d f == fkFree)).length

/-- Full composition: memory commands are taken, and the quota of R435 is set, in frames; a reduced one is recorded. -/
def padFull (d : Dev) : Dev :=
  let half := freeFrames d / 2
  let q := if d.pad.quotaMib = 0 then half else d.pad.quotaMib / 2
  let d := modMach (fun m => { m with full := true, quota := min q half }) d
  if half < q then cairnPut (cairnNow d 0x06 0 0 1 (chargeState d) (chargeState d) 0xFFFF q half) d else d

/-- The registers that an MGR page computes (R467). -/
def mgrStat (d : Dev) (u : Nat) : Word :=
  let n := ((List.range 512).filter (fun p => portOf d p == some u && padState d p != 0)).length
  BitVec.ofNat 32 (n % 512 * 65536 + heldFrames d u % 16384)
def mgrRange (d : Dev) (u : Nat) : Word :=
  BitVec.ofNat 32 ((if u = 0 then 0 else d.pad.vfs0) * 65536 + (if u = 0 then d.pad.vfs0 else d.pad.vfs1))
def mgrFotData (d : Dev) (u : Nat) : Word :=
  let w := fotGet d (rf d (.padg u) Reg.Mgr.FOT_INDEX 13 0)
  let other := (fld w 31 28 == fkManager && fld w 25 16 != u) || (fld w 31 28 == fkPaddock && portOf d (fld w 25 16) != some u)
  if other then setFld w 25 16 0 else w
def mgrPmapData (d : Dev) (u : Nat) : Word :=
  let p := rf d (.padg u) Reg.Mgr.PMAP_SEL 24 16
  if portOf d p = some u then pmapGet d p (rf d (.padg u) Reg.Mgr.PMAP_SEL 12 0) else 0

/-! ## Frames (R445) -/

/-- Frames go through SCRUB to a new entry. -/
def toScrub (target : Word) (fs : List Nat) (d : Dev) : Dev :=
  fs.foldl (fun d f => modMach (fun m => { m with scrubTo := tabSet (fun _ => 0) m.scrubTo f target }) (fotSet f (fotWord fkScrub 0 0) d)) d

/-- FRAME_SCRUB_DONE. -/
def doFrameScrubDone (f : Nat) (d : Dev) : Dev :=
  if fotKind d f ≠ fkScrub then d
  else
    let d := dramZero (f * 0x200000) 0x200000 (fotSet f (tabGet (fun _ => 0) d.pad.scrubTo f) d)
    let d := if d.pad.giving = some f then sg (.padg 2) Reg.Pool.FOT_RESULT 0 d else d
    modMach (fun m => { m with
      scrubTo := tabSet (fun _ => 0) m.scrubTo f 0
      ups := m.ups.map (fun e => (e.1, { e.2 with scrubbing := e.2.scrubbing.filter (· != f) }))
      pads := m.pads.map (fun e => (e.1, { e.2 with scrubs := e.2.scrubs.filter (· != f) }))
      giving := if m.giving = some f then none else m.giving }) d
def execFrameScrubDone (f : Fin 16384) (s : State) := onDev (doFrameScrubDone f.val) s

/-- A write of FOT_CMD: TAKE moves a FREE frame to FIELD, GIVE a FIELD frame through SCRUB to FREE (R468). -/
def fotCmd (v : Word) (d : Dev) : Dev :=
  let f := rf d (.padg 2) Reg.Pool.FOT_INDEX 13 0
  if isoOf d (.padg 2) = true ∨ d.pad.giving.isSome ∨ (v ≠ 1 ∧ v ≠ 2) then d
  else if v = 1 ∧ fotKind d f = fkFree then sg (.padg 2) Reg.Pool.FOT_RESULT 0 (fotSet f (fotWord fkField 0 0) d)
  else if v = 2 ∧ fotKind d f = fkField then
    sg (.padg 2) Reg.Pool.FOT_RESULT 0x80000000 (modMach (fun m => { m with giving := some f }) (toScrub 0 [f] d))
  else sg (.padg 2) Reg.Pool.FOT_RESULT 5 d

/-- TAKE and GIVE: the writes of FOT_CMD. -/
def doFotCmd (who : Party) (v : Word) (d : Dev) : Dev := onWrite who (.padg 2) Reg.Pool.FOT_CMD (fotCmd v) d
def execTake (who : Party) (s : State) := onDev (doFotCmd who 1) s
def execGive (who : Party) (s : State) := onDev (doFotCmd who 2) s

/-! ## Leases (R446–R448) -/

/-- A page at its reset values for a new owner. FAULT_CLASS and HOLD are the Fold world's, STAT_COUNT clears only when the
block is reset (R49), and an isolated page stays so. -/
def freshPage (pg : Page) (owner : Nat) (d : Dev) : Dev :=
  let kept := [Reg.FAULT_CLASS, Reg.HOLD, Reg.STAT_COUNT].map (fun o => (o, rg d pg o))
  let d := sg pg Reg.OWNER (BitVec.ofNat 32 owner) (kept.foldl (fun d e => sg pg e.1 e.2 d) (resetPage pg d))
  let d := { d with gp := tabSet (fun _ => none) d.gp pg.base none, upset := tabClear d.upset pg.base 0x1000 }
  if isoOf d pg then isoStatus true pg d else d

/-- A page's registers as a reset of its block leaves them: HOLD, LOCK and isolation end, and a lease stays (R65, R492,
R619). -/
def pageReset (p : Page) (d : Dev) : Dev :=
  let own := rg d p Reg.OWNER
  let d := match vectorOf d p with
    | some (fn, v) => sb (msixPage fn) Reg.PBA v false d
    | none => d
  let d := setIso p false (resetPage p d)
  let d := { d with gp := tabSet (fun _ => none) d.gp p.base none, upset := tabClear d.upset p.base 0x1000
                    classDefer := tabSet (fun _ => none) d.classDefer p.base none }
  if fld own 17 16 = 3 then sg p Reg.OWNER (own &&& 0x7FFFFFFF) d else d

/-- The page of a resource of kind 1 (pipe), 2 (context) or 3 (stream). -/
def resPage (kind n : Nat) : Page := if kind = 1 then .pipe n else if kind = 2 then .ctx n else .stream n

/-- The resources of kind 1 to 3 in the windows of a paddock. -/
def windowRes (d : Dev) (p kind : Nat) : List Nat :=
  let bytes := fun o => ((List.range 4).map (fun k => rf d (.pset p 0) o (8 * k + 7) (8 * k))).filter (· != 255)
  if kind = 1 then bytes Reg.Pad.WINDOW_PIPE
  else if kind = 2 then bytes Reg.Pad.WINDOW_CTX
  else if rb d (.pset p 0) Reg.Pad.WINDOW_STREAM 7 then [rf d (.pset p 0) Reg.Pad.WINDOW_STREAM 3 0] else []

/-- OWNER_KIND and OWNER_TAG of a region that a paddock leases (R369). -/
def regionOwner (d : Dev) (i : Nat) : Option Nat :=
  if rf d (.panel (i / 64)) (Reg.Panel.REGION_CTRL (i % 64)) 21 20 = 3 then
    some (rf d (.panel (i / 64)) (Reg.Panel.REGION_CTRL (i % 64)) 31 22)
  else none

/-- The paddock that leases a resource. -/
def leasee (d : Dev) (kind n : Nat) : Option Nat :=
  let own := fun (t : Tab Nat) => if tabGet (fun _ => 0) t n = 0 then none else some (tabGet (fun _ => 0) t n - 1)
  if kind ≤ 3 then
    (if rf d (resPage kind n) Reg.OWNER 17 16 = 3 then some (rf d (resPage kind n) Reg.OWNER 9 0) else none)
  else if kind = 4 then regionOwner d n
  else if kind = 5 then own d.pad.hapOwner
  else own d.pad.asOwner

/-- How many resources of a kind the device has (R456: INDEX). -/
def resCount (kind : Nat) : Nat :=
  match kind with
  | 1 => 64 | 2 => 64 | 3 => 16 | 4 => 512 | 5 => 16 | 6 => 64 | _ => 0

/-- The resource is in the pool of a port (R468). -/
def inPool (d : Dev) (u kind n : Nat) : Bool :=
  let bit := fun (o : Nat) (i : Nat) => rb d (.padg 2) (o + 4 * (i / 32) + 0x80 * u) (i % 32)
  match kind with
  | 1 => decide (8 ≤ n) && bit (Reg.Pool.POOL_PIPE 0) n
  | 2 => bit (Reg.Pool.POOL_CTX 0) n
  | 3 => bit Reg.Pool.POOL_STREAM n
  | 4 => bit (Reg.Pool.POOL_REG (2 * (n / 64))) (n % 64)
  | 5 => bit Reg.Pool.POOL_HAP n
  | _ => bit (Reg.Pool.POOL_AS 0) n

/-- A class is O or C. -/
def classOC (c : Nat) : Bool := c == 1 || c == 2

/-- The conditions of R446 beside the pool. -/
def leasable (d : Dev) (kind n : Nat) : Bool :=
  let page := ownedByField d (resPage kind n) && !rb d (resPage kind n) Reg.OWNER 31
  match kind with
  | 1 => page && decide (8 ≤ n) && !cEnable n (pipeOf d n).act
  | 2 => page && !cxBw d n && cxState d n == 0
  | 3 => page && classOC (rf d (.stream n) Reg.Stream.STREAM_CTRL 19 18) && !stRing d n && !(streamOf d n).on
  | 4 =>
    let w := rg d (.panel (n / 64)) (Reg.Panel.REGION_CTRL (n % 64))
    fld w 21 20 == 1 && bitOf w 16 && classOC (fld w 3 2)
  | 5 => (leasee d 5 n).isNone
  | _ => (leasee d 6 n).isNone && classOC (fld (asOf d n).cfg 17 16) && !bitOf (asOf d n).cfg 31 && !(asOf d n).running

/-- The window that a lease names is occupied, or the paddock's stream window is (R447). -/
def windowFull (d : Dev) (p kind w : Nat) : Bool :=
  match kind with
  | 1 => rf d (.pset p 0) Reg.Pad.WINDOW_PIPE (8 * w + 7) (8 * w) != 255
  | 2 => rf d (.pset p 0) Reg.Pad.WINDOW_CTX (8 * w + 7) (8 * w) != 255
  | 3 => rb d (.pset p 0) Reg.Pad.WINDOW_STREAM 7
  | _ => false

/-- A window of a paddock takes a resource, or none, and PAD_LEASES follows (R469). -/
def setWindow (p kind w : Nat) (n : Option Nat) (d : Dev) : Dev :=
  let o := if kind = 1 then Reg.Pad.WINDOW_PIPE else Reg.Pad.WINDOW_CTX
  if kind = 3 then
    sb (.pset p 0) Reg.Pad.PAD_LEASES 8 n.isSome
      (sg (.pset p 0) Reg.Pad.WINDOW_STREAM (BitVec.ofNat 32 (match n with | some k => 0x80 + k | none => 0)) d)
  else if kind < 3 then
    sb (.pset p 0) Reg.Pad.PAD_LEASES (if kind = 1 then 4 + w else w) n.isSome (sf (.pset p 0) o (8 * w + 7) (8 * w) (n.getD 255) d)
  else d

/-- A region's registers at their reset values, with its owner (R447). -/
def freshRegion (i : Nat) (ctrl : Word) (d : Dev) : Dev :=
  let pg := Page.panel (i / 64)
  let r := i % 64
  sg pg (Reg.Panel.REGION_CTRL r) ctrl (sg pg (Reg.Panel.REGION_Y r) 0 (sg pg (Reg.Panel.REGION_X r) 0 d))

/-- The state of a resource beside its registers as it is when nothing has used it. -/
def freshRes (kind n : Nat) (d : Dev) : Dev :=
  match kind with
  | 1 => modPipe n (fun _ => {}) d
  | 2 => modCtx n (fun _ => {}) (cxReset n d)
  | 3 => modStream n (fun s => { ({} : StreamS) with restart := s.restart }) (dwFree n d)
  | 6 => modAs n (fun _ => {}) d
  | _ => d

/-- A lease takes effect (R447). -/
def leaseNow (p kind n w level : Nat) (d : Dev) : Dev :=
  let d :=
    if kind ≤ 3 then freshPage (resPage kind n) (ownerCode 3 p) (freshRes kind n d)
    else if kind = 4 then freshRegion n (setFld (setFld (0x00107808 : Word) 21 20 3) 31 22 p) d
    else if kind = 5 then modMach (fun m => { m with hapOwner := tabSet (fun _ => 0) m.hapOwner n (p + 1) }) d
    else modMach (fun m => { m with asOwner := tabSet (fun _ => 0) m.asOwner n (p + 1) }) (freshRes 6 n d)
  let d := if kind = 2 then modCtx n (fun c => { c with lease := level }) (sf (.ctx n) Reg.Ctx.CTX_CTRL 17 16 level d) else d
  let d := if kind = 1 ∧ padState d p = 3 then modPipe n (fun s => { s with quiesce := 1 }) d else d
  event (.pset p 0) Reg.Pad.EV_LEASE (setWindow p kind w (some n) d)

/-- A leased resource returns to the Field part; if the paddock has locked its page, the block is reset first (R448). -/
def unleaseNow (p kind n : Nat) (d : Dev) : Dev :=
  let d := if kind = 5 then hapQuiesce p (some n) d else d
  let d :=
    if kind ≤ 3 then
      let at_ := vectorOf d (resPage kind n)
      let d := freshRes kind n d
      let d := if rb d (resPage kind n) Reg.OWNER 31 then pageReset (resPage kind n) d else d
      let d := freshPage (resPage kind n) (ownerCode 1 0) d
      match at_ with
      | some (fn, v) => setWindow p kind (if kind = 1 then v - 6 else v - 2) none (sb (msixPage fn) Reg.PBA v false d)
      | none => d
    else if kind = 4 then freshRegion n 0x00107808 d
    else if kind = 5 then modMach (fun m => { m with hapOwner := tabSet (fun _ => 0) m.hapOwner n 0 }) d
    else modMach (fun m => { m with asOwner := tabSet (fun _ => 0) m.asOwner n 0 }) (freshRes 6 n d)
  event (.pset p 0) Reg.Pad.EV_LEASE d

/-- The device commits ENABLE 0 for a pipe as its owner (R448). -/
def commitOff (i : Nat) (d : Dev) : Dev :=
  let c := (pipeOf d i).chain
  let w := (cfgReg i c Reg.Pipe.CTRL).toNat
  commitPipes (cHead i c) (ownerOf d (.pipe i)) [i] none none (sg (.pipe i) Reg.Pipe.CTRL (BitVec.ofNat 32 (clrBit w 0)) d)

/-- What an unlease does first with a resource that is in use (R448): a pipe's ENABLE 0 is committed, a stream is disabled at
its next FS, an audio stream ramps to 0. The answer is whether the unlease waits. -/
def startUnlease (kind n : Nat) (d : Dev) : Bool × Dev :=
  match kind with
  | 1 => if cEnable n (pipeOf d n).act || cEnable n (pipeOf d n).chain then (true, commitOff n d) else (false, d)
  | 3 => if (streamOf d n).on then (true, modStream n (fun s => { s with stopping := true }) (sb (.stream n) Reg.Stream.STREAM_CTRL 0 false d))
         else (false, d)
  | 6 => ((asOf d n).running && audRuns d, asStop n 1 false d)
  | _ => (false, d)

/-- What an unlease of a resource waits for has come. A pipe's comes with its frame start. -/
def unleaseReady (d : Dev) (kind n : Nat) : Bool :=
  match kind with
  | 1 => !cEnable n (pipeOf d n).act
  | 3 => !(streamOf d n).on
  | _ => !((asOf d n).running && audRuns d)

/-! ## Quiesce (R460, R461) -/

/-- An unclean removal is recorded and reported (R461, R533). -/
def uncleanRecord (p cause : Nat) (d : Dev) : Dev :=
  let d := cairnPut (cairnNow d 0x06 p 0 4 (chargeState d) (chargeState d) 0xFFFF p cause) d
  match portOf d p with
  | some u => fireSource (.padg u) Reg.Mgr.SRC_UNCLEAN_REMOVAL d
  | none => d

/-- Forced quiesce: by a reset cause (1 to 4) or a timeout (5). What a quiesce has finished stays finished (R459, R461). -/
def forceQuiesce (p cause : Nat) (d : Dev) : Dev :=
  let was := padState d p
  let d := sb (.pset p 0) Reg.Pad.PAD_STAT (if cause = 5 then 9 else 8) true d
  let d := padTo p 4 (modPad p (fun s => { s with cqLast := false }) d)
  let keep := fun n => was == 2 && (cxState d n == 6 || (ctxOf d n).stop)
  let d := (windowRes d p 2).foldl (fun d n => if cxState d n = 0 ∨ keep n = true then d else ctxFault n 7 0 0 d) d
  let d := (windowRes d p 1).foldl (fun d i => modPipe i (fun s => { s with quiesce := 2 }) d) d
  uncleanRecord p cause (hapQuiesce p none (asQuiesce p none 1 true d))

/-- A reset cause reaches a paddock (R459). -/
def padCause (p cause : Nat) (d : Dev) : Dev :=
  if padState d p = 1 ∨ padState d p = 2 then forceQuiesce p cause d else d

/-- The copy-queue block of a paddock has descriptors left. -/
def padCqBusy (d : Dev) (p : Nat) : Bool :=
  rb d (.pset p 0) (0x060 + Reg.Cq.CQ_CFG) 31 && !rb d (.pset p 0) (0x060 + Reg.Cq.CQ_STAT) 31 &&
    rf d (.pset p 0) (0x060 + Reg.Cq.CQ_RPTR) 11 0 != rf d (.pset p 0) (0x060 + Reg.Cq.CQ_WPTR) 11 0

/-- The quiesce programme starts (R460): mode 0 saves the contexts, mode 1 drains them. -/
def startQuiesce (p mode : Nat) (d : Dev) : Dev :=
  let d := padTo p 2 (modPad p (fun s => { s with cqLast := padCqBusy d p }) d)
  let d := (windowRes d p 2).foldl (fun d n => cxSave n (mode == 1) d) d
  let d := (windowRes d p 1).foldl (fun d i => modPipe i (fun s => { s with quiesce := 1 }) d) d
  hapQuiesce p none (asQuiesce p none 5 false d)

/-- The audio streams of a paddock have ramped down. -/
def padAudioOff (d : Dev) (p : Nat) : Bool :=
  (List.range 64).all (fun n => asPad d n != some p || !((asOf d n).running && audRuns d))

/-- Every quiesce step is done (R460). -/
def quiesceOver (d : Dev) (p : Nat) : Bool :=
  !(padOf d p).cqLast && padAudioOff d p &&
    (windowRes d p 2).all (fun n => !(ctxOf d n).saving && ((ctxOf d n).drain.isNone || cxState d n == 0 || cxState d n == 7 || cxState d n == 8)) &&
    (windowRes d p 1).all (fun i => (pipeOf d i).quiesce != 1 || !cEnable i (pipeOf d i).act || !(headOf d (cHead i (pipeOf d i).act)).run)

/-- QUIESCE_DONE. -/
def doQuiesceDone (p : Nat) (d : Dev) : Dev := if padState d p = 2 ∧ quiesceOver d p = true then padTo p 3 d else d
def execQuiesceDone (p : Fin 512) (s : State) := onDev (doQuiesceDone p.val) s

/-- QUIESCE_TIMEOUT. -/
def doQuiesceTimeout (p : Nat) (d : Dev) : Dev := if padState d p = 2 then forceQuiesce p 5 d else d
def execQuiesceTimeout (p : Fin 512) (s : State) := onDev (doQuiesceTimeout p.val) s

/-- FORCED_QUIESCE_DONE. -/
def doForcedDone (p : Nat) (d : Dev) : Dev := if padState d p = 4 ∧ padAudioOff d p = true then padTo p 3 d else d
def execForcedQuiesceDone (p : Fin 512) (s : State) := onDev (doForcedDone p.val) s

/-! ## CLEARING (R463) -/

/-- Pages 0, 1 and 11–13 return to their reset values, as a reset of their blocks leaves them; the windows and what PAD_STAT
tells of leases and causes stay. -/
def clearPages (p : Nat) (d : Dev) : Dev :=
  let keep : List (Nat × Word) := [Reg.Pad.PAD_STAT, Reg.Pad.PAD_LEASES, Reg.Pad.WINDOW_CTX, Reg.Pad.WINDOW_PIPE, Reg.Pad.WINDOW_STREAM].map
    (fun o => (o, rg d (.pset p 0) o))
  let d := [0, 1, 11, 12, 13].foldl (fun d k => sb (.pset p 15) Reg.PBA k false (pageReset (.pset p k) d)) d
  let d := keep.foldl (fun d e => sg (.pset p 0) e.1 e.2 d) d
  pendBit Reg.Mgr.GATE_PEND 1 p false
    (padClasses p <| modRing (2 + p) (fun _ => {}) (modPad p (fun _ => {}) d))

/-- The contexts of a paddock that RESET keeps: CTX_CMD.RESET. -/
def clearCtxs (p : Nat) (d : Dev) : Dev := (windowRes d p 2).foldl (fun d n => cxReset n d) d

/-- The pipes and the stream of a paddock go out of use, and CLEARING waits for those that were in use. -/
def clearUse (p : Nat) (d : Dev) : Dev :=
  ((windowRes d p 1).map (fun i => (1, i)) ++ (windowRes d p 3).map (fun n => (3, n))).foldl (fun d (e : Nat × Nat) =>
    let r := startUnlease e.1 e.2 d
    if r.1 then modPad p (fun s => { s with waits := s.waits ++ [e] }) r.2
    else if (padOf r.2 p).removing then unleaseNow p e.1 e.2 r.2 else r.2) d

/-- A pipe of a reset paddock has its staged state at reset values. -/
def resetStaged (p : Nat) (d : Dev) : Dev :=
  (windowRes d p 1).foldl (fun d i =>
    if rb d (.pipe i) Reg.OWNER 31 then d
    else (stagedOffsets i).foldl (fun d o => sg (.pipe i) o (cfgReset i o) d) (modPipe i (fun s => { s with coefs := [], tap := 0 }) d)) d

/-- The other resources of a paddock are unleased. -/
def clearOthers (p : Nat) (d : Dev) : Dev :=
  let d := (windowRes d p 2).foldl (fun d n => unleaseNow p 2 n d) d
  let d := forN (fun n d => if leasee d 4 n = some p then unleaseNow p 4 n d else d) 512 d
  let d := forN (fun n d => if leasee d 5 n = some p then unleaseNow p 5 n d else d) 16 d
  forN (fun n d => if leasee d 6 n = some p then unleaseNow p 6 n d else d) 64 d

/-- Every VALID entry of the paddock's map is revoked; the frames go through SCRUB to the manager. -/
def revokeAll (p u : Nat) (d : Dev) : Dev :=
  let es := d.pad.maps.filter (fun e => e.1 / 8192 == p && bitOf e.2 31)
  let fs := es.map (fun e => fld e.2 13 0)
  let d := modMach (fun m => { m with maps := m.maps.filter (fun e => e.1 / 8192 != p) }) d
  modPad p (fun s => { s with scrubs := fs }) (toScrub (fotWord fkManager u 0) fs d)

/-- The leased layers of a paddock that leaves PENNED wait for a new commit (R144). -/
def leavePenned (p : Nat) (d : Dev) : Dev :=
  (windowRes d p 1).foldl (fun d i => modPipe i (fun s => { s with quiesce := if s.quiesce = 0 then 0 else 3 }) d) d

/-- A paddock enters CLEARING, to be reset or removed. -/
def startClearing (p u : Nat) (removing : Bool) (d : Dev) : Dev :=
  let d := leavePenned p (padTo p 5 (clearPages p d))
  let d := modPad p (fun s => { s with removing := removing }) d
  if removing then revokeAll p u (clearOthers p (clearUse p d))
  else
    let d := resetStaged p (clearUse p (clearCtxs p d))
    forN (fun n d => if leasee d 6 n = some p then freshRes 6 n d else d) 64 d

/-- CLEARING_DONE: nothing is waited for any more. -/
def doClearingDone (p : Nat) (d : Dev) : Dev :=
  let s := padOf d p
  let late := s.waits.filter (fun e => e.1 != 1)
  if padState d p ≠ 5 ∨ s.scrubs ≠ [] ∨ s.waits.any (fun e => e.1 == 1 || !unleaseReady d e.1 e.2) = true then d
  else
    let d := if s.removing then late.foldl (fun d e => unleaseNow p e.1 e.2 d) d else d
    padTo p (if s.removing then 0 else 1) (modPad p (fun s => { s with waits := [], removing := false }) d)
def execClearingDone (p : Fin 512) (s : State) := onDev (doClearingDone p.val) s

/-- UNLEASE_FRAME_START: the commit of ENABLE 0 has applied, and the lease moves (R448). -/
def doUnleaseFrameStart (i : Nat) (d : Dev) : Dev :=
  match leasee d 1 i with
  | none => d
  | some p =>
    let mine := fun u => (upOf d u).wait == some (1, i)
    if cEnable i (pipeOf d i).act then d
    else if mine 0 ∨ mine 1 then
      unleaseNow p 1 i (modUp (if mine 0 then 0 else 1) (fun s => { s with wait := none }) d)
    else if (padOf d p).waits.contains (1, i) then
      let d := modPad p (fun s => { s with waits := s.waits.filter (· != (1, i)) }) d
      if (padOf d p).removing then unleaseNow p 1 i d else d
    else d
def execUnleaseFrameStart (i : Fin 64) (s : State) := onDev (doUnleaseFrameStart i.val) s

/-! ## Manager commands (R436, R456, R457) -/

/-- Argument `i` of a manager's command. -/
def mgrArg (d : Dev) (u i : Nat) : Nat := (rg d (.padg u) (Reg.Mgr.MGR_ARG i)).toNat

/-- The status of a command that needs paddock `p` in one of the states `ok`: a paddock of the other port or none, or one in a
transition that a command started. -/
def padCheck (d : Dev) (u p : Nat) (ok : List Nat) : Nat :=
  if portOf d p ≠ some u then 4
  else if ok.contains (padState d p) then 0
  else if padState d p = 2 ∨ padState d p = 5 then 1 else 3

/-- CREATE. -/
def cmdCreate (u : Nat) (d : Dev) : Nat × Dev :=
  let p := mgrArg d u 0
  let r := padCheck d u p [0]
  if !d.pad.full then (2, d)
  else if r ≠ 0 then (r, d)
  else if !vfLive d p then (3, d)
  else (0, padTo p 1 (sf (.pset p 0) Reg.Pad.PAD_STAT 9 8 0 (modPad p (fun _ => {}) (padClasses p d))))

/-- QUIESCE. -/
def cmdQuiesce (u : Nat) (d : Dev) : Nat × Dev :=
  let r := padCheck d u (mgrArg d u 0) [1]
  if r ≠ 0 then (r, d)
  else if 1 < mgrArg d u 1 then (4, d) else (0, startQuiesce (mgrArg d u 0) (mgrArg d u 1) d)

/-- RESUME: leased layers wait for a new commit (R144), and audio streams run again (R425). -/
def cmdResume (u : Nat) (d : Dev) : Nat × Dev :=
  let p := mgrArg d u 0
  let r := padCheck d u p [3]
  if r ≠ 0 then (r, d)
  else if !vfLive d p || !(fnOf d (2 + p)).bme then (3, d)
  else (0, padTo p 1 (asResume p (leavePenned p d)))

/-- RESET and REMOVE. -/
def cmdClear (u : Nat) (removing : Bool) (d : Dev) : Nat × Dev :=
  let p := mgrArg d u 0
  let r := padCheck d u p [3]
  if r ≠ 0 then (r, d)
  else if !removing && !vfLive d p then (3, d)
  else (0, startClearing p u removing d)

/-- A count of 1 to 512 from a first number stays below a bound. -/
def spanOk (first n bound : Nat) : Bool := decide (1 ≤ n ∧ n ≤ 512 ∧ first + n ≤ bound)

/-- The frames or indices of a span. -/
def span (first n : Nat) : List Nat := (List.range n).map (· + first)

/-- A frame is the manager's own. -/
def ownFrame (d : Dev) (u f : Nat) : Bool := fotKind d f == fkManager && fotTag d f == u

/-- CLAIM: FREE frames become the manager's, within its quota (R435, R445). -/
def cmdClaim (u : Nat) (d : Dev) : Nat × Dev :=
  let f := mgrArg d u 0
  let n := mgrArg d u 1
  if !d.pad.full then (2, d)
  else if !spanOk f n 16384 then (4, d)
  else if (span f n).any (fun k => fotKind d k != fkFree) then (5, d)
  else if d.pad.quota < heldFrames d u + n then (6, d)
  else (0, (span f n).foldl (fun d k => fotSet k (fotWord fkManager u 0) d) d)

/-- RELEASE: the manager's frames go through SCRUB to FREE. -/
def cmdRelease (u : Nat) (d : Dev) : Nat × Dev :=
  let f := mgrArg d u 0
  let n := mgrArg d u 1
  if !d.pad.full then (2, d)
  else if !spanOk f n 16384 then (4, d)
  else if (span f n).any (fun k => !ownFrame d u k) then (5, d)
  else (0, modUp u (fun s => { s with scrubbing := span f n }) (toScrub 0 (span f n) d))

/-- GRANT: the manager's frames become the paddock's, unscrubbed, and its map maps them. -/
def cmdGrant (u : Nat) (d : Dev) : Nat × Dev :=
  let p := mgrArg d u 0
  let f := mgrArg d u 1
  let i := mgrArg d u 2
  let n := mgrArg d u 3
  let r := padCheck d u p [1, 2, 3, 4]
  if !d.pad.full then (2, d)
  else if portOf d p ≠ some u ∨ spanOk f n 16384 = false ∨ spanOk i n 8192 = false then (4, d)
  else if r ≠ 0 then (r, d)
  else if (List.range n).any (fun k => !ownFrame d u (f + k) || bitOf (pmapGet d p (i + k)) 31) then (5, d)
  else
    (0, (List.range n).foldl (fun d k =>
      pmapSet p (i + k) (BitVec.ofNat 32 (0x80000000 + f + k)) (fotSet (f + k) (fotWord fkPaddock p (i + k)) d)) d)

/-- REVOKE: map entries go, and their frames through SCRUB to the manager. -/
def cmdRevoke (u : Nat) (d : Dev) : Nat × Dev :=
  let p := mgrArg d u 0
  let i := mgrArg d u 1
  let n := mgrArg d u 2
  let r := padCheck d u p [1, 2, 3, 4]
  if !d.pad.full then (2, d)
  else if portOf d p ≠ some u ∨ spanOk i n 8192 = false then (4, d)
  else if r ≠ 0 then (r, d)
  else if (span i n).any (fun k => !bitOf (pmapGet d p k) 31) then (5, d)
  else
    let fs := (span i n).map (fun k => fld (pmapGet d p k) 13 0)
    let d := (span i n).foldl (fun d k => pmapSet p k 0 d) d
    (0, modUp u (fun s => { s with scrubbing := fs }) (toScrub (fotWord fkManager u 0) fs d))

/-- The resource that ARG1 names. -/
def argRes (d : Dev) (u : Nat) : Nat × Nat := (mgrArg d u 1 / 2 ^ 28, mgrArg d u 1 % 65536)

/-- LEASE (R446, R447). -/
def cmdLease (u : Nat) (d : Dev) : Nat × Dev :=
  let p := mgrArg d u 0
  let k := argRes d u
  let w := mgrArg d u 2 % 4
  let level := mgrArg d u 2 / 16 % 4
  let r := padCheck d u p [1, 3]
  if portOf d p ≠ some u ∨ resCount k.1 ≤ k.2 ∨ (k.1 = 2 ∧ level = 0) then (4, d)
  else if r ≠ 0 then (r, d)
  else if !inPool d u k.1 k.2 || !leasable d k.1 k.2 then (7, d)
  else if windowFull d p k.1 w then (8, d)
  else (0, leaseNow p k.1 k.2 w level d)

/-- UNLEASE (R448). -/
def cmdUnlease (u : Nat) (d : Dev) : Nat × Dev :=
  let p := mgrArg d u 0
  let k := argRes d u
  if portOf d p ≠ some u ∨ resCount k.1 ≤ k.2 ∨ leasee d k.1 k.2 ≠ some p then (4, d)
  else if padState d p = 2 ∨ padState d p = 5 then (1, d)
  else if k.1 = 1 ∧ cEnable k.2 (pipeOf d k.2).act = true ∧ padState d p ≠ 3 then (3, d)
  else
    let r := startUnlease k.1 k.2 d
    if r.1 then (0, modUp u (fun s => { s with wait := some k }) r.2) else (0, unleaseNow p k.1 k.2 r.2)

/-- The commands by opcode (R456). -/
def mgrRun (u op : Nat) (d : Dev) : Nat × Dev :=
  match op with
  | 0x01 => cmdCreate u d
  | 0x02 => cmdQuiesce u d
  | 0x03 => cmdResume u d
  | 0x04 => cmdClear u false d
  | 0x05 => cmdClear u true d
  | 0x10 => cmdClaim u d
  | 0x11 => cmdRelease u d
  | 0x12 => cmdGrant u d
  | 0x13 => cmdRevoke u d
  | 0x20 => cmdLease u d
  | 0x21 => cmdUnlease u d
  | _ => (9, d)

/-- A write of MGR_CMD: the command acts, and its status waits for MGR_CMD_DONE (R456). -/
def mgrCmd (u op : Nat) (d : Dev) : Dev :=
  if isoOf d (.padg u) then d
  else if (upOf d u).cmd.isSome then event (.padg u) Reg.Mgr.EV_CMD_REFUSED d
  else
    let r := mgrRun u op d
    modUp u (fun s => { s with cmd := some (op, r.1) })
      (sg (.padg u) Reg.Mgr.MGR_RESULT (BitVec.ofNat 32 (0x80000000 + op % 256 * 65536)) r.2)

/-- A manager command: the write of its opcode to MGR_CMD. -/
def doMgrCmd (who : Party) (u op : Nat) (d : Dev) : Dev := onWrite who (.padg u) Reg.Mgr.MGR_CMD (mgrCmd u op) d
def execCreate (who : Party) (u : Fin 2) (s : State) := onDev (doMgrCmd who u.val 0x01) s
def execQuiesce (who : Party) (u : Fin 2) (s : State) := onDev (doMgrCmd who u.val 0x02) s
def execResumePaddock (who : Party) (u : Fin 2) (s : State) := onDev (doMgrCmd who u.val 0x03) s
def execReset (who : Party) (u : Fin 2) (s : State) := onDev (doMgrCmd who u.val 0x04) s
def execRemove (who : Party) (u : Fin 2) (s : State) := onDev (doMgrCmd who u.val 0x05) s
def execClaim (who : Party) (u : Fin 2) (s : State) := onDev (doMgrCmd who u.val 0x10) s
def execRelease (who : Party) (u : Fin 2) (s : State) := onDev (doMgrCmd who u.val 0x11) s
def execGrant (who : Party) (u : Fin 2) (s : State) := onDev (doMgrCmd who u.val 0x12) s
def execRevoke (who : Party) (u : Fin 2) (s : State) := onDev (doMgrCmd who u.val 0x13) s
def execLease (who : Party) (u : Fin 2) (s : State) := onDev (doMgrCmd who u.val 0x20) s
def execUnlease (who : Party) (u : Fin 2) (s : State) := onDev (doMgrCmd who u.val 0x21) s

/-- MGR_CMD_DONE: a command completes once its frames are scrubbed and its unlease has moved (R456). -/
def doMgrCmdDone (u : Nat) (d : Dev) : Dev :=
  let s := upOf d u
  match s.cmd with
  | none => d
  | some (op, st) =>
    if isoOf d (.padg u) = true ∨ s.scrubbing ≠ [] ∨ s.wait.any (fun k => k.1 == 1 || !unleaseReady d k.1 k.2) = true then d
    else
      let d := match s.wait with
        | some k => (match leasee d k.1 k.2 with | some p => unleaseNow p k.1 k.2 d | none => d)
        | none => d
      event (.padg u) Reg.Mgr.EV_CMD_DONE
        (sg (.padg u) Reg.Mgr.MGR_RESULT (BitVec.ofNat 32 (op % 256 * 65536 + st)) (modUp u (fun s => { s with cmd := none, wait := none }) d))
def execMgrCmdDone (u : Fin 2) (s : State) := onDev (doMgrCmdDone u.val) s

/-- PAD_STAT_READ: a manager's read clears the paddock's bit in STATE_PEND (R467). -/
def padStatRead (who : Party) (p : Nat) (d : Dev) : Word × Dev :=
  (padStat d p, match who with | .manager _ => pendBit Reg.Mgr.STATE_PEND 2 p false d | _ => d)
def doPadStatRead (who : Party) (p : Nat) (d : Dev) : Dev := onRead who (.pset p 0) Reg.Pad.PAD_STAT (padStatRead who p) d
def execPadStatRead (who : Party) (p : Fin 512) (s : State) := onDev (doPadStatRead who p.val) s

/-! ## Functions (R432–R434, R459, R465, R467) -/

/-- A function is reset: its configuration bits and its MSI-X page (R463). -/
def fnReset (fn : Nat) (d : Dev) : Dev := resetPageBody (msixPage fn) (modFn fn (fun _ => {}) d)

/-- The paddocks of a port. -/
def padsOf (d : Dev) (u : Nat) : List Nat :=
  if u = 0 then List.range d.pad.vfs0 else (List.range d.pad.vfs1).map (· + d.pad.vfs0)

/-- SRIOV_CONFIG: the host sets NumVFs and VF Enable; a VF that goes is a reset cause for its paddock (R432, R459). Before
"Firmware configured" the request is answered by Request Retry Status (R436). -/
def doSriov (u n : Nat) (en : Bool) (d : Dev) : Dev :=
  let ps := padsOf d u
  if d.boot.stage < 8 ∨ ps.length < n then d
  else
    let d' := modUp u (fun s => { s with numVfs := n, vfEnable := en && ps.length != 0 }) d
    (ps.filter (fun p => vfLive d p && !vfLive d' p)).foldl (fun d p => fnReset (2 + p) (padCause p 2 d)) d'
def execSriovConfig (u : Fin 2) (numVfs : BitVec 16) (vfEnable : Bool) (s : State) :=
  onDev (doSriov u.val numVfs.toNat vfEnable) s

/-- VF_FLR. -/
def doVfFlr (p : Nat) (d : Dev) : Dev := if vfLive d p then fnReset (2 + p) (padCause p 1 d) else d
def execVfFlr (p : Fin 512) (s : State) := onDev (doVfFlr p.val) s

/-- BUS_MASTER_CLEAR: of a VF it is a reset cause. -/
def doBmeClear (fn : Nat) (d : Dev) : Dev :=
  if (fnOf d fn).bme then
    let d := modFn fn (fun s => { s with bme := false }) d
    if fn < 2 then d else padCause (fn - 2) 3 d
  else d
def execBusMasterClear (fn : Fin 514) (s : State) := onDev (doBmeClear fn.val) s

/-- BUS_MASTER_ENABLE, with the MSI-X Enable and Function Mask bits: messages held pending leave (R434). -/
def doBmeSet (fn : Nat) (msixEn mask : Bool) (d : Dev) : Dev :=
  if 2 ≤ fn ∧ vfLive d (fn - 2) = false then d
  else
    let d := modFn fn (fun _ => { bme := true, msixEn := msixEn, msixMask := mask }) d
    forN (fun v d => if rb d (msixPage fn) Reg.PBA v && msixOpen d fn v then sendMsix fn v d else d) 32 d
def execBusMasterEnable (fn : Fin 514) (msixEn mask : Bool) (s : State) := onDev (doBmeSet fn.val msixEn mask) s

/-- A reset cause of a PF (R459, R467): every paddock of the port, NumVFs and VF Enable, the manager's copy queue. -/
def pfCause (u : Nat) (d : Dev) : Dev :=
  let ps := padsOf d u
  let live := ps.filter (fun p => vfLive d p)
  let d := ps.foldl (fun d p => padCause p 4 d) d
  let d := live.foldl (fun d p => fnReset (2 + p) d) d
  let d := fnReset u (modUp u (fun s => { s with numVfs := 0, vfEnable := false }) d)
  event (.padg u) Reg.Mgr.EV_PORT_RESET (sb (.padg u) (0x070 + Reg.Cq.CQ_CFG) 31 false d)

/-- PF_FLR, PF_D3HOT. -/
def execPfFlr (u : Fin 2) (s : State) := onDev (pfCause u.val) s
def execPfD3hot (u : Fin 2) (s : State) := onDev (pfCause u.val) s

/-- HOT_RESET and LINK_DOWN: the link is down afterwards. -/
def doLinkDown (u : Nat) (d : Dev) : Dev := modUp u (fun s => { s with linkUp := false }) (pfCause u d)
def execHotReset (u : Fin 2) (s : State) := onDev (doLinkDown u.val) s
def execLinkDown (u : Fin 2) (s : State) := onDev (doLinkDown u.val) s

/-- PERST: the port is in reset. -/
def doPerst (u : Nat) (d : Dev) : Dev := modUp u (fun s => { s with linkUp := false, perst := true }) (pfCause u d)
def execPerst (u : Fin 2) (s : State) := onDev (doPerst u.val) s

/-- PERST_RELEASE: the port leaves reset, and CLKREQu_N is held low from then on (R647). -/
def doPerstRelease (u : Nat) (d : Dev) : Dev := modUp u (fun s => { s with perst := false }) d
def execPerstRelease (u : Fin 2) (s : State) := onDev (doPerstRelease u.val) s

/-- PCIE_LINK_UP: UPu_LED_N is driven low while the link is up (R647). A port in reset has no link. -/
def doLinkUp (u : Nat) (d : Dev) : Dev := modUp u (fun s => { s with linkUp := !s.perst }) d
def execPcieLinkUp (u : Fin 2) (s : State) := onDev (doLinkUp u.val) s

/-- CLKREQu_N and UPu_LED_N: open-drain outputs, held low while the port is out of reset and while the link is up (R647). -/
def clkreqLow (d : Dev) (u : Nat) : Bool := !(upOf d u).perst
def ledLow (d : Dev) (u : Nat) : Bool := (upOf d u).linkUp

/-- The page whose interrupt vector `k` of a VF serves: a page of the page set or the resource in its window (R465). -/
def vfSource (d : Dev) (p k : Nat) : Bool :=
  match windowTarget d p k with
  | some pg => irqOn d pg
  | none => decide (k ≤ 13) && irqOn d (.pset p k)

/-- The source of a vector is asserted (R465). -/
def vectorOn (d : Dev) (fn v : Nat) : Bool :=
  let any := fun (reg : Nat → Nat) => (List.range 16).any (fun i => rg d (.padg fn) (reg i) != 0)
  if 2 ≤ fn then vfSource d (fn - 2) v
  else if v = 0 then irqOn d (.padg fn)
  else if v = 1 then any Reg.Mgr.GATE_PEND
  else v == 2 && any Reg.Mgr.STATE_PEND

/-- A write of the mask bit of a vector: unmasked while its source is asserted, its message is sent (R465). -/
def msixCtrl (fn v : Nat) (w : Word) (d : Dev) : Dev :=
  let was := rb d (msixPage fn) (Reg.MSIX_CTRL v) 0
  let d := plainWrite (msixPage fn) (Reg.MSIX_CTRL v) w d
  if was && !bitOf w 0 && (vectorOn d fn v || rb d (msixPage fn) Reg.PBA v) then sendMsix fn v d else d

/-- MSIX_UNMASK: the write that clears the mask bit. -/
def doMsixUnmask (who : Party) (fn v : Nat) (d : Dev) : Dev :=
  onWrite who (msixPage fn) (Reg.MSIX_CTRL v) (msixCtrl fn v 0) d
def execMsixUnmask (who : Party) (fn : Fin 514) (k : Fin 32) (s : State) := onDev (doMsixUnmask who fn.val k.val) s

/-- Gather mode comes or goes: every paddock that is not VOID and both managers are told (R462, R467). -/
def padGather (on : Bool) (d : Dev) : Dev :=
  let d := forN (fun p d =>
    if padState d p = 0 then d
    else event (.pset p 0) (if on then Reg.Pad.EV_DEVICE_GATHER else Reg.Pad.EV_GATHER_END) d) 512 d
  forN (fun u d => event (.padg u) (if on then Reg.Mgr.EV_DEVICE_GATHER else Reg.Mgr.EV_GATHER_END) d) 2 d

end Sys2Proof.Machine
end

