-- ==== Sys2Proof/Machine/Gates.lean ====
section
/-! DEFINITION. The gates between paddocks and managers, the copy queues, and the aperture of a VF ("Paddocks, Gates and
Managers", R444, R449–R455, R470, R471). -/
namespace Sys2Proof.Machine

/-! ## Gates (R449–R452) -/

/-- A direction of a gate: its three counters, its first slot register, the direction's bit of the fold word, and the event of
its receiver. -/
structure GateDir where
  wptr : Nat
  vptr : Nat
  rptr : Nat
  slot : Nat
  bit : Nat
  ev : Nat
deriving DecidableEq, Repr

def gateUp : GateDir := ⟨Reg.Gate.UP_WPTR, Reg.Gate.UP_VPTR, Reg.Gate.UP_RPTR, Reg.Gate.UP_SLOT 0, 0, Reg.Gate.EV_UP_MSG⟩
def gateDown : GateDir := ⟨Reg.Gate.DOWN_WPTR, Reg.Gate.DOWN_VPTR, Reg.Gate.DOWN_RPTR, Reg.Gate.DOWN_SLOT 0, 1, Reg.Gate.EV_DOWN_MSG⟩

/-- A counter of a gate, modulo 8. -/
def gateCtr (d : Dev) (p o : Nat) : Nat := rf d (.pset p 1) o 2 0

/-- The sequence number that a direction expects next. -/
def gateSeq (d : Dev) (p : Nat) (g : GateDir) : Nat := if g.bit = 0 then (padOf d p).upSeq else (padOf d p).downSeq

/-- The bytes of slot `j` of a direction. -/
def gateBytes (d : Dev) (p : Nat) (g : GateDir) (j : Nat) : List Byte :=
  (List.range 16).flatMap (fun k => wordBytes (rg d (.pset p 1) (g.slot + 0x40 * j + 4 * k)))

/-- The CRC of a message (R450): over the fold word, the header and the payload. -/
def gateCrc (bit p seq : Nat) (head payload : List Byte) : Nat :=
  (crc16 (leBytes 4 (bit * 2 ^ 31 + p * 2 ^ 16 + seq) ++ head ++ payload)).toNat

/-- A message passes its checks (R451). -/
def gateGood (bit p seq : Nat) (bs : List Byte) : Bool :=
  let len := leNat ((bs.drop 3).take 1)
  leNat (bs.take 2) == seq && decide (leNat ((bs.drop 2).take 1) < 0xF0) && decide (len ≤ 56) &&
    leNat ((bs.drop 0x3C).take 2) == gateCrc bit p seq (bs.take 4) ((bs.drop 4).take len)

/-- GATE_PEND shows whether UP messages wait for the manager (R467). -/
def gatePend (p : Nat) (d : Dev) : Dev :=
  pendBit Reg.Mgr.GATE_PEND 1 p (gateCtr d p Reg.Gate.UP_VPTR != gateCtr d p Reg.Gate.UP_RPTR) d

/-- A message is accepted: VPTR moves past it, and its receiver is told (R451). -/
def gateAccept (p : Nat) (g : GateDir) (d : Dev) : Dev :=
  let seq := gateSeq d p g
  let next := if seq = 0xFFFF then 1 else seq + 1
  let d := modPad p (fun s => if g.bit = 0 then { s with upSeq := next } else { s with downSeq := next }) d
  let d := bump (.pset p 1) Reg.Gate.GATE_COUNT 15 0 (bump (.pset p 1) g.vptr 2 0 d)
  event (.pset p 1) g.ev d

/-- The messages from VPTR to WPTR are checked in order; at the first that fails, WPTR falls back to VPTR (R451). -/
def gateCheck (p : Nat) (g : GateDir) : Nat → Dev → Dev
  | 0, d => d
  | n + 1, d =>
    if gateGood g.bit p (gateSeq d p g) (gateBytes d p g (gateCtr d p g.vptr % 4)) then gateCheck p g n (gateAccept p g d)
    else
      raiseFault (.pset p 1) Reg.Gate.SRC_GATE_BAD Reg.Gate.EV_GATE_BAD
        (bump (.pset p 1) Reg.Gate.GATE_COUNT 31 16 (sf (.pset p 1) g.wptr 2 0 (gateCtr d p g.vptr) d))

/-- The gate works in OPEN, QUIESCING and PENNED (R452), unless its page is isolated (R12). -/
def gateWorks (d : Dev) (p : Nat) : Bool := decide (1 ≤ padState d p ∧ padState d p ≤ 3) && !isoOf d (.pset p 1)

/-- A gate write is refused. -/
def gateRefused (p : Nat) (d : Dev) : Dev := event (.pset p 1) Reg.Gate.EV_GATE_REFUSED d

/-- A doorbell (R451, R452). -/
def gateBell (p : Nat) (g : GateDir) (v : Word) (d : Dev) : Dev :=
  let w := fld v 2 0
  if !gateWorks d p || decide (4 < (w + 8 - gateCtr d p g.rptr) % 8) then gateRefused p d
  else
    let n := (w + 8 - gateCtr d p g.vptr) % 8
    let d := gateCheck p g n (sf (.pset p 1) g.wptr 2 0 w d)
    if g.bit = 0 then gatePend p d else d

/-- The receiver frees slots (R452). -/
def gateFree (p : Nat) (g : GateDir) (v : Word) (d : Dev) : Dev :=
  let r := gateCtr d p g.rptr
  if isoOf d (.pset p 1) || decide ((gateCtr d p g.vptr + 8 - r) % 8 < (fld v 2 0 + 8 - r) % 8) then gateRefused p d
  else
    let d := sf (.pset p 1) g.rptr 2 0 (fld v 2 0) d
    if g.bit = 0 then gatePend p d else d

/-- A write to a slot: dropped while the slot holds an accepted, unread message (R452). -/
def gateSlotWrite (p o : Nat) (v : Word) (d : Dev) : Dev :=
  let g := if o < 0x300 then gateUp else gateDown
  let j := (o - g.slot) / 0x40
  let r := gateCtr d p g.rptr
  let n := (gateCtr d p g.vptr + 8 - r) % 8
  if isoOf d (.pset p 1) || (List.range n).any (fun k => (r + k) % 4 == j) then gateRefused p d else plainWrite (.pset p 1) o v d

/-- UP_WPTR, DOWN_WPTR, UP_RPTR, DOWN_RPTR. -/
def doGateBell (who : Party) (p : Nat) (g : GateDir) (v : Word) (d : Dev) : Dev := onWrite who (.pset p 1) g.wptr (gateBell p g v) d
def doGateFree (who : Party) (p : Nat) (g : GateDir) (v : Word) (d : Dev) : Dev := onWrite who (.pset p 1) g.rptr (gateFree p g v) d
def execUpWptr (who : Party) (p : Fin 512) (v : Word) (s : State) := onDev (doGateBell who p.val gateUp v) s
def execDownWptr (who : Party) (p : Fin 512) (v : Word) (s : State) := onDev (doGateBell who p.val gateDown v) s
def execUpRptr (who : Party) (p : Fin 512) (v : Word) (s : State) := onDev (doGateFree who p.val gateUp v) s
def execDownRptr (who : Party) (p : Fin 512) (v : Word) (s : State) := onDev (doGateFree who p.val gateDown v) s

/-! ## Copy queues (R453–R455, R470) -/

/-- The page and the first offset of a copy queue's block: queue u is manager u's, queue 2 + p paddock p's. -/
def cqPage (q : Nat) : Page := if q < 2 then .padg q else .pset (q - 2) 0
def cqBase (q : Nat) : Nat := if q < 2 then 0x070 else 0x060

def cqF (d : Dev) (q o hi lo : Nat) : Nat := rf d (cqPage q) (cqBase q + o) hi lo
def cqOn (d : Dev) (q : Nat) : Bool := rb d (cqPage q) (cqBase q + Reg.Cq.CQ_CFG) 31
def cqSize (d : Dev) (q : Nat) : Nat := 2 ^ cqF d q Reg.Cq.CQ_CFG 3 0
def cqRing (d : Dev) (q : Nat) : Nat := rg64 d (cqPage q) (cqBase q + Reg.Cq.CQ_BASE_LO)
def cqRptr (d : Dev) (q : Nat) : Nat := cqF d q Reg.Cq.CQ_RPTR 11 0
def cqWptrOf (d : Dev) (q : Nat) : Nat := cqF d q Reg.Cq.CQ_WPTR 11 0

/-- Whose memory the ring of a queue lies in, and whose its transfers reach (R441, R453). -/
def cqRingWho (q : Nat) : Who := if q < 2 then .party (.manager (Fin.ofNat 2 q)) else .party (.paddock (Fin.ofNat 512 (q - 2)))
def cqWho (q : Nat) : Who := if q < 2 then .managerCq (Fin.ofNat 2 q) else cqRingWho q

/-- A write of CQ_CFG (R455, R470): while ENABLE is 1 only the write that clears it takes effect; enabling starts the queue
with its pointers at 0. LOG2 outside 4 to 12, or a ring that is not aligned to its size, is refused. -/
def cqCfg (q : Nat) (v : Word) (d : Dev) : Dev :=
  let pg := cqPage q
  let b := cqBase q
  let n := fld v 3 0
  if cqOn d q then (if bitOf v 31 then d else sb pg (b + Reg.Cq.CQ_CFG) 31 false d)
  else if n < 4 ∨ 12 < n ∨ (bitOf v 31 = true ∧ cqRing d q % (32 * 2 ^ n) ≠ 0) then d
  else
    let d := plainWrite pg (b + Reg.Cq.CQ_CFG) v d
    if bitOf v 31 then
      sg pg (b + Reg.Cq.CQ_WPTR) 0 (sg pg (b + Reg.Cq.CQ_RPTR) 0 (sf pg (b + Reg.Cq.CQ_STAT) 31 24 0 d))
    else d

/-- A write of CQ_BASE while the queue is disabled. -/
def cqBaseWrite (q o : Nat) (v : Word) (d : Dev) : Dev :=
  if cqOn d q then d else plainWrite (cqPage q) (cqBase q + o) v d

/-- CQ_CFG_WRITE. -/
def doCqCfg (who : Party) (q : Nat) (v : Word) (d : Dev) : Dev := onWrite who (cqPage q) (cqBase q + Reg.Cq.CQ_CFG) (cqCfg q v) d
def execCqCfgWrite (who : Party) (q : Fin 514) (v : Word) (s : State) := onDev (doCqCfg who q.val v) s

/-- A write of CQ_WPTR: the doorbell, refused from a paddock that is not OPEN (R453, R460). -/
def cqBell (who : Party) (q : Nat) (v : Word) (d : Dev) : Dev :=
  intake who (plainWrite (cqPage q) (cqBase q + Reg.Cq.CQ_WPTR) (BitVec.ofNat 32 (fld v 11 0 % cqSize d q))) d
def doCqWptr (who : Party) (q : Nat) (v : Word) (d : Dev) : Dev := onWrite who (cqPage q) (cqBase q + Reg.Cq.CQ_WPTR) (cqBell who q v) d
def execCqWptr (who : Party) (q : Fin 514) (v : Word) (s : State) := onDev (doCqWptr who q.val v) s

/-- A queue stops with a fault code (R455). -/
def cqFault (q code : Nat) (d : Dev) : Dev :=
  let d := sf (cqPage q) (cqBase q + Reg.Cq.CQ_STAT) 27 24 code (sb (cqPage q) (cqBase q + Reg.Cq.CQ_STAT) 31 true d)
  let d := if q < 2 then d else modPad (q - 2) (fun s => { s with cqLast := false }) d
  raiseFault (cqPage q) 3 (if q < 2 then Reg.Mgr.EV_COPY_FAULT else Reg.Pad.EV_COPY_FAULT) d

/-- A descriptor (R454). -/
structure CqDesc where
  src : Nat
  dst : Nat
  len : Nat
  flags : Nat
  cookie : Nat
deriving DecidableEq, Repr

def cqDesc (bs : List Byte) : CqDesc :=
  let f := fun (o n : Nat) => leNat ((bs.drop o).take n)
  { src := f 0 8, dst := f 8 8, len := f 0x10 4, flags := f 0x14 4, cookie := f 0x18 4 }

/-- A descriptor breaks R454 (code 1). -/
def cqBad (c : CqDesc) : Bool :=
  decide (16 ≤ c.flags ∨ c.len = 0 ∨ 16777216 < c.len) || (c.flags.testBit 0 && (c.flags.testBit 1 || c.flags.testBit 2))

/-- The chunks of a descriptor (R453): each moves at most 64 KiB from offset `o`. The answer is the fault code, 0 for none. A
host read is answered by `host`, which stops short where the host did not complete it (R455). -/
def cqMove (q : Nat) (l : Lane) (c : CqDesc) (host : List Byte) : Nat → Nat → Dev → Nat × Dev
  | 0, _, d => (0, d)
  | k + 1, o, d =>
    let n := min 65536 (c.len - o)
    if n = 0 then (0, d)
    else
      let fromHost := c.flags.testBit 0
      let toHost := c.flags.testBit 1
      let fill := c.flags.testBit 2
      let piece := (host.drop o).take n
      let word := leBytes 4 (c.src % 2 ^ 32)
      let r : MemAns × Dev :=
        if fill then ({ ok := true, bytes := ((List.replicate (n / 4 + 1) word).flatten).take n }, d)
        else if fromHost then ({ ok := true, bytes := piece }, d)
        else memRead (cqWho q) l (c.src + o) n d
      if (fromHost || toHost) && !(fnOf d q).bme then (4, d)
      else if fromHost && decide (piece.length < n) then (4, d)
      else if !r.1.ok then (2, r.2)
      else if r.1.poison then (3, r.2)
      else if toHost then cqMove q l c host k (o + n) (emit (.hostWrite q (c.dst + o) r.1.bytes) r.2)
      else
        let w := memWrite (cqWho q) l (c.dst + o) r.1.bytes r.2
        if w.1 then cqMove q l c host k (o + n) w.2 else (2, w.2)

/-- The queue takes descriptors: enabled, not stopped by a fault, by its page's isolation or by a wipe (R12, R501), not empty,
and of a paddock that is OPEN or completes its last one (R460, R461). -/
def cqRuns (d : Dev) (q : Nat) : Bool :=
  cqOn d q && !rb d (cqPage q) (cqBase q + Reg.Cq.CQ_STAT) 31 && cqRptr d q != cqWptrOf d q && !isoOf d (cqPage q) && !wiping d &&
    (decide (q < 2) || padState d (q - 2) == 1 || (padState d (q - 2) == 2 && (padOf d (q - 2)).cqLast))

/-- CQ_DESC_DONE: the descriptor at CQ_RPTR is carried out and completes, or stops the queue (R455). -/
def doCqDesc (q : Nat) (host : List Byte) (d : Dev) : Dev :=
  if !cqRuns d q then d
  else
    let l : Lane := { tier := 1, port := 6 + Config.freeNat d.free 0x453 % 8 }
    let r := memRead (cqRingWho q) l (cqRing d q + 32 * cqRptr d q) 32 (tick d)
    let c := cqDesc r.1.bytes
    if !r.1.ok then cqFault q 2 r.2
    else if r.1.poison then cqFault q 3 r.2
    else if cqBad c then cqFault q 1 r.2
    else
      let m := cqMove q l c host 257 0 r.2
      if m.1 ≠ 0 then cqFault q m.1 m.2
      else
        let pg := cqPage q
        let b := cqBase q
        let d := sf pg (b + Reg.Cq.CQ_RPTR) 11 0 ((cqRptr m.2 q + 1) % cqSize m.2 q) m.2
        let d := sf pg (b + Reg.Cq.CQ_STAT) 23 0 c.cookie (bump pg (b + Reg.Cq.CQ_DONE) 15 0 d)
        let d := if q < 2 then d else modPad (q - 2) (fun s => { s with cqLast := false }) d
        if c.flags.testBit 3 then event pg (if q < 2 then Reg.Mgr.EV_COPY_DONE else Reg.Pad.EV_COPY_DONE) d else d
def execCqDescDone (q : Fin 514) (host : List Byte) (s : State) := onDev (doCqDesc q.val host) s

/-! ## The aperture (R444) -/

/-- Bytes of a width. -/
def widthBytes : Width → Nat
  | .b1 => 1
  | .b2 => 2
  | .b4 => 4
  | .b8 => 8

/-- APERTURE_ACCESS: a host reads (no `v`) or writes through VF BAR2. -/
def doAperture (p off n : Nat) (v : Option (BitVec 64)) (d : Dev) : Dev :=
  let a := rf d (.pset p 0) Reg.Pad.APERTURE 5 0 * 2 ^ 28 + off
  let who := Who.party (.paddock (Fin.ofNat 512 p))
  let l : Lane := { tier := 1, port := 14 + (portOf d p).getD 0 }
  let miss := fun (d : Dev) =>
    event (.pset p 0) Reg.Pad.EV_APERTURE_MISS (bump (.pset p 0) Reg.Pad.INTAKE_COUNT 31 16 d)
  if !vfLive d p then d
  else if isoOf d (.pset p 0) then { miss d with resp := if v.isSome then d.resp else 0 }
  else
    match v with
    | none =>
      let r := memRead who l a n d
      if r.1.ok then { r.2 with resp := BitVec.ofNat 64 (leNat r.1.bytes), poisoned := r.1.poison }
      else { miss r.2 with resp := 0 }
    | some x =>
      let w := memWrite who l a (leBytes n x.toNat) d
      if w.1 then w.2 else miss w.2
def execApertureAccess (p : Fin 512) (off : BitVec 28) (w : Width) (v : Option (BitVec 64)) (s : State) :=
  onDev (doAperture p.val off.toNat (widthBytes w) v) s

end Sys2Proof.Machine
end

