-- ==== Sys2Proof/Machine/Held.lean ====
section
/-! DEFINITION. Held requests: the pages of a block, HOLD, the latches and what counts them ("Fold and Field Worlds",
R491–R493). -/
namespace Sys2Proof.Machine

/-- The pages of `n` blocks whose codes begin at `lo`, one page each. -/
def codeRun (code lo n : Nat) (f : Nat → Page) : List Page := if lo ≤ code ∧ code < lo + n then [f (code - lo)] else []

/-- The pages of a block that takes requests, and of PST, whose banks take them through BANK_MODE (R34, R610). -/
def blockPages (code : Nat) : List Page :=
  match code with
  | 0x03 => (List.range 4).map .pst
  | 0x10 => [.cmp]
  | 0x13 => [.cam]
  | 0x14 => [.gpu]
  | 0x15 => .tch :: (List.range 8).map .panel
  | 0x16 => (List.range 4).map .aud
  | 0x17 => (List.range 4).map .tly
  | c =>
    codeRun c 0x11 2 .wb ++ codeRun c 0x20 8 .head ++ codeRun c 0x28 8 .chk ++ codeRun c 0x30 8 .port ++ codeRun c 0x38 8 .lg ++
      codeRun c 0x40 64 .pipe ++ codeRun c 0x80 16 .stream ++ codeRun c 0x90 8 .dw

/-- HOLD is 1 in a page of the block (R491). -/
def holdOn (d : Dev) (code : Nat) : Bool := (blockPages code).any (fun p => rb d p Reg.HOLD 0)

/-- How many requests of a block are latched. -/
def latchedOf (d : Dev) (code : Nat) : Nat :=
  (blkOf d code).heldClk.toNat + (blkOf d code).heldPwr.toNat + (blkOf d code).heldRst.toNat +
    (if code = 0x03 then (d.pst.latched.filter (fun e => e.2.isSome)).length else 0)

/-- HOLD of a page as it reads: PENDING_HELD shows a latched request in every page of the block (R48, R491). -/
def holdRead (d : Dev) (p : Page) : Word := putBit (rg d p Reg.HOLD) 8 (decide (0 < latchedOf d p.code) && (blockPages p.code).contains p)

/-- HELD_MAP_i (R504). -/
def heldMap (d : Dev) (i : Nat) : Word :=
  BitVec.ofNat 32 ((List.range 32).foldl (fun a j => if 0 < latchedOf d (32 * i + j) then a + 2 ^ j else a) 0)

/-- A request is latched (R491). -/
def heldLatch (d : Dev) : Dev := event (.wld 1) 0 (bump (.wld 1) Reg.Wld1.HELD_COUNT 31 16 d)

/-- Latched requests are withdrawn (R492). -/
def heldWithdraw (n : Nat) (d : Dev) : Dev := if n = 0 then d else event (.wld 1) 2 (addTo (.wld 1) Reg.Wld1.HELD_COUNT 15 0 n d)

/-- Latched requests act. -/
def heldRelease (d : Dev) : Dev := event (.wld 1) 1 d

end Sys2Proof.Machine
end

