-- ==== Sys2Proof/Machine/Pasture.lean ====
section
/-! DEFINITION. Pasture: its accesses as commands, the background test and repair, and the power of its banks ("Pasture
On-Chip Memory", R543–R564). The accesses themselves stand in Memory. -/
namespace Sys2Proof.Machine

/-- Bytes of a bank and of a row (R544). -/
def bankBytes : Nat := 0x80000
def rowBytes : Nat := 64

/-- A Field-world access below a fold line by a core is denied (R475). -/
def fieldDeny (d : Dev) : Dev :=
  raiseFault (.wld 0) Reg.Wld0.SRC_FIELD_DENY Reg.Wld0.EV_FIELD_DENY (bump (.wld 0) Reg.Wld0.DENY_COUNT 31 16 d)

/-- Bit errors come about in Pasture: one bit of a word, or two. -/
def flipWords (flips : List (Nat × Bool)) (d : Dev) : Dev :=
  flips.foldl (fun d f => if pastErr d f.1 = 3 then d else setPastErr f.1 (if f.2 ∨ pastErr d f.1 ≠ 0 then 2 else 1) d) d

/-- ARB_WAIT_MAX takes a wait (R561). -/
def arbWait (tier waited : Nat) (d : Dev) : Dev :=
  let up := fun hi lo => sf (.pst 2) Reg.Pst2.ARB_WAIT_MAX hi lo (max (rf d (.pst 2) Reg.Pst2.ARB_WAIT_MAX hi lo) (min 65535 waited)) d
  if tier = 1 then up 31 16 else if tier = 2 then up 15 0 else d

/-- PROC_WAIT_MAX as it acts (R549). -/
def procWaitMax (d : Dev) : Nat := clampN 4 255 (rf d (.pst 2) Reg.Pst2.ARB_CFG 7 0)

/-- The rank of a request at its bank: the highest tier first, and a processor request that has waited PROC_WAIT_MAX cycles above
tier 1 (R549). -/
def pastRank (d : Dev) (r : PastReq) : Nat :=
  if r.tier = 0 then 0 else if r.tier = 2 ∧ procWaitMax d ≤ r.waited then 1 else r.tier.val + 1

/-- Of two requests, the one that a bank serves first: by rank, then the oldest, then the lower requester number (R548, R549). -/
def pastBefore (d : Dev) (a b : PastReq) : Bool :=
  decide (pastRank d a < pastRank d b) ||
    (pastRank d a == pastRank d b && (decide (b.waited < a.waited) || (a.waited == b.waited && decide (a.num ≤ b.num))))

/-- Requests in the order in which their banks serve them. -/
def pastOrder (d : Dev) : List PastReq → List PastReq
  | [] => []
  | r :: rs => put r (pastOrder d rs)
where
  /-- A request takes its place. -/
  put (r : PastReq) : List PastReq → List PastReq
    | [] => [r]
    | x :: l => if pastBefore d r x then r :: x :: l else x :: put r l

/-- A request is served: it reads or writes, unless its world may not. What reads bring stands in a row. -/
def pastServe (d : Dev) (r : PastReq) : Dev :=
  let o := r.off.toNat
  let len := match r.v with | some bs => bs.length | none => r.bytes
  if 0x2000000 < o + len then d
  else if !r.fold && decide (o < pastFold d) then (if r.tier = 2 then fieldDeny d else d)
  else
    let d := arbWait r.tier.val r.waited d
    match r.v with
    | some bs => pastWrite (bs.length / 64 + 2) r.tier.val o bs d
    | none =>
      let x := pastRead (r.bytes / 64 + 2) r.tier.val o r.bytes d
      { x.2.2 with data := x.2.2.data ++ x.1, poisoned := x.2.2.poisoned || x.2.1 }

/-- Requests that are at their banks together are served in the order of the arbitration. Errors that came about since are given
with them. -/
def doPastAccess (reqs : List PastReq) (flips : List (Nat × Bool)) (d : Dev) : Dev :=
  (pastOrder d reqs).foldl pastServe (flipWords flips { d with data := [], poisoned := false })
/-- PASTURE_ACCESS: a request, with those that stand at their banks with it. -/
def execPastureAccess (tier : Fin 4) (fold : Bool) (off : BitVec 25) (bytes : Nat) (v : Option (List Byte))
    (flips : List (BitVec 22 × Bool)) (turn : PastTurn) (s : State) :=
  onDev (doPastAccess (⟨tier, turn.num, fold, off, bytes, v, turn.waited⟩ :: turn.others) (flips.map (fun f => (f.1.toNat, f.2)))) s

/-- ECC_WRITEBACK: the bank writes back the corrected word that has waited longest (R545). -/
def doEccWriteback (b : Nat) (d : Dev) : Dev :=
  match d.pst.wb.find? (fun w => w * 8 / bankBytes == b) with
  | some w =>
    let d := modPst (fun p => { p with wb := p.wb.filter (· != w) }) d
    if pastErr d w = 1 then setPastErr w 0 d else d
  | none => d
def execEccWriteback (b : Fin 64) (s : State) := onDev (doEccWriteback b.val) s

/-! ## Background test and repair (R547, R551–R554) -/

/-- The rows of a bank that spares serve, and its retired spares. -/
def bankMaps (d : Dev) (b : Nat) : List (Nat × Nat) := tabGet (fun _ => []) d.pst.maps b
def bankBad (d : Dev) (b : Nat) : List Nat := tabGet (fun _ => []) d.pst.bad b

/-- The lowest unused spare of a bank. -/
def freeSpare (d : Dev) (b : Nat) : Option Nat :=
  (List.range 16).find? (fun s => !(bankBad d b).contains s && (bankMaps d b).all (fun m => m.2 != s))

/-- A spare is retired. -/
def retire (b s : Nat) (d : Dev) : Dev := modPst (fun p => { p with bad := tabSet (fun _ => []) p.bad b (bankBad d b ++ [s]) }) d

/-- A row goes to a spare (R553). -/
def repairRow (b r s : Nat) (d : Dev) : Dev :=
  let d := modPst (fun p => { p with maps := tabSet (fun _ => []) p.maps b ((bankMaps d b).filter (fun m => m.1 != r) ++ [(r, s)]) }) d
  let d := sf (.pst 3) (Reg.Pst3.REPAIR b) 12 0 r (bump (.pst 3) (Reg.Pst3.REPAIR b) 20 16 d)
  raiseFault (.pst 0) Reg.Pst0.SRC_ROW_REPAIRED Reg.Pst0.EV_ROW_REPAIRED d

/-- A row fails and no spare is left: its words are marked poisoned until the next start (R554). -/
def failRow (b r : Nat) (d : Dev) : Dev :=
  let w0 := (b * bankBytes + r * rowBytes) / 8
  let d := forN (fun i => setPastErr (w0 + i) 3) 8 d
  let d := when (!rb d (.pst 3) (Reg.Pst3.REPAIR b) 31) (bump (.pst 0) Reg.Pst0.BANKS_FAILED 6 0) d
  raiseFault (.pst 0) Reg.Pst0.SRC_BANK_FAIL Reg.Pst0.EV_BANK_FAIL (sb (.pst 3) (Reg.Pst3.REPAIR b) 31 true d)

/-- A data row needs another place. -/
def moveRow (b r : Nat) (d : Dev) : Dev :=
  match freeSpare d b with
  | some s => repairRow b r s d
  | none => failRow b r d

/-- A row of a bank, or spare row (8,192 and above), fails its test (R553, R554). A retired row serves no more. -/
def rowFails (b r : Nat) (d : Dev) : Dev :=
  if (if r < 8192 then (bankMaps d b).any (fun m => m.1 == r) else (bankBad d b).contains (r - 8192)) then d
  else
    let d := event (.pst 0) Reg.Pst0.EV_TEST_FAIL (bump (.pst 0) Reg.Pst0.TEST_COUNT 31 16 d)
    if r < 8192 then moveRow b r d
    else
      match (bankMaps d b).find? (fun m => m.2 == r - 8192) with
      | some m => moveRow b m.1 (retire b (r - 8192) d)
      | none => retire b (r - 8192) d

/-- The row that a bank's test comes to. -/
def testAt (d : Dev) (b : Nat) : Nat := tabGet (fun _ => 0) d.pst.row b

/-- A bank that is ON tests its next row; another one misses the interval (R551). -/
def testBank (fails : List Nat) (b : Nat) (d : Dev) : Dev :=
  if bankState d b ≠ 0 then bump (.pst 0) Reg.Pst0.TEST_COUNT 15 0 d
  else
    let r := testAt d b
    let d := if fails.contains b then rowFails b r d else d
    let n := (r + 1) % 8208
    let d := modPst (fun p => { p with
      row := tabSet (fun _ => 0) p.row b n, done := if n = 0 ∧ !p.done.contains b then p.done ++ [b] else p.done }) d
    if b = 0 then sf (.pst 0) Reg.Pst0.TEST_STAT 13 0 n d else d

/-- TEST_ROW: a pace interval ends (R551, R563). -/
def doTestRow (fails : List Nat) (d : Dev) : Dev :=
  if !rb d (.pst 0) Reg.Pst0.TEST_CFG 31 || isoOf d (.pst 0) then d
  else
    let d := forN (testBank fails) 64 d
    let on := (List.range 64).filter (fun b => bankState d b == 0)
    if on ≠ [] ∧ on.all (fun b => d.pst.done.contains b) = true then
      event (.pst 0) Reg.Pst0.EV_PASS_DONE (bump (.pst 0) Reg.Pst0.TEST_STAT 31 16 (modPst (fun p => { p with done := [] }) d))
    else d
def execTestRow (fails : List (Fin 64)) (s : State) := onDev (doTestRow (fails.map (·.val))) s

/-- The start of the Fell die: every row is tested, what fails is repaired, and Pasture is zero with every bank ON (R547). -/
def pastStart (fails : List (Nat × Nat)) (d : Dev) : Dev :=
  fails.foldl (fun d f => rowFails f.1 f.2 d) { d with pasture := [], pst := {} }

/-! ## Bank power (R489, R555–R558) -/

/-- BANK_RETENTION: a bank in AUTO has had no access for RET_IDLE µs. -/
def doBankRetention (b : Nat) (d : Dev) : Dev := if bankState d b = 0 ∧ bankMode d b = 0 then setBankState b 1 d else d
def execBankRetention (b : Fin 64) (s : State) := onDev (doBankRetention b.val) s

/-- BANK_WAKE: a bank reaches ON; from OFF it is zeroed first, and RETAIN takes it on to RETENTION (R555, R556). -/
def doBankWake (b : Nat) (d : Dev) : Dev :=
  if bankState d b ≠ 3 then d
  else if d.pst.offWake.contains b then
    let next := if d.pst.retain.contains b then 1 else 0
    let d := modPst (fun p => { p with offWake := p.offWake.filter (· != b), retain := p.retain.filter (· != b) }) d
    event (.pst 1) Reg.Pst1.EV_BANK_ON (setBankState b next (pastZero (b * bankBytes) bankBytes d))
  else setBankState b 0 d
def execBankWake (b : Fin 64) (s : State) := onDev (doBankWake b.val) s

/-- A bank takes a mode (R556). -/
def bankTake (b m : Nat) (d : Dev) : Dev :=
  let st := bankState d b
  let rise := fun (keep : Bool) (d : Dev) =>
    setBankState b 3 (modPst (fun p => { p with offWake := p.offWake ++ [b], retain := if keep then p.retain ++ [b] else p.retain }) d)
  if m = 2 then
    let d := modPst (fun p => { p with offWake := p.offWake.filter (· != b), retain := p.retain.filter (· != b) }) d
    setBankMode b 2 (setBankState b 2 (pastZero (b * bankBytes) bankBytes d))
  else if m = 3 then
    let d := setBankMode b 0 d
    if st = 2 then rise true d
    else if st = 3 ∧ d.pst.offWake.contains b = true then modPst (fun p => { p with retain := p.retain.filter (· != b) ++ [b] }) d
    else setBankState b 1 d
  else
    let d := setBankMode b m d
    if st = 2 then rise false d
    else if st = 1 ∧ m = 1 then setBankState b 3 d
    else modPst (fun p => { p with retain := p.retain.filter (· != b) }) d

/-- Two ranges of Pasture share a byte. -/
def overlaps (a n lo hi : Nat) : Bool := decide (0 < n ∧ a < hi ∧ lo < a + n)

/-- The ring, dewarp output ring or applied mesh of an enabled stream lies in a range; `all` counts the Fold part's streams. -/
def streamUses (d : Dev) (all : Bool) (lo hi : Nat) : Bool :=
  (List.range 16).any (fun n =>
    (streamOf d n).on && (all || !ownedByFold d (.stream n)) &&
      ((stRing d n && overlaps (rf d (.stream n) Reg.Stream.RING_ADDR 24 0) (ringEnd d n - rf d (.stream n) Reg.Stream.RING_ADDR 24 0) lo hi) ||
       (match stDw d n with
        | none => false
        | some e =>
          let m := match (dwOf d e).mesh with | some m => m | none => meshRegs d e
          overlaps (rf d (.dw e) Reg.Dw.DW_OUT_ADDR 24 0) (8 * pitchOf m.outW (stType d n)) lo hi ||
            overlaps m.addr (8 * m.cols * m.rows) lo hi)))

/-- A range holds part of PREEMPT_AREA (R296): the firmware has set it, and it is 6 MiB. -/
def preemptUses (d : Dev) (lo hi : Nat) : Bool :=
  decide (0 < rf d .gpu Reg.Gpu.PREEMPT_AREA 24 0) && overlaps (rf d .gpu Reg.Gpu.PREEMPT_AREA 24 0) 0x600000 lo hi

/-- A bank is in use (R557). -/
def bankInUse (d : Dev) (b : Nat) : Bool :=
  preemptUses d (b * bankBytes) ((b + 1) * bankBytes) || streamUses d true (b * bankBytes) ((b + 1) * bankBytes)

/-- PWR_STAT records the last refusal (R557). -/
def pwrStat (b reason : Nat) (d : Dev) : Dev := sg (.pst 1) Reg.Pst1.PWR_STAT (BitVec.ofNat 32 (b * 256 + reason)) d

/-- A mode 2 or 3 for a bank is judged (R489, R557): refused, latched under HOLD, or taken. `late`: it has been latched before. -/
def bankAsk (field late : Bool) (b m : Nat) (d : Dev) : Dev :=
  if field && decide (b * bankBytes < pastFold d) then
    event (.wld 0) Reg.Wld0.EV_PASTURE_OFF_REFUSED (bump (.wld 0) Reg.Wld0.DENY_COUNT 15 0 (pwrStat b 1 d))
  else if bankInUse d b then
    raiseFault (.pst 1) Reg.Pst1.SRC_POWER_REFUSED Reg.Pst1.EV_POWER_REFUSED
      (bump (.pst 1) Reg.Pst1.POWER_COUNT 31 16 (pwrStat b 2 d))
  else if field && !late && holdOn d 0x03 then
    heldLatch (modPst (fun p => { p with latched := tabSet (fun _ => none) p.latched b (some m) }) d)
  else bankTake b m d

/-- A field of a BANK_MODE write. A field that repeats mode 2 of a bank asks for nothing. -/
def bankField (who : Party) (v : Word) (i j : Nat) (d : Dev) : Dev :=
  let b := 16 * i + j
  let m := fld v (2 * j + 1) (2 * j)
  if 2 ≤ m then (if m = 2 ∧ bankMode d b = 2 then d else bankAsk (who != .fold) false b m d)
  else
    let d := if who ≠ .fold ∧ (tabGet (fun _ => none) d.pst.latched b).isSome = true then
        heldWithdraw 1 (modPst (fun p => { p with latched := tabSet (fun _ => none) p.latched b none }) d)
      else d
    if m = bankMode d b then d else bankTake b m d

/-- A write of BANK_MODE_i; an isolated page freezes the modes (R556, R563). -/
def bankModes (who : Party) (i : Nat) (v : Word) (d : Dev) : Dev :=
  if isoOf d (.pst 1) then d else forN (bankField who v i) 16 d

/-- BANK_MODE_WRITE. -/
def doBankModes (who : Party) (i : Nat) (v : Word) (d : Dev) : Dev :=
  onWrite who (.pst 1) (Reg.Pst1.BANK_MODE i) (bankModes who i v) d
def execBankModeWrite (who : Party) (i : Fin 4) (v : Word) (s : State) := onDev (doBankModes who i.val v) s

/-- The latched modes act (R556). -/
def banksAct (d : Dev) : Dev :=
  let l := d.pst.latched
  l.foldl (fun d e => match e.2 with | some m => bankAsk true true e.1 m d | none => d) (modPst (fun p => { p with latched := [] }) d)

/-- PST_RESTART: isolation of every PST page ends (R563). -/
def pstCtrl (v : Word) (d : Dev) : Dev :=
  if bitOf v 31 then forN (fun k d => if isoOf d (.pst k) then endIso (.pst k) d else d) 4 d else d
def doPstRestart (who : Party) (d : Dev) : Dev := onWrite who (.pst 0) Reg.Pst0.PST_CTRL (pstCtrl 0x80000000) d
def execPstRestart (who : Party) (s : State) := onDev (doPstRestart who) s

end Sys2Proof.Machine
end

