-- ==== Sys2Proof/Machine/Ports.lean ====
section
/-! DEFINITION. Output ports: source head, link training and bandwidth, HPD, AUX transactions and shorts (R200–R206,
R213–R215). -/
namespace Sys2Proof.Machine


/-- The MODE of a PORT_CTRL word; 3 is treated as 0. -/
def modeOf (v : Word) : Nat := if fld v 1 0 = 3 then 0 else fld v 1 0

/-- The largest rate code of a port's last training, with the limits of its mode (R201, R214). -/
def maxRate (d : Dev) (n : Nat) : Nat :=
  let v := (portS d n).ctrl
  min (fld v 18 16) (if modeOf v = 2 then 3 else 5)

/-- The largest number of lanes of a port's last training. -/
def maxLanes (d : Dev) (n : Nat) : Nat := 2 ^ min 2 (fld (portS d n).ctrl 13 12)

/-- Lane rates in Mbit/s by code (R201). -/
def rateMbit : Nat → Nat
  | 0 => 1620
  | 1 => 2700
  | 2 => 5400
  | 3 => 8100
  | 4 => 10000
  | _ => 13500

/-- The trained link carries the head's stream (R202). -/
def linkCarries (d : Dev) (n h : Nat) : Bool :=
  let rate := rf d (.port n) Reg.Port.LINK_STAT 26 24
  let lanes := rf d (.port n) Reg.Port.LINK_STAT 18 16
  let need := pclkKhz d h * 3 * outBits d h * 1005
  let cap := lanes * rateMbit rate * 1000000
  if rate < 4 then decide (need * 1000 ≤ cap * 776) else decide (need * 13200 ≤ cap * 12416)

/-- The links of the ports that a head feeds have finished their training (R96). -/
def linkReady (d : Dev) (h : Nat) : Bool :=
  (List.range 8).all (fun n => (portS d n).src != some h || (portS d n).mode == 0 || linkState d n == 3)

/-- A head of the first-picture set whose links have come up notes the time. -/
def noteLink (d : Dev) : Dev :=
  forN (fun h d => if (headOf d h).first && (headOf d h).firstAt.isNone && linkReady d h then
    modHead h (fun s => { s with firstAt := some d.us }) d else d) 8 d


/-- A training from the top, or the state that stands in its way (R203, R205, R206, R214). -/
def train (n : Nat) (d : Dev) : Dev :=
  let v := rg d (.port n) Reg.Port.PORT_CTRL
  if stands d (.port n) then d
  else
    let d := modPort n (fun s => { s with mode := modeOf v }) d
    if modeOf v = 0 then setPort n 0 false d
    else if rg d (.port n) Reg.Port.SHORT_STAT ≠ 0 then setPort n 5 false d
    else if !rb d (.port n) Reg.Port.LINK_STAT 31 then setPort n 1 false d
    else
      emit (.train n (v &&& 0x7FFFFFFF) (rg d (.port n) Reg.Port.PORT_PHY))
        (bump (.port n) Reg.Port.TRAIN_COUNT 31 16 (setPort n 2 false (modPort n (fun s => { s with ctrl := v }) d)))

/-- The port sends no stream: the link cannot carry it (R202). -/
def bwShort (n : Nat) (d : Dev) : Dev :=
  raiseFault (.port n) Reg.Port.SRC_BW_SHORT Reg.Port.EV_BW_SHORT (setPort n 4 true d)

/-- LINK_TRAINING_DONE. -/
def doLinkTrainingDone (n : Nat) (ok : Bool) (rate lanes : Nat) (msa : Bool) (d : Dev) : Dev :=
  if linkState d n ≠ 2 then d
  else if !ok then
    raiseFault (.port n) Reg.Port.SRC_TRAIN_FAIL Reg.Port.EV_TRAIN_FAIL
      (bump (.port n) Reg.Port.TRAIN_COUNT 15 0 (setPort n 4 false d))
  else
    let d := sf (.port n) Reg.Port.LINK_STAT 26 24 (min rate (maxRate d n))
      (sf (.port n) Reg.Port.LINK_STAT 18 16 (min lanes (maxLanes d n)) (sb (.port n) Reg.Port.LINK_STAT 28 msa d))
    let d := noteLink (event (.port n) Reg.Port.EV_TRAINED (setPort n 3 true (when msa (emit (.msaIgnore n)) d)))
    match (portS d n).src with
    | some h => if linkCarries d n h then d else bwShort n d
    | none => d

/-- The streams of the ports that a head feeds start at its frame begin (R200). -/
def startStreams (h : Nat) (d : Dev) : Dev :=
  forN (fun n d => if (portS d n).src = some h ∧ linkState d n = 3 then sb (.port n) Reg.Port.LINK_STAT 29 true d else d) 8 d

/-- The streams of a head's ports stop (R180). -/
def stopStreams (h : Nat) (d : Dev) : Dev :=
  forN (fun n d => if (portS d n).src = some h then sb (.port n) Reg.Port.LINK_STAT 29 false d else d) 8 d

/-- The source of a port is chosen anew: a head feeds at most one port, and the link is trained again where it cannot carry
the new head (R200). -/
def connect (n : Nat) (d : Dev) : Dev :=
  let v := rg d (.port n) Reg.Port.PORT_CTRL
  let h := fld v 22 20
  let d := sb (.port n) Reg.Port.LINK_STAT 29 false (modPort n (fun s => { s with src := none, refused := false }) d)
  if !bitOf v 23 then d
  else if (List.range 8).any (fun m => (portS d m).src == some h) then
    raiseFault (.port n) Reg.Port.SRC_SRC_REFUSED Reg.Port.EV_SRC_REFUSED (modPort n (fun s => { s with refused := true }) d)
  else
    let d := modPort n (fun s => { s with src := some h }) d
    if linkState d n = 3 ∧ !linkCarries d n h then train n d else d

/-- A write of PORT_CTRL; RETRAIN ends isolation and trains from the top (R203, R214, R215). -/
def portCtrl (n : Nat) (v : Word) (d : Dev) : Dev :=
  let old := rg d (.port n) Reg.Port.PORT_CTRL
  let d := plainWrite (.port n) Reg.Port.PORT_CTRL (v &&& 0x7FFFFFFF) d
  let d := if fld v 23 20 = fld old 23 20 then d else connect n d
  if !bitOf v 31 then d
  else train n (if isoOf d (.port n) then endIso (.port n) d else d)

/-- PORT_SOURCE_CHANGE: the write with the new source and the other fields as they are. -/
def execPortSourceChange (who : Party) (n : Fin 8) (en : Bool) (h : Fin 8) (s : State) :=
  onDev (onWrite who (.port n.val) Reg.Port.PORT_CTRL (fun d =>
    portCtrl n.val (setFld (rg d (.port n.val) Reg.Port.PORT_CTRL) 23 20 (en.toNat * 8 + h.val)) d)) s

/-- RETRAIN: the write with RETRAIN 1 and the other fields as they are. -/
def execRetrain (who : Party) (n : Fin 8) (s : State) :=
  onDev (onWrite who (.port n.val) Reg.Port.PORT_CTRL (fun d =>
    portCtrl n.val (rg d (.port n.val) Reg.Port.PORT_CTRL ||| 0x80000000) d)) s

/-- LINK_TRAINING_DONE. -/
def execLinkTrainingDone (n : Fin 8) (ok : Bool) (rate : Fin 6) (lanes : Fin 3) (msaIgnore : Bool) (s : State) :=
  onDev (doLinkTrainingDone n.val ok rate.val (2 ^ lanes.val) msaIgnore) s

/-- TRAIN_RETRY: a port that failed trains again while HPD is high (R202). -/
def execTrainRetry (n : Fin 8) (s : State) := onDev (fun d => if linkState d n.val = 4 then train n.val d else d) s

/-- HPD_UNPLUG (R203). -/
def doHpdUnplug (n : Nat) (d : Dev) : Dev :=
  if !rb d (.port n) Reg.Port.LINK_STAT 31 then d
  else
    let d := sb (.port n) Reg.Port.LINK_STAT 31 false d
    let st := linkState d n
    event (.port n) Reg.Port.EV_HPD_UNPLUG (setPort n (if st = 0 ∨ st = 5 ∨ st = 6 then st else 1) false d)

/-- HPD_UNPLUG. -/
def execHpdUnplug (n : Fin 8) (s : State) := onDev (doHpdUnplug n.val) s

/-- HPD_PLUG (R203). -/
def doHpdPlug (n : Nat) (d : Dev) : Dev :=
  if rb d (.port n) Reg.Port.LINK_STAT 31 then d
  else train n (event (.port n) Reg.Port.EV_HPD_PLUG (sb (.port n) Reg.Port.LINK_STAT 31 true d))

/-- HPD_PLUG. -/
def execHpdPlug (n : Fin 8) (s : State) := onDev (doHpdPlug n.val) s

/-- IRQ_HPD (R203). -/
def doIrqHpd (n : Nat) (lost : Bool) (d : Dev) : Dev :=
  if !rb d (.port n) Reg.Port.LINK_STAT 31 then d
  else
    let d := event (.port n) Reg.Port.EV_IRQ_HPD d
    if lost && rb d (.port n) Reg.Port.LINK_STAT 30 then
      train n (raiseFault (.port n) Reg.Port.SRC_LINK_LOST Reg.Port.EV_LINK_LOST d)
    else d

/-- IRQ_HPD. -/
def execIrqHpd (n : Fin 8) (lost : Bool) (s : State) := onDev (doIrqHpd n.val lost) s

/-- An AUX transaction ends with a RESULT (R204). -/
def auxEnd (n result : Nat) (d : Dev) : Dev :=
  event (.port n) Reg.Port.EV_AUX_DONE (sf (.port n) Reg.Port.AUX_STAT 3 0 result
    (sb (.port n) Reg.Port.AUX_STAT 31 false (modPort n (fun s => { s with aux := none, auxOut := false, auxMute := false }) d)))

/-- A write of AUX_CMD (R204, R213). -/
def auxCmdWrite (n : Nat) (v : Word) (d : Dev) : Dev :=
  if !bitOf v 31 then d
  else if rb d (.port n) Reg.Port.AUX_STAT 31 ∨ !([0, 1, 4, 5, 8, 9].contains (fld v 3 0)) then
    sf (.port n) Reg.Port.AUX_STAT 3 0 3 d
  else
    let d := sg (.port n) Reg.Port.AUX_STAT 0x80000000 (modPort n (fun s => { s with aux := some v, auxOut := false, auxMute := false }) d)
    if rf d (.port n) Reg.Port.SHORT_STAT 9 8 ≠ 0 then auxEnd n 4 d else auxSend n d

/-- AUX_CMD. -/
def execAuxCmd (who : Party) (n : Fin 8) (v : Word) (s : State) :=
  onDev (onWrite who (.port n.val) Reg.Port.AUX_CMD (auxCmdWrite n.val v)) s

/-- The data of an AUX read in AUX_DATA. -/
def auxStore (n : Nat) (bytes : List Byte) (d : Dev) : Dev :=
  forN (fun i d =>
    let old := wordBytes (rg d (.port n) (Reg.Port.AUX_DATA i))
    let new := (bytes.drop (4 * i)).take 4
    sg (.port n) (Reg.Port.AUX_DATA i) (BitVec.ofNat 32 (leNat (new ++ old.drop new.length))) d) 4 d

/-- AUX_DONE. The last reply at the defer limit was DEFER; a request that the port could not send ends in the timeout (DESIGN
CHOICE: R206 powers the transmitter down and says nothing of a request made then). -/
def doAuxDone (n result reply count : Nat) (bytes : List Byte) (d : Dev) : Dev :=
  match (portS d n).aux with
  | none => d
  | some v =>
    if !(portS d n).auxOut then d
    else if (portS d n).auxMute then auxEnd n 1 d
    else if result ≠ 0 then auxEnd n result (when (result == 2) (sf (.port n) Reg.Port.AUX_STAT 13 12 2) d)
    else
      let c := min count (fld v 11 8 + 1)
      let d := sf (.port n) Reg.Port.AUX_STAT 20 16 c (sf (.port n) Reg.Port.AUX_STAT 13 12 reply d)
      auxEnd n 0 (if bitOf v 0 then auxStore n (bytes.take c) d else d)

/-- AUX_DONE. -/
def execAuxDone (n : Fin 8) (result reply : Fin 3) (count : Fin 17) (bytes : List Byte) (s : State) :=
  onDev (doAuxDone n.val result.val reply.val count.val bytes) s

/-- SHORT (R205). An isolated port keeps its state. -/
def doShort (n lane kind : Nat) (d : Dev) : Dev :=
  if modeOf (rg d (.port n) Reg.Port.PORT_CTRL) = 0 ∧ (portS d n).mode = 0 then d
  else
    let d := sf (.port n) Reg.Port.SHORT_STAT (2 * lane + 1) (2 * lane) kind d
    let d := raiseFault (.port n) Reg.Port.SRC_SHORT Reg.Port.EV_SHORT (if linkState d n = 6 then d else setPort n 5 false d)
    if lane = 4 ∧ rb d (.port n) Reg.Port.AUX_STAT 31 then auxEnd n 4 d else d

/-- SHORT. -/
def execShort (n : Fin 8) (lane : Fin 5) (supply : Bool) (s : State) :=
  onDev (doShort n.val lane.val (if supply then 2 else 1)) s

/-- SHORT_RETEST (R205). -/
def doShortRetest (n : Nat) (kinds : List Nat) (d : Dev) : Dev :=
  if rg d (.port n) Reg.Port.SHORT_STAT = 0 then d
  else
    let w := (List.range 5).foldl (fun v i => setFld v (2 * i + 1) (2 * i) (kinds.getD i 0)) (0 : Word)
    let d := sg (.port n) Reg.Port.SHORT_STAT w d
    if w = 0 ∧ linkState d n = 5 then train n d else d

/-- SHORT_RETEST. -/
def execShortRetest (n : Fin 8) (kinds : List (Fin 3)) (s : State) := onDev (doShortRetest n.val (kinds.map (·.val))) s

end Sys2Proof.Machine
end

