-- ==== Sys2Proof/Machine/Tally.lean ====
section
/-! DEFINITION. Tally: the counters, their modes, overflow and samples ("Tally Performance Counters", R625–R638). What the
blocks present to a counter in a fabric cycle stands in the operand of TALLY_COUNT. -/
namespace Sys2Proof.Machine

/-- Tally changed. -/
def modTly (f : TlyS → TlyS) (d : Dev) : Dev := { d with tly := f d.tly }

/-- Non-invasive access of a world is in effect; an invasive enable includes it (R494). -/
def nonInvasive (d : Dev) (fold : Bool) : Bool :=
  if fold then rf d (.wld 0) Reg.Wld0.DEBUG_STAT 1 0 != 0 else rf d (.wld 0) Reg.Wld0.DEBUG_STAT 3 2 != 0

/-! ## Events (R625, R627, R635) -/

/-- How a block code's events are numbered by INST: the number of instances, or none where the code names one instance. -/
def tlyInsts (code : Nat) : Option Nat :=
  match code with
  | 0x00 => some 4 | 0x03 => some 64 | 0x04 => some 8 | 0x05 => some 20 | 0x06 => some 2 | 0xA0 => some 64 | 0xA1 => some 4
  | 0x15 => some 8 | 0x16 => some 3
  | _ => none

/-- The events of a block code (R635). -/
def tlyEvents (code : Nat) : List Nat :=
  match code with
  | 0x00 => [0, 1, 2, 3, 4, 0x10, 0x11]
  | 0x03 => [0, 1, 2]
  | 0x04 => [0, 1, 2, 3, 4, 5, 6]
  | 0x05 => [0, 1, 2]
  | 0x06 => [0, 1, 2]
  | 0x14 => [0, 1, 2]
  | 0xA0 => [0, 1, 2]
  | 0xA1 => [0, 1, 2, 3, 4, 5]
  | 0x15 => [0, 1]
  | 0x16 => [0]
  | 0x18 => [0, 1]
  | c => if 0x20 ≤ c ∧ c < 0x28 then [0, 1, 2, 3, 4] else if 0x40 ≤ c ∧ c < 0x90 then [0, 1] else []

/-- A code of R34 that some block carries. -/
def isBlockCode (c : Nat) : Bool :=
  decide (c ≤ 0x06) || decide (0x10 ≤ c ∧ c ≤ 0x18) || decide (0x20 ≤ c ∧ c ≤ 0x97) || c == 0xA0 || c == 0xA1 ||
    decide (0xC0 ≤ c ∧ c ≤ 0xCF) || decide (0xF0 ≤ c ∧ c ≤ 0xF8)

/-- A CFG word selects a listed event. -/
def tlyListed (c : Word) : Bool :=
  let code := fld c 15 8
  let idx := fld c 7 0
  let inst := fld c 22 16
  let common := decide (0xF0 ≤ idx ∧ idx ≤ 0xF2)
  if code = 0xFF then common && inst == 0
  else
    (isBlockCode code && common || (tlyEvents code).contains idx) &&
      (match tlyInsts code with
       | some n => decide (inst < n) || inst == 0x7F
       | none => inst == 0)

/-- An event that carries a world (W). -/
def tlyWorld (c : Word) : Bool := fld c 15 8 == 0 && [1, 2, 3, 0x10, 0x11].contains (fld c 7 0)

/-- The value that counts: of a world's events only those that the debug enables and WORLD admit. `x` is the value of the Field
world or of a source without a world, `fx` that of the Fold world. -/
def tlyValue (d : Dev) (c : Word) (x fx : Nat) : Nat :=
  if tlyWorld c then
    min 65535 ((if nonInvasive d false ∧ (fld c 30 29 = 0 ∨ fld c 30 29 = 2) then x else 0) +
      (if nonInvasive d true ∧ (fld c 30 29 = 0 ∨ fld c 30 29 = 1) then fx else 0))
  else min 65535 x

/-- What a counter adds (R626). -/
def tlyAdd (mode thr v prev : Nat) : Nat :=
  match mode with
  | 0 => v
  | 1 => if thr ≤ v then 1 else 0
  | 2 => if v < thr then 1 else 0
  | _ => if thr ≤ v ∧ prev < thr then 1 else 0

/-! ## Counters -/

/-- The page of a counter and its place in it. -/
def tlyPage (k : Nat) : Page := .tly (1 + k / 64)
/-- The count of a counter. -/
def tlyCount (d : Dev) (k : Nat) : Nat :=
  (rg d (tlyPage k) (Reg.Tly1.COUNT_LO (k % 64))).toNat + 2 ^ 32 * rf d (tlyPage k) (Reg.Tly1.COUNT_HI (k % 64)) 15 0
/-- The count of a counter set. -/
def setTly (k n : Nat) (d : Dev) : Dev :=
  sf (tlyPage k) (Reg.Tly1.COUNT_HI (k % 64)) 15 0 (n / 2 ^ 32) (sg (tlyPage k) (Reg.Tly1.COUNT_LO (k % 64)) (BitVec.ofNat 32 n) d)
/-- OVF of a counter, in both places. -/
def setOvf (k : Nat) (b : Bool) (d : Dev) : Dev :=
  sb (.tly 0) (Reg.Tly0.OVF_STAT (k / 32)) (k % 32) b (sb (tlyPage k) (Reg.Tly1.COUNT_HI (k % 64)) 31 b d)

/-- Tally counts: RUN is 1 and its function stands by nothing (R629, R636). -/
def tlyRuns (d : Dev) : Bool := rb d (.tly 0) Reg.Tly0.GLB_CTRL 0 && !(List.range 4).any (fun p => stands d (.tly p))

/-- GLB_STAT as it reads. -/
def glbStat (d : Dev) : Word :=
  BitVec.ofNat 32 ((tlyRuns d).toNat * 2 ^ 31 + (nonInvasive d true).toNat * 2 + (nonInvasive d false).toNat)

/-- SMP_STAT.FILL and SMP_DATA show the sample FIFO. -/
def smpShow (d : Dev) : Dev :=
  let h := d.tly.smp.headD []
  forN (fun i => sg (.tly 3) (Reg.Tly3.SMP_DATA i) (h.getD i 0)) 4 (sf (.tly 3) Reg.Tly3.SMP_STAT 5 0 d.tly.smp.length d)

/-- A sample of a counter (R631): what the skid captures is `d1`, `d2`, for the sources that the table names. -/
def smpRecord (d : Dev) (k : Nat) (c : Word) (fold : Bool) (d1 d2 : Word) : List Word :=
  let code := fld c 15 8
  let named := code == 0 || code == 0xA0 || code == 0xA1 || code == 0x14 || decide (0x20 ≤ code ∧ code < 0x30) ||
    decide (0x40 ≤ code ∧ code < 0x80)
  let hide := code == 0 && fold && !nonInvasive d true
  [BitVec.ofNat 32 (k + fold.toNat * 2 ^ 12 + 2 ^ 31), if named && !hide then d1 else 0, if named && !hide then d2 else 0,
   BitVec.ofNat 32 (d.us - d.tch.t0)]

/-- A counter overflows (R630, R631). -/
def tlyOverflow (k : Nat) (c : Word) (fold : Bool) (d1 d2 : Word) (d : Dev) : Dev :=
  let d := event (.tly 0) Reg.Tly0.EV_OVERFLOW (setOvf k true d)
  if !bitOf c 23 then d
  else if d.tly.smp.length < 32 then smpShow (modTly (fun t => { t with smp := t.smp ++ [smpRecord d k c fold d1 d2] }) d)
  else raiseFault (.tly 0) Reg.Tly0.SRC_SMP_LOST Reg.Tly0.EV_SMP_LOST (bump (.tly 3) Reg.Tly3.SMP_STAT 31 16 d)

/-- TALLY_COUNT: in a fabric cycle the source of a counter gives its value. -/
def doTallyCount (k x fx : Nat) (d1 d2 : Word) (d : Dev) : Dev :=
  let c := rg d (.tly 0) (Reg.Tly0.CFG k)
  let v := if tlyListed c then tlyValue d c x fx else 0
  let prev := tabGet (fun _ => 0) d.tly.prev k
  let d := modTly (fun t => { t with prev := tabSet (fun _ => 0) t.prev k v }) d
  if !tlyRuns d || !bitOf c 31 || !tlyListed c || (tlyWorld c && fld c 30 29 == 3) then d
  else
    let n := tlyCount d k + tlyAdd (fld c 28 27) (rf d (.tly 3) (Reg.Tly3.THR (fld c 26 24)) 15 0) v prev
    let d := setTly k (n % 2 ^ 48) d
    if 2 ^ 48 ≤ n then tlyOverflow k c (tlyWorld c && decide (0 < fx) && nonInvasive d true) d1 d2 d else d
def execTallyCount (k : Fin 128) (x foldX : Nat) (d1 d2 : Word) (s : State) := onDev (doTallyCount k.val x foldX d1 d2) s

/-! ## Registers (R629, R632, R638) -/

/-- A write of GLB_CTRL: RESTART, CLEAR and RUN. -/
def glbCtrl (v : Word) (d : Dev) : Dev :=
  let d := when (bitOf v 31) (forN (fun p d => if isoOf d (.tly p) then endIso (.tly p) d else d) 4) d
  let d := when (bitOf v 1) (forN (fun k d => setOvf k false (setTly k 0 d)) 128) d
  sb (.tly 0) Reg.Tly0.GLB_CTRL 0 (bitOf v 0) d

/-- A bit forced on GLB_CTRL beside the present RUN. -/
def glbWith (d : Dev) (v : Word) : Word := v ||| (rg d (.tly 0) Reg.Tly0.GLB_CTRL &&& 1)

/-- RUN. -/
def doRun (who : Party) (on : Bool) (d : Dev) : Dev :=
  onWrite who (.tly 0) Reg.Tly0.GLB_CTRL (glbCtrl (if on then 1 else 0)) d
def execRun (who : Party) (on : Bool) (s : State) := onDev (doRun who on) s

/-- CLEAR. -/
def doTlyClear (who : Party) (d : Dev) : Dev := onWrite who (.tly 0) Reg.Tly0.GLB_CTRL (fun d => glbCtrl (glbWith d 2) d) d
def execClear (who : Party) (s : State) := onDev (doTlyClear who) s

/-- TLY_RESTART. -/
def doTlyRestart (who : Party) (d : Dev) : Dev :=
  onWrite who (.tly 0) Reg.Tly0.GLB_CTRL (fun d => glbCtrl (glbWith d 0x80000000) d) d
def execTlyRestart (who : Party) (s : State) := onDev (doTlyRestart who) s

/-- What a read of COUNT_LO captures and gives. -/
def countLo (k : Nat) (d : Dev) : Word × Dev :=
  (BitVec.ofNat 32 (tlyCount d k),
   modTly (fun t => { t with cap := tabSet (fun _ => none) t.cap (k / 64) (some (k, tlyCount d k)) }) d)

/-- What a read of COUNT_HI gives: of the capture of its counter, once, and otherwise the present count. -/
def countHi (k : Nat) (d : Dev) : Word × Dev :=
  let now := rg d (tlyPage k) (Reg.Tly1.COUNT_HI (k % 64))
  match tabGet (fun _ => none) d.tly.cap (k / 64) with
  | some (j, n) =>
    if j = k then (setFld now 15 0 (n / 2 ^ 32), modTly (fun t => { t with cap := tabSet (fun _ => none) t.cap (k / 64) none }) d)
    else (now, d)
  | none => (now, d)

/-- COUNT_LO_READ. -/
def doCountLoRead (who : Party) (k : Nat) (d : Dev) : Dev := onRead who (tlyPage k) (Reg.Tly1.COUNT_LO (k % 64)) (countLo k) d
def execCountLoRead (who : Party) (k : Fin 128) (s : State) := onDev (doCountLoRead who k.val) s

/-- A write of COUNT_LO is held. -/
def countLoHold (k : Nat) (v : Word) (d : Dev) : Dev := modTly (fun t => { t with held := tabSet (fun _ => none) t.held k (some v) }) d
/-- COUNT_LO_WRITE. -/
def doCountLoWrite (who : Party) (k : Nat) (v : Word) (d : Dev) : Dev :=
  onWrite who (tlyPage k) (Reg.Tly1.COUNT_LO (k % 64)) (countLoHold k v) d
def execCountLoWrite (who : Party) (k : Fin 128) (v : Word) (s : State) := onDev (doCountLoWrite who k.val v) s

/-- A write of COUNT_HI loads both halves and clears OVF. -/
def countHiLoad (k : Nat) (v : Word) (d : Dev) : Dev :=
  let lo := match tabGet (fun _ => none) d.tly.held k with | some w => w.toNat | none => tlyCount d k % 2 ^ 32
  setOvf k false (setTly k (lo + fld v 15 0 * 2 ^ 32) (modTly (fun t => { t with held := tabSet (fun _ => none) t.held k none }) d))
/-- COUNT_HI_WRITE. -/
def doCountHiWrite (who : Party) (k : Nat) (v : Word) (d : Dev) : Dev :=
  onWrite who (tlyPage k) (Reg.Tly1.COUNT_HI (k % 64)) (countHiLoad k v) d
def execCountHiWrite (who : Party) (k : Fin 128) (v : Word) (s : State) := onDev (doCountHiWrite who k.val v) s

/-- A write of SMP_POP. -/
def smpPopWrite (v : Word) (d : Dev) : Dev := if bitOf v 0 then smpShow (modTly (fun t => { t with smp := t.smp.drop 1 }) d) else d
/-- SMP_POP. -/
def doSmpPop (who : Party) (d : Dev) : Dev := onWrite who (.tly 3) Reg.Tly3.SMP_POP (smpPopWrite 1) d
def execSmpPop (who : Party) (s : State) := onDev (doSmpPop who) s

end Sys2Proof.Machine
end

