-- ==== Sys2Proof/Machine/Blocks.lean ====
section
/-! DEFINITION. Block requests: what a block supports, refusals, latches under HOLD, and the stop, power-off and reset of a
block (R491–R493, R608–R611, R619, R621). -/
namespace Sys2Proof.Machine

/-- What blocks support (R610): clock and reset together, and power. -/
def reqClkRst (c : Nat) : Bool :=
  decide (0x10 ≤ c ∧ c ≤ 0x17) || decide (0x20 ≤ c ∧ c ≤ 0x97)
def reqPower (c : Nat) : Bool :=
  decide (0x13 ≤ c ∧ c ≤ 0x16) || decide (0x30 ≤ c ∧ c ≤ 0x3F)

/-- Codes whose blocks support no request. -/
def reqNone (c : Nat) : Bool :=
  decide (c ≤ 0x06) || c == 0x18 || c == 0xA0 || c == 0xA1 || decide (0xC0 ≤ c ∧ c ≤ 0xCF) || decide (0xF0 ≤ c ∧ c ≤ 0xF8)

/-- Blocks of the fold plane and its outputs, which only the Fold world may ask for. -/
def reqFoldOnly (c : Nat) : Bool := c == 0x10 || decide (0x20 ≤ c ∧ c ≤ 0x37) || decide (0x40 ≤ c ∧ c ≤ 0x47)

/-- A stream is of class S. -/
def streamS (d : Dev) (n : Nat) : Bool := rf d (.stream n) Reg.Stream.STREAM_CTRL 19 18 == 0

/-- A camera block serves a class-S stream. -/
def reqClassS (d : Dev) (c : Nat) : Bool :=
  if 0x80 ≤ c ∧ c ≤ 0x8F then streamS d (c - 0x80)
  else if 0x90 ≤ c ∧ c ≤ 0x97 then (match (dwOf d (c - 0x90)).serves with | some n => streamS d n | none => false)
  else c == 0x13 && (List.range 16).any (fun n => (streamOf d n).on && streamS d n)

/-- The refusal of a request of a kind, 0 to 1 clock, 2 to 3 power, 4 to 5 reset; 0 if there is none (R610, R621). -/
def reqRefuse (d : Dev) (fold : Bool) (c kind : Nat) : Nat :=
  if !reqClkRst c then (if reqNone c then 1 else 4)
  else if (kind = 2 ∨ kind = 3) ∧ reqPower c = false then 1
  else if !fold && reqFoldOnly c then 2
  else if !fold && reqClassS d c then 3
  else 0

/-! ## Effects (R611, R619) -/

/-- The state of a page's block beside its registers as a reset leaves it. DESIGN CHOICE: the commit counters of a head, which the
spec clears with "the block" (R120), are cleared with the head's. -/
def innerReset (p : Page) (d : Dev) : Dev :=
  match p with
  | .cmp => { d with luts := [], lutHalf := false }
  | .wb k => modWb k (fun _ => {}) d
  | .cam => modCam (fun c => { c with restart := false }) d
  | .gpu => modGpu (fun g => { off := g.off }) d
  | .ctx n =>
    let c := ctxOf d n
    modCtx n (fun s => { s with lease := c.lease, bwHead := c.bwHead, area := c.area, placed := c.placed }) (freshRes 2 n d)
  | .tch => modTch (fun t => { t0 := t.t0 }) d
  | .panel n => modTp n (fun _ => {}) d
  | .lg n => modTp n (fun _ => {}) d
  | .aud 0 => modAud (fun _ => {}) d
  | .tly 0 => modTly (fun _ => {}) d
  | .head n => modHead n (fun _ => {}) d
  | .chk n =>
    forN (fun w => modWin (winKey n w) (fun _ => {})) 16
      (showPins (modSdg (fun g => { g with pinWindows := g.pinWindows.filter (fun k => k / 16 != n) }) d))
  | .port n => modPort n (fun _ => {}) d
  | .pipe i => freshRes 1 i d
  | .stream n => freshRes 3 n d
  | .dw e => modDw e (fun _ => {}) d
  | _ => d

/-- A page of a block at its reset values, with what the block holds beside it. -/
def blockPageReset (d : Dev) (p : Page) : Dev := pageReset p (innerReset p d)

/-- The pages that a reset of a block reaches; that of the GPU reaches its contexts and its flocks too, whose removed cores come
back (R297, R610). -/
def resetPages (code : Nat) : List Page :=
  blockPages code ++ (if code = 0x14 then (List.range 64).map .ctx ++ (List.range 4).map .flock else [])

/-- The latched requests of a block are discarded, which counts as withdrawn (R492). -/
def dropLatched (code : Nat) (d : Dev) : Dev :=
  let b := blkOf d code
  heldWithdraw (b.heldClk.toNat + b.heldPwr.toNat + b.heldRst.toNat)
    (modBlk code (fun b => { b with heldClk := false, heldPwr := false, heldRst := false }) d)

/-- A block at its reset values. -/
def blockReset (code : Nat) (d : Dev) : Dev :=
  flock0On (modBlk code (fun b => { b with restarts := [] }) ((resetPages code).foldl blockPageReset (dropLatched code d)))

/-- A request acts: 0 clock stop, 1 clock run, 2 power off, 3 power on, 4 reset assert, 5 reset release. Power that comes on
and a reset leave the block at its reset values; a RESTART written meanwhile takes effect when the clock runs. -/
def reqAct (code kind : Nat) (d : Dev) : Dev :=
  match kind with
  | 0 => modBlk code (fun b => { b with clkStopped := true }) d
  | 1 =>
    let b := blkOf d code
    let d := modBlk code (fun b => { b with clkStopped := false, restarts := [] }) d
    b.restarts.foldl (fun d a => match pageOf a with
      | some (.port n) => train n (endIsoNow (.port n) d)
      | some p => endIsoNow p d
      | none => d) d
  | 2 => blockReset code (modBlk code (fun b => { b with pwrOff := true }) d)
  | 3 => if (blkOf d code).pwrOff then blockReset code (modBlk code (fun b => { b with pwrOff := false }) d) else d
  | 4 => blockReset code (modBlk code (fun b => { b with inRst := true }) d)
  | _ => modBlk code (fun b => { b with inRst := false }) d

/-- BLK_DONE is due for a request that has acted. -/
def reqDone (d : Dev) : Dev := { d with pwr := { d.pwr with acted := d.pwr.acted + 1 } }

/-- A request that HOLD latches; a newer one of its kind replaces it (R491, R492). -/
def reqLatch (code kind : Nat) (d : Dev) : Dev :=
  heldLatch (modBlk code (fun b => match kind with
    | 0 => { b with heldClk := true }
    | 2 => { b with heldPwr := true }
    | _ => { b with heldRst := true }) d)

/-- A request that withdraws the latched one of its kind, if there is one. -/
def reqWithdraw (code kind : Nat) (d : Dev) : Dev :=
  let b := blkOf d code
  let there := match kind with | 1 => b.heldClk | 3 => b.heldPwr | 5 => b.heldRst | _ => false
  if there then
    heldWithdraw 1 (modBlk code (fun b => match kind with
      | 1 => { b with heldClk := false }
      | 3 => { b with heldPwr := false }
      | _ => { b with heldRst := false }) d)
  else d

/-- A request of a kind for a block: refused, latched, or acted on (R609–R611). -/
def reqMake (fold : Bool) (code kind : Nat) (d : Dev) : Dev :=
  let r := reqRefuse d fold code kind
  if r ≠ 0 then event (.sys 1) Reg.Sys1.EV_BLK_REFUSED { d with pwr := { d.pwr with reason := r } }
  else if !fold && kind % 2 == 0 && holdOn d code then reqLatch code kind d
  else reqDone (reqAct code kind (reqWithdraw code kind d))

/-- A write of BLK_REQ: the lowest set bit acts, on the block of BLK_SEL. The isolated page takes no request (R12). -/
def blkReq (who : Party) (v : Word) (d : Dev) : Dev :=
  match if isoOf d (.sys 1) then none else (List.range 6).find? (fun k => bitOf v k) with
  | some k => reqMake (who == .fold) (rf d (.sys 1) Reg.Sys1.BLK_SEL 7 0) k d
  | none => d

/-- The commands that write one bit of BLK_REQ. -/
def doBlkReq (who : Party) (v : Word) (d : Dev) : Dev := onWrite who (.sys 1) Reg.Sys1.BLK_REQ (blkReq who v) d
/-- CLK_STOP, CLK_RUN, PWR_OFF, PWR_ON, RST_ASSERT, RST_RELEASE. -/
def execClkStop (who : Party) (s : State) := onDev (doBlkReq who 0x01) s
def execClkRun (who : Party) (s : State) := onDev (doBlkReq who 0x02) s
def execPwrOff (who : Party) (s : State) := onDev (doBlkReq who 0x04) s
def execPwrOn (who : Party) (s : State) := onDev (doBlkReq who 0x08) s
def execRstAssert (who : Party) (s : State) := onDev (doBlkReq who 0x10) s
def execRstRelease (who : Party) (s : State) := onDev (doBlkReq who 0x20) s

/-- BLK_DONE: a request has been acted on. -/
def doBlkDone (d : Dev) : Dev :=
  if d.pwr.acted = 0 then d else event (.sys 1) Reg.Sys1.EV_BLK_DONE { d with pwr := { d.pwr with acted := d.pwr.acted - 1 } }
def execBlkDone (s : State) := onDev doBlkDone s

/-! ## HOLD (R48, R491, R492) -/

/-- A write of HOLD by the Fold world. -/
def holdSet (p : Page) (on : Bool) (d : Dev) : Dev := sb p Reg.HOLD 0 on d

/-- HOLD_WRITE: the Fold world sets or clears HOLD of the page at an address; another party is refused. -/
def doHoldWrite (who : Party) (a : Nat) (on : Bool) (d : Dev) : Dev :=
  match pageOf a with
  | some p => onWrite who p Reg.HOLD (holdSet p on) d
  | none => d
def execHoldWrite (who : Party) (p : BitVec 32) (on : Bool) (s : State) := onDev (doHoldWrite who p.toNat on) s

/-- HELD_REQUESTS_ACT: the latched requests of a block act once HOLD is clear in every page of it: the clock's, then the
power's, or else the reset's. -/
def doHeldAct (code : Nat) (d : Dev) : Dev :=
  if holdOn d code || latchedOf d code == 0 then d
  else if code = 0x03 then heldRelease (banksAct d)
  else
    let b := blkOf d code
    let d := modBlk code (fun b => { b with heldClk := false, heldPwr := false, heldRst := false }) d
    let act := fun (c : Bool) k d => when c (fun d => reqDone (reqAct code k d)) d
    heldRelease (act (b.heldRst && !b.heldPwr) 4 (act b.heldPwr 2 (act b.heldClk 0 d)))
def execHeldRequestsAct (code : Byte) (s : State) := onDev (doHeldAct code.toNat) s

/-! ## BLK_STAT -/

/-- A block gates itself (R608). -/
def selfGated (d : Dev) (c : Nat) : Bool :=
  if 0x40 ≤ c ∧ c < 0x80 then (pipeOf d (c - 0x40)).clkOff
  else if c = 0x11 ∨ c = 0x12 then
    !rb d (.wb (c - 0x11)) Reg.Wb.WB_CTRL 0 || ((wbOf d (c - 0x11)).armed.isNone && !(wbOf d (c - 0x11)).busy)
  else if 0x20 ≤ c ∧ c < 0x28 then !rb d (.head (c - 0x20)) Reg.Head.HEAD_CTRL 0
  else if 0x30 ≤ c ∧ c < 0x38 then (portS d (c - 0x30)).mode == 0
  else if 0x90 ≤ c ∧ c < 0x98 then (dwOf d (c - 0x90)).serves.isNone
  else if 0x38 ≤ c ∧ c < 0x40 then rf d (.lg (c - 0x38)) Reg.Lg.LG_STAT 2 0 == 0
  else c == 0x17 && !rb d (.tly 0) Reg.Tly0.GLB_CTRL 0

/-- BLK_STAT as it reads (R621). -/
def blkStat (d : Dev) : Word :=
  let c := rf d (.sys 1) Reg.Sys1.BLK_SEL 7 0
  let b := blkOf d c
  BitVec.ofNat 32 (b.clkStopped.toNat * 2 ^ 31 + b.pwrOff.toNat * 2 ^ 30 + b.inRst.toNat * 2 ^ 29 + (selfGated d c).toNat * 2 ^ 28 +
    b.heldClk.toNat * 2 ^ 26 + b.heldPwr.toNat * 2 ^ 25 + b.heldRst.toNat * 2 ^ 24 + (reqClkRst c).toNat * 2 ^ 16 +
    (reqPower c).toNat * 2 ^ 17 + (reqClkRst c).toNat * 2 ^ 18 + d.pwr.reason)

end Sys2Proof.Machine
end

