-- ==== Sys2Proof/Machine/Can.lean ====
section
/-! DEFINITION. The CAN controllers (R527–R530, R541). -/
namespace Sys2Proof.Machine

/-- The controller is on the bus: enabled, error active or error passive, and its page not isolated. -/
def canRuns (d : Dev) (n : Nat) : Bool :=
  rb d (.can n) Reg.Can.CAN_CTRL 0 && (rf d (.can n) Reg.Can.CAN_STAT 1 0 == 1 || rf d (.can n) Reg.Can.CAN_STAT 1 0 == 2) &&
    !isoOf d (.can n)

/-- The data bytes of a DLC: eight at most in a classical frame, up to 64 in an FD frame (ISO 11898-1, R527). -/
def dlcLen (fd : Bool) (dlc : Nat) : Nat :=
  if dlc ≤ 8 then dlc
  else if !fd then 8
  else match dlc with
    | 9 => 12 | 10 => 16 | 11 => 20 | 12 => 24 | 13 => 32 | 14 => 48 | _ => 64

/-- The settings of a controller lie within the limits of R527. -/
def canInLimits (d : Dev) (n : Nat) : Bool :=
  let nom := rf d (.can n) Reg.Can.CAN_TIMING 15 0
  let dat := rf d (.can n) Reg.Can.CAN_TIMING 31 16
  let sp := rf d (.can n) Reg.Can.CAN_SAMPLE 7 0
  let dsp := rf d (.can n) Reg.Can.CAN_SAMPLE 15 8
  decide (125 ≤ nom ∧ nom ≤ 1000 ∧ nom ≤ dat ∧ dat ≤ 5000 ∧ 50 ≤ sp ∧ sp ≤ 90 ∧ 50 ≤ dsp ∧ dsp ≤ 90)

/-- The frames of a controller are dropped; a software frame among them ends in error. -/
def canDrop (n : Nat) (d : Dev) : Dev :=
  let sw := (canOf d n).txq.any (fun f => !f.report)
  let d := modCan n (fun c => { c with txq := [] }) d
  if sw then sf (.can n) Reg.Can.TX_STAT 3 0 2 (sb (.can n) Reg.Can.TX_STAT 31 false d) else d

/-- A controller starts on the bus, error active, or refuses its enable (R527). -/
def canStart (n : Nat) (d : Dev) : Dev :=
  if canInLimits d n then
    let d := modCan n (fun c => { c with swapped := false }) d
    sg (.can n) Reg.Can.CAN_STAT 1 (sb (.can n) Reg.Can.CAN_CTRL 0 true d)
  else sb (.can n) Reg.Can.CAN_STAT 8 true (sb (.can n) Reg.Can.CAN_CTRL 0 false d)

/-- The effect of a write of CAN_CTRL (R527, R528, R530, R541): RESTART ends isolation; ENABLE going to 1 starts the
controller or is refused, and going to 0 takes it off the bus. -/
def canCtrl (n : Nat) (v : Word) (d : Dev) : Dev :=
  let on := rb d (.can n) Reg.Can.CAN_CTRL 0
  let d := when (bitOf v 31) (endIso (.can n)) d
  let d := plainWrite (.can n) Reg.Can.CAN_CTRL v d
  if !on && bitOf v 0 then canStart n d
  else if on && !bitOf v 0 then sf (.can n) Reg.Can.CAN_STAT 1 0 0 (canDrop n d)
  else d

/-- A write of CAN_CTRL. -/
def doCanEnable (who : Party) (n : Nat) (v : Word) (d : Dev) : Dev :=
  onWrite who (.can n) Reg.Can.CAN_CTRL (canCtrl n v) d
/-- CAN_ENABLE. -/
def execCanEnable (who : Party) (n : Fin 4) (v : Word) (s : State) := onDev (doCanEnable who n.val v) s

/-- The bytes that a frame of the transmit registers carries. -/
def txBytes (d : Dev) (n : Nat) : List Byte :=
  ((List.range 16).foldr (fun i bs => wordBytes (rg d (.can n) (Reg.Can.TX_DATA i)) ++ bs) []).take
    (dlcLen (rb d (.can n) Reg.Can.TX_HDR 30) (rf d (.can n) Reg.Can.TX_LEN 3 0))

/-- A controller may send the frame of its transmit registers: it is on the bus, not listening only, and an FD frame
needs FD_EN, a bit-rate switch BRS_EN. -/
def txAllowed (d : Dev) (n : Nat) : Bool :=
  canRuns d n && !rb d (.can n) Reg.Can.CAN_CTRL 3 &&
    (!rb d (.can n) Reg.Can.TX_HDR 30 || rb d (.can n) Reg.Can.CAN_CTRL 1) &&
    (!rb d (.can n) Reg.Can.TX_HDR 31 || rb d (.can n) Reg.Can.CAN_CTRL 2)

/-- A controller sends and does not see its own start-of-frame: it leaves the bus until ENABLE is written 0 and then 1
(R528). -/
def canSwap (n : Nat) (d : Dev) : Dev :=
  let d := modCan n (fun c => { c with swapped := true }) (canDrop n d)
  raiseFault (.can n) Reg.Can.SRC_CAN_SWAP Reg.Can.EV_CAN_SWAP
    (sf (.can n) Reg.Can.CAN_STAT 1 0 0 (sb (.can n) Reg.Can.CAN_STAT 4 true d))

/-- The effect of a write of TX_CMD; `seen` says that the controller sees its own start-of-frame (R528, R541). A write
while a frame is being sent is refused without disturbing it. -/
def txCmd (n : Nat) (v : Word) (seen : Bool) (d : Dev) : Dev :=
  if !bitOf v 0 then d
  else if rb d (.can n) Reg.Can.TX_STAT 31 then d
  else if !txAllowed d n then sf (.can n) Reg.Can.TX_STAT 3 0 3 d
  else
    let f : CanFrame := { hdr := rg d (.can n) Reg.Can.TX_HDR, dlc := rf d (.can n) Reg.Can.TX_LEN 3 0,
                          bytes := txBytes d n, report := false }
    let d := modCan n (fun c => { c with txq := c.txq ++ [f] }) (sb (.can n) Reg.Can.TX_STAT 31 true d)
    if seen then d else canSwap n d

/-- A write of TX_CMD. -/
def doTxCmd (who : Party) (n : Nat) (v : Word) (seen : Bool) (d : Dev) : Dev :=
  onWrite who (.can n) Reg.Can.TX_CMD (txCmd n v seen) d
/-- TX_CMD. -/
def execTxCmd (who : Party) (n : Fin 4) (v : Word) (seen : Bool) (s : State) := onDev (doTxCmd who n.val v seen) s

/-- The transmit error counter changes, and with it the error state (ISO 11898-1). -/
def canTec (n : Nat) (up : Bool) (d : Dev) : Dev :=
  let t := rf d (.can n) Reg.Can.CAN_STAT 23 16
  let t := if up then min 255 (t + 8) else t - 1
  let d := sf (.can n) Reg.Can.CAN_STAT 23 16 t d
  sf (.can n) Reg.Can.CAN_STAT 1 0 (if 128 ≤ t ∨ 128 ≤ rf d (.can n) Reg.Can.CAN_STAT 31 24 then 2 else 1) d

/-- The frame at the head of the transmit queue leaves it; a software frame takes its result (R541). -/
def canTxEnd (n : Nat) (f : CanFrame) (fs : List CanFrame) (result : Nat) (d : Dev) : Dev :=
  let d := modCan n (fun c => { c with txq := fs }) d
  if f.report then d
  else event (.can n) Reg.Can.EV_TX_DONE
    (sf (.can n) Reg.Can.TX_STAT 3 0 result (sb (.can n) Reg.Can.TX_STAT 31 false d))

/-- The transmission of the frame at the head of the queue ends: 0 sent, 1 arbitration lost, 2 error (R541), 3 its
start-of-frame was not seen (R528). After lost arbitration it stays at the head and is tried again. -/
def doCanTxDone (n result : Nat) (d : Dev) : Dev :=
  match canRuns d n, (canOf d n).txq with
  | true, f :: fs =>
    if result = 0 then
      emit (.can n f.hdr f.dlc f.bytes) (canTxEnd n f fs 0 (canTec n false (bump (.can n) Reg.Can.CAN_COUNT 31 16 d)))
    else if result = 1 then (if f.report then d else sf (.can n) Reg.Can.TX_STAT 3 0 1 d)
    else if result = 3 then canSwap n d
    else canTxEnd n f fs 2 (canTec n true d)
  | _, _ => d
/-- CAN_TX_DONE. -/
def execCanTxDone (n : Fin 4) (result : Nat) (s : State) := onDev (doCanTxDone n.val result) s

/-- The receive registers show the head frame of the FIFO and its fill (R541). -/
def canShowRx (n : Nat) (d : Dev) : Dev :=
  let rx := (canOf d n).rx
  let hdr : Word := match rx with | f :: _ => f.hdr | [] => 0
  let dlc : Nat := match rx with | f :: _ => f.dlc | [] => 0
  let bs : List Byte := match rx with | f :: _ => f.bytes | [] => []
  let d := sg (.can n) Reg.Can.RX_HDR hdr d
  let d := sg (.can n) Reg.Can.RX_LEN (BitVec.ofNat 32 (rx.length * 65536 + dlc)) d
  forN (fun i => sg (.can n) (Reg.Can.RX_DATA i) (BitVec.ofNat 32 (leNat ((bs.drop (4 * i)).take 4)))) 16 d

/-- A frame passes filter `k`: the filter is on, of the frame's kind, and the ID bits that the mask compares agree. -/
def canFilter (d : Dev) (n k : Nat) (hdr : Word) : Bool :=
  let f := rg d (.can n) (Reg.Can.FILTER k)
  bitOf f 31 && bitOf f 29 == bitOf hdr 29 && fld ((f ^^^ hdr) &&& rg d (.can n) (Reg.Can.MASK k)) 28 0 == 0

/-- A frame is received: into the FIFO if it passes a filter, dropped and counted if the FIFO is full (R530). -/
def doCanRx (n : Nat) (hdr : Word) (dlc : Nat) (bytes : List Byte) (d : Dev) : Dev :=
  if !canRuns d n || (bitOf hdr 30 && !rb d (.can n) Reg.Can.CAN_CTRL 1) then d
  else if !(List.range 8).any (fun k => canFilter d n k hdr) then d
  else if 32 ≤ (canOf d n).rx.length then bump (.can n) Reg.Can.CAN_COUNT2 15 0 d
  else
    let f : CanFrame := { hdr := hdr, dlc := dlc, bytes := bytes.take (dlcLen (bitOf hdr 30) dlc), report := false }
    event (.can n) Reg.Can.EV_RX
      (canShowRx n (modCan n (fun c => { c with rx := c.rx ++ [f] }) (bump (.can n) Reg.Can.CAN_COUNT 15 0 d)))
/-- CAN_RX. -/
def execCanRx (n : Fin 4) (hdr : Word) (dlc : BitVec 4) (bytes : List Byte) (s : State) :=
  onDev (doCanRx n.val hdr dlc.toNat bytes) s

/-- A write of RX_POP discards the head frame (R541). -/
def rxPopWrite (n : Nat) (v : Word) (d : Dev) : Dev :=
  when (bitOf v 0) (fun d => canShowRx n (modCan n (fun c => { c with rx := c.rx.drop 1 }) d)) d
def doRxPop (who : Party) (n : Nat) (v : Word) (d : Dev) : Dev := onWrite who (.can n) Reg.Can.RX_POP (rxPopWrite n v) d
/-- RX_POP. -/
def execRxPop (who : Party) (n : Fin 4) (v : Word) (s : State) := onDev (doRxPop who n.val v) s

/-- A controller reaches bus-off and leaves the bus (R530). -/
def doCanBusOff (n : Nat) (d : Dev) : Dev :=
  if canRuns d n then
    raiseFault (.can n) Reg.Can.SRC_CAN_BUS_OFF Reg.Can.EV_CAN_BUS_OFF
      (sf (.can n) Reg.Can.CAN_STAT 1 0 3 (canDrop n d))
  else d
/-- CAN_BUS_OFF. -/
def execCanBusOff (n : Fin 4) (s : State) := onDev (doCanBusOff n.val) s

/-- A bus-off controller rejoins unless NO_AUTO is set (R530). -/
def doCanBusRecovery (n : Nat) (d : Dev) : Dev :=
  if rf d (.can n) Reg.Can.CAN_STAT 1 0 = 3 ∧ !rb d (.can n) Reg.Can.CAN_CTRL 4 then
    sf (.can n) Reg.Can.CAN_STAT 31 16 0 (sf (.can n) Reg.Can.CAN_STAT 1 0 1 d)
  else d
/-- CAN_BUS_RECOVERY. -/
def execCanBusRecovery (n : Fin 4) (s : State) := onDev (doCanBusRecovery n.val) s

end Sys2Proof.Machine
end

