-- ==== Sys2Proof/Machine/Heads.lean ====
section
/-! DEFINITION. Heads: timing and enable, the frame in lines with its events, sync and lock, underrun, and SYNC_OUT
(R177–R199, R207–R212). -/
namespace Sys2Proof.Machine

/-! ## Enable and disable (R33, R177–R180, R190, R191) -/

def headState (d : Dev) (h : Nat) : Nat := rf d (.head h) Reg.Head.HEAD_STAT 30 28
def hWord (d : Dev) (h : Nat) : Word := BitVec.ofNat 32 (headOf d h).src
/-- The source in force, and NUM and DEN (R191). -/
def syncSrc (d : Dev) (h : Nat) : Nat := fld (hWord d h) 15 8
def ratioNum (d : Dev) (h : Nat) : Nat := fld (hWord d h) 3 2 + 1
def ratioDen (d : Dev) (h : Nat) : Nat := fld (hWord d h) 5 4 + 1

/-- A timing parameter outside its range (R177), line numbers apart. -/
def badTiming (d : Dev) (h : Nat) : Bool :=
  let p := Page.head h
  let part := fun o hi lo => decide (rf d p o hi lo < 1 ∨ 4095 < rf d p o hi lo)
  decide (hActive d h < 320 ∨ 3840 < hActive d h) || hActive d h % 2 == 1 ||
    part Reg.Head.H_TIMING1 11 0 || part Reg.Head.H_TIMING2 27 16 || part Reg.Head.H_TIMING2 11 0 ||
    decide (8192 < hTotal d h) || hTotal d h % 2 == 1 ||
    decide (vActive d h < 200 ∨ 2160 < vActive d h) ||
    part Reg.Head.V_TIMING1 11 0 || part Reg.Head.V_TIMING2 27 16 || part Reg.Head.V_TIMING2 11 0 ||
    decide (vBlank d h < 8) || decide (4096 < vTotal d h) || decide (pclkKhz d h < 25000 ∨ 600000 < pclkKhz d h)

/-- A line number outside its range, or too short an interval from the deadline to the close (R177). -/
def badLines (d : Dev) (h : Nat) : Bool :=
  let vb : Int := vBlank d h
  decide (closeLine d h < -vb ∨ -2 < closeLine d h) ||
    decide (deadLine d h < -vb ∨ (vActive d h : Int) - 1 < deadLine d h) ||
    decide (lockLine d h < -vb ∨ -1 < lockLine d h) ||
    decide (((vTotal d h : Int) + closeLine d h - deadLine d h) * (hTotal d h : Int) * 1000 < 200 * (pclkKhz d h : Int))

/-- A sync source that the head may use, and a ratio in lowest terms (R190, R191). -/
def badSync (h : Nat) (w : Word) : Bool :=
  let c := fld w 15 8
  let num := fld w 3 2 + 1
  let den := fld w 5 4 + 1
  !(c == 0 || c == 1 || c == 2 || (decide (2 ≤ h) && (decide (0x10 ≤ c ∧ c ≤ 0x1F) || c == 0x20 || c == 0x21))) ||
    Nat.gcd num den != 1

/-- The reason for which an enable is refused, in the order of R178, or 0. -/
def enableRefuse (d : Dev) (h : Nat) : Nat :=
  if badTiming d h then 2
  else if badLines d h then 4
  else if badSync h (rg d (.head h) Reg.Head.HEAD_CTRL) then 3
  else
    let sum := ((List.range 8).map (fun k => if k = h ∨ rb d (.head k) Reg.Head.HEAD_CTRL 0 ∨ (headOf d k).run then pclkKhz d k else 0)).foldl (· + ·) 0
    if 3200000 < sum then 1 else 0

/-- The words of a profile, zeros where the image defines none (R208). -/
def profileOf (d : Dev) (k : Nat) : List Word := tabGet (fun _ => []) d.profiles k

/-- The timing registers of a head take a profile. -/
def loadProfile (h k : Nat) (d : Dev) : Dev :=
  forN (fun i d => sg (.head h) (Reg.Head.H_TIMING1 + 4 * i) ((profileOf d k).getD i 0) d) 7 d

/-- The source and ratio of HEAD_CTRL come into force: FREE, or NONE without a source (R195). -/
def takeSync (h : Nat) (d : Dev) : Dev :=
  let w := rg d (.head h) Reg.Head.HEAD_CTRL &&& 0xFF3C
  let d := sg (.head h) Reg.Head.TRIM 0 (sf (.head h) Reg.Head.HEAD_STAT 30 28 (if fld w 15 8 = 0 then 0 else 1) d)
  modHead h (fun s => { s with src := w.toNat, good := 0, seen := false, jumped := false, aligned := 0, frames := 0, edges := 0
                               alignNext := false, goto_ := none, edgeDue := 0 }) d

/-- A head whose ENABLE is 0 is enabled, or refused (R178). One that still ends its last frame runs on if the checks pass, and
takes its source at the next frame begin (R195). -/
def headEnable (h : Nat) (d : Dev) : Dev :=
  let r := enableRefuse d h
  if r ≠ 0 then
    raiseFault (.head h) Reg.Head.SRC_ENABLE_REFUSED Reg.Head.EV_ENABLE_REFUSED
      (sf (.head h) Reg.Head.HEAD_STAT 27 24 r (sb (.head h) Reg.Head.HEAD_CTRL 0 false d))
  else if (headOf d h).run then modHead h (fun s => { s with off := false }) d
  else chkHeadEnabled h (takeSync h d)

/-- The head is disabled: its ENABLE is 0 and it produces no frame (R180). -/
def headStands (d : Dev) (h : Nat) : Bool := !rb d (.head h) Reg.Head.HEAD_CTRL 0 && !(headOf d h).run

/-- The head stops: its port's stream and its pixel clock with it (R180). -/
def headStop (h : Nat) (d : Dev) : Dev :=
  let d := stopStreams h (modHead h (fun s => { s with run := false, off := false, ahead := false, reading := [], goto_ := none }) d)
  let d := sg (.head h) Reg.Head.TRIM 0 (setFld (rg d (.head h) Reg.Head.HEAD_STAT) 31 28 0 |> fun w => sg (.head h) Reg.Head.HEAD_STAT w d)
  tryRelease h (sb (.head h) Reg.Head.HEAD_STAT 22 false (sb (.head h) Reg.Head.HEAD_STAT 23 false d))

/-- A write of HEAD_CTRL (R178–R180, R208, R212). A changed PROFILE is dropped until the head is disabled. -/
def headCtrl (h : Nat) (v : Word) (d : Dev) : Dev :=
  let p := Page.head h
  let old := rg d p Reg.Head.HEAD_CTRL
  let v := if h < 2 then setFld v 19 16 0 else v
  let busy := !headStands d h && fld v 19 16 != fld old 19 16
  let v := if busy then setFld v 19 16 (fld old 19 16) else v
  let d := if busy then event p Reg.Head.EV_TIMING_BUSY d else d
  let d := plainWrite p Reg.Head.HEAD_CTRL v d
  let d := if 2 ≤ h ∧ fld v 19 16 ≠ fld old 19 16 then loadProfile h (fld v 19 16) d else d
  let d := if bitOf v 31 && isoOf d p then
      (if (headOf d h).run then modHead h (fun s => { s with back := true }) d else endIso p d) else d
  match bitOf old 0, bitOf v 0 with
  | false, true => headEnable h d
  | true, false => chkFlush h (if (headOf d h).run then modHead h (fun s => { s with off := true }) d else headStop h d)
  | _, _ => d

/-- HEAD_ENABLE: the write with ENABLE 1 and the other fields as they are. -/
def execHeadEnable (who : Party) (h : Fin 8) (s : State) := onDev (onWrite who (.head h.val) Reg.Head.HEAD_CTRL
  (fun d => headCtrl h.val (putBit (rg d (.head h.val) Reg.Head.HEAD_CTRL) 0 true) d)) s
/-- HEAD_DISABLE. -/
def execHeadDisable (who : Party) (h : Fin 8) (s : State) := onDev (onWrite who (.head h.val) Reg.Head.HEAD_CTRL
  (fun d => headCtrl h.val (putBit (rg d (.head h.val) Reg.Head.HEAD_CTRL) 0 false) d)) s
/-- HEAD_RESTART. -/
def execHeadRestart (who : Party) (h : Fin 8) (s : State) := onDev (onWrite who (.head h.val) Reg.Head.HEAD_CTRL
  (fun d => headCtrl h.val (rg d (.head h.val) Reg.Head.HEAD_CTRL ||| 0x80000000) d)) s

/-- A write of a timing register (R179): dropped until the head is disabled, at the end of its last frame, with TIMING_BUSY
(DEDUCED: R179 gives the event while ENABLE is 1); and in a following head read-only. -/
def timingWrite (h o : Nat) (v : Word) (d : Dev) : Dev :=
  if !headStands d h then event (.head h) Reg.Head.EV_TIMING_BUSY d
  else if 2 ≤ h then d
  else plainWrite (.head h) o v d

/-- The heads that enable a SYNC_OUT pin, in ascending order (R199). -/
def syncOutHeads (d : Dev) (pin : Nat) : List Nat := (List.range 8).filter (fun h => rb d (.head h) Reg.Head.SYNC_OUT (31 - pin))

/-- The level of a SYNC_OUT pin: the active one in a pulse of the head that drives it, the other between pulses, and low where no
head drives it (R199, R210). -/
def syncLevel (d : Dev) (pin : Nat) : Bool :=
  match (syncOutHeads d pin).head? with
  | some h => (headOf d h).pulse.contains pin == rb d (.head h) Reg.Head.SYNC_OUT 0
  | none => false

/-- What changes a SYNC_OUT pin is seen at the pin. -/
def driveSync (f : Dev → Dev) (d : Dev) : Dev :=
  let e := f d
  forN (fun pin x => if syncLevel e pin != syncLevel d pin then emit (.syncOut pin (syncLevel e pin)) x else x) 2 e

/-- A write of SYNC_OUT: a head whose enable for a pin comes to be ignored sets SYNCOUT_CONFLICT. -/
def syncOutWrite (h : Nat) (v : Word) (d : Dev) : Dev :=
  let e := driveSync (plainWrite (.head h) Reg.Head.SYNC_OUT v) d
  forN (fun k x =>
    let lost := fun y => (List.range 2).any (fun pin => ((syncOutHeads y pin).drop 1).contains k)
    if lost e && !lost d then event (.head k) Reg.Head.EV_SYNCOUT_CONFLICT x else x) 8 e

/-- PIXEL_PLL_LOCKED: an enabled head comes to the end of no frame, and its first frame may begin (R180). -/
def doPixelPllLocked (h : Nat) (d : Dev) : Dev :=
  if !rb d (.head h) Reg.Head.HEAD_CTRL 0 then d
  else
    let d := sb (.head h) Reg.Head.HEAD_STAT 23 true d
    if (headOf d h).run then d
    else
      sb (.head h) Reg.Head.HEAD_STAT 31 true
        (modHead h (fun s => { s with run := true, line := (vActive d h : Int) - 1, ahead := false, off := false, under := false }) d)

/-- PIXEL_PLL_LOCKED. -/
def execPixelPllLocked (h : Fin 8) (s : State) := onDev (doPixelPllLocked h.val) s

/-- PLL_UNLOCK: the pixel PLL loses lock (R211). -/
def doPllUnlock (h : Nat) (d : Dev) : Dev :=
  if !rb d (.head h) Reg.Head.HEAD_STAT 23 then d
  else raiseFault (.head h) Reg.Head.SRC_PLL_UNLOCK Reg.Head.EV_PLL_UNLOCK (sb (.head h) Reg.Head.HEAD_STAT 23 false d)

/-- PLL_UNLOCK. -/
def execPllUnlock (h : Fin 8) (s : State) := onDev (doPllUnlock h.val) s

/-! ## Frame begin (R181, R185, R193, R195, R200) -/

/-- The head brings aligned frames into step: it has captured a source (R195). -/
def aligning (d : Dev) (h : Nat) : Bool := decide (2 ≤ headState d h) && (headOf d h).jumped

/-- The MSA of a frame on the ports that a head feeds: it carries the profile's timing parameters and the sync polarities, unless
the sink ignores them (R196, R209). -/
def sendMsa (h : Nat) (d : Dev) : Dev :=
  forN (fun n d => if (portS d n).src = some h ∧ rb d (.port n) Reg.Port.LINK_STAT 29 ∧ !rb d (.port n) Reg.Port.LINK_STAT 28 then
    emit (.msa n ((List.range 5).map (fun i => rg d (.head h) (Reg.Head.H_TIMING1 + 4 * i)))
      (rb d (.head h) Reg.Head.TIMING_FLAGS 1) (rb d (.head h) Reg.Head.TIMING_FLAGS 0)) d else d) 8 d

/-- A head of the first-picture set does not start yet (R96): its link is not ready, or, in a following head with a sync source,
no edge has come since and no frame period has passed. -/
def firstWaits (d : Dev) (h : Nat) : Bool :=
  (headOf d h).first && (match (headOf d h).firstAt with
    | none => true
    | some t => decide (2 ≤ h) && syncSrc d h != 0 && decide ((d.us - t) * pclkKhz d h < hTotal d h * vTotal d h * 1000))

/-- FRAME_BEGIN. An aligned frame whose lock line is the first one holds there until its edge has come. -/
def doFrameBegin (h : Nat) (d : Dev) : Dev :=
  let s := headOf d h
  if !s.run ∨ rb d (.head h) Reg.Head.HEAD_STAT 22 ∨ s.line + 1 ≠ (vActive d h : Int) ∨ firstWaits d h then d
  else
    let shown := (List.range 8).any (fun n => (portS d n).src == some h && rb d (.port n) Reg.Port.LINK_STAT 29)
    let d := if shown && !d.boot.pictured.contains h then { d with boot := { d.boot with pictured := d.boot.pictured ++ [h] } } else d
    if s.off then headStop h d
    else if aligning d h ∧ !s.alignNext ∧ lockLine d h = -(vBlank d h : Int) ∧ ratioNum d h ≤ s.frames + 1 then
      sb (.head h) Reg.Head.HEAD_STAT 22 true d
    else
      let d := modHead h (fun s => { s with
        line := -(vBlank d h : Int) - 1, ahead := true, closed := false, under := false, first := false, alignNext := false
        frames := if s.alignNext then 0 else s.frames + 1
        trig := s.trig.map (fun c => { c with next := false }) }) d
      let d := if (headOf d h).src ≠ (rg d (.head h) Reg.Head.HEAD_CTRL &&& 0xFF3C).toNat then takeSync h d else d
      let d := sendMsa h (startStreams h (event (.head h) Reg.Head.EV_FRAME_BEGIN (bump (.head h) Reg.Head.FRAME_COUNT 31 0 d)))
      let d := when (decide (h < 2)) (edgesOf (0x20 + h)) (modHead h (fun s => { s with reading := [] }) d)
      forN (fun p d =>
        let c := fetchCfg d h p
        if cHead p c ≠ h then d
        else
          let d := modPipe p (fun s => { s with counted := 0 }) d
          if cEnable p c then beginFetch h p c d
          else modPipe p (fun s => { s with pre := none, lines := [], hdr := none }) d) 64 d

/-- FRAME_BEGIN. -/
def execFrameBegin (h : Fin 8) (s : State) := onDev (doFrameBegin h.val) s

/-! ## Frame start (R121, R144, R151, R163, R165, R181, R212, R241, R317) -/

/-- The pipes of a head at its frame start: what waits for a frame start comes into force, and a pipe disabled for a whole
frame loses its clock. -/
def pipeFrameStart (h p : Nat) (d : Dev) : Dev :=
  let s := pipeOf d p
  let c := s.act
  if cHead p c ≠ h then d
  else
    let on := cEnable p c
    let d := modPipe p (fun s => { s with quiesce := if s.quiesce = 1 then 2 else s.quiesce, idle := !on, shown := false
                                          clkOff := if on then false else s.clkOff || s.idle }) d
    let d := if s.back then
        (let e := modPipe p (fun s => { s with back := false }) d
         if on then beginFetch h p c e else e) else d
    if on ∧ cFmt p c = 0x40 then
      let f := (streamOf d (cStream p c)).seq
      if f = s.bound then d
      else
        let d := modPipe p (fun s => { s with bound := f }) d
        [0, 1].foldl (fun d y => if cDy p c ≤ y ∧ y < cDy p c + cDh p c then directTestLine p c f y d else d) d
    else d

/-- FRAME_START: at the end of line −1. -/
def doFrameStart (h : Nat) (d : Dev) : Dev :=
  let s := headOf d h
  if !s.run ∨ !s.ahead ∨ s.line ≠ -1 then d
  else
    let d := event (.head h) Reg.Head.EV_FRAME_START (modHead h (fun s => { s with ahead := false, latched := [] }) d)
    let d := if s.back then endIso (.head h) (modHead h (fun s => { s with back := false }) d) else d
    let d := applyCommits h s.latched d
    let d := forN (pipeFrameStart h) 64 d
    let d := forN (fun k => wbFrameStart h k) 2 (chkFrameStart h (swapBanks h (endDemotions h d)))
    tryRelease h d

/-- FRAME_START. -/
def execFrameStart (h : Fin 8) (s : State) := onDev (doFrameStart h.val) s

/-! ## Lines (R181–R184, R189, R193, R198, R199, R242) -/

/-- The deadline calls of earlier frames are judged when the window closes (R184). -/
def judgeCalls (h : Nat) (d : Dev) : Dev :=
  let now := rg d (.head h) Reg.Head.FRAME_COUNT
  let due := (headOf d h).calls.filter (fun c => c.frame != now)
  let d := modHead h (fun s => { s with calls := s.calls.filter (fun c => c.frame == now) }) d
  due.foldl (fun d c => if c.answered then d
    else raiseFault (.head h) Reg.Head.SRC_COMMIT_LATE Reg.Head.EV_COMMIT_LATE (bump (.head h) Reg.Head.MISS_COUNT 15 0 d)) d

/-- The commit window closes at line Lc (R182). -/
def windowClose (h : Nat) (d : Dev) : Dev :=
  chkWindowClose h (judgeCalls h (modHead h (fun s => { s with closed := true, latched := s.latched ++ s.opened, opened := [] }) d))

/-- The deadline call of line Ld (R183). -/
def deadlineLine (h : Nat) (d : Dev) : Dev :=
  if !rb d (.head h) Reg.Head.BW_CTX 7 then d
  else
    let n := rf d (.head h) Reg.Head.BW_CTX 5 0
    let call : CallS := { frame := rg d (.head h) Reg.Head.FRAME_COUNT, ctx := n, answered := false }
    deadlineCall n (event (.head h) Reg.Head.EV_DEADLINE (modHead h (fun s => { s with calls := s.calls ++ [call] }) d))

/-- The pulse of SYNC_OUT starts on the pins that the head drives (R199). -/
def pulseLine (h : Nat) (d : Dev) : Dev :=
  driveSync (modHead h (fun s => { s with
    pulse := (List.range 2).filter (fun pin => s.pulse.contains pin || (syncOutHeads d pin).head? == some h) })) d

/-- Line-trigger commits of this line apply (R188, R189). -/
def trigLine (h : Nat) (y : Int) (d : Dev) : Dev :=
  let here := fun (c : CommitS) => !c.next && (c.line : Int) == y
  let cs := (headOf d h).trig.filter here
  if cs = [] then d
  else tryRelease h (showTrig h (applyCommits h cs (modHead h (fun s => { s with trig := s.trig.filter (fun c => !here c) }) d)))

/-- The tests of the direct layers for display line `y` (R242); before frame start they take the newest frame. -/
def directLine (h : Nat) (early : Bool) (y : Nat) (d : Dev) : Dev :=
  forN (fun i d =>
    let p := 48 + i
    let c := if early then (pipeOf d p).pre.getD (pipeOf d p).act else (pipeOf d p).act
    if !cEnable p c ∨ cHead p c ≠ h ∨ cFmt p c ≠ 0x40 ∨ y < cDy p c ∨ cDy p c + cDh p c ≤ y ∨ pipeBarred d p then d
    else
      let d := if early then modPipe p (fun s => { s with bound := (streamOf d (cStream p c)).seq }) d else d
      directTestLine p c (pipeOf d p).bound y d) 16 d

/-- The events of the start of a line. -/
def lineEvents (h : Nat) (y : Int) (d : Dev) : Dev :=
  let d := if y = closeLine d h then windowClose h d else d
  let d := if y = deadLine d h then deadlineLine h d else d
  let d := if y = signed 13 (rf d (.head h) Reg.Head.SYNC_OUT 28 16) then pulseLine h d else d
  let d := trigLine h y d
  if -2 ≤ y ∧ y + 2 < (vActive d h : Int) then directLine h (y < 0) (y + 2).toNat d else d

/-- The pixels as the port sends them: an underrun repeats the last pixel sent (R198). -/
def underrunRow (under : List Nat) : Nat → Nat × Nat × Nat → List (Nat × Nat × Nat) → List (Nat × Nat × Nat)
  | _, _, [] => []
  | x, last, p :: ps =>
    let q := if under.contains x then last else p
    q :: underrunRow under (x + 1) q ps

/-- The underrun of a line is counted (R198). -/
def countUnderrun (h n : Nat) (d : Dev) : Dev :=
  if n = 0 then d
  else
    let d := addTo (.head h) Reg.Head.UNDERRUN_PIXELS 31 0 n (bump (.head h) Reg.Head.UNDERRUN_LINES 31 0 d)
    if (headOf d h).under then d
    else raiseFault (.head h) Reg.Head.SRC_UNDERRUN Reg.Head.EV_UNDERRUN (modHead h (fun s => { s with under := true }) d)

/-- An active line: composition, colour stages, the port's stream, check windows and writeback (R140, R146, R155, R198,
R212, R307). -/
def activeLine (h y : Nat) (under : List Nat) (wbLate : List (Fin 2)) (d : Dev) : Dev :=
  let r := composeLine h y (noteLead h (shepLead d h y 0) d)
  let d := r.2.2
  let port := colourRow d h y r.1
  let bad := (List.range (hActive d h)).filter (fun x => under.contains x)
  let row := underrunRow bad 0 (headOf d h).last port
  let d := countUnderrun h bad.length (modHead h (fun s => { s with last := row.getLastD s.last }) d)
  let sent := if stands d (.head h) then row.map (fun _ => (0, 0, 0)) else row
  let d := forN (fun n d => if (portS d n).src = some h ∧ rb d (.port n) Reg.Port.LINK_STAT 29 then emit (.video n y sent) d else d) 8 d
  let d := chkLine h y r.2.1 r.1 sent d
  forN (fun k d => wbLine h y k r.1 sent (wbLate.any (fun o => o.val == k)) d) 2 d

/-- The line that follows: a skip or a jump takes the head from frame begin, or from a line of vertical blank, to its line. -/
def followingLine (s : HeadS) : Int := if s.ahead then s.goto_.getD (s.line + 1) else s.line + 1

/-- LINE_START. The line must be the one that follows; an aligned frame holds at its lock line until its edge has come, and
lines that a skip passes over raise their events first. -/
def doLineStart (h : Nat) (y : Int) (under : List Nat) (wbLate : List (Fin 2)) (d : Dev) : Dev :=
  let s := headOf d h
  if !s.run ∨ rb d (.head h) Reg.Head.HEAD_STAT 22 ∨ y ≠ followingLine s ∨ (vActive d h : Int) ≤ y ∨ (y = 0 ∧ s.ahead) ∨
      (y < 0 ∧ !s.ahead) then d
  else if y = lockLine d h ∧ aligning d h ∧ s.frames = ratioNum d h ∧ s.goto_.isNone then
    sb (.head h) Reg.Head.HEAD_STAT 22 true d
  else
    let d := modHead h (fun s => { s with goto_ := if s.ahead then none else s.goto_ }) d
    let skipped := (List.range (y - s.line - 1).toNat).map (fun (i : Nat) => s.line + 1 + (i : Int))
    let d := skipped.foldl (fun d l => lineEvents h l d) d
    let d := sf (.head h) Reg.Head.LINE_POS 28 16 (unsigned 13 y) (modHead h (fun s => { s with line := y }) d)
    let d := lineEvents h y d
    if 0 ≤ y then activeLine h y.toNat under wbLate d else d

/-- LINE_START. -/
def execLineStart (h : Fin 8) (line : Int) (under : List Nat) (wbOver : List (Fin 2)) (s : State) :=
  onDev (doLineStart h.val line under wbOver) s

/-- SYNC_OUT_PULSE_END. -/
def execSyncOutPulseEnd (h : Fin 8) (pin : Fin 2) (s : State) :=
  onDev (driveSync (modHead h.val (fun s => { s with pulse := s.pulse.filter (· != pin.val) }))) s

/-! ## Sync and lock (R190–R197) -/

/-- Pixel clocks of a frame. -/
def frameClocks (d : Dev) (h : Nat) : Nat := hTotal d h * vTotal d h

/-- A sync period within P₀ ± 2 % (R191, R192); both sides are scaled by 38,400 kHz, the pixel clock and 50. -/
def inRange (d : Dev) (h period : Nat) : Bool :=
  let a : Int := period * pclkKhz d h * ratioDen d h
  let b : Int := frameClocks d h * 38400 * ratioNum d h
  decide ((a - b) * 50 ≤ b ∧ (b - a) * 50 ≤ b)

/-- The trim after an aligned frame in LOCKED (R197). -/
def trimStep (h : Nat) (hold : Int) (d : Dev) : Dev :=
  let gain := max 1 (rf d (.head h) Reg.Head.TRIM_CFG 19 16)
  let err := hold - (rf d (.head h) Reg.Head.TRIM_CFG 11 0 : Nat)
  let step := Int.tdiv (err * 4000000 * (gain : Int)) (16 * (frameClocks d h : Int))
  let t := clampI (-20000) 20000 (signed 32 (rg d (.head h) Reg.Head.TRIM).toNat - step)
  sg (.head h) Reg.Head.TRIM (BitVec.ofNat 32 (unsigned 32 t)) d

/-- An aligned frame is judged by its phase error (R194, R195). -/
def judgeAligned (h : Nat) (e : Int) (d : Dev) : Dev :=
  let d := sg (.head h) Reg.Head.HOLD_PCLK (BitVec.ofNat 32 (unsigned 32 e)) d
  let t : Int := frameClocks d h
  if t < e * 40 ∨ e * 40 < -t then lockLoss h d
  else
    let d := modHead h (fun s => { s with aligned := s.aligned + 1 }) d
    if headState d h = 3 then (if rb d (.head h) Reg.Head.TIMING_FLAGS 2 then trimStep h e d else d)
    else if 2 ≤ (headOf d h).aligned then event (.head h) Reg.Head.EV_LOCKED (sf (.head h) Reg.Head.HEAD_STAT 30 28 3 d)
    else d

/-- The first aligned edge in CAPTURE: the head ends its line and jumps to the lock line, through a frame begin where that
line lies in the next frame (R195). -/
def captureJump (h : Nat) (d : Dev) : Dev :=
  let s := headOf d h
  let ll := lockLine d h
  let d := bump (.head h) Reg.Head.ALIGN_COUNT 31 24 d
  if s.ahead ∧ s.line < ll then
    modHead h (fun s => { s with jumped := true, aligned := 0, edges := 0, frames := 0, goto_ := some ll }) d
  else
    modHead h (fun s => { s with jumped := true, aligned := 0, edges := 0, alignNext := true, goto_ := some ll, ahead := false
                                 line := (vActive d h : Int) - 1 }) d

/-- The aligned edge of a captured head: it ends a hold, or it makes the head skip to the lock line (R193). -/
def alignEdge (h : Nat) (phase : Nat) (d : Dev) : Dev :=
  let s := headOf d h
  let num := ratioNum d h
  let begun := decide (s.line + 1 ≠ (vActive d h : Int))
  let d := modHead h (fun s => { s with edges := 0 }) d
  if rb d (.head h) Reg.Head.HEAD_STAT 22 then
    let d := sb (.head h) Reg.Head.HEAD_STAT 22 false d
    judgeAligned h phase (modHead h (fun s => if begun then { s with frames := 0 } else { s with alignNext := true }) d)
  else if s.ahead ∧ s.frames = num ∧ s.line < lockLine d h then
    let d := bump (.head h) Reg.Head.ALIGN_COUNT 15 0 d
    judgeAligned h (-(phase : Int)) (modHead h (fun s => { s with frames := 0, goto_ := some (lockLine d h) }) d)
  else if !s.ahead ∧ num ≤ s.frames + 1 then
    let d := bump (.head h) Reg.Head.ALIGN_COUNT 15 0 d
    judgeAligned h (-(phase : Int)) (modHead h (fun s => { s with alignNext := true, goto_ := some (lockLine d h) }) d)
  else d

/-- An edge reaches the head: one of a pin, or one that a stream's FS or a lead head's frame begin has given (R190). -/
def edgeHere (d : Dev) (h : Nat) : Bool :=
  syncSrc d h != 0 && (decide (syncSrc d h < 0x10) || decide (0 < (headOf d h).edgeDue))

/-- SYNC_EDGE. A first picture whose link is ready starts at it (R96). -/
def doSyncEdge (h period phase : Nat) (d : Dev) : Dev :=
  if !(headOf d h).run ∨ !edgeHere d h then d
  else
    let s := headOf d h
    let d := modHead h (fun s => { s with seen := true, edgeDue := s.edgeDue - 1, first := s.first && s.firstAt.isNone }) d
    if !s.seen then d
    else
      let d := sg (.head h) Reg.Head.SYNC_PERIOD (BitVec.ofNat 32 period) d
      if !inRange d h period then lockLoss h d
      else if headState d h = 1 then
        let d := modHead h (fun s => { s with good := s.good + 1 }) d
        if 2 ≤ (headOf d h).good then
          sf (.head h) Reg.Head.HEAD_STAT 30 28 2 (modHead h (fun s => { s with good := 0, jumped := false, aligned := 0 }) d)
        else d
      else if !s.jumped then captureJump h d
      else
        let d := modHead h (fun s => { s with edges := s.edges + 1 }) d
        if ratioDen d h ≤ s.edges + 1 then alignEdge h phase d else d

/-- SYNC_EDGE. -/
def execSyncEdge (h : Fin 8) (period phase : Nat) (s : State) := onDev (doSyncEdge h.val period phase) s

/-- SYNC_TIMEOUT (R195). -/
def execSyncTimeout (h : Fin 8) (s : State) := onDev (fun d =>
  if (headOf d h.val).run ∧ syncSrc d h.val ≠ 0 ∧ (headOf d h.val).seen then
    modHead h.val (fun s => { s with seen := false }) (lockLoss h.val d)
  else d) s

/-- CUT_HOLD: the hold ends without an edge, which puts the frame outside R194 (R193, R195). -/
def doCutHold (h : Nat) (d : Dev) : Dev :=
  if !rb d (.head h) Reg.Head.HEAD_STAT 22 then d
  else
    let d := sg (.head h) Reg.Head.HOLD_PCLK (BitVec.ofNat 32 (frameClocks d h / 40)) d
    lockLoss h (bump (.head h) Reg.Head.ALIGN_COUNT 23 16 (sb (.head h) Reg.Head.HEAD_STAT 22 false d))

/-- CUT_HOLD. -/
def execCutHold (h : Fin 8) (s : State) := onDev (doCutHold h.val) s

/-- A write to a register of a head page beyond the header. -/
def headRegWrite (h o : Nat) (v : Word) (d : Dev) : Dev :=
  if o = Reg.Head.HEAD_CTRL then headCtrl h v d
  else if Reg.Head.H_TIMING1 ≤ o ∧ o ≤ Reg.Head.TIMING_FLAGS then timingWrite h o v d
  else if o = Reg.Head.SYNC_OUT then syncOutWrite h v d
  else if o = Reg.Head.BW_CTX then flock0On (plainWrite (.head h) o v d)
  else plainWrite (.head h) o v d

end Sys2Proof.Machine
end

