-- ==== Sys2Proof/Machine/Keys.lean ====
section
/-! DEFINITION. The bezel keys of the Dale die (R362–R367, R371). -/
namespace Sys2Proof.Machine

/-- A field of KEY_CFG of a key. -/
def keyThresh (d : Dev) (k : Nat) : Nat := rf d (.key 0) (Reg.Key0.KEY_CFG k) 15 0
def keyGroup (d : Dev) (k : Nat) : Nat := rf d (.key 0) (Reg.Key0.KEY_CFG k) 23 16
def keyClass (d : Dev) (k : Nat) : Nat := rf d (.key 0) (Reg.Key0.KEY_CFG k) 25 24

/-- The state of a key: 0 UP, 1 CANDIDATE, 2 DOWN, 3 SUPPRESSED, 4 REARM, 5 FAULT (R363). -/
def keyState (d : Dev) (k : Nat) : Nat := rf d (.key 1) (Reg.Key1.KEY_STATE k) 2 0
def keyRaw (d : Dev) (k : Nat) : Nat := rf d (.key 1) (Reg.Key1.KEY_RAW k) 31 16
def keyBase (d : Dev) (k : Nat) : Nat := rf d (.key 1) (Reg.Key1.KEY_RAW k) 15 0
def setKeyBase (k b : Nat) (d : Dev) : Dev := sf (.key 1) (Reg.Key1.KEY_RAW k) 15 0 b d
/-- The delta of a key. -/
def keyDelta (d : Dev) (k : Nat) : Int := (keyRaw d k : Int) - keyBase d k

/-- The keys are sampled: from "Group 1 read" on, with the block enabled and neither page isolated (R362, R371). -/
def keysRun (d : Dev) : Bool :=
  rb d (.key 0) Reg.Key0.KEY_CTRL 0 && !isoOf d (.key 0) && !isoOf d (.key 1) && !d.sdg.inReset && d.sdg.reload == 0 &&
    d.sdg.tableOn && blkRuns d 0xF3

/-- Bit `k` of a pair of registers. -/
def setKeyBit (o k : Nat) (b : Bool) (d : Dev) : Dev := sb (.key 0) (o + 4 * (k / 32)) (k % 32) b d

/-- A key takes a state, which the registers show (R371). -/
def setKeyState (k st : Nat) (d : Dev) : Dev :=
  setKeyBit Reg.Key0.KEY_DOWN_LO k (st == 2) (setKeyBit Reg.Key0.KEY_FAULT_LO k (st == 5)
    (sf (.key 1) (Reg.Key1.KEY_STATE k) 2 0 st d))

/-- A KEY record (R358, R363). `ev`: 1 DOWN, 3 UP. -/
def keyRec (k ev flags : Nat) (d : Dev) : Dev :=
  keyRecord (keyClass d k) { kind := 2, panel := 0xFF, unit := k, ev := ev, flags := flags
                             signal := some (unsigned 16 (keyDelta d k)), scan := d.keys.samples % 2 ^ 32 } d

/-- A key that was DOWN is no longer: the suppressed keys of its group may follow (R363). -/
def keyFree (k : Nat) (d : Dev) : Dev :=
  if 11 < keyGroup d k then d
  else forN (fun j d => if keyGroup d j = keyGroup d k ∧ keyState d j = 3 then modKey j (fun s => { s with freed := true }) d else d) 48 d

/-- A key goes DOWN, with its record and its click (R363, R367). -/
def keyDown (k : Nat) (d : Dev) : Dev :=
  let d := modKey k (fun s => { s with low := 0 }) (setKeyState k 2 d)
  let d := keyRec k 1 0 (event (.key 0) Reg.Key0.EV_KEY_DOWN d)
  let c := rg d (.key 0) (Reg.Key0.KEY_CLICK k)
  if fld c 7 0 = 0xFF then d
  else
    let cls := trigClass d (setFld (setFld (0 : Word) 7 0 (fld c 7 0)) 9 8 (keyClass d k))
    submit .fold none (fld c 11 8) (fld c 7 0) cls (if fld c 31 24 = 0 then 255 else fld c 31 24) 0 d

/-- A DOWN key goes UP. -/
def keyUp (k : Nat) (d : Dev) : Dev :=
  keyFree k (keyRec k 3 0 (event (.key 0) Reg.Key0.EV_KEY_UP (setKeyState k 0 d)))

/-- A key enters FAULT: kind 1 open, 2 to ground, 3 to a key (R366). -/
def keyFault (k kind : Nat) (d : Dev) : Dev :=
  let down := keyState d k = 2
  let d := sf (.key 1) (Reg.Key1.KEY_STATE k) 5 4 kind (setKeyState k 5 (modKey k (fun s => { s with good := 0 }) d))
  let d := if down then keyFree k (keyRec k 3 8 d) else d
  if kind = 1 then raiseFault (.key 0) Reg.Key0.SRC_KEY_OPEN Reg.Key0.EV_KEY_OPEN (bump (.key 1) Reg.Key1.KEY_ERR 31 16 d)
  else raiseFault (.key 0) Reg.Key0.SRC_KEY_SHORT Reg.Key0.EV_KEY_SHORT (bump (.key 1) Reg.Key1.KEY_ERR 15 0 d)

/-- The raw value of a sample is taken: RAW, and the runs of open, saturated and good samples (R366). -/
def keyTake (k raw : Nat) (d : Dev) : Dev :=
  let opn := decide (raw < rf d (.key 0) Reg.Key0.KEY_TEST 31 16)
  let sat := raw == 0xFFFF
  modKey k (fun s => { s with open_ := if opn then s.open_ + 1 else 0, sat := if sat then s.sat + 1 else 0
                              good := if opn || sat then 0 else s.good + 1 })
    (sf (.key 1) (Reg.Key1.KEY_RAW k) 31 16 raw d)

/-- The baseline of a key that is UP or otherwise not in FAULT (R365): the mean of its first eight samples, whose rounding is
open; a drift of one count every 64 samples; and the value itself after four samples at or below −THRESHOLD ÷ 2. -/
def keyBaseline (k : Nat) (d : Dev) : Dev :=
  let s := keyOf d k
  let raw := keyRaw d k
  let t : Int := keyThresh d k
  if s.n < 8 then
    let sum := s.sum + raw
    let d := modKey k (fun s => { s with n := s.n + 1, sum := sum }) d
    if s.n = 7 then setKeyBase k (freeDiv 16 (sum : Int) 8).toNat d else d
  else
    let dl := keyDelta d k
    let neg := if 2 * dl ≤ -t then s.neg + 1 else 0
    if neg = 4 then setKeyBase k raw (modKey k (fun s => { s with neg := 0, drift := 0 }) d)
    else
      let d := modKey k (fun s => { s with neg := neg }) d
      if keyState d k = 0 ∧ 4 * (dl.natAbs : Int) < t then
        if s.drift = 63 then
          setKeyBase k (if 0 < dl then keyBase d k + 1 else if dl < 0 then keyBase d k - 1 else keyBase d k)
            (modKey k (fun s => { s with drift := 0 }) d)
        else modKey k (fun s => { s with drift := s.drift + 1 }) d
      else d

/-- KEY_STATE.DELTA; a delta beyond 16 bits has no value that the spec gives. -/
def keyShowDelta (k : Nat) (d : Dev) : Dev :=
  let dl := keyDelta d k
  sf (.key 1) (Reg.Key1.KEY_STATE k) 31 16
    (if -32768 ≤ dl ∧ dl ≤ 32767 then unsigned 16 dl else Config.freeNat d.free (0x371 + k)) d

/-- A key is measured and has its baseline. -/
def keyReady (d : Dev) (k : Nat) : Bool := (keyOf d k).n == 8

/-- A key could go DOWN at this sample (R363, R364): a CANDIDATE, or a SUPPRESSED key whose group's key has gone UP, with its
delta at THRESHOLD or above. -/
def keyCould (d : Dev) (k : Nat) : Bool :=
  keyReady d k && decide ((keyThresh d k : Int) ≤ keyDelta d k) &&
    (keyState d k == 1 || (keyState d k == 3 && (keyOf d k).freed))

/-- delta × 256 ÷ THRESHOLD of a key (R364). -/
def keyStrength (d : Dev) (k : Nat) : Nat := (keyDelta d k).toNat * 256 / max 1 (keyThresh d k)

/-- The key of its group that goes DOWN at this sample, if one may: none while a key of the group is DOWN (R364). -/
def keyChosen (d : Dev) (k : Nat) : Bool :=
  if 11 < keyGroup d k then true
  else
    let ks := (List.range 48).filter (fun j => keyGroup d j == keyGroup d k)
    if ks.any (fun j => keyState d j == 2) then false
    else (ks.filter (keyCould d)).all (fun j =>
      decide (keyStrength d j < keyStrength d k ∨ (keyStrength d j = keyStrength d k ∧ k ≤ j)))

/-- A key that is not in FAULT moves its state (R363); `down` are the keys that the group rule lets go DOWN. -/
def keyMove (down : List Nat) (k : Nat) (d : Dev) : Dev :=
  let t : Int := keyThresh d k
  let dl := keyDelta d k
  let raw := keyRaw d k
  match keyState d k with
  | 0 => if t ≤ dl then setKeyState k 1 d else d
  | 1 =>
    if dl < t then setKeyState k 0 d
    else if down.contains k then keyDown k d
    else bump (.key 1) Reg.Key1.KEY_SUPPRESS 31 16 (modKey k (fun s => { s with freed := false }) (setKeyState k 3 d))
  | 2 =>
    if dl < 3 * t / 4 then
      (if (keyOf d k).low = 1 then keyUp k d else modKey k (fun s => { s with low := s.low + 1 }) d)
    else modKey k (fun s => { s with low := 0 }) d
  | 3 => if dl < t then setKeyState k 0 d else if down.contains k then keyDown k d else d
  | 4 =>
    let mv : Int := (raw : Int) - (keyOf d k).ref
    if t < 2 * mv.natAbs then (if mv < 0 then setKeyBase k raw else id) (setKeyState k 0 d) else d
  | _ => d

/-- The faults of a key at a sample, and its recovery from them (R363, R366): the answer says whether it is in FAULT. -/
def keyHealth (k : Nat) (d : Dev) : Dev :=
  let s := keyOf d k
  if keyState d k = 5 then
    if 16 ≤ s.good then
      sf (.key 1) (Reg.Key1.KEY_STATE k) 5 4 0 (setKeyState k 0 (modKey k (fun s => { s with n := 0, sum := 0, neg := 0, drift := 0 }) d))
    else d
  else if s.open_ = 16 then keyFault k 1 d
  else if s.sat = 16 then keyFault k 2 d
  else d

/-- KEY_SAMPLE: all keys are sampled (R362–R367). A raw value that the command does not list is 0. -/
def doKeySample (raw : List Nat) (d : Dev) : Dev :=
  if !keysRun d then d
  else
    let d := modKeys (fun s => { s with samples := s.samples + 1 }) d
    let d := forN (fun k d => keyHealth k (keyTake k (raw.getD k 0 % 65536) d)) 48 d
    let ready := (List.range 48).filter (fun k => keyReady d k && keyState d k != 5)
    let down := ready.filter (fun k => keyCould d k && keyChosen d k)
    let d := ready.foldl (fun d k => keyMove down k d) d
    forN (fun k d => keyShowDelta k (if keyState d k = 5 then d else keyBaseline k d)) 48 (tick d)
def execKeySample (raw : List Word) (s : State) := onDev (doKeySample (raw.map (·.toNat))) s

/-- KEY_SHORT_TEST: the keys that saturate when measured alone are shorted to another key unless they saturate in normal
samples (R366). -/
def doKeyShortTest (sat : List Nat) (d : Dev) : Dev :=
  if !keysRun d || !rb d (.key 0) Reg.Key0.KEY_TEST 0 then d
  else sat.foldl (fun d k =>
    if (keyOf d k).sat ≠ 0 then d
    else if keyState d k = 5 then modKey k (fun s => { s with good := 0 }) d
    else keyFault k 3 d) d
def execKeyShortTest (sat : List (Fin 48)) (s : State) := onDev (doKeyShortTest (sat.map (·.val))) s

/-- KEY_FORCED_LIFT: the key has been DOWN for MAX_TOUCH_S, 0 being no limit (R363). -/
def doKeyForcedLift (k : Nat) (d : Dev) : Dev :=
  if keyState d k = 2 ∧ rf d (.key 0) (Reg.Key0.KEY_CLICK k) 23 16 ≠ 0 ∧ keysRun d = true then
    let d := modKey k (fun s => { s with ref := keyRaw d k }) (setKeyState k 4 d)
    keyFree k (keyRec k 3 2 (event (.key 0) Reg.Key0.EV_FORCED_LIFT (bump (.key 1) Reg.Key1.KEY_SUPPRESS 15 0 d)))
  else d
def execKeyForcedLift (k : Fin 48) (s : State) := onDev (doKeyForcedLift k.val) s

/-- A write of KEY_CTRL: RESTART ends isolation, and both RESTART and REBASE rebaseline every key (R371). -/
def keyCtrl (v : Word) (d : Dev) : Dev :=
  let d := if bitOf v 31 then
      (let d := if isoOf d (.key 0) then endIso (.key 0) d else d
       if isoOf d (.key 1) then endIso (.key 1) d else d)
    else d
  let d := if bitOf v 31 || bitOf v 30 then
      forN (fun k => modKey k (fun s => { s with n := 0, sum := 0, neg := 0, drift := 0 })) 48 d else d
  plainWrite (.key 0) Reg.Key0.KEY_CTRL v d

/-- KEY_REBASE. -/
def doKeyRebase (who : Party) (d : Dev) : Dev :=
  onWrite who (.key 0) Reg.Key0.KEY_CTRL (fun d => keyCtrl (putBit (rg d (.key 0) Reg.Key0.KEY_CTRL) 30 true) d) d
def execKeyRebase (who : Party) (s : State) := onDev (doKeyRebase who) s

/-- KEY_RESTART. -/
def doKeyRestart (who : Party) (d : Dev) : Dev :=
  onWrite who (.key 0) Reg.Key0.KEY_CTRL (fun d => keyCtrl (putBit (rg d (.key 0) Reg.Key0.KEY_CTRL) 31 true) d) d
def execKeyRestart (who : Party) (s : State) := onDev (doKeyRestart who) s

/-- A write of KEY_CFG: a GROUP above 11 other than 0xFF refuses it (R364). -/
def keyCfg (k : Nat) (v : Word) (d : Dev) : Dev :=
  if 11 < fld v 23 16 ∧ fld v 23 16 ≠ 0xFF then d else plainWrite (.key 0) (Reg.Key0.KEY_CFG k) v d

end Sys2Proof.Machine
end

