-- ==== Sys2Proof/Machine/Tether.lean ====
section
/-! DEFINITION. The tether, the charge words, the requests to the Sheepdog, the releases of its entries and Cairn's
commands (R509–R526, R532–R540, R680). What needs the image or the Fell blocks stands with those chapters. -/
namespace Sys2Proof.Machine

/-! ## The tether -/

/-- The Fell die runs: it has been released and is not held (R507, R516). -/
def fellLive (d : Dev) : Bool := !d.sdg.fellHeld

/-- The state code of the tether (R539). -/
def tetState (d : Dev) : Nat := rf d .tet Reg.Tet.TET_STAT 1 0

/-- TET sends its queue ahead of every new report, and the reports it dropped go to LOST (R680). -/
def tetFlush (d : Dev) : Dev :=
  let q := d.tet.queue
  let n := d.tet.dropped
  let d := modTet (fun t => { t with queue := [], dropped := 0 }) d
  let d := modSdg (fun g => { g with reports := g.reports ++ q }) d
  cairnShow (modCairn (fun c => { c with lost := (c.lost + n) % 65536 }) d)

/-- Training ends: a direction runs on 16 lanes or on 8 of them, or the training has failed if neither half of one is
whole (R511, R513). -/
def doTetherTrained (up down : Nat) (d : Dev) : Dev :=
  if tetState d = 0 ∨ tetState d = 2 ∨ d.sdg.inReset ∨ isoOf d .tet then d
  else if (up ≠ 16 ∧ up ≠ 8) ∨ (down ≠ 16 ∧ down ≠ 8) then sf .tet Reg.Tet.TET_STAT 1 0 0 d
  else
    let d := modTet (fun t => { t with toDale := none, toFell := none }) d
    let d := when (d.boot.stage == 2) (fun d => { d with boot := { d.boot with stage := 3 } }) d
    let d := sb .tet Reg.Tet.TET_STAT 31 true (sf .tet Reg.Tet.TET_STAT 20 16 up
      (sf .tet Reg.Tet.TET_STAT 12 8 down (sf .tet Reg.Tet.TET_STAT 1 0 2 d)))
    let d := tetFlush d
    if up = 8 ∨ down = 8 then raiseFault .tet Reg.Tet.SRC_TET_LANE Reg.Tet.EV_LANE_DROP d else d

/-- TETHER_TRAINED. -/
def execTetherTrained (up down : Nat) (s : State) := onDev (doTetherTrained up down) s

/-- The running tether retrains: no frame passes, and the retrain is counted (R511). -/
def doTetherRetrain (d : Dev) : Dev :=
  if tetUp d then
    bump .tet Reg.Tet.TET_ERR 15 0 (sb .tet Reg.Tet.TET_STAT 31 false (sf .tet Reg.Tet.TET_STAT 20 16 0
      (sf .tet Reg.Tet.TET_STAT 12 8 0 (sf .tet Reg.Tet.TET_STAT 1 0 3 (modTet (fun t => { t with fails := (0, 0) }) d)))))
  else d

/-- TETHER_RETRAIN. -/
def execTetherRetrain (s : State) := onDev doTetherRetrain s

/-- The receiver asks for a frame again: REPLAY rises, and TET_REPLAY fires at each multiple of 1,024 (R511, R539). The
source has no EVENT bit of its own. -/
def tetReplay (d : Dev) : Dev :=
  let d := bump .tet Reg.Tet.TET_ERR 31 16 d
  if rf d .tet Reg.Tet.TET_ERR 31 16 % 1024 = 0 then
    fireSource .tet Reg.Tet.SRC_TET_REPLAY d
  else d

/-- The frame number of a tether frame (R510). -/
def frameSeq (bs : List Byte) : Nat := leNat ((bs.drop 2).take 2)

/-- A tether frame passes its CRC: CRC-32C in the form of R70 over the 28 bytes before it, with fold word FSEQ (R510). -/
def frameGood (bs : List Byte) : Bool :=
  bs.length == 32 && leNat (bs.drop 28) == (crcFold (frameSeq bs) (bs.take 28)).toNat

/-- The frame number expected next in a direction; none right after training. -/
def frameNext (toDale : Bool) (d : Dev) : Option Nat := if toDale then d.tet.toDale else d.tet.toFell

/-- The failures in a row of the frame that a direction waits for. -/
def frameFails (toDale : Bool) (n : Nat) (d : Dev) : Dev :=
  modTet (fun t => { t with fails := if toDale then (n, t.fails.2) else (t.fails.1, n) }) d

/-- A frame fails: it is asked for again, and at its third failure the tether retrains (R511). -/
def frameBad (toDale : Bool) (d : Dev) : Dev :=
  let n := (if toDale then d.tet.fails.1 else d.tet.fails.2) + 1
  let d := frameFails toDale n (tetReplay d)
  if 3 ≤ n then doTetherRetrain d else d

/-- A frame arrives: it is delivered by class, or asked for again (R510, R511). An idle frame delivers nothing. -/
def doTetherFrame (toDale : Bool) (bs : List Byte) (d : Dev) : Dev :=
  if !tetUp d || d.sdg.inReset then d
  else if frameGood bs && (frameNext toDale d == none || frameNext toDale d == some (frameSeq bs)) then
    let n := some ((frameSeq bs + 1) % 65536)
    let d := frameFails toDale 0 (modTet (fun t => if toDale then { t with toDale := n } else { t with toFell := n }) d)
    let cls := leNat (bs.take 1)
    let len := min 24 (leNat ((bs.drop 1).take 1))
    if cls = 0 then d else emit (.tether toDale cls ((bs.drop 4).take len)) d
  else frameBad toDale d

/-- TETHER_FRAME. -/
def execTetherFrame (toDale : Bool) (bytes : List Byte) (s : State) := onDev (doTetherFrame toDale bytes) s

/-- A failed training is tried again (R511). -/
def doTetherTrainRetry (d : Dev) : Dev :=
  if tetState d = 0 ∧ !d.sdg.inReset ∧ !isoOf d .tet then sf .tet Reg.Tet.TET_STAT 1 0 1 d else d

/-- TETHER_TRAIN_RETRY. -/
def execTetherTrainRetry (s : State) := onDev doTetherTrainRetry s

/-! ## Charge words -/

/-- The SEQ, STATE, SOURCE and EPOCH of a charge word (R514). -/
def cwSeq (bs : List Byte) : Nat := leNat (bs.take 2)
def cwState (bs : List Byte) : Nat := leNat ((bs.drop 2).take 1)
def cwSource (bs : List Byte) : Nat := leNat ((bs.drop 3).take 1)
def cwEpoch (bs : List Byte) : Nat := leNat ((bs.drop 4).take 4)

/-- A charge word passes its CRC (R514). -/
def cwGood (bs : List Byte) : Bool :=
  bs.length == 12 && leNat (bs.drop 8) == (crcFold (cwSeq bs) (bs.take 8)).toNat

/-- The Fell die's own gather (R518). -/
def ownGather (d : Dev) : Bool := rb d .tet Reg.Tet.TET_STAT 30

/-- The STATE byte of the Fell die's answer: the STATE of the word, or GATHER in its own gather, with REQUEST while
RESTART_REQ is set (R514, R515, R518, R519). -/
def answerState (st : Nat) (d : Dev) : Nat :=
  (if ownGather d then 2 else st % 4) + (if rb d .tet Reg.Tet.RESTART_REQ 0 then 12 else 0)

/-- TET answers a valid Dale word (R515, R539). -/
def doChargeAnswer (bs : List Byte) (d : Dev) : Dev :=
  if fellLive d && tetUp d && !d.sdg.inReset && cwGood bs && cwSource bs == 0 then
    let a := answerState (cwState bs) d
    let d := sg .tet Reg.Tet.CHARGE_REMOTE (BitVec.ofNat 32 (cwSeq bs * 65536 + cwState bs))
      (modTet (fun t => { t with runWord := decide (cwState bs % 4 < 2) }) d)
    let d := sg .tet Reg.Tet.CHARGE_LOCAL (BitVec.ofNat 32 (cwSeq bs * 65536 + a)) d
    emit (.charge true (charge12 (cwSeq bs) a 1 (rg d .tet Reg.Tet.EPOCH).toNat)) d
  else d

/-- CHARGE_ANSWER. -/
def execChargeAnswer (bytes : List Byte) (s : State) := onDev (doChargeAnswer bytes) s

/-- A disagreement is declared (R516, R517): counted, recorded and matched. -/
def declareDisagree (rule : Nat) (d : Dev) : Dev :=
  let d := modSdg (fun g => { g with declared := true, differ := 0, missed := 0 }) d
  let d := bump .sdg Reg.Sdg.SDG_COUNT 15 8 d
  let d := cairnPut (cairnNow d 0xF0 0xFF 0xFF 10 (chargeState d) (chargeState d) 0xFFFF
    (d.sdg.lastSent * 256 + d.sdg.lastAnswer) rule) d
  let d := event .sdg Reg.Sdg.EV_DISAGREE d
  takeEvent { event := 3, block := 0xFF, source := 0xFF, cls := 0xFF, page := 0 } d

/-- The rules of R516 after an exchange that did not agree. -/
def judgeCounts (d : Dev) : Dev :=
  if 3 ≤ d.sdg.differ then declareDisagree 1 d
  else if 10 ≤ d.sdg.missed then declareDisagree 2 d
  else d

/-- An exchange did not agree: `differ` says that a valid answer came (R516, R521). -/
def exchangeBad (differ : Bool) (d : Dev) : Dev :=
  let d := modSdg (fun g => { g with agreeLeft := if g.agreeLeft = 0 then 0 else 10 }) d
  if d.sdg.declared || d.sdg.suspended then d
  else judgeCounts (modSdg (fun g => { g with differ := (if differ then g.differ + 1 else 0), missed := g.missed + 1 }) d)

/-- An exchange agreed: the counts start again, the first after the Fell die was released ends start-up, and the tenth
after the Sheepdog's own reset ends its GATHER (R509, R516, R521). -/
def exchangeGood (d : Dev) : Dev :=
  let g := d.sdg
  let d := modSdg (fun g => { g with differ := 0, missed := 0, declared := false, agreeLeft := g.agreeLeft - 1,
                                     starting := false }) d
  if g.starting then recompute 0xFFFF 0 3 false [] d
  else if g.agreeLeft = 1 then recompute 0xFFFF 0 2 false [] d
  else d

/-- The Sheepdog refuses a request of R519 (R519, R533, R538). -/
def refuseRequest (d : Dev) : Dev :=
  let d := cairnPut (cairnNow d 0xF0 0xFF 0xFF 12 (chargeState d) (chargeState d) 0xFFFF 3 1) d
  event .sdg Reg.Sdg.EV_REQ_REFUSED (sb .tet Reg.Tet.TET_STAT 29 true (sb .tet Reg.Tet.RESTART_REQ 0 false d))

/-- The Sheepdog decides on a request for RESTART: it grants it in any state but RESTART within the restart budget
(R519). -/
def decideRequest (d : Dev) : Dev :=
  if chargeState d = 3 ∨ 3 ≤ recentRestarts d then refuseRequest d
  else
    let d := cairnPut (cairnNow d 0xF0 0xFF 0xFF 12 (chargeState d) (chargeState d) 0xFFFF 3 0) d
    let e : ActiveEntry := { key := 0x10006, stTo := 3, release := 0, holdMs := 0, actions := 0, report := 0xFF,
                             event := 0, causes := [], heldDone := true, clear := false, asked := false, served := false, done := false }
    settle 0xFFFF 0 1 [] (activate e (sb .tet Reg.Tet.RESTART_REQ 0 false d))

/-- An answer reaches the Sheepdog in time. It is valid if its CRC, SOURCE, SEQ and EPOCH are those of the word it
answers; an invalid one leaves the exchange open (R515, R516, R519). -/
def doChargeAnswerReceived (bs : List Byte) (d : Dev) : Dev :=
  match d.sdg.open_ with
  | none => d
  | some x =>
    if cwGood bs && cwSource bs == 1 && cwSeq bs == x.seq && cwEpoch bs == d.sdg.vaoEpoch % 2 ^ 32 then
      let d := modSdg (fun g => { g with open_ := none, suspended := false, lastAnswer := cwState bs }) d
      let d := if cwState bs % 4 = x.st then exchangeGood d else exchangeBad true d
      if cwState bs / 4 % 4 = 3 ∧ fellLive d then decideRequest d else d
    else d

/-- CHARGE_ANSWER_RECEIVED. -/
def execChargeAnswerReceived (bytes : List Byte) (s : State) := onDev (doChargeAnswerReceived bytes) s

/-- An exchange passes 50 µs without a valid answer (R515, R516). -/
def doExchangeTimeout (d : Dev) : Dev :=
  match d.sdg.open_ with
  | none => d
  | some _ => exchangeBad false (modSdg (fun g => { g with open_ := none, lastAnswer := 0xFF }) d)

/-- EXCHANGE_TIMEOUT. -/
def execExchangeTimeout (s : State) := onDev doExchangeTimeout s

/-- The Sheepdog sends its word with the next SEQ (R514, R515, R509): once the Fell die is released, and not while its own
table is being read again. An exchange that is still open has passed its 50 µs. -/
def doChargeWordSend (d : Dev) : Dev :=
  if d.sdg.inReset || !fellLive d || d.sdg.reload != 0 then d
  else
    let d := doExchangeTimeout d
    let g := d.sdg
    let st := chargeState d
    let d := modSdg (fun g => { g with nextSeq := (g.nextSeq + 1) % 65536, lastSent := st,
                                       open_ := some { seq := g.nextSeq, st := st } }) d
    emit (.charge false (charge12 g.nextSeq st 0 (g.vaoEpoch % 2 ^ 32))) (sf .sdg Reg.Sdg.CHARGE_SEQ 15 0 g.nextSeq d)

/-- CHARGE_WORD_SEND. -/
def execChargeWordSend (s : State) := onDev doChargeWordSend s

/-! ## Lockstep -/

/-- A rail is judged invalid. -/
def railInvalid (d : Dev) (i : Nat) : Bool := (railOf d i).judge == 2

/-- The lockstep resets of the last 60 s, this one included (R521). -/
def recentLocks (d : Dev) : List Nat := (d.sdg.vaoLocks.filter (fun t => decide (d.us < t + 60000000))) ++ [d.us]

/-- The Sheepdog cores mismatch (R520, R521). -/
def doLockstep (syndrome : Word) (d : Dev) : Dev :=
  if d.sdg.inReset then d
  else
    let d := cairnPut (cairnNow d 0xF0 0xFF 0xFF 7 (chargeState d) (chargeState d) 0xFFFF syndrome.toNat 0) d
    let d := bump .sdg Reg.Sdg.SDG_COUNT 7 0 d
    let l := recentLocks d
    holdDale (decide (3 ≤ l.length)) (modSdg (fun g => { g with vaoLocks := l }) d)

/-- LOCKSTEP. -/
def execLockstep (syndrome : Word) (s : State) := onDev (doLockstep syndrome) s

/-- The Dale die leaves reset: the Sheepdog runs with the gather wire driven, in RESTART during start-up (R509), or in
GATHER beside a running Fell die (R521). -/
def daleOut (d : Dev) : Dev :=
  let d := modSdg (fun g => { g with inReset := false, reload := if g.fellHeld then 0 else 1 }) d
  let d := sf .sdg Reg.Sdg.CHARGE_SEQ 31 16 d.sdg.vaoEpoch (sb .sdg Reg.Sdg.SDG_STATE 4 true d)
  recompute 0xFFFF 0 1 false [] d

/-- The Sheepdog reads the fuses (R96, R505). -/
def readFuses (f : Fuses) (d : Dev) : Dev :=
  sg .lcs Reg.Lcs.LC_STATE (BitVec.ofNat 32 f.lcState) (sg64 .lcs Reg.Lcs.SERIAL_LO f.serial.toNat d)

/-- The 100 µs hold of the Dale die ends: it starts as from "Dale die out of reset" if VAUX and VAO are valid (R520), and
not after a third lockstep reset (R521). -/
def doDaleResetEnd (f : Fuses) (d : Dev) : Dev :=
  if !d.sdg.inReset || d.sdg.deadHeld || d.pwr.held || railInvalid d 9 || railInvalid d 10 then d
  else
    let d := when d.sdg.fellHeld (fun d => { d with boot := { d.boot with stage := 1 } }) d
    daleOut (readFuses f d)

/-- DALE_RESET_END. -/
def execDaleResetEnd (s : State) := onDev (doDaleResetEnd s.fuses) s

/-! ## Reports, entries and requests -/

/-- The Sheepdog receives the oldest fault report, with those of the same cycle (R12, R16, R523). A report of F2 may have told
of the isolation that ends an export's wait for an NVM command. -/
def doFaultReport (d : Dev) : Dev :=
  match d.sdg.inReset, d.sdg.reports with
  | false, r :: rs =>
    cairnExportDue (takeReports (r :: rs.takeWhile (·.1.same)) (modSdg (fun g => { g with reports := rs.dropWhile (·.1.same) }) d))
  | _, _ => d

/-- FAULT_REPORT. -/
def execFaultReport (s : State) := onDev doFaultReport s

/-- An active entry changed, by its place among the active entries. -/
def modEntry (pos : Nat) (f : ActiveEntry → ActiveEntry) (d : Dev) : Dev :=
  modSdg (fun g => { g with active := g.active.mapIdx (fun i a => if i = pos then f a else a) }) d

/-- HOLD_MS of an active entry passes (R524, R525). -/
def doEntryHoldExpiry (pos : Nat) (d : Dev) : Dev :=
  match d.sdg.active[pos]? with
  | none => d
  | some a =>
    let d := modEntry pos (fun a => { a with heldDone := true }) d
    if d.sdg.active.any (·.mayGo) then releaseDue 2 d else settle a.key a.event 1 [] d

/-- ENTRY_HOLD_EXPIRY. -/
def execEntryHoldExpiry (pos : Nat) (s : State) := onDev (doEntryHoldExpiry pos) s

/-- The cause of an entry may count as clear: a fault's block is not isolated, a rail is valid; a disagreement never is
(R524). -/
def mayClear (d : Dev) (a : ActiveEntry) : Bool :=
  a.causes.all (fun v =>
    if v.event = 1 then !tabGet (fun _ => false) d.iso v.page
    else if v.event = 2 then (railOf d v.source).judge == 0
    else v.event == 4)

/-- The cause of an active entry has been quiet for 100 ms (R524). -/
def doCauseClear (pos : Nat) (d : Dev) : Dev :=
  match d.sdg.active[pos]? with
  | none => d
  | some a =>
    if mayClear d a then
      let d := modEntry pos (fun a => { a with clear := true }) d
      if d.sdg.active.any (·.mayGo) then releaseDue 2 d else d
    else d

/-- CAUSE_CLEAR. -/
def execCauseClear (pos : Nat) (s : State) := onDev (doCauseClear pos) s

/-- The record and the event of a request in SDG_REQ (R533, R538). -/
def recordRequest (v : Nat) (ok : Bool) (d : Dev) : Dev :=
  let d := cairnPut (cairnNow d 0xF0 0xFF 0xFF 12 (chargeState d) (chargeState d) 0xFFFF v (!ok).toNat) d
  if ok then d else event .sdg Reg.Sdg.EV_REQ_REFUSED d

/-- A FOLD_REQUEST event (R522–R524): granted if an entry applies, or it is held for the table. -/
def foldRequest (code : Nat) (d : Dev) : Dev :=
  if isoOf d .sdg then d else
  let v : SdgEvent := { event := 4, block := 0xFF, source := code, cls := 0xFF, page := 0 }
  let ok := !d.sdg.tableOn || (matchEvent d v).isSome
  recordRequest code ok (takeEvent v d)

/-- A write of SDG_REQ without RELEASE. -/
def doFoldRequest (who : Party) (code : BitVec 8) (d : Dev) : Dev :=
  onWrite who .sdg Reg.Sdg.SDG_REQ (foldRequest code.toNat) d

/-- FOLD_REQUEST. -/
def execFoldRequest (who : Party) (code : BitVec 8) (s : State) := onDev (doFoldRequest who code) s

/-- The entry that a release request names: its index, and 0xFFFF the default of an F3 fault, which has no index (R523,
R538). -/
def releaseKey (entry : Nat) : Nat := if entry = 0xFFFF then 0x10003 else entry

/-- The Fold part asks for the release of an entry (R524). -/
def releaseRequest (entry : Nat) (d : Dev) : Dev :=
  if isoOf d .sdg then d else
  let hit := fun (a : ActiveEntry) => a.key == releaseKey entry && (a.release == 2 || a.release == 3)
  let ok := d.sdg.active.any hit
  let d := recordRequest (entry + 2 ^ 31) ok d
  let d := modSdg (fun g => { g with active := g.active.map (fun a => if hit a then { a with asked := true } else a) }) d
  if d.sdg.active.any (·.mayGo) then releaseDue 2 d else d

/-- A write of SDG_REQ with RELEASE. -/
def doReleaseRequest (who : Party) (entry : BitVec 16) (d : Dev) : Dev :=
  onWrite who .sdg Reg.Sdg.SDG_REQ (releaseRequest entry.toNat) d

/-- RELEASE_REQUEST. -/
def execReleaseRequest (who : Party) (entry : BitVec 16) (s : State) := onDev (doReleaseRequest who entry) s

/-- A postponed restart is carried out: 60 s have passed since the first of the three before it (R525). -/
def doRestartBudgetWaitEnd (d : Dev) : Dev :=
  if !d.sdg.waiting then d
  else
    let d := modSdg (fun g => { g with vaoRestarts := g.vaoRestarts.drop (g.vaoRestarts.length - 2) }) d
    let c := dueCauses d
    recompute 0xFFFF 0 1 false [] (countRestart (when (!d.sdg.fellHeld) (holdFell c) d))

/-- RESTART_BUDGET_WAIT_END. -/
def execRestartBudgetWaitEnd (s : State) := onDev doRestartBudgetWaitEnd s

/-- REPORT definition `k` falls due while an active entry sends it (R529). -/
def doReportPeriod (k : Nat) (d : Dev) : Dev :=
  match d.sdg.defs[k]? with
  | none => d
  | some r =>
    if r.periodMs ≠ 0 ∧ (reportsOf d.sdg.active).contains k ∧ !d.sdg.inReset then sendReportDef k d else d

/-- REPORT_PERIOD. -/
def execReportPeriod (k : Fin 8) (s : State) := onDev (doReportPeriod k.val) s

/-! ## Cairn commands -/

/-- An isolated CRN page keeps recording and takes no command (R12, R540). -/
def crnTakes (act : Dev → Dev) (d : Dev) : Dev := if isoOf d (.crn 0) then d else act d

/-- A write of CRN_CMD. -/
def onCrnCmd (who : Party) (act : Dev → Dev) (d : Dev) : Dev := onWrite who (.crn 0) Reg.Crn0.CRN_CMD (crnTakes act) d

/-- FREEZE (R534). -/
def doFreeze (who : Party) (d : Dev) : Dev := onCrnCmd who cairnFreeze d
/-- FREEZE. -/
def execFreeze (who : Party) (s : State) := onDev (doFreeze who) s

/-- UNFREEZE (R534). -/
def doUnfreeze (who : Party) (d : Dev) : Dev := onCrnCmd who cairnUnfreeze d
/-- UNFREEZE. -/
def execUnfreeze (who : Party) (s : State) := onDev (doUnfreeze who) s

/-- EXPORT (R535). -/
def doExport (who : Party) (d : Dev) : Dev := onCrnCmd who cairnExport d
/-- EXPORT. -/
def execExportC (who : Party) (s : State) := onDev (doExport who) s

/-- A NOTE is written, or dropped and counted if it follows another within 100 µs (R537). -/
def cairnNote (d : Dev) : Dev :=
  match d.cairn.noteTime with
  | some t => if d.us < t + 100 then cairnLose false d else write d
  | none => write d
where
  /-- The record of a NOTE (R533). -/
  write (d : Dev) : Dev :=
    cairnPut (cairnNow d 0xF1 0xFF 0xFF 9 (chargeState d) (chargeState d) 0xFFFF
      (rg d (.crn 0) Reg.Crn0.CRN_NOTE0).toNat (rg d (.crn 0) Reg.Crn0.CRN_NOTE1).toNat)
      (modCairn (fun c => { c with noteTime := some d.us }) d)

/-- NOTE (R537). -/
def doNote (who : Party) (d : Dev) : Dev := onCrnCmd who cairnNote d
/-- NOTE. -/
def execNote (who : Party) (s : State) := onDev (doNote who) s

/-- The bytes of a run of records. -/
def recordBytes (rs : List CairnRec) : List Byte := rs.foldr (fun r bs => r.bytes ++ bs) []

/-- The operations of an export that went through: the erase is operation 0, page `k` operation `k`; the operation that
failed leaves what it wrote undefined (R535, R607). -/
def exportWrites (base : Nat) (bs : List Byte) (failAt : Option Nat) (d : Dev) : Dev :=
  match failAt with
  | none => writeBytes setNvm base bs (nvmErase base d)
  | some 0 => nvmUndefined base 0x10000 d
  | some (k + 1) => nvmUndefined (base + 256 * k) 256 (writeBytes setNvm base (bs.take (256 * k)) (nvmErase base d))

/-- An export ends: complete, with any freeze, or failed (R534, R535). -/
def doExportDone (failAt : Option Nat) (d : Dev) : Dev :=
  match d.cairn.exporting with
  | none => d
  | some (k, rs) =>
    let d := exportWrites (dumpBase k) (recordBytes rs) failAt d
    let d := sb (.crn 0) Reg.Crn0.CRN_STAT 30 false (modCairn (fun c => { c with exporting := none }) d)
    let d := if failAt = none then event (.crn 0) Reg.Crn0.EV_EXPORT_DONE (cairnUnfreeze d)
      else fireSource (.crn 0) Reg.Crn0.SRC_EXPORT_FAIL (sb (.crn 0) Reg.Crn0.CRN_STAT 29 true d)
    cairnExportDue d

/-- EXPORT_DONE. -/
def execExportDone (failAt : Option Nat) (s : State) := onDev (doExportDone failAt) s

end Sys2Proof.Machine
end

