-- ==== Sys2Proof/Machine/Supply.lean ====
section
/-! DEFINITION. Supplies, clocks and resets of the whole device: the rail monitors and what their judgements do, RST_N, the
crystals and the PLLs ("Supplies, Clocks and Resets", R601–R607, R612–R624). Voltages are in mV. -/
namespace Sys2Proof.Machine

/-! ## Rails (R601, R602) -/

/-- Bounds of a rail: the warning window and the invalid range; a rail with no bounds in force is inside both. -/
structure RailTh where
  wlo : Int
  whi : Int
  ilo : Int
  ihi : Int
deriving DecidableEq, Repr

/-- The setpoint of VDD_FG: 800 mV in MODE 0 (R605). -/
def vfgSet (d : Dev) : Nat := if rb d (.sys 2) Reg.Sys2.SUP_CFG 0 then rf d (.sys 2) Reg.Sys2.SUP_STAT 25 16 else 800

/-- The setpoint of a boost's rail in mV. -/
def vhvMv (d : Dev) (b : Nat) : Nat := 500 * vhvSet d b

/-- The bounds in force for a rail (R391, R601). A boost's rail has none until VHV_OK. -/
def railTh (d : Dev) (i : Nat) : Option RailTh :=
  match i with
  | 0 => some ⟨720, 800, 680, 840⟩
  | 1 => some ⟨vfgSet d - 25, vfgSet d + 25, 680, 840⟩
  | 2 => some ⟨760, 840, 720, 880⟩
  | 3 => some ⟨475, 525, 450, 550⟩
  | 4 => some ⟨1000, 1100, 950, 1150⟩
  | 5 => some ⟨810, 890, 770, 930⟩
  | 6 => some ⟨1710, 1890, 1620, 1980⟩
  | 7 => some ⟨1710, 1890, 1620, 1980⟩
  | 8 => some ⟨3135, 3465, 2970, 3630⟩
  | 9 => some ⟨3135, 3465, 2970, 3630⟩
  | 10 => some ⟨3135, 3465, 2700, 3630⟩
  | 11 => some ⟨10000, 34000, 9000, 36000⟩
  | 12 => some ⟨8500, 17500, 8000, 18000⟩
  | k =>
    let s : Int := vhvMv d (k - 13)
    if bst d (k - 13) 15 15 = 1 then some ⟨s * 95 / 100, s * 105 / 100, s * 90 / 100, s * 110 / 100⟩ else none

/-- The zone of a sample: 0 inside the warning window, 1 outside it, 2 outside the invalid range. -/
def railZone (t : Option RailTh) (v : Int) : Nat :=
  match t with
  | none => 0
  | some t => if v < t.ilo ∨ t.ihi < v then 2 else if v < t.wlo ∨ t.whi < v then 1 else 0

/-- Samples in a row that judge a rail invalid: 2; a boost's rail 10 above and 1,000 below (R391, R602). -/
def railRun (i : Nat) (t : Option RailTh) (v : Int) : Nat :=
  if i < 13 then 2 else match t with | some t => if t.ihi < v then 10 else 1000 | none => 1000

/-- A monitor after a sample, with its judgement (R602). `masked`: warnings do not count. -/
def RailS.sample (r : RailS) (zone run : Nat) (masked : Bool) (v : Int) : RailS :=
  let bad := if zone = 2 then min 1000 (r.bad + 1) else 0
  let warn := if zone = 1 ∧ masked = false then min 10 (r.warn + 1) else 0
  let good := if zone = 0 then min 1000 (r.good + 1) else 0
  let j := if r.judge ≠ 2 ∧ run ≤ bad then 2
    else if r.judge = 0 ∧ warn = 10 then 1
    else if r.judge ≠ 0 ∧ good = 1000 then 0
    else r.judge
  { judge := j, bad := bad, warn := warn, good := good, low := min r.low v, now := v
    warns := if j = 1 ∧ r.judge ≠ 1 then (r.warns + 1) % 65536 else r.warns
    invalids := if j = 2 ∧ r.judge ≠ 2 then (r.invalids + 1) % 65536 else r.invalids }

/-- A rail is off (R623). -/
def railOff (d : Dev) (i : Nat) : Bool :=
  let v := (railOf d i).now
  match i with
  | 0 => decide (v < 75) | 1 => decide (10 * v < vfgSet d) | 2 => decide (v < 80) | 3 => decide (v < 50)
  | 4 => decide (v < 105) | 5 => decide (v < 85) | 6 => decide (v < 180) | 7 => decide (v < 180)
  | 8 => decide (v < 330) | 9 => decide (v < 330) | 10 => decide (v < 330) | 11 => decide (v < 1000) | 12 => decide (v < 850)
  | k => decide (10 * v < vhvMv d (k - 13)) || !rb d (.hap 0) (bstCtrl (k - 13)) 31

/-- RAIL_STAT as it reads: a boost's rail is off whenever its boost is disabled. -/
def railStat (d : Dev) : Word :=
  BitVec.ofNat 32 ((List.range 15).foldl (fun a i =>
    let j := (railOf d i).judge
    a + (if railOff d i ∧ (j = 2 ∨ 13 ≤ i) then 3 else j) * 4 ^ i) 0)

/-- RAIL_COUNT of the selected rail; RAIL_SEL 15 names none. -/
def railCount (d : Dev) : Word :=
  let r := railOf d (rf d .pwr Reg.Pwr.RAIL_SEL 3 0)
  BitVec.ofNat 32 (r.warns * 65536 + r.invalids)

/-- RAIL_MEAS of the selected rail: mV, or 10 mV for rails 11 to 14, whose rounding is open. -/
def railMeas (d : Dev) : Word :=
  let i := rf d .pwr Reg.Pwr.RAIL_SEL 3 0
  let u := fun (v : Int) => BitVec.ofInt 16 (if i < 11 then v else freeDiv 0x623 v 10)
  u (railOf d i).low ++ u (railOf d i).now

/-- RAIL_MEAS_READ: the lowest value since the last read starts anew (R623). -/
def doRailMeasRead (who : Party) (d : Dev) : Dev :=
  onRead who .pwr Reg.Pwr.RAIL_MEAS
    (fun d => (railMeas d, modRail (rf d .pwr Reg.Pwr.RAIL_SEL 3 0) (fun r => { r with low := r.now }) d)) d
def execRailMeasRead (who : Party) (s : State) := onDev (doRailMeasRead who) s

/-- PWR_FLAGS as it reads. -/
def pwrFlags (d : Dev) : Word := putBit (rg d .pwr Reg.Pwr.PWR_FLAGS) 0 (decide ((railOf d 11).now < 0))

/-! ## Resets (R604, R618, R620) -/

/-- Both dies are held in reset, with every cause kept (R618, R620). A Dale die that R521 holds stays held. -/
def holdDevice (causes : Nat) (d : Dev) : Dev :=
  let d := holdFell causes d
  let c := d.sdg.rstCause
  let dead := d.sdg.deadHeld
  let d := modSdg (fun g => { g with rstCause := c }) (holdDale dead d)
  { d with pwr := { d.pwr with held := true } }

/-- A Fell rail is judged invalid: the Fell die is held in reset, in state RESTART; the rail that began it is named. A start
under way begins again. -/
def railHolds (i : Nat) (d : Dev) : Dev :=
  let held := d.sdg.fellHeld
  let d := holdFell (if held ∧ d.sdg.rstCause.testBit 3 = true then 8 else 8 + i * 65536) d
  let d := when held (fun d =>
    fellResetState (modSdg (fun g => { g with counted := false }) { d with boot := { d.boot with stage := 0 } })) d
  recompute 0xFFFF 0 1 false [] d

/-- What an invalid rail does (R101, R604, R607). -/
def railInvalidDoes (i : Nat) (d : Dev) : Dev :=
  let d := when (i == 10) (fun d => { d with pwr := { d.pwr with vaoBad := true } }) d
  if 11 ≤ i then
    match i with
    | 11 => doBoostFault 1 4 (doBoostFault 0 4 d)
    | 12 => forN (fun o => doSpkFault o 6) 4 d
    | k => doBoostFault (k - 13) (if (vhvMv d (k - 13) : Int) < (railOf d k).now then 1 else 2) d
  else if d.pwr.held then d
  else if i = 10 then holdDevice 1 d
  else if d.boot.devStart then holdDevice (if i < 9 then 8 + i * 65536 else 4) d
  else if i = 9 then holdDale d.sdg.deadHeld d
  else railHolds i d

/-- A change of judgement: its record, which VAO keeps through a reset of the die, its PWR event, and its effect. -/
def railChanged (i j : Nat) (d : Dev) : Dev :=
  let kind := if j = 0 then 3 else j
  let d := cairnPut (cairnNow d 0xF6 i 0xFF 6 (chargeState d) (chargeState d) 0xFFFF i kind) d
  let d := when (!d.sdg.inReset)
    (event .pwr (if j = 0 then Reg.Pwr.EV_RAIL_BACK else if j = 1 then Reg.Pwr.EV_RAIL_WARN else Reg.Pwr.EV_RAIL_INVALID)) d
  if j = 1 then takeEvent { event := 2, block := 0xFF, source := i, cls := 0xFF, page := 0 } d
  else if j = 2 then railInvalidDoes i d
  else d

/-- RAIL_SAMPLE: a monitor samples its rail. A reversed VMACH shows at once and stops the boosts (R603). -/
def doRailSample (i : Nat) (v : Int) (d : Dev) : Dev :=
  let old := railOf d i
  let t := railTh d i
  let r := old.sample (railZone t v) (railRun i t v) (i == 1 && d.pwr.masked1) v
  let d := modRail i (fun _ => r) d
  let d := when (i == 11 && decide (v < 0) && decide (0 ≤ old.now)) (fun d =>
    doBoostFault 1 4 (doBoostFault 0 4 (when (!d.sdg.inReset) (event .pwr Reg.Pwr.EV_VMACH_REVERSED) d))) d
  if r.judge = old.judge then d else railChanged i r.judge d
def execRailSample (i : Fin 15) (mv : Int) (s : State) := onDev (doRailSample i.val mv) s

/-- VAO_POWER_UP: everything is reset, Cairn, the keys and the rail monitors included; the NVM keeps its content, and the
wires of the ports and of RST_N their levels. -/
def doVaoPowerUp (d : Dev) : Dev :=
  { ({} : Dev) with
    free := d.free, resp := d.resp, out := d.out, data := d.data, poisoned := d.poisoned, nvm := (nvmCut d).nvm
    pwr := { ({} : PwrS) with rstLow := d.pwr.rstLow, xtalLost := d.pwr.xtalLost }
    pad := { ({} : PadMach) with ups := d.pad.ups.map (fun e => (e.1, { ({} : UpS) with perst := e.2.perst })) } }
def execVaoPowerUp (s : State) := onDev doVaoPowerUp s

/-- RST_N: low for 1 µs resets both dies; its rise, 1 µs high, lets them start. -/
def doRstN (low : Bool) (d : Dev) : Dev :=
  let d := { d with pwr := { d.pwr with rstLow := low } }
  when low (holdDevice 2) d
def execRstN (low : Bool) (s : State) := onDev (doRstN low) s

/-! ## Clocks (R613, R616) -/

/-- XTAL_FELL: the Fell crystal is lost. -/
def doXtalFell (d : Dev) : Dev :=
  let d := { d with pwr := { d.pwr with xtalLost := true } }
  if d.sdg.fellHeld then d
  else fireSource (.sys 2) Reg.Sys2.SRC_XTAL_FELL (bump (.sys 2) Reg.Sys2.PLL_COUNT 7 0 d)
def execXtalFell (s : State) := onDev doXtalFell s

/-- XTAL_DALE: the Dale crystal is lost, and the die runs on its oscillator. -/
def doXtalDale (d : Dev) : Dev :=
  if d.sdg.inReset then d
  else raiseFault .pwr Reg.Pwr.SRC_XTAL_DALE Reg.Pwr.EV_XTAL_DALE (sb .pwr Reg.Pwr.PWR_FLAGS 1 true d)
def execXtalDale (s : State) := onDev doXtalDale s

/-- XTAL_RESTORED: 1 ms of clean edges. -/
def doXtalRestored (fell : Bool) (d : Dev) : Dev :=
  if fell then { d with pwr := { d.pwr with xtalLost := false } } else sb .pwr Reg.Pwr.PWR_FLAGS 1 false d
def execXtalRestored (fell : Bool) (s : State) := onDev (doXtalRestored fell) s

/-- A Fell PLL loses lock: its bit of CLK_STAT, its counter and EVENT.PLL_UNLOCK; `iso` isolates what it serves. -/
def pllUnlock (k src hi : Nat) (iso : Page → Dev → Dev) (d : Dev) : Dev :=
  if d.sdg.fellHeld then d
  else
    let d := { d with pwr := { d.pwr with unlocked := if d.pwr.unlocked.contains k then d.pwr.unlocked else d.pwr.unlocked ++ [k] } }
    fireWith iso (.sys 2) src (event (.sys 2) Reg.Sys2.EV_PLL_UNLOCK (bump (.sys 2) Reg.Sys2.PLL_COUNT hi (hi - 7) d))

/-- Every page of a block is isolated. -/
def isolateBlock (code : Nat) (d : Dev) : Dev := (blockPages code).foldl (fun d p => if isoOf d p then d else isolate p d) d

/-- PLL_CORE: of the fabric, the composition or the DRAM clock. -/
def doPllCore (k : Nat) (d : Dev) : Dev := pllUnlock k Reg.Sys2.SRC_PLL_CORE 31 isolate d
def execPllCore (k : Fin 3) (s : State) := onDev (doPllCore k.val) s

/-- PLL_GPU: it isolates the GPU (R290). -/
def doPllGpu (d : Dev) : Dev := pllUnlock 3 Reg.Sys2.SRC_PLL_GPU 23 (fun _ d => isolateBlock 0x14 d) d
def execPllGpu (s : State) := onDev doPllGpu s

/-- PLL_AUX: 0 the touch engine's, 1 and 2 those of the audio domains. -/
def doPllAux (k : Nat) (d : Dev) : Dev :=
  pllUnlock (4 + k) Reg.Sys2.SRC_PLL_AUX 15 (fun _ d => isolateBlock (if k = 0 then 0x15 else 0x16) d) d
def execPllAux (k : Fin 3) (s : State) := onDev (doPllAux k.val) s

/-- DALE_PLL_UNLOCK: the Dale die is reset, with no record and outside the limit of R521. -/
def doDalePllUnlock (d : Dev) : Dev := if d.sdg.inReset then d else holdDale d.sdg.deadHeld d
def execDalePllUnlock (s : State) := onDev doDalePllUnlock s

/-- CLK_STAT as it reads: the PLLs of the Fell die run from its release on, a head's shows its own lock (R608, R615, R622). -/
def clkStat (d : Dev) : Word :=
  let ok := fun k => !d.pwr.unlocked.contains k
  let bits := (List.range 7).map ok ++ [false] ++
    (List.range 8).map (fun h => rb d (.head h) Reg.Head.HEAD_STAT 23)
  putBit (BitVec.ofNat 32 (bits.foldr (fun b a => b.toNat + 2 * a) 0)) 31 (!d.pwr.xtalLost)

/-- A write of SUP_CFG: dropped while the GPU is enabled; MODE 1 drives the code of the present level (R605). -/
def supCfg (v : Word) (d : Dev) : Dev :=
  if rb d .gpu Reg.Gpu.GPU_CTRL 0 then d else driveCode (gLevel d) (plainWrite (.sys 2) Reg.Sys2.SUP_CFG v d)
/-- SUP_CFG_WRITE. -/
def doSupCfg (who : Party) (v : Word) (d : Dev) : Dev := onWrite who (.sys 2) Reg.Sys2.SUP_CFG (supCfg v) d
def execSupCfgWrite (who : Party) (v : Word) (s : State) := onDev (doSupCfg who v) s

end Sys2Proof.Machine
end

