-- ==== Sys2Proof/Machine/Tamper.lean ====
section
/-! DEFINITION. Tamper inputs and the wipe (R500–R502, R505). -/
namespace Sys2Proof.Machine

/-- KEY0 to KEY7 read 0. -/
def wipeKeys (d : Dev) : Dev := forN (fun k => sg .lcs (Reg.Lcs.KEY k) 0) 8 d

/-- The pages of blocks that reach memory. -/
def memoryPages : List Page :=
  (List.range 64).map .pipe ++ (List.range 2).map .wb ++ [.cam] ++ (List.range 16).map .stream ++ (List.range 8).map .dw ++
    [.gpu, .tch] ++ (List.range 4).map .aud ++ (List.range 2).map .padg

/-- The Fell die is stopped for a wipe: its cores, and every block that reaches memory is isolated (R501). -/
def wipeStops (d : Dev) : Dev :=
  let d := forN (fun n => modCore n (fun c => { c with stopped := true })) 4 d
  memoryPages.foldl (fun d p => if isoOf d p then d else isolate p d) d

/-- A wipe begins: its count, its cause, the keys, and the stage of Pasture. -/
def wipeBegin (cause : Nat) (d : Dev) : Dev :=
  let d := sf .lcs Reg.Lcs.WIPE_STAT 7 0 (cause * 16 + 2) (bump .lcs Reg.Lcs.WIPE_STAT 31 16 d)
  wipeStops (sb .lcs Reg.Lcs.TAMPER_STAT 8 true (wipeKeys d))

/-- TAMPER: an enabled input has been asserted for DEBOUNCE_MS. With the Dale die in reset only VAO acts (R502). -/
def doTamper (n : Nat) (d : Dev) : Dev :=
  if !rb d .lcs Reg.Lcs.TAMPER_CFG (8 * n + 7) then d
  else
    let d := cairnPut (cairnNow d 0xF7 0xFF 0xFF 5 (chargeState d) (chargeState d) 0xFFFF n 0) d
    let d := bump .lcs Reg.Lcs.TAMPER_COUNT (16 * n + 15) (16 * n) d
    let d := sb .lcs Reg.Lcs.TAMPER_STAT n true (sb .lcs Reg.Lcs.TAMPER_STAT (4 + n) (!rb d .lcs Reg.Lcs.TAMPER_CFG (8 * n + 6)) d)
    if d.sdg.inReset then sb .lcs Reg.Lcs.TAMPER_STAT 9 true (wipeKeys d)
    else
      let d := raiseFault .lcs Reg.Lcs.SRC_TAMPER (Reg.Lcs.EV_TAMPER0 + n) d
      if wiping d then d else wipeBegin (1 + n) d
def execTamper (n : Fin 2) (s : State) := onDev (doTamper n.val) s

/-- PASTURE_WIPED: Pasture below its fold line is zero. -/
def doPastureWiped (d : Dev) : Dev :=
  if rf d .lcs Reg.Lcs.WIPE_STAT 3 0 ≠ 2 then d else sf .lcs Reg.Lcs.WIPE_STAT 3 0 3 (pastZero 0 (pastFold d) d)
def execPastureWiped (s : State) := onDev doPastureWiped s

/-- WIPE_DONE: DRAM below its fold line is zero, and the Fell die restarts. -/
def doWipeDone (d : Dev) : Dev :=
  if rf d .lcs Reg.Lcs.WIPE_STAT 3 0 ≠ 3 then d
  else
    let d := dramZero 0 (dramFold d) d
    let d := sf .lcs Reg.Lcs.WIPE_STAT 3 0 4 (sb .lcs Reg.Lcs.TAMPER_STAT 8 false d)
    let d := event .lcs Reg.Lcs.EV_WIPE_DONE d
    recompute 0xFFFF 0 1 false [] (restartDue (0x90 ||| dueCauses d) d)
def execWipeDone (s : State) := onDev doWipeDone s

/-- A write of TAMPER_CLEAR. -/
def tamperClearWrite (v : Word) (d : Dev) : Dev :=
  let clr := fun k d => if bitOf v k then sb .lcs Reg.Lcs.TAMPER_STAT k false d else d
  clr 9 (clr 1 (clr 0 d))
/-- TAMPER_CLEAR. -/
def doTamperClear (who : Party) (v : Word) (d : Dev) : Dev := onWrite who .lcs Reg.Lcs.TAMPER_CLEAR (tamperClearWrite v) d
def execTamperClear (who : Party) (v : Word) (s : State) := onDev (doTamperClear who v) s

end Sys2Proof.Machine
end

