-- ==== Sys2Proof/Machine/Boot.lean ====
section
/-! DEFINITION. Start-up on the Sheepdog's side: the resets that end, the authentication of an image, the fallback and the
recovery state, the Dale loader, and the release of the Fell die with its life-cycle transition (R67, R86–R103, R509, R520,
R525). -/
namespace Sys2Proof.Machine

/-- The start-up state changed. -/
def modBoot (f : BootS → BootS) (d : Dev) : Dev := { d with boot := f d.boot }

/-- A record of the Sheepdog about an event of class F0 (R14, R73, R91). -/
def noteF0 (kind d0 d1 : Nat) (d : Dev) : Dev :=
  cairnPut (cairnNow d 0xF0 0xFF 0 kind (chargeState d) (chargeState d) 0xFFFF d0 d1) d

/-- A record of the image is refused (R85). -/
def refuseContent (d : Dev) : Dev := raiseFault .img Reg.Img.SRC_CONTENT_REFUSED Reg.Img.EV_CONTENT_REFUSED d

/-- Records are refused, one after the other. -/
def refuseN (n : Nat) (d : Dev) : Dev := forN (fun _ d => refuseContent d) n d

/-! ## Resets that end (R96, R520, R525) -/

/-- DALE_OUT_OF_RESET: 1 ms after every required rail is valid the Dale die leaves reset. A power-up of VAO ends what R521
holds. -/
def doDaleOut (f : Fuses) (d : Dev) : Dev :=
  if !d.pwr.held || d.pwr.rstLow || (List.range 11).any (railInvalid d) || (d.sdg.deadHeld && !d.pwr.vaoBad) then d
  else
    let d := when d.pwr.vaoBad (modSdg (fun g => { g with deadHeld := false, vaoLocks := [] })) d
    let d := { d with pwr := { d.pwr with held := false, vaoBad := false }, boot := { stage := 1, t0 := d.us - 1000 } }
    daleOut (readFuses f d)
def execDaleOutOfReset (s : State) := onDev (doDaleOut s.fuses) s

/-- SELF_TEST_DONE: the tether trains; at a start of the Fell die it enters its load state, with Pasture tested and zero. -/
def doSelfTest (fails : List (Nat × Nat)) (d : Dev) : Dev :=
  if d.sdg.inReset then d
  else if d.sdg.reload = 1 then sf .tet Reg.Tet.TET_STAT 1 0 1 (modSdg (fun g => { g with reload := 2 }) d)
  else if d.boot.stage ≠ 1 then d
  else sf .tet Reg.Tet.TET_STAT 1 0 1 (pastStart fails (modBoot (fun b => { b with stage := 2 }) d))
def execSelfTestDone (fails : List (Fin 64 × Nat)) (s : State) := onDev (doSelfTest (fails.map (fun f => (f.1.val, f.2)))) s

/-- FELL_RESET_END: the die starts again from "Header read", unless something still holds it. A rail hold counts against the
budget here, and waits for it (R525, R531). -/
def doFellResetEnd (fails : List (Nat × Nat)) (d : Dev) : Dev :=
  if d.boot.stage ≠ 0 ∨ d.sdg.fellHeld = false ∨ d.sdg.inReset = true ∨ d.pwr.held = true ∨ railHold d = true ∨
      d.pwr.xtalLost = true ∨ d.sdg.waiting = true ∨ d.sdg.recovery = true ∨ wiping d = true then d
  else if !d.sdg.counted && decide (3 ≤ recentRestarts d) then
    recompute 0xFFFF 0 1 false [] (modSdg (fun g => { g with waiting := true }) d)
  else
    let d := when (!d.sdg.counted) countRestart d
    let d := modBoot (fun b => { ({} : BootS) with stage := 3, t0 := b.t0, devStart := b.devStart }) d
    sf .tet Reg.Tet.TET_STAT 1 0 1 (pastStart fails d)
def execFellResetEnd (fails : List (Fin 64 × Nat)) (s : State) := onDev (doFellResetEnd (fails.map (fun f => (f.1.val, f.2)))) s

/-! ## Fallback and recovery (R86, R102, R103, R105) -/

/-- FAIL_REASON shows the codes of both slots. -/
def showFail (d : Dev) : Dev := sg .img Reg.Img.FAIL_REASON (BitVec.ofNat 32 (d.boot.failB * 16 + d.boot.failA)) d

/-- The Dale-side outputs that the recovery state turns off: haptics with their boosts, class-D outputs and CAN. -/
def recoveryOff (d : Dev) : Dev :=
  let d := forN (fun n d => chCfg n (putBit (rg d (.hap 0) (Reg.Hap.CH_CFG n)) 0 false) 0 d) 16 d
  let d := forN (fun b d => boostCtrl b (putBit (rg d (.hap 0) (bstCtrl b)) 31 false) d) 2 d
  let d := forN (fun o d => spkCfg o (putBit (rg d (.afe 0) (Reg.Afe0.SPK_CFG o)) 31 false) d) 4 d
  forN (fun n d => canCtrl n (putBit (rg d (.can n) Reg.Can.CAN_CTRL) 0 false) d) 4 d

/-- The timing of the recovery picture: 1280 × 720 in 1650 × 750 at 74.25 MHz. How the blanking is shared out, and the line
numbers, are the model's (PRESUMED, CEA-861 format 4). -/
def recoveryTiming : List Word := [0x0500006E, 0x002800DC, 0x02D00005, 0x00050014, 74250, 0x00001FFE, 0x0000FFFB]

/-- HEAD0 drives DP0 with the recovery colour R 0x80, G 0x00, B 0x80. -/
def recoveryPicture (d : Dev) : Dev :=
  let d := forN (fun i d => sg (.head 0) (Reg.Head.H_TIMING1 + 4 * i) (recoveryTiming.getD i 0) d) 7 d
  let d := sg .cmp (Reg.Cmp.BG_COLOUR 0) 0x20200202 d
  portCtrl 0 0x80812001 (headCtrl 0 1 d)

/-- What the recovery picture set goes back when an image starts. -/
def recoveryEnds (d : Dev) : Dev :=
  let d := modHead 0 (fun _ => {}) (resetPage (.head 0) (stopStreams 0 d))
  let hpd := rb d (.port 0) Reg.Port.LINK_STAT 31
  let d := sb (.port 0) Reg.Port.LINK_STAT 31 hpd (modPort 0 (fun _ => {}) (resetPage (.port 0) d))
  modSdg (fun g => { g with recovery := false }) (sg .cmp (Reg.Cmp.BG_COLOUR 0) 0 d)

/-- The device enters the recovery state, or stays in it after an attempt of R103. BOOT_STAT shows it beside the fuses. -/
def enterRecovery (f : Fuses) (d : Dev) : Dev :=
  let was := d.sdg.recovery
  let d := showFail (modBoot (fun b => { b with stage := 0 }) d)
  let d := sf .img Reg.Img.BOOT_STAT 21 16 (f.svn % 64) (sf .img Reg.Img.BOOT_STAT 7 5 f.lcState (sf .img Reg.Img.BOOT_STAT 1 0 3 d))
  if was then d
  else
    let d := recoveryPicture (recoveryOff d)
    recompute 0xFFFF 0 1 false [] (modSdg (fun g => { g with recovery := true }) d)

/-- The NVM is reset through XSPI_RESET_N, after which it is in 1S-1S-1S mode (R86, R88). -/
def xspiReset (d : Dev) : Dev := emit .xspiReset { d with xspi := {} }

/-- XSPI_ENTER is sent, and the NVM is in 8D-8D-8D mode with the header's read opcode and dummy cycles (R71, R88). -/
def xspiEnter (slot : Nat) (d : Dev) : Dev :=
  emit (.xspi (imgBytes d slot 0x19 (min 7 (imgN d slot 0x18 1))))
    { d with xspi := { octal := true, readOp := imgN d slot 0x20 1, dummy := imgN d slot 0x21 1 % 32 } }

/-- A slot fails with a reason: it is recorded, the NVM is reset, and slot B follows slot A, or the recovery state slot B. -/
def imageFail (f : Fuses) (r : Nat) (d : Dev) : Dev :=
  let d := modBoot (fun b => if b.slot = 0 then { b with failA := r } else { b with failB := r }) d
  let d := showFail d
  let d := noteF0 8 (rg d .img Reg.Img.FAIL_REASON).toNat 0 d
  if d.boot.slot = 0 then xspiReset (modBoot (fun b => { b with slot := 1, stage := 3, single := b.retry }) d)
  else enterRecovery f d

/-- The recovery state of a SCRAPPED device: reason 10 for both slots. -/
def scrappedRecovery (f : Fuses) (d : Dev) : Dev := enterRecovery f (modBoot (fun b => { b with failA := 10, failB := 10 }) d)

/-- RECOVERY_ATTEMPT: 2 s after the last one slots A and B are tried again in 1S-1S-1S mode, unless XSPI_CS_N is low. -/
def doRecoveryAttempt (f : Fuses) (csLow : Bool) (d : Dev) : Dev :=
  if !d.sdg.recovery || d.boot.stage != 0 || csLow || f.lcState == 4 || d.sdg.inReset || d.pwr.held then d
  else modBoot (fun b => { b with stage := 3, slot := 0, failA := 0, failB := 0, single := true, retry := true }) d
def execRecoveryAttempt (csLow : Bool) (s : State) := onDev (doRecoveryAttempt s.fuses csLow) s

/-! ## Authentication (R86–R88) -/

/-- The section table holds under its CRC (R72). -/
def tableHolds (d : Dev) (slot : Nat) : Bool :=
  crcFold 0xFFFFFFFE (imgBytes d slot (imgN d slot 0x24 4) (32 * imgN d slot 0x0C 2)) == BitVec.ofNat 32 (imgN d slot 0x40 4)

/-- The image of a slot asks for 8D-8D-8D mode, and is not being read in 1S-1S-1S mode throughout (R88, R103). -/
def octalAsked (d : Dev) (slot : Nat) : Bool := !d.boot.single && imgN d slot 0x17 1 == 0

/-- HEADER_READ: the header, table, MANIFEST and SIGNATURE are read, the header in 1S-1S-1S mode, for which an NVM in 8D-8D-8D
mode is reset first (DESIGN CHOICE: R88 does not say how it comes back). A table read in 8D-8D-8D mode that fails its CRC,
`garbled` on its way or as stored, is read again in 1S-1S-1S mode with the whole image, after a reset of the NVM (R88). -/
def doHeaderRead (f : Fuses) (garbled : Bool) (d : Dev) : Dev :=
  if d.boot.stage ≠ 3 ∨ d.sdg.inReset = true then d
  else if f.lcState = 4 then scrappedRecovery f d
  else
    let slot := d.boot.slot
    let d := when d.xspi.octal xspiReset d
    match imageReason d f slot 2 wholeSlot with
    | 0 =>
      let d := when (octalAsked d slot) (xspiEnter slot) d
      if d.xspi.octal && (garbled || !tableHolds d slot) then xspiReset (modBoot (fun b => { b with single := true }) d)
      else
        match imageReason d f slot 5 wholeSlot with
        | 0 => modBoot (fun b => { b with stage := 4 }) d
        | r => imageFail f r d
    | r => imageFail f r d
def execHeaderRead (garbled : Bool) (s : State) := onDev (doHeaderRead s.fuses garbled) s

/-- SIGNATURE_VERIFIED: the checks that the signature covers. -/
def doSignature (f : Fuses) (d : Dev) : Dev :=
  if d.boot.stage ≠ 4 ∨ d.sdg.inReset = true then d
  else
    match imageReason d f d.boot.slot 8 wholeSlot with
    | 0 => modBoot (fun b => { b with stage := 5 }) d
    | r => imageFail f r d
def execSignatureVerified (s : State) := onDev (doSignature s.fuses) s

/-- NVM_READ_ERROR: the reading stops after `read` bytes of the slot; a check whose data was read may still give the reason. -/
def doNvmReadError (f : Fuses) (read : Nat) (d : Dev) : Dev :=
  if d.boot.stage < 3 ∨ 5 < d.boot.stage ∨ d.sdg.inReset = true then d
  else
    match imageReason d f d.boot.slot 10 read with
    | 0 => imageFail f 1 d
    | r => imageFail f r d
def execNvmReadError (read : Nat) (s : State) := onDev (doNvmReadError s.fuses read) s

/-! ## The Dale loader (R381, R395, R509, R522, R527) -/

/-- A record of SDG_TABLE, an entry or a REPORT definition, keeps to its codes and pads (R522). -/
def sdgRecordOk (b : List Byte) : Bool :=
  if u8 b 0 = 0x80 then decide (u8 b 1 ≤ 3 ∧ u8 b 2 ≤ 3 ∧ u8 b 3 = 0 ∧ at_ b 10 6 = 0)
  else
    decide (1 ≤ u8 b 0 ∧ u8 b 0 ≤ 4) && (u8 b 0 == 1 || u8 b 1 == 0xFF) && (u8 b 0 != 3 || u8 b 2 == 0xFF) &&
      decide (u8 b 3 < 16 ∧ u8 b 5 ≤ 3 ∧ u16 b 8 < 256 ∧ at_ b 11 5 = 0) && (decide (u8 b 4 ≤ 3) || u8 b 4 == 0xFF) &&
      (decide (u8 b 10 ≤ 7) || u8 b 10 == 0xFF)

/-- The entries, the REPORT definitions and the refused records of SDG_TABLE, in table order (R522). -/
def sdgRecords (rs : List (List Byte)) : List (Nat × SdgEntry) × List ReportDef × Nat :=
  (rs.zipIdx).foldl (fun (acc : List (Nat × SdgEntry) × List ReportDef × Nat) (r : List Byte × Nat) =>
    let b := r.1
    if !sdgRecordOk b || (u8 b 0 == 0x80 && acc.2.1.length == 8) then (acc.1, acc.2.1, acc.2.2 + 1)
    else if u8 b 0 = 0x80 then
      (acc.1, acc.2.1 ++ [{ controller := u8 b 1, flags := u8 b 2, id := u32 b 4, periodMs := u16 b 8 }], acc.2.2)
    else
      (acc.1 ++ [(r.2, { event := u8 b 0, block := u8 b 1, source := u8 b 2, stFrom := u8 b 3, stTo := u8 b 4, release := u8 b 5
                         holdMs := u16 b 6, actions := u16 b 8, report := u8 b 10 })], acc.2.1, acc.2.2)) ([], [], 0)

/-- SDG_TABLE is applied. A table whose counts are out of bounds has no entries. -/
def loadTable (bs : List Byte) (d : Dev) : Dev :=
  if u16 bs 0 < 1 ∨ 1023 < u16 bs 0 ∨ u16 bs 2 ≠ 16 then applyTable [] [] 0 (refuseContent d)
  else
    let r := sdgRecords (recordsAt bs 16 16 (u16 bs 0))
    applyTable r.1 r.2.1 r.2.2 (refuseN r.2.2 d)

/-- A KEYS record: KEY_CFG and KEY_CLICK of its key (R364, R371). -/
def loadKey (k : Nat) (b : List Byte) (d : Dev) : Dev :=
  if (11 < u8 b 0 ∧ u8 b 0 ≠ 0xFF) ∨ 2 < u8 b 1 ∨ 15 < u8 b 6 then refuseContent d
  else
    let d := plainWrite (.key 0) (Reg.Key0.KEY_CFG k) (BitVec.ofNat 32 (u8 b 1 * 2 ^ 24 + u8 b 0 * 2 ^ 16 + u16 b 2)) d
    plainWrite (.key 0) (Reg.Key0.KEY_CLICK k)
      (BitVec.ofNat 32 (u8 b 7 * 2 ^ 24 + u8 b 4 * 2 ^ 16 + u8 b 6 * 256 + u8 b 5)) d

/-- The channel of an accepted key that clicks is enabled with its reset limits, and its boost at the reset setpoint (R395). -/
def loadClick (nF : List (Nat × Nat)) (b : List Byte) (d : Dev) : Dev :=
  let n := u8 b 6
  if (11 < u8 b 0 ∧ u8 b 0 ≠ 0xFF) ∨ 2 < u8 b 1 ∨ 15 < n ∨ u8 b 5 = 0xFF then d
  else
    let d := sg (.hap 0) (Reg.Hap.CH_LIM n) (regReset (Page.base (.hap 0) + Reg.Hap.CH_LIM n)) d
    let d := chCfg n (putBit (rg d (.hap 0) (Reg.Hap.CH_CFG n)) 0 true) (((nF.find? (fun e => e.1 == n)).map (·.2)).getD 0) d
    boostCtrl (bankOfCh n) (BitVec.ofNat 32 (0x80000000 + 0x78)) d

/-- A WHISTLE section as an effect, if it keeps to R381 with `used` samples loaded before it. -/
def whistle (s : Sect) (used : Nat) : Option (Nat × Effect) :=
  let b := s.bytes
  let n := u16 b 4 + u16 b 6 + u16 b 8
  if u8 b 0 < 128 ∨ 159 < u8 b 0 ∨ u8 b 0 ≠ s.inst ∨ 2 < u8 b 1 ∨ u8 b 2 < 1 ∨ 100 < u8 b 2 ∨ 576 < u16 b 8 ∨ 24000 < n ∨
      196608 < used + n ∨ b.length < 16 + 2 * n then none
  else some (u8 b 0, { cls := u8 b 1, peak := u8 b 2, attack := u16 b 4, sustain := u16 b 6, brake := u16 b 8
                       samples := (List.range n).map (fun i => signed 16 (u16 b (16 + 2 * i))) })

/-- The image effects in index order (R381). -/
def loadWhistles (l : List Sect) (d : Dev) : Dev :=
  ((l.filter (fun s => s.typ == 0x32 && sectGroup s == 1)).foldl (fun (r : Nat × Dev) s =>
    match whistle s r.1 with
    | some (n, e) =>
      (r.1 + e.samples.length, modHap (fun h => { h with image := tabSet (fun _ => none) h.image n (some e) }) r.2)
    | none => (r.1, refuseContent r.2)) (0, modHap (fun h => { h with image := [] }) d)).2

/-- A CAN record of PORTS sets its controller, and enables it if it has a nominal rate (R527). -/
def loadCan (n : Nat) (b : List Byte) (d : Dev) : Dev :=
  let d := canCtrl n (putBit (rg d (.can n) Reg.Can.CAN_CTRL) 0 false) d
  let d := sg (.can n) Reg.Can.CAN_TIMING (BitVec.ofNat 32 (u16 b 2 * 65536 + u16 b 0)) d
  let d := sg (.can n) Reg.Can.CAN_SAMPLE (BitVec.ofNat 32 (u8 b 5 * 256 + u8 b 4)) d
  if u16 b 0 = 0 then d else canCtrl n (putBit (rg d (.can n) Reg.Can.CAN_CTRL) 0 true) d

/-- The Dale die takes KEYS, WHISTLE, the CAN records of PORTS, and SDG_TABLE from an accepted image; `nF`: the capacitances
that enabled channels measure. -/
def daleLoad (l : List Sect) (nF : List (Nat × Nat)) (d : Dev) : Dev :=
  let bytes := fun t => ((sectFind l t 0).map (·.bytes)).getD []
  let keys := recordsAt (bytes 0x31) 0 8 48
  let d := loadWhistles l d
  let d := keys.zipIdx.foldl (fun d r => loadKey r.2 r.1 d) d
  let d := keys.foldl (fun d b => loadClick nF b d) d
  let d := (recordsAt (bytes 0x43) (8 * 16 + 2 * 16) 8 4).zipIdx.foldl (fun d r => loadCan r.2 r.1 d) d
  loadTable (bytes 0x11) d

/-! ## Group 1 (R73, R77, R78, R87, R96) -/

/-- FELL_FW is stored below the Pasture fold line of MEMORY (R78). -/
def storeFw (d : Dev) : Dev :=
  let fw := (cfgSect d 0x10 0).getD []
  match fwStart (u16 ((cfgSect d 0x41 0).getD []) 2) fw.length with
  | some a => writeBytes setPast a fw d
  | none => d

/-- The image is taken: its sections and header fields, with a record for each unknown section of group 1. Its DETAIL0 is the
section's TYPE and INSTANCE (R533), TYPE in the high half (DESIGN CHOICE: how they share the word is open). -/
def takeImage (slot : Nat) (d : Dev) : Dev :=
  let l := imageSects d slot
  let g1 := imgN d slot 0x22 1
  let one := l.filter (fun s => s.idx ≤ g1)
  let d := modBoot (fun b => { b with
    sects := one, group2 := l.filter (fun s => g1 < s.idx), reread := [], loaded := [], g2at := []
    flags := imgN d slot 0x0F 1, debug := imgN d slot 0x23 1, svn := imgN d slot 0x10 4
    key := imgBytes d slot (sectPlace l 2).1 97 }) d
  (one.filter (fun s => sectGroup s == 0)).foldl (fun d s => noteF0 8 (s.typ * 65536 + s.inst) 0 d) d

/-- GROUP1_READ: every check of R86 has been made, and the Dale die takes what is its own. -/
def doGroup1 (f : Fuses) (nF : List (Nat × Nat)) (d : Dev) : Dev :=
  if d.boot.stage ≠ 5 ∨ d.sdg.inReset = true then d
  else
    match imageReason d f d.boot.slot 10 wholeSlot with
    | 0 =>
      let d := storeFw (takeImage d.boot.slot d)
      let d := sf .img Reg.Img.BOOT_STAT 11 8 1 (modBoot (fun b => { b with stage := 6 }) d)
      daleLoad d.boot.sects nF d
    | r => imageFail f r d
def execGroup1Read (nF : List (Fin 16 × Nat)) (s : State) := onDev (doGroup1 s.fuses (nF.map (fun e => (e.1.val, e.2)))) s

/-- The slot that authenticates, trying A and then B, and the reasons (R520). -/
def reloadSlot (f : Fuses) (d : Dev) : Option Nat × Nat × Nat :=
  match imageReason d f 0 10 wholeSlot with
  | 0 => (some 0, 0, 0)
  | a =>
    match imageReason d f 1 10 wholeSlot with
    | 0 => (some 1, a, 0)
    | b => (none, a, b)

/-- DALE_RELOADED: the Sheepdog has authenticated the image again beside a running Fell die and loads the Dale die from it, or
holds the Fell die and enters the recovery state (R520). -/
def doDaleReloaded (f : Fuses) (nF : List (Nat × Nat)) (d : Dev) : Dev :=
  if d.sdg.reload = 0 ∨ d.sdg.inReset = true then d
  else
    match reloadSlot f d with
    | (some slot, _, _) => daleLoad (imageSects d slot) nF (modSdg (fun g => { g with reload := 0, nextSeq := 0 }) d)
    | (none, a, b) =>
      let d := holdFell 0 (modSdg (fun g => { g with reload := 0 }) d)
      let d := modBoot (fun s => { s with failA := a, failB := b }) d
      enterRecovery f (noteF0 8 (b * 16 + a) 0 d)
def execDaleReloaded (nF : List (Fin 16 × Nat)) (s : State) := onDev (doDaleReloaded s.fuses (nF.map (fun e => (e.1.val, e.2)))) s

/-! ## Life cycle and debug (R91–R94) -/

/-- ENABLES and STATES of the image's DEBUG_CERT, with whether its SERIAL is the device's own; zeros if it is not valid (R94). -/
def certOf (f : Fuses) (d : Dev) : Nat × Nat × Bool :=
  match cfgSect d 0x50 0 with
  | none => (0, 0, false)
  | some b =>
    let own := u64 b 0 == f.serial.toNat
    if 112 ≤ b.length ∧ (u8 b 9).testBit f.lcState = true ∧ (own || (u64 b 0 == 0 && f.lcState == 1)) = true ∧
        sigHolds d.boot.key ((b.drop 16).take 96) (sha384 (b.take 16)) = true then (u8 b 8 % 16, u8 b 9, own)
    else (0, 0, false)

/-- The state that a flag leads to, if its transition is available and its condition holds (R91). -/
def transition (f : Fuses) (d : Dev) (bit : Nat) : Option Nat :=
  let cert := certOf f d
  match bit with
  | 1 => if f.lcState = 0 then some 1 else none
  | 2 => if f.lcState = 1 then some 2 else none
  | 3 => if f.lcState = 2 ∧ cert.2.2 = true ∧ cert.2.1.testBit 3 = true then some 3 else none
  | 4 => if f.lcState < 4 ∧ cert.2.2 = true ∧ cert.2.1.testBit 4 = true then some 4 else none
  | _ => none

/-- The flag that is carried out: the highest set one that is available (R91). -/
def chosenFlag (f : Fuses) (d : Dev) : Option Nat :=
  [4, 3, 2, 1].find? (fun k => d.boot.flags.testBit k && (transition f d k).isSome)

/-- The fuses after the transition of this start; PROVISION fuses the owner key hash. -/
def fusesAfter (f : Fuses) (d : Dev) : Fuses :=
  match chosenFlag f d with
  | none => f
  | some k =>
    { f with lcState := (transition f d k).getD f.lcState, ownerKey := if k = 1 then beNat (sha384 d.boot.key) else f.ownerKey }

/-- The records of the flags, and the wipe of a transition: Pasture below the fold line but for the firmware, the keys, and
DRAM after training (R92, R505). -/
def carryOut (f : Fuses) (d : Dev) : Dev :=
  let k := chosenFlag f d
  let d := (([1, 2, 3, 4].filter (fun j => d.boot.flags.testBit j && k != some j)).foldl
    (fun d _ => noteF0 11 f.lcState f.lcState d)) d
  if k = none then d
  else
    let d := noteF0 11 f.lcState (fusesAfter f d).lcState d
    let d := storeFw (pastZero 0 (u16 ((cfgSect d 0x41 0).getD []) 2 * 0x10000) (wipeKeys d))
    let d := sf .lcs Reg.Lcs.WIPE_STAT 7 0 0x30 (bump .lcs Reg.Lcs.WIPE_STAT 31 16 d)
    modBoot (fun b => { b with wipeDram := true }) d

/-- The debug enables in effect (R93). -/
def debugEff (f : Fuses) (req cert : Nat) : Nat :=
  let fd := f.debug % 16 &&& req % 16
  match f.lcState with
  | 0 => fd
  | 1 => fd
  | 2 => fd &&& cert
  | 3 => (fd &&& 0xC) + (fd &&& cert &&& 3)
  | _ => 0

/-! ## Fell die released (R96) -/

/-- A restart answers the entries that call for one (R525). -/
def serveEntries (d : Dev) : Dev :=
  modSdg (fun g => { g with active := g.active.map (fun a =>
    if (a.stTo = 3 ∧ a.heldDone = true) ∨ (a.stTo ≠ 3 ∧ (a.release = 0 ∨ a.event = 3)) then { a with served := true } else a) }) d

/-- What the firmware shows of the start in IMG, SYS, TET and WLD. -/
def showStart (f : Fuses) (d : Dev) : Dev :=
  let cert := (certOf f d).1
  let eff := debugEff f d.boot.debug cert
  let d := sg .img Reg.Img.BOOT_STAT (BitVec.ofNat 32 (f.svn % 64 * 2 ^ 16 + eff * 2 ^ 12 + 2 * 2 ^ 8 + f.lcState * 2 ^ 5 + d.boot.slot)) d
  let d := sg .img Reg.Img.IMAGE_SVN (BitVec.ofNat 32 d.boot.svn) (showFail d)
  let d := sg (.wld 0) Reg.Wld0.DEBUG_STAT
    (BitVec.ofNat 32 (cert * 2 ^ 12 + d.boot.debug % 16 * 2 ^ 8 + f.debug % 16 * 2 ^ 4 + eff)) d
  let d := sg (.sys 2) Reg.Sys2.RST_CAUSE (BitVec.ofNat 32 d.sdg.rstCause) d
  let mem := (cfgSect d 0x41 0).getD []
  let d := sg (.wld 0) Reg.Wld0.PASTURE_FOLD (BitVec.ofNat 32 (u16 mem 2)) d
  if u16 mem 0 ≤ 16384 then sg (.wld 0) Reg.Wld0.DRAM_FOLD (BitVec.ofNat 32 (u16 mem 0)) d else d

/-- The Fell die is released from the load state, in gather mode while the wire is driven. -/
def releaseFell (f : Fuses) (d : Dev) : Dev :=
  let d := when d.sdg.recovery recoveryEnds d
  let d := modSdg (fun g => { g with fellHeld := false, starting := true, vaoEpoch := max 1 g.vaoEpoch, open_ := none
                                     differ := 0, missed := 0, declared := false }) d
  let d := sf .sdg Reg.Sdg.CHARGE_SEQ 31 16 d.sdg.vaoEpoch (sg .tet Reg.Tet.EPOCH (BitVec.ofNat 32 d.sdg.vaoEpoch) d)
  let d := showStart f (serveEntries d)
  let d := modSdg (fun g => { g with rstCause := 0 }) (sf .lcs Reg.Lcs.WIPE_STAT 3 0 0 d)
  let d := modBoot (fun b => { b with stage := 7 }) (modTch (fun t => { t with t0 := d.us }) d)
  let d := cairnExportDue (if gatherWire d then padGather true d else d)
  if d.boot.slot = 1 then raiseFault .img Reg.Img.SRC_FALLBACK Reg.Img.EV_FALLBACK d else d

/-- FELL_RELEASED: any life-cycle transition is carried out first; one to SCRAPPED leads to the recovery state. -/
def execFellReleased (s : State) : Host.Outcome State Fault Refusal :=
  let d := s.dev
  if d.boot.stage ≠ 6 ∨ d.sdg.inReset = true then .next s
  else
    let f := fusesAfter s.fuses d
    let d := readFuses f (carryOut s.fuses d)
    .next { s with fuses := f, dev := cycleEnd (if f.lcState = 4 then scrappedRecovery f d else releaseFell f d) }

end Sys2Proof.Machine
end

