-- ==== Sys2Proof/Machine/Dram.lean ====
section
/-! DEFINITION. The DRAM controller and the Drover: training, tracking, refresh, requests with their channel and row, the
isochronous lane and its sizing, and the back-off of bulk ports ("DRAM Controller and the Drover", R565–R600). The
time that passes, and the command slots that the channels have in it, stand in the operands of the commands. -/
namespace Sys2Proof.Machine

/-- The state of DRC_STAT (R594): 0 RESET, 1 TRAINING, 2 READY, 3 FAILED. -/
def drcState (d : Dev) : Nat := rf d (.drc 0) Reg.Drc0.DRC_STAT 2 0

/-! ## Address mapping (R570) -/

/-- A place in the DRAM array. -/
structure DramPlace where
  channel : Nat
  rank : Nat
  group : Nat
  bank : Nat
  row : Nat
  col : Nat
deriving DecidableEq, Repr

/-- The channel of an address. -/
def dramChannel (a : Nat) : Nat := (a / 256 % 8) ^^^ (a / 2 ^ 14 % 8)

/-- The place of a DRAM address; a rank of one channel holds DIE_GBIT × 2²⁷ bytes. -/
def dramPlace (gbit a : Nat) : DramPlace :=
  let loc := a / 2048 * 256 + a % 256
  let r := gbit * 2 ^ 27
  let x := loc % r
  let row := x / 2 ^ 15
  { channel := dramChannel a
    rank := loc / r
    group := (x / 2 ^ 11 % 4) ^^^ (row % 4)
    bank := (x / 2 ^ 13 % 4) ^^^ (row / 4 % 4)
    row := row
    col := x % 2048 }

/-- The place of a bank in the table of open rows. -/
def rowKey (c rank bank16 : Nat) : Nat := (c * 2 + rank) * 16 + bank16

/-- The row of an address stands open after its access (R576). -/
def openRow (a : Nat) (d : Dev) : Dev :=
  let p := dramPlace (rf d (.drc 0) Reg.Drc0.DRC_CFG 23 16) a
  modDrc (fun s => { s with rows := tabSet (fun _ => none) s.rows (rowKey p.channel p.rank (p.group * 4 + p.bank)) (some p.row) }) d

/-! ## Limits in force (R585, R589, R597) -/

/-- ISO_CFG as it acts: an isolated page acts by the reset value. -/
def isoCfg (d : Dev) : Word := if isoOf d (.drc 2) then 0x84C0C010 else rg d (.drc 2) Reg.Drc2.ISO_CFG

/-- RES_MAX and RES_MIN as they act: 8 to 224, and RES_MAX for both where RES_MIN exceeds it. -/
def resMax (d : Dev) : Nat := clampN 8 224 (fld (isoCfg d) 23 16)
def resMin (d : Dev) : Nat := min (clampN 8 224 (fld (isoCfg d) 7 0)) (resMax d)

/-- RES as it acts: FIXED with AUTO clear, RES_MAX while the page is isolated. -/
def resNow (d : Dev) : Nat :=
  if isoOf d (.drc 2) then resMax d
  else if bitOf (isoCfg d) 31 then rf d (.drc 2) Reg.Drc2.ISO_RES 7 0
  else clampN (resMin d) (resMax d) (fld (isoCfg d) 15 8)

/-- ISO_RES as it reads once the lane runs. -/
def isoResRead (d : Dev) : Word :=
  if drcState d = 2 then setFld (rg d (.drc 2) Reg.Drc2.ISO_RES) 7 0 (resNow d) else rg d (.drc 2) Reg.Drc2.ISO_RES

/-- DRC_STAT as it reads: ISOLATED and WIPING cover the state of training (R594). -/
def drcStatRead (d : Dev) : Word :=
  setFld (rg d (.drc 0) Reg.Drc0.DRC_STAT) 2 0
    (if isoOf d (.drc 0) then 5 else if wiping d then 4 else drcState d)

/-- The exponents of the back-off as they act. -/
def backoffMin (d : Dev) : Nat := min 10 (fld (if isoOf d (.drv 0) then 0x308 else rg d (.drv 0) Reg.Drv0.DRV_CFG) 11 8)
def backoffMax (d : Dev) : Nat :=
  clampN (backoffMin d) 12 (fld (if isoOf d (.drv 0) then 0x308 else rg d (.drv 0) Reg.Drv0.DRV_CFG) 3 0)

/-- SCHED_CFG as it acts: an isolated page acts by the reset value (R597). -/
def schedCfg (d : Dev) : Word := if isoOf d (.drc 0) then 0x00180828 else rg d (.drc 0) Reg.Drc0.SCHED_CFG

/-- Fabric cycles beyond which a request is never withdrawn (R589, R594). -/
def ageMax (d : Dev) : Nat :=
  100 * max 1 (fld (schedCfg d) 7 0)

/-! ## Training (R568, R571, R572) -/

/-- Training starts at "Firmware configured" with the rate, density and ranks of the DRAM section, or with none. -/
def drcStart (sec : Option (Nat × Nat × Nat)) (ecc : Bool) (d : Dev) : Dev :=
  let cfg := match sec with
    | some s => ecc.toNat * 2 ^ 28 + s.2.2 * 2 ^ 24 + s.2.1 * 2 ^ 16 + s.1
    | none => ecc.toNat * 2 ^ 28 + 6400
  let d := modDrc (fun _ => { inlineEcc := ecc, want := sec.map (·.2), t0 := d.us }) d
  sf (.drc 0) Reg.Drc0.DRC_STAT 2 0 1 (sg (.drc 0) Reg.Drc0.DRC_CFG (BitVec.ofNat 32 cfg) d)

/-- Training has failed: the cause and the channels (R572). -/
def trainFail (cause chs : Nat) (d : Dev) : Dev :=
  raiseFault (.drc 0) Reg.Drc0.SRC_TRAIN_FAIL Reg.Drc0.EV_TRAIN_FAIL
    (sg (.drc 0) Reg.Drc0.DRC_STAT (BitVec.ofNat 32 (cause * 2 ^ 24 + chs * 2 ^ 8 + 3)) d)

/-- What a channel answered for its density and ranks. -/
def readOf (d : Dev) (c : Nat) : Option (Nat × Nat) := tabGet (fun _ => none) d.drc.reads c

/-- Once every channel has answered, the density and ranks are judged (R568). Which channels to name when there is no
section to differ from is open. -/
def trainReads (d : Dev) : Dev :=
  if (List.range 8).all (fun c => (readOf d c).isSome) then
    match d.drc.want with
    | some w =>
      let bad := (List.range 8).filter (fun c => readOf d c != some w)
      if bad = [] then d else trainFail 2 (bad.foldl (fun a c => a + 2 ^ c) 0) d
    | none =>
      match readOf d 0 with
      | none => d
      | some w =>
        if (List.range 8).all (fun c => readOf d c == some w) then
          sf (.drc 0) Reg.Drc0.DRC_CFG 25 24 w.2 (sf (.drc 0) Reg.Drc0.DRC_CFG 23 16 w.1 d)
        else trainFail 2 (Config.freeNat d.free 16 % 256) (tick d)
  else d

/-- Every channel has been zeroed: READY (R569, R571, R585). -/
def trainDone (d : Dev) : Dev :=
  let gib := rf d (.drc 0) Reg.Drc0.DRC_CFG 25 24 * rf d (.drc 0) Reg.Drc0.DRC_CFG 23 16
  let cap := gib * 2 ^ 30
  let t := d.us - d.drc.t0
  let d := { d with dram := [] }
  let d := modDrc (fun s => { s with err := [], rows := [], capacity := if s.inlineEcc then cap - cap / 8 else cap }) d
  let d := sf (.drc 2) Reg.Drc2.ISO_RES 7 0 (resMax d) (sg (.drc 0) Reg.Drc0.TRAIN_TIME (BitVec.ofNat 32 t) d)
  event (.drc 0) Reg.Drc0.EV_READY (sf (.drc 0) Reg.Drc0.DRC_STAT 2 0 2 d)

/-- TRAIN_STAGE_DONE: a stage ends on a channel. The first stage answers the density in Gbit and the ranks. -/
def doTrainStage (c : Nat) (ok : Bool) (gbit ranks : Nat) (d : Dev) : Dev :=
  let st := tabGet (fun _ => 0) d.drc.stage c
  let at_ := tabGet (fun _ => 0) d.drc.attempt c
  if drcState d ≠ 1 ∨ 8 ≤ st then d
  else if !ok then
    if 2 ≤ at_ then trainFail 1 (2 ^ c) d
    else modDrc (fun s => { s with stage := tabSet (fun _ => 0) s.stage c 0, attempt := tabSet (fun _ => 0) s.attempt c (at_ + 1) }) d
  else
    let d := modDrc (fun s => { s with stage := tabSet (fun _ => 0) s.stage c (st + 1) }) d
    if st = 0 then trainReads (modDrc (fun s => { s with reads := tabSet (fun _ => none) s.reads c (some (gbit, ranks)) }) d)
    else if (List.range 8).all (fun k => tabGet (fun _ => 0) d.drc.stage k == 8) then trainDone d
    else d
def execTrainStageDone (c : Fin 8) (ok : Bool) (gbit ranks : Nat) (s : State) := onDev (doTrainStage c.val ok gbit ranks) s

/-! ## Tracking and refresh (R573–R575) -/

/-- DRAM_TRACK: a rank is tracked during refresh. -/
def doDramTrack (c code : Nat) (drift hot : Bool) (d : Dev) : Dev :=
  if drcState d ≠ 2 then d
  else
    let d := bump (.drc 0) Reg.Drc0.TRACK_COUNT 31 16 (sf (.drc 0) Reg.Drc0.TEMP_STAT (3 * c + 2) (3 * c) code d)
    let d := when drift (fun d => raiseFault (.drc 0) Reg.Drc0.SRC_TRACK_LIMIT Reg.Drc0.EV_TRACK_LIMIT
      (bump (.drc 0) Reg.Drc0.TRACK_COUNT 15 0 d)) d
    when hot (raiseFault (.drc 0) Reg.Drc0.SRC_DRAM_HOT Reg.Drc0.EV_DRAM_HOT) d
def execDramTrack (c : Fin 8) (_rank : Fin 2) (code : Fin 8) (drift hot : Bool) (s : State) :=
  onDev (doDramTrack c.val code.val drift hot) s

/-- ZQ_CALIBRATION: a background calibration of a rank latches its result. -/
def doZq (c rank code : Nat) (d : Dev) : Dev :=
  if drcState d ≠ 2 then d else modDrc (fun s => { s with zq := tabSet (fun _ => 0) s.zq (c * 2 + rank) code }) d
def execZqCalibration (c : Fin 8) (rank : Fin 2) (code : Byte) (s : State) := onDev (doZq c.val rank.val code.toNat) s

/-- REFRESH: a bank is refreshed, which closes its row, and a waiting mode-register read of the rank is made. -/
def doRefresh (c rank bank : Nat) (atLimit : Bool) (mr : Byte) (d : Dev) : Dev :=
  if drcState d ≠ 2 then d
  else
    let d := modDrc (fun s => { s with refreshes := (s.refreshes + 1) % 1024,
                                       rows := tabSet (fun _ => none) s.rows (rowKey c rank bank) none }) d
    let d := if d.drc.refreshes = 0 then bump (.drc 0) Reg.Drc0.REFRESH_COUNT 15 0 d else d
    let d := when atLimit (bump (.drc 0) Reg.Drc0.REFRESH_COUNT 31 16) d
    if d.drc.mrWait = some (c * 2 + rank) then
      sg (.drc 0) Reg.Drc0.MR_DATA (BitVec.ofNat 32 (2 ^ 31 + mr.toNat)) (modDrc (fun s => { s with mrWait := none }) d)
    else d
def execRefresh (c : Fin 8) (rank : Fin 2) (bank : Fin 16) (atLimit : Bool) (mr : Byte) (s : State) :=
  onDev (doRefresh c.val rank.val bank.val atLimit mr) s

/-- A write of MR_CMD: the selected register is read during the next refresh; DONE falls until then. -/
def mrWrite (v : Word) (d : Dev) : Dev :=
  if bitOf v 0 then
    let k := rf d (.drc 0) Reg.Drc0.MR_SEL 10 8 * 2 + rf d (.drc 0) Reg.Drc0.MR_SEL 12 12
    sb (.drc 0) Reg.Drc0.MR_DATA 31 false (modDrc (fun s => { s with mrWait := some k }) d)
  else d
/-- MR_CMD. -/
def doMrCmd (who : Party) (v : Word) (d : Dev) : Dev := onWrite who (.drc 0) Reg.Drc0.MR_CMD (mrWrite v) d
def execMrCmd (who : Party) (v : Word) (s : State) := onDev (doMrCmd who v) s

/-! ## Requests (R577–R592) -/

/-- One isochronous burst on a channel: it counts in the window, and beyond RES in ISO_OVER (R583, R584). -/
def isoBurst (c : Nat) (d : Dev) : Dev :=
  let w := tabGet (fun _ => 0) d.drc.win c
  let d := when (decide (resNow d ≤ w)) (bump (.drc 2) Reg.Drc2.ISO_OVER 15 0) d
  let d := modDrc (fun s => { s with win := tabSet (fun _ => 0) s.win c (w + 1), bursts := (s.bursts + 1) % 1024 }) d
  if d.drc.bursts = 0 then bump (.drc 2) Reg.Drc2.ISO_BURSTS 31 0 d else d

/-- The 64-byte bursts of a range. -/
def burstsOf (a n : Nat) : List Nat := if n = 0 then [] else (List.range ((a + n - 1) / 64 + 1 - a / 64)).map (fun i => (a / 64 + i) * 64)

/-- The last burst of a range leaves its row open, and every burst of the lane counts; `code` further bursts of code lines
go to the channel of the request. -/
def serveBursts (iso : Bool) (port a n code : Nat) (d : Dev) : Dev :=
  let bs := burstsOf a n
  let d := bs.foldl (fun d x => openRow x (if iso then isoBurst (dramChannel x) d else d)) d
  if iso then forN (fun _ => isoBurst (dramChannel a)) code d
  else addTo (.drv 1) (Reg.Drv1.BURSTS port) 31 0 (bs.length + code) d

/-- Whose access a request is: the wipe engine's port passes no check, and a copy engine works for a manager's queue. -/
def dramWho (who : Party) (iso : Bool) (port : Nat) : Who :=
  if iso then .party who
  else if port = 16 then .wipe
  else match who with
    | .manager u => if 6 ≤ port ∧ port ≤ 13 then .managerCq u else .party who
    | _ => .party who

/-- A request is of the isochronous lane (R583). -/
def DramReq.iso (r : DramReq) : Bool := r.src.isSome

/-- An isochronous request is urgent: a pipe's while its head's lead is below LEAD_MIN, a stream's while its write buffer is more
than half full, an engine's while more than 4,096 pixels wait (R584). -/
def urgent (d : Dev) (r : DramReq) : Bool :=
  match r.src with
  | some (.pipe i part) =>
    let h := cHead i.val (pipeOf d i.val).act
    leadLow d h (shepLead d h (nextLine d h) part)
  | some (.stream _ half) => half
  | some (.wb _ pixels) => decide (4096 < pixels)
  | none => false

/-- The channel of a request: that of its first byte. -/
def DramReq.chan (r : DramReq) : Nat := dramChannel r.x

/-- The requests in the queue of a channel, as they were admitted. -/
def chanQueue (d : Dev) (c : Nat) : List DramReq := d.drc.queue.filter (fun r => r.chan == c)

/-- Of two requests, the one with the older stamp goes first; in the same cycle the isochronous one, and then the lower port
(R578, R588). -/
def olderThan (a b : DramReq) : Bool :=
  decide (a.stamp < b.stamp) ||
    (a.stamp == b.stamp && ((a.iso && !b.iso) || (a.iso == b.iso && decide (a.port < b.port))))

/-- The first of a list in an order. -/
def firstBy (lt : DramReq → DramReq → Bool) (l : List DramReq) : Option DramReq :=
  l.foldl (fun m r => match m with | none => some r | some x => if lt r x then some r else m) none

/-- The cycles that a request has waited. -/
def reqAge (d : Dev) (r : DramReq) : Nat := d.drc.now - r.stamp

/-- DRV_STAT: the oldest age of a bulk request that waits at a port, and the port (R591). -/
def showWaiting (d : Dev) : Dev :=
  match firstBy olderThan (d.drc.waiting.filter (fun r => !r.iso)) with
  | some r => sg (.drv 0) Reg.Drv0.DRV_STAT (BitVec.ofNat 32 (r.port * 65536 + min 65535 (reqAge d r))) d
  | none => sg (.drv 0) Reg.Drv0.DRV_STAT 0 d

/-! ### Admission (R588, R589) -/

/-- ADMIT_MAX of a port as it acts. -/
def admitMax (d : Dev) (port : Nat) : Nat :=
  clampN 1 32 (fld (if isoOf d (.drv 0) then 0x10 else rg d (.drv 0) (Reg.Drv0.PORT_CFG port)) 5 0)

/-- The requests that the ports present to a channel: of each port the oldest that waits for it, unless the port is at its limit
or in a back-off there (R587–R589). -/
def presented (d : Dev) (c : Nat) : List DramReq :=
  (List.range 20).filterMap (fun p =>
    if tabGet (fun _ => false) d.drc.backoffOn (p * 8 + c) ∨
        admitMax d p ≤ ((chanQueue d c).filter (fun r => !r.iso && r.port == p)).length then none
    else d.drc.waiting.find? (fun r => !r.iso && r.port == p && r.chan == c))

/-- The request that a channel's queue takes next, if it can: an isochronous one that found it full, while it holds fewer than 64;
or the oldest bulk request presented, while at most 47 of them are bulk. -/
def admitNext (d : Dev) (c : Nat) : Option DramReq :=
  let q := chanQueue d c
  if 64 ≤ q.length then none
  else
    match d.drc.waiting.find? (fun r => r.iso && r.chan == c) with
    | some r => some r
    | none => if 48 ≤ (q.filter (fun r => !r.iso)).length then none else firstBy olderThan (presented d c)

/-- A request reads or writes, once: the order of admission is the order of its effects, so a read finds what a queued write has
written (R578). -/
def dramAct (r : DramReq) (d : Dev) : DramReq × Dev :=
  let lane : Lane := { iso := r.iso, port := if r.iso then 0 else r.port }
  let w := dramWho r.who r.iso r.port
  if r.done then (r, d)
  else
    match r.v with
    | some bs => ({ r with done := true }, (memWrite w lane r.addr bs d).2)
    | none =>
      let m := memRead w lane r.addr r.len d
      ({ r with done := true, got := m.1.bytes, poison := m.1.poison }, m.2)

/-- A request enters its channel's queue. -/
def enqueue (r : DramReq) (d : Dev) : Dev :=
  let d := if r.iso then d
    else
      sg (.drv 1) (Reg.Drv1.WAIT_MAX r.port)
        (BitVec.ofNat 32 (max (rg d (.drv 1) (Reg.Drv1.WAIT_MAX r.port)).toNat (min (2 ^ 32 - 1) (reqAge d r))))
        (bump (.drv 1) (Reg.Drv1.ADMIT r.port) 31 0 d)
  let q := dramAct r d
  modDrc (fun s => { s with waiting := s.waiting.erase r, queue := s.queue ++ [q.1] }) q.2

/-- A channel's queue takes what it can. The fuel bounds the requests. -/
def admitChan (c : Nat) : Nat → Dev → Dev
  | 0, d => d
  | k + 1, d =>
    match admitNext d c with
    | some r => admitChan c k (enqueue r d)
    | none => d

/-- Every channel's queue takes what it can. -/
def admitAll (d : Dev) : Dev := forN (fun c d => admitChan c d.drc.waiting.length d) 8 d

/-- A bulk request that has been admitted is withdrawn to the head of its port, with its stamp, and the port waits (R589). -/
def withdraw (r : DramReq) (d : Dev) : Dev :=
  let k := r.port * 8 + r.chan
  let b := tabGet (fun _ => 0) d.drc.backoff k
  let e := if b = 0 then backoffMin d else min (backoffMax d) b
  let d := modDrc (fun s => { s with
    queue := s.queue.erase r, waiting := r :: s.waiting
    backoff := tabSet (fun _ => 0) s.backoff k (e + 1), backoffOn := tabSet (fun _ => false) s.backoffOn k true }) d
  let d := bump (.drv 1) (Reg.Drv1.WITHDRAW r.port) 31 16 d
  when (e == backoffMax d) (bump (.drv 1) (Reg.Drv1.WITHDRAW r.port) 15 0) d

/-- The bulk request that gives way to an isochronous one: the youngest of a full queue that is not older than AGE_MAX. -/
def givesWay (d : Dev) (c : Nat) : Option DramReq :=
  if (chanQueue d c).length < 64 then none
  else firstBy (fun a b => !olderThan a b) ((chanQueue d c).filter (fun r => !r.iso && decide (reqAge d r ≤ ageMax d)))

/-- A request reaches its port. -/
def arrive (r : DramReq) (d : Dev) : Dev :=
  let d := if r.iso then (match givesWay d r.chan with | some b => withdraw b d | none => d) else d
  admitAll (modDrc (fun s => { s with waiting := s.waiting ++ [r] }) d)

/-! ### Choice and service (R577) -/

/-- WR_HIGH and WR_LOW as they act. -/
def wrHigh (d : Dev) : Nat := clampN 9 63 (fld (schedCfg d) 21 16)
def wrLow (d : Dev) : Nat := min (wrHigh d - 1) (fld (schedCfg d) 13 8)

/-- The row of a request stands open. -/
def rowOpen (d : Dev) (r : DramReq) : Bool :=
  let p := dramPlace (rf d (.drc 0) Reg.Drc0.DRC_CFG 23 16) r.x
  tabGet (fun _ => none) d.drc.rows (rowKey p.channel p.rank (p.group * 4 + p.bank)) == some p.row

/-- A channel serves writes in this slot: it turns to them at WR_HIGH or when no read is ready, and back when WR_LOW remain or an
urgent read waits. -/
def servesWrites (d : Dev) (c : Nat) : Bool :=
  let w := (chanQueue d c).filter (fun r => r.v.isSome)
  let r := (chanQueue d c).filter (fun r => r.v.isNone)
  if r.any (urgent d) || w == [] then false
  else if r == [] then true
  else if tabGet (fun _ => false) d.drc.writing c then decide (wrLow d < w.length) else decide (wrHigh d ≤ w.length)

/-- Within a rule an open row wins, and then the oldest. -/
def rowFirst (d : Dev) (a b : DramReq) : Bool := (rowOpen d a && !rowOpen d b) || (rowOpen d a == rowOpen d b && olderThan a b)

/-- Among bulk requests and isochronous ones beyond RES, the latter win at equal row standing. -/
def laneFirst (d : Dev) (a b : DramReq) : Bool :=
  (rowOpen d a && !rowOpen d b) || (rowOpen d a == rowOpen d b && ((a.iso && !b.iso) || (a.iso == b.iso && olderThan a b)))

/-- The request that a channel's slot serves, by the first rule with a candidate. Refresh at its limit (rule 1) is a command of its
own. -/
def chooseReq (d : Dev) (c : Nat) : Option DramReq :=
  let q := (chanQueue d c).filter (fun r => r.v.isSome == servesWrites d c)
  match firstBy (rowFirst d) (q.filter (urgent d)) with
  | some r => some r
  | none =>
    match firstBy (rowFirst d) (if tabGet (fun _ => 0) d.drc.win c < resNow d then q.filter (·.iso) else []) with
    | some r => some r
    | none =>
      match firstBy olderThan (q.filter (fun r => !r.iso && decide (ageMax d < reqAge d r))) with
      | some r => some r
      | none => firstBy (laneFirst d) q

/-- A request is served: its bursts count, a read gives its data, and the back-off of its port returns to the minimum. -/
def serveReq (r : DramReq) (d : Dev) : Dev :=
  let d := modDrc (fun s => { s with queue := s.queue.erase r, writing := tabSet (fun _ => false) s.writing r.chan r.v.isSome }) d
  let d := serveBursts r.iso r.port r.x (match r.v with | some bs => bs.length | none => r.len) r.code d
  let d := if r.iso then
      (if r.v = none then
        sf (.drc 2) Reg.Drc2.ISO_LAT_MAX 15 0 (max (rf d (.drc 2) Reg.Drc2.ISO_LAT_MAX 15 0) (min 65535 (reqAge d r))) d
      else d)
    else modDrc (fun s => { s with backoff := tabSet (fun _ => 0) s.backoff (r.port * 8 + r.chan) 0 }) d
  if r.v = none then { d with data := r.got, poisoned := r.poison } else d

/-- A command slot of every channel. -/
def dramSlot (d : Dev) : Dev :=
  forN (fun c d => match chooseReq d c with
    | some r => admitChan c (serveReq r d).drc.waiting.length (serveReq r d)
    | none => d) 8 d

/-- DRAM_REQUEST: `dt` fabric cycles after the one before, a request reaches its port, unless the check refuses it; the channels then
have `slots` command slots. -/
def doDramRequest (who : Party) (src : Option IsoSrc) (port a n : Nat) (v : Option (List Byte)) (flips : List (Nat × Bool))
    (dt slots code : Nat) (d : Dev) : Dev :=
  let w := dramWho who src.isSome port
  let len := match v with | some bs => bs.length | none => n
  let d := flips.foldl (fun d f => setDramErr f.1 (if f.2 ∨ dramErr d f.1 ≠ 0 then 2 else 1) d) { d with data := [], poisoned := false }
  let d := modDrc (fun s => { s with now := s.now + dt }) d
  let d := match (if drcState d ≠ 2 ∨ len = 0 ∨ rangeOk d w a len = false then none else locOf d w a) with
    | some (.dram x) =>
      if d.drc.capacity < x + len then d
      else
        arrive { who := who, src := src, port := port, addr := a, x := x, len := n, v := v
                 stamp := d.drc.now, code := if d.drc.inlineEcc then code else 0 } d
    | _ => d
  showWaiting (forN (fun _ => dramSlot) slots d)
def execDramRequest (who : Party) (src : Option IsoSrc) (port : Fin 20) (a : BitVec 35) (n : Nat) (v : Option (List Byte))
    (flips : List (BitVec 32 × Bool)) (dt slots code : Nat) (s : State) :=
  onDev (doDramRequest who src port.val a.toNat n v (flips.map (fun f => (f.1.toNat, f.2))) dt slots code) s

/-- A microsecond passes with no command: the queues empty themselves, as far as no back-off holds a port. -/
def dramIdle (d : Dev) : Dev :=
  let d := modDrc (fun s => { s with now := s.now + 1000 }) d
  if d.drc.waiting = [] ∧ d.drc.queue = [] then d
  else showWaiting (forN (fun _ => dramSlot) (d.drc.waiting.length + d.drc.queue.length) (admitAll d))

/-- BACKOFF_END: the port may present to the channel again. -/
def doBackoffEnd (port c : Nat) (d : Dev) : Dev :=
  showWaiting (admitAll (modDrc (fun s => { s with backoffOn := tabSet (fun _ => false) s.backoffOn (port * 8 + c) false }) d))
def execBackoffEnd (port : Fin 20) (c : Fin 8) (s : State) := onDev (doBackoffEnd port.val c.val) s

/-! ## The isochronous lane (R583–R586) -/

/-- The window of one channel ends. -/
def windowEnd (res c : Nat) (d : Dev) : Dev :=
  let w := tabGet (fun _ => 0) d.drc.win c
  let d := modDrc (fun s => { s with maxBursts := max s.maxBursts w }) d
  if w ≤ res then d
  else
    let d := bump (.drc 2) Reg.Drc2.ISO_OVER 31 16 d
    if d.drc.overMs then d
    else raiseFault (.drc 2) Reg.Drc2.SRC_ISO_OVER Reg.Drc2.EV_ISO_OVER (modDrc (fun s => { s with overMs := true }) d)

/-- ISO_WINDOW: a window ends on every channel. -/
def doIsoWindow (d : Dev) : Dev :=
  if drcState d ≠ 2 then d
  else
    let res := resNow d
    modDrc (fun s => { s with win := [] }) (forN (windowEnd res) 8 d)
def execIsoWindow (s : State) := onDev doIsoWindow s

/-- RES after a sizing period whose busiest window held `m` bursts, the target, and whether a shrink was withheld (R585). -/
def resNext (res t : Nat) (demoted : Bool) : Nat × Bool :=
  if res < t then (t, false)
  else if t < res then (if demoted then (res, true) else (max t (res - ceilDiv res 16), false))
  else (res, false)

/-- The target of R585. -/
def resTarget (d : Dev) (m : Nat) : Nat := clampN (resMin d) (resMax d) (ceilDiv (m * (16 + fld (isoCfg d) 27 24)) 16)

/-- ISO_SIZING: a sizing period ends. -/
def doIsoSizing (d : Dev) : Dev :=
  if drcState d ≠ 2 then d
  else
    let m := d.drc.maxBursts
    let t := resTarget d m
    let dem := (List.range 8).any (fun h => (headOf d h).demoted2)
    let r := if isoOf d (.drc 2) then (resMax d, false)
      else if bitOf (isoCfg d) 31 then resNext (resNow d) t dem
      else (resNow d, false)
    let v := r.2.toNat * 2 ^ 31 + min 255 m * 2 ^ 16 + t * 2 ^ 8 + r.1
    sg (.drc 2) Reg.Drc2.ISO_RES (BitVec.ofNat 32 v) (modDrc (fun s => { s with maxBursts := 0, overMs := false }) d)
def execIsoSizing (s : State) := onDev doIsoSizing s

/-- DRV_STARVE: the oldest request at a port has waited `age` fabric cycles, longer than STARVE_US; it raises the fault once
(R591). -/
def doDrvStarve (port age : Nat) (d : Dev) : Dev :=
  match firstBy olderThan (d.drc.waiting.filter (fun r => !r.iso && r.port == port && !r.told)) with
  | none => d
  | some r =>
    if age ≤ 1000 * max 1 (fld (if isoOf d (.drv 0) then 0x64 else rg d (.drv 0) Reg.Drv0.STARVE_CFG) 15 0) then d
    else
      let d := modDrc (fun s => { s with
        now := max s.now (r.stamp + age)
        waiting := s.waiting.map (fun x => if x = r then { x with told := true } else x) }) d
      raiseFault (.drv 0) Reg.Drv0.SRC_DRV_STARVE Reg.Drv0.EV_DRV_STARVE (showWaiting d)
def execDrvStarve (port : Fin 20) (age : Nat) (s : State) := onDev (doDrvStarve port.val age) s

/-! ## Restart (R594, R597, R598) -/

/-- A write of DRC_CTRL; RES goes on from the value at which the isolated page held it. -/
def drcCtrl (v : Word) (d : Dev) : Dev :=
  if bitOf v 31 then
    let d := if isoOf d (.drc 2) ∧ drcState d = 2 then sf (.drc 2) Reg.Drc2.ISO_RES 7 0 (resMax d) d else d
    forN (fun k d => if isoOf d (.drc k) then endIso (.drc k) d else d) 8 d
  else d
/-- DRC_RESTART. -/
def doDrcRestart (who : Party) (d : Dev) : Dev := onWrite who (.drc 0) Reg.Drc0.DRC_CTRL (drcCtrl 0x80000000) d
def execDrcRestart (who : Party) (s : State) := onDev (doDrcRestart who) s

/-- A write of DRV_CTRL. -/
def drvCtrl (v : Word) (d : Dev) : Dev :=
  if bitOf v 31 then forN (fun k d => if isoOf d (.drv k) then endIso (.drv k) d else d) 2 d else d
/-- DRV_RESTART. -/
def doDrvRestart (who : Party) (d : Dev) : Dev := onWrite who (.drv 0) Reg.Drv0.DRV_CTRL (drvCtrl 0x80000000) d
def execDrvRestart (who : Party) (s : State) := onDev (doDrvRestart who) s

end Sys2Proof.Machine
end

