-- ==== Sys2Proof/Machine/Worlds.lean ====
section
/-! DEFINITION. The two worlds: the switches of the control cores, page interrupts, checked memory accesses, fold-line
raises and debug ("Fold and Field Worlds", R473–R498, R503). The instructions that a core executes between them stand
outside the device's spec; what a switch finds in the registers is given with the command. -/
namespace Sys2Proof.Machine

/-- A part of a list of registers, filled up with zeros. -/
def regAt (l : List (BitVec 64)) (i : Nat) : BitVec 64 := l.getD i 0

/-- Causes of the RISC-V privileged architecture: illegal instruction, and access faults of a fetch, a load and a store. -/
def causeIllegal : Nat := 2
def causeAccess (kind : Nat) : Nat := match kind with | 0 => 1 | 1 => 5 | _ => 7
/-- The cause of an external interrupt taken in M or S mode. -/
def causeExt (m : Bool) : Nat := 2 ^ 63 + (if m then 11 else 9)

/-- A core takes a trap in its present world. -/
def coreTrap (n cause : Nat) (d : Dev) : Dev := modCore n (fun c => { c with trap := some (c.fold, cause) }) d

/-- A core executes: it is neither stopped, halted, nor waiting in a FOLD.RET. -/
def coreGoes (d : Dev) (n : Nat) : Bool := !(coreOf d n).stopped && !(coreOf d n).halted && !(coreOf d n).waitStart

/-- Invasive debug of a world is in effect (R494). -/
def invasive (d : Dev) (fold : Bool) : Bool := rb d (.wld 0) Reg.Wld0.DEBUG_STAT (if fold then 0 else 2)

/-- A halt that waits acts when the core is in a world it may halt (R495). -/
def haltNow (n : Nat) (d : Dev) : Dev :=
  let c := coreOf d n
  if c.haltAsked && invasive d c.fold then modCore n (fun c => { c with halted := true, haltAsked := false }) d else d

/-! ## Switches (R477–R480, R496, R497) -/

/-- Registers at the entry of a part of the resident application: a0 to a3, and every other zero. -/
def partFile (pc : BitVec 64) (mode : Fin 4) (a0 a1 a2 a3 : Nat) : CoreFile :=
  { pc := pc, mode := mode
    x := List.replicate 9 0 ++ [a0, a1, a2, a3].map (BitVec.ofNat 64) ++ List.replicate 18 0, f := List.replicate 32 0, fcsr := 0 }

/-- BOOT_STAT, which the parts receive in a3. -/
def bootStat (d : Dev) : Nat := (rg d .img Reg.Img.BOOT_STAT).toNat

/-- The Fold part starts on a core (R496). -/
def startFold (n : Nat) (d : Dev) : Dev :=
  let r := partFile d.wld.foldEntry 1 n (pastFold d) (dramFold d) (bootStat d)
  haltNow n (modCore n (fun c => { c with fold := true, stopped := false, waitStart := false, entry := none, regs := r }) d)

/-- The Field part starts on a core (R496, R497). -/
def startField (n : Nat) (d : Dev) : Dev :=
  let r := partFile d.wld.fieldEntry 3 n (dramFold d) d.drc.capacity (bootStat d)
  haltNow n (modCore n (fun c => { c with
    fold := false, stopped := false, waitStart := false, entry := none, long := false, regs := r }) d)

/-- A core is in the Field mask, and the Field part is there to run. -/
def fieldCore (d : Dev) (n : Nat) : Bool := d.wld.fieldMask.testBit n && d.wld.fieldPart

/-- The moment of R99 for the Field part has come: its own cores start, and those that wait in a FOLD.RET. -/
def fieldGo (d : Dev) : Dev :=
  let d := modWld (fun w => { w with fieldReady := true }) d
  forN (fun n d =>
    if fieldCore d n && ((coreOf d n).waitStart || !d.wld.foldMask.testBit n) then startField n d else d) 4 d

/-- FOLD.CALL enters the Fold world in S mode at CALL_VEC (R477); elsewhere, and while the page is isolated, it is an illegal
instruction (R476, R503). -/
def doFoldCall (n : Nat) (file : CoreFile) (d : Dev) : Dev :=
  if !coreGoes d n then d
  else
    let d := modCore n (fun c => { c with regs := file }) d
    if (coreOf d n).fold || file.mode == 0 || isoOf d (.wld 0) then coreTrap n causeIllegal d
    else
      let vec := (rg d (.wld 0) Reg.Wld0.CALL_VEC_HI) ++ (rg d (.wld 0) Reg.Wld0.CALL_VEC_LO)
      let d := bump (.wld 0) (Reg.Wld0.SWITCH_COUNT n) 31 16 d
      haltNow n (modCore n (fun c => { c with
        fold := true, entry := some (.call (file.pc + 4) file.mode), shadow := (List.range 4).map (regAt file.x)
        regs := { file with pc := vec, mode := 1 } }) d)
def execFoldCall (n : Fin 4) (file : CoreFile) (s : State) := onDev (doFoldCall n.val file) s

/-- Where the save frame of a core lies in Pasture (R479), and its size. -/
def frameAt (d : Dev) (n : Nat) : Nat := rf d (.wld 0) Reg.Wld0.FRAME_BASE 24 0 + 576 * n
def frameLen : Nat := 8 * (31 + 32 + 3)

/-- A save frame: x1 to x31, f0 to f31, fcsr, pc and the Field mode, eight bytes each. -/
def frameBytes (r : CoreFile) : List Byte :=
  ((List.range 31).map (regAt r.x) ++ (List.range 32).map (regAt r.f) ++
    [r.fcsr.setWidth 64, r.pc, BitVec.ofNat 64 r.mode.val]).foldr (fun w bs => leBytes 8 w.toNat ++ bs) []

/-- Doubleword `i` of a frame. -/
def frameWord (bs : List Byte) (i : Nat) : BitVec 64 := BitVec.ofNat 64 (leNat ((bs.drop (8 * i)).take 8))

/-- The registers that a save frame holds. -/
def frameFile (bs : List Byte) : CoreFile :=
  { pc := frameWord bs 64, mode := Fin.ofNat 4 (frameWord bs 65).toNat
    x := (List.range 31).map (frameWord bs), f := (List.range 32).map (fun i => frameWord bs (31 + i))
    fcsr := (frameWord bs 63).setWidth 32 }

/-- What FOLD.RET after a call leaves in the registers (R478). -/
def scrubbed (file : CoreFile) (shadow : List (BitVec 64)) (ret : BitVec 64) (mode : Fin 4) : CoreFile :=
  { pc := ret, mode := mode
    x := (List.range 31).map (fun i => if i < 4 then regAt shadow i else if 9 ≤ i ∧ i ≤ 12 then regAt file.x i else 0)
    f := List.replicate 32 0, fcsr := 0 }

/-- A core returns to the Field world. -/
def toField (n : Nat) (r : CoreFile) (d : Dev) : Dev :=
  haltNow n (modCore n (fun c => { c with fold := false, entry := none, shadow := [], regs := r, long := false }) d)

/-- FOLD.RET (R478–R480, R497). -/
def doFoldRet (n : Nat) (file : CoreFile) (d : Dev) : Dev :=
  if !coreGoes d n then d
  else
    let d := modCore n (fun c => { c with regs := file }) d
    let c := coreOf d n
    if !c.fold || file.mode == 0 then coreTrap n causeIllegal d
    else
      match c.entry with
      | some (.call ret mode) => toField n (scrubbed file c.shadow ret mode) d
      | some .int =>
        let r := pastRead 16 2 (frameAt d n) frameLen d
        if r.2.1 then coreTrap n (causeAccess 1) r.2.2 else toField n (frameFile r.1) r.2.2
      | none =>
        if !fieldCore d n then coreTrap n causeIllegal d
        else if d.wld.fieldReady then startField n d
        else modCore n (fun c => { c with waitStart := true }) d
def execFoldRet (n : Fin 4) (file : CoreFile) (s : State) := onDev (doFoldRet n.val file) s

/-! ## Interrupts (R479, R482–R485) -/

/-- CORE_WORLD as it reads. -/
def coreWorld (d : Dev) : Word :=
  let bits := fun (sh : Nat) (f : CoreS → Bool) => (List.range 4).foldl (fun a n => a + (f (coreOf d n)).toNat * 2 ^ (sh + n)) 0
  BitVec.ofNat 32 (bits 0 (·.fold) + bits 4 (fun c => match c.entry with | some (.call _ _) => true | _ => false) +
    bits 8 (fun c => c.entry == some .int) + bits 12 (·.halted) + bits 16 (·.stopped))

/-- The pages whose interrupt is asserted and whose owner is of a KIND, as the register file lists them: those with an EVENT word other than 0. -/
def asserted (d : Dev) (kind : Nat) : List Nat :=
  d.regs.filterMap (fun e =>
    match pageOf e.1 with
    | some p => if e.1 = p.base + Reg.EVENT ∧ irqOn d p = true ∧ rf d p Reg.OWNER 17 16 = kind then some p.base else none
    | none => none)

/-- The least number of a list, 0 of an empty one. -/
def leastOf : List Nat → Nat
  | [] => 0
  | a :: l => l.foldl min a

/-- FOLD_CLAIM and FIELD_CLAIM (R485). -/
def claim (d : Dev) (kind : Nat) : Word := BitVec.ofNat 32 (leastOf (asserted d kind))

/-- A Fold interrupt preempts a Field core (R479). A halt comes back at its FOLD.RET (R495). -/
def preemptField (n : Nat) (file : CoreFile) (d : Dev) : Dev :=
  let d := pastWrite 16 2 (frameAt d n) (frameBytes file) d
  let d := bump (.wld 0) (Reg.Wld0.SWITCH_COUNT n) 15 0 d
  coreTrap n (causeExt true) (modCore n (fun c => { c with
    fold := true, entry := some .int, haltAsked := c.haltAsked || c.halted, halted := false, regs := { file with mode := 3 } }) d)

/-- The lowest core of a mask with a property. -/
def coreOfMask (mask : Nat) (ok : Nat → Bool) : Option Nat := (List.range 4).find? (fun n => mask.testBit n && ok n)

/-- INTERRUPT_DELIVERY: the interrupt of the page at an address goes to the core that R483 chooses, with the registers it finds
there; `en`: the cores whose external interrupts are enabled. -/
def doInterrupt (a en : Nat) (file : CoreFile) (d : Dev) : Dev :=
  match pageOf a with
  | none => d
  | some p =>
    if !irqOn d p then d
    else if ownedByFold d p then
      let mask := rf d (.wld 0) Reg.Wld0.FOLD_INT_MASK 3 0
      match coreOfMask mask (fun n => (coreOf d n).fold && !(coreOf d n).stopped && !(coreOf d n).halted && en.testBit n) with
      | some n => coreTrap n (causeExt false) d
      | none =>
        match coreOfMask mask (fun n => !(coreOf d n).fold && !(coreOf d n).stopped) with
        | some n => preemptField n file d
        | none => d
    else if ownedByField d p then
      match coreOfMask (rf d (.wld 1) Reg.Wld1.FIELD_INT_MASK 3 0) (fun n => !(coreOf d n).fold && coreGoes d n && en.testBit n) with
      | some n => coreTrap n (causeExt (file.mode == 3)) d
      | none => d
    else d
def execInterruptDelivery (p : BitVec 32) (en : BitVec 4) (file : CoreFile) (s : State) :=
  onDev (doInterrupt p.toNat en.toNat file) s

/-- FOLD_LONG: a Field interrupt that only this core may take has waited longer than FOLD_BUDGET for its stay in the Fold
world to end (R484). -/
def doFoldLong (n : Nat) (d : Dev) : Dev :=
  if rf d (.wld 0) Reg.Wld0.FOLD_BUDGET 15 0 = 0 ∨ (coreOf d n).fold = false ∨ (coreOf d n).long = true ∨
      rf d (.wld 1) Reg.Wld1.FIELD_INT_MASK 3 0 ≠ 2 ^ n ∨ asserted d 1 = [] then d
  else
    raiseFault (.wld 0) Reg.Wld0.SRC_FOLD_LONG Reg.Wld0.EV_FOLD_LONG
      (bump (.wld 0) Reg.Wld0.LONG_COUNT 15 0 (modCore n (fun c => { c with long := true }) d))
def execFoldLong (n : Fin 4) (s : State) := onDev (doFoldLong n.val) s

/-! ## Memory accesses of the cores (R441, R475) -/

/-- A byte of a range of the device address form lies below a fold line. -/
def belowLine (d : Dev) (a n : Nat) : Bool :=
  if pastBase ≤ a then decide (a - pastBase < pastFold d) else decide (0 < n ∧ a < dramFold d)

/-- CORE_MEMORY_ACCESS: a fetch (0), load (1) or store (2) of a core, checked in its world. -/
def doCoreMem (n kind a bytes : Nat) (v : Option (List Byte)) (d : Dev) : Dev :=
  if !coreGoes d n then d
  else
    let fold := (coreOf d n).fold
    let who : Who := .party (if fold then .fold else .field)
    let lane : Lane := { tier := 2, port := 0 }
    let d := { d with data := [], poisoned := false }
    let len := match v with | some bs => bs.length | none => bytes
    let deny := !fold && belowLine d a len
    if deny || !rangeOk d who a len then coreTrap n (causeAccess kind) (when deny fieldDeny d)
    else
      match kind, v with
      | 2, some bs => (memWrite who lane a bs d).2
      | 2, none => d
      | _, _ =>
        let r := memRead who lane a bytes d
        if r.1.poison then coreTrap n (causeAccess kind) r.2 else { r.2 with data := r.1.bytes }
def execCoreMemoryAccess (n : Fin 4) (kind : Fin 3) (a : BitVec 64) (bytes : Nat) (v : Option (List Byte)) (s : State) :=
  onDev (doCoreMem n.val kind.val a.toNat bytes (if kind.val = 2 then v else none)) s

/-! ## Fold lines (R486–R488) -/

/-- Why a raise is refused, 0 if it is not; a value equal to the present one is accepted. -/
def raiseReason (d : Dev) (past : Bool) (cur new : Nat) : Nat :=
  if new < cur then 1
  else if new = cur then 0
  else if (if past then 512 < new else d.drc.capacity < (new + 8) * 0x200000) then 2
  else if !past && ((List.range (new - cur)).any (fun i => fotKind d (cur + i) != fkFree)) then 3
  else if past && (preemptUses d (cur * 0x10000) (new * 0x10000) || streamUses d false (cur * 0x10000) (new * 0x10000)) then 4
  else if d.wld.raising.isSome then 5
  else 0

/-- A guarded-pair write of DRAM_FOLD or PASTURE_FOLD by the Fold world. -/
def foldRaise (past : Bool) (v : Word) (d : Dev) : Dev :=
  let o := if past then Reg.Wld0.PASTURE_FOLD else Reg.Wld0.DRAM_FOLD
  let new := if past then fld v 9 0 else fld v 14 0
  let cur := (rg d (.wld 0) o).toNat
  let r := raiseReason d past cur new
  let busy := d.wld.raising.isSome || (r == 0 && decide (cur < new))
  let d := sg (.wld 0) Reg.Wld0.FOLD_STAT (BitVec.ofNat 32 (busy.toNat * 2 ^ 31 + past.toNat * 2 ^ 30 + r)) d
  if r ≠ 0 then raiseFault (.wld 0) Reg.Wld0.SRC_RAISE_REFUSED Reg.Wld0.EV_RAISE_REFUSED d
  else if new = cur then d
  else modWld (fun w => { w with raising := some (past, cur, new) }) (sg (.wld 0) o (BitVec.ofNat 32 new) d)

/-- RAISE_DONE: the range is zero, and DRAM frames of it are FOLD. -/
def doRaiseDone (d : Dev) : Dev :=
  match d.wld.raising with
  | none => d
  | some (past, lo, hi) =>
    let d := if past then pastZero (lo * 0x10000) ((hi - lo) * 0x10000) d
      else forN (fun i d => fotSet (lo + i) (fotWord fkFold 0 0) d) (hi - lo) (dramZero (lo * 0x200000) ((hi - lo) * 0x200000) d)
    event (.wld 0) Reg.Wld0.EV_RAISE_DONE
      (sb (.wld 0) Reg.Wld0.FOLD_STAT 31 false (modWld (fun w => { w with raising := none }) d))
def execRaiseDone (s : State) := onDev doRaiseDone s

/-- A write of WLD_CTRL. -/
def wldCtrl (v : Word) (d : Dev) : Dev :=
  if bitOf v 31 then forN (fun k d => if isoOf d (.wld k) then endIso (.wld k) d else d) 2 d else d
/-- WLD_RESTART. -/
def doWldRestart (who : Party) (d : Dev) : Dev := onWrite who (.wld 0) Reg.Wld0.WLD_CTRL (wldCtrl 0x80000000) d
def execWldRestart (who : Party) (s : State) := onDev (doWldRestart who) s

/-! ## Debug (R494, R495) -/

/-- DEBUG_HALT: a halt acts in a world whose invasive debug is in effect, and waits for it otherwise. -/
def doDebugHalt (n : Nat) (d : Dev) : Dev :=
  if (coreOf d n).stopped || !(invasive d true || invasive d false) then d
  else haltNow n (modCore n (fun c => { c with haltAsked := true }) d)
def execDebugHalt (n : Fin 4) (s : State) := onDev (doDebugHalt n.val) s

/-- JTAG_INSTRUCTION: 0 BYPASS, 1 IDCODE, 2 SAMPLE; one that drives balls or logic (3) needs both invasive enables. -/
def doJtag (k : Nat) (d : Dev) : Dev :=
  modWld (fun w => { w with jtag := if k = 3 ∧ !(invasive d true && invasive d false) then 0 else k }) d
def execJtagInstruction (k : Fin 4) (s : State) := onDev (doJtag k.val) s

end Sys2Proof.Machine
end

