-- ==== Sys2Proof/Machine/Setup.lean ====
section
/-! DEFINITION. The step "Firmware configured" of start-up: the configuration sections of the image as the Fell firmware
applies them (R78, R80, R82–R85, R96, R223, R250, R281, R282, R296, R303, R304, R307, R355, R404, R417, R496, R567). -/
namespace Sys2Proof.Machine

/-- The bytes of a configuration section; an absent one has no records. -/
def sect (d : Dev) (typ : Nat) : List Byte := (cfgSect d typ 0).getD []

/-- A record is refused: the device stays as it was but for the refusal (R85). -/
def applyOr (bad : Bool) (act : Dev → Dev) (d : Dev) : Dev := if bad then refuseContent d else act d

/-- Records applied in index order. -/
def eachRec (act : Nat → List Byte → Dev → Dev) (rs : List (List Byte)) (d : Dev) : Dev :=
  rs.zipIdx.foldl (fun d r => act r.2 r.1 d) d

/-- A place for `size` bytes in `[lo, hi)` clear of the occupied areas; which one of those that a lowest fit could take, the
spec leaves open. -/
def freePlace (align lo hi size : Nat) (occ : List (Nat × Nat)) (d : Dev) : Option Nat × Dev :=
  let fits := fun a => decide (lo ≤ a ∧ a + size ≤ hi) && occ.all (fun o => decide (a + size ≤ o.1 ∨ o.1 + o.2 ≤ a))
  let places := ((lo :: occ.map (fun o => o.1 + o.2)).map (fun a => ceilDiv a align * align)).filter fits
  if places = [] then (none, d) else (places[Config.freeNat d.free 2 % places.length]?, tick d)

/-! ## Fault classes and PARTITION (R14, R83, R84) -/

/-- The pages that carry a FAULT_CLASS, page sets apart. -/
def devPages : List Page :=
  let n := fun k (f : Nat → Page) => (List.range k).map f
  n 4 .sys ++ [.img] ++ n 2 .wld ++ n 4 .pst ++ n 8 .drc ++ n 2 .drv ++ n 16 .padg ++ [.cmp] ++ n 8 .head ++ n 2 .wb ++ n 8 .chk ++
    n 8 .port ++ [.cam] ++ n 16 .stream ++ n 8 .dw ++ n 64 .pipe ++ [.gpu] ++ n 64 .ctx ++ n 4 .flock ++ [.tch] ++ n 8 .panel ++
    n 8 .lg ++ n 4 .aud ++ n 4 .tly ++ [.tet, .sdg] ++ n 2 .crn ++ n 2 .hap ++ n 2 .key ++ n 2 .afe ++ n 4 .can ++ [.pwr, .lcs, .nvm]

/-- A FAULT_CLASSES record takes effect on every page of its block. Pages of one block code may give a source different
ranges: each class that a page uses in place of the one given is recorded once (R14). The page sets of paddocks take theirs
when they are made. -/
def applyClass (b : List Byte) (d : Dev) : Dev :=
  let src := u8 b 1
  let ps := (devPages ++ (List.range 16).map (Page.pset 0)).filter (fun p => p.code == u8 b 0 && (p.source src).isSome)
  let cut := (List.range 8).filter (fun c => c ≠ u8 b 2 ∧ ps.any (fun p => p.adjustClass src (u8 b 2) == c))
  if ps = [] then refuseContent d
  else
    let d := cut.foldl (fun d used =>
      cairnPut (cairnNow d (u8 b 0) src 0 2 (chargeState d) (chargeState d) 0xFFFF (u8 b 2) used) d) d
    ps.foldl (fun d p => if u8 b 0 < 0xC0 ∨ 0xCF < u8 b 0 then
      sf p Reg.FAULT_CLASS (3 * src + 2) (3 * src) (p.adjustClass src (u8 b 2)) d else d) d

/-- PARTITION. -/
def applyPartition (bs : List Byte) (d : Dev) : Dev :=
  if bs = [] then d
  else applyOr (decide (511 < u16 bs 0 ∨ 511 < u16 bs 2 ∨ 512 < u16 bs 0 + u16 bs 2))
    (modMach (fun m => { m with vfs0 := u16 bs 0, vfs1 := u16 bs 2, quotaMib := u32 bs 4 })) d

/-! ## TIMING, HEAD_MAP and PORTS (R177–R179, R207, R213) -/

/-- The register words of a TIMING record, H_TIMING1 to TIMING_FLAGS. -/
def timingWords (b : List Byte) : List Word :=
  let w := fun hi lo => BitVec.ofNat 32 (hi * 65536 + lo)
  [w (u16 b 0) (u16 b 2), w (u16 b 4) (u16 b 6), w (u16 b 8) (u16 b 10), w (u16 b 12) (u16 b 14), BitVec.ofNat 32 (u32 b 16),
   w (u16 b 22 % 8192) (u16 b 24 % 8192), BitVec.ofNat 32 (u16 b 20)]

/-- A field of a TIMING record that the registers cannot hold, and that is so outside its range (R177). -/
def timingWide (b : List Byte) : Bool :=
  (List.range 8).any (fun i => decide (4095 < u16 b (2 * i))) || decide (0x100000 ≤ u32 b 16) ||
    [22, 24].any (fun a => decide (4096 ≤ u16 b a ∧ u16 b a < 61440))

/-- A profile; one that breaks R177 is refused and stays empty. -/
def applyTiming (k : Nat) (b : List Byte) (d : Dev) : Dev :=
  let d' := { d with profiles := tabSet (fun _ => []) d.profiles k (timingWords b) }
  let x := loadProfile 0 k d'
  applyOr (timingWide b || badTiming x 0 || badLines x 0) (fun _ => d') d

/-- A HEAD_MAP record that names a profile, port or context that does not exist. -/
def headRecBad (b : List Byte) : Bool :=
  decide (15 < u8 b 2 ∨ 3 < u8 b 4 ∨ 3 < u8 b 5 ∨ (u8 b 0 ≠ 0 ∧ 7 < u8 b 1) ∨ (63 < u8 b 7 ∧ u8 b 7 ≠ 0xFF))

/-- A head takes its profile, source and ratio; it is not yet enabled. -/
def applyHead (h : Nat) (b : List Byte) (d : Dev) : Dev :=
  applyOr (headRecBad b) (fun d =>
    let v := u8 b 3 * 256 + u8 b 5 * 16 + u8 b 4 * 4
    let v := if h < 2 then v else u8 b 2 * 65536 + v
    plainWrite (.head h) Reg.Head.HEAD_CTRL (BitVec.ofNat 32 v) (loadProfile h (u8 b 2) d)) d

/-- A head that HEAD_MAP enables. One of the first-picture set waits for its link, and a following one with a source for its sync
edge (R96). -/
def enableHead (h : Nat) (b : List Byte) (d : Dev) : Dev :=
  if u8 b 0 = 0 ∨ headRecBad b = true then d
  else
    let d := modHead h (fun s => { s with first := u8 b 6 != 0, firstAt := if linkReady d h then some d.us else none }) d
    let d := headCtrl h (putBit (rg d (.head h) Reg.Head.HEAD_CTRL) 0 true) d
    if rb d (.head h) Reg.Head.HEAD_CTRL 0 then d else refuseContent d

/-- The heads of the first-picture set. -/
def firstHeads (d : Dev) : List Nat :=
  ((recordsAt (sect d 0x21) 0 16 8).zipIdx.filter (fun r => u8 r.1 0 != 0 && u8 r.1 6 != 0 && rb d (.head r.2) Reg.Head.HEAD_CTRL 0)).map (·.2)

/-- The source of a port: the first enabled head that names it. -/
def portSource (heads : List (List Byte)) (n : Nat) : Option Nat :=
  (heads.zipIdx.find? (fun r => u8 r.1 0 != 0 && !headRecBad r.1 && u8 r.1 1 == n)).map (·.2)

/-- A DP record of PORTS, with the head that HEAD_MAP gives the port. MAX_LANES and MAX_RATE are the codes of PORT_CTRL, and a
greater byte is its highest code (DEDUCED from R214). -/
def applyPort (heads : List (List Byte)) (n : Nat) (b : List Byte) (d : Dev) : Dev :=
  applyOr (decide (2 < u8 b 0 ∨ 15 < u8 b 4 ∨ 1 < u8 b 5 ∨ 3 < u8 b 6 ∨ 3 < u8 b 7)) (fun d =>
    let d := sg (.port n) Reg.Port.PORT_PHY (BitVec.ofNat 32 (u8 b 3 * 65536 + u8 b 4 * 256 + u8 b 7 * 16 + u8 b 6)) d
    let src := match portSource heads n with | some h => 0x800000 + h * 2 ^ 20 | none => 0
    if u8 b 0 = 0 ∧ src = 0 then d
    else
      portCtrl n (BitVec.ofNat 32 (2 ^ 31 + src + min 7 (u8 b 2) * 2 ^ 16 + min 3 (u8 b 1) * 2 ^ 12 + u8 b 5 * 2 ^ 9 + u8 b 0)) d) d

/-- A PCIe record of PORTS: what it gives is held for the port's functions (R432, R433). -/
def applyPcie (u : Nat) (b : List Byte) (d : Dev) : Dev :=
  modUp u (fun s => { s with link := (u8 b 0, u8 b 1, u8 b 2), ids := (u16 b 4, u16 b 6, u16 b 8, u16 b 10) }) d

/-! ## MEMORY: firmware area, Bellwether contexts, L2 (R78, R281, R282, R490, R503) -/

/-- A used record that R282 and R281 refuse: no such context or head, or a spill area too small; or a context that one of the
records before it names. -/
def bwRecordBad (d : Dev) (before : List (List Byte)) (b : List Byte) : Bool :=
  decide (u16 b 4 * 2 ^ 20 < 1024 + 32 * hActive d (u8 b 1) * vActive d (u8 b 1) ∨ 4095 < u16 b 4 ∨ 63 < u8 b 0 ∨ 7 < u8 b 1) ||
    before.any (fun c => u8 c 0 == u8 b 0)

/-- The used records of MEMORY that R282 and R281 admit, in record order, and the number of the others. -/
def bwRecords (d : Dev) (rs : List (List Byte)) : List (List Byte) × Nat :=
  let used := rs.filter (fun b => u8 b 0 != 0xFF)
  let good := (List.range used.length).filter (fun i => !bwRecordBad d (used.take i) (used.getD i []))
  (good.map (fun i => used.getD i []), used.length - good.length)

/-- Bytes of a save area in Pasture. -/
def saveBytes (b : List Byte) : Nat := ceilDiv (u16 b 6) 64 * 0x10000

/-- The save areas that fit, the last record's going first. -/
def saveFits (fw : Nat) : Nat → List (List Byte) → List (List Byte)
  | 0, rs => rs
  | k + 1, rs => if (rs.map saveBytes).foldl (· + ·) 0x10000 ≤ fw then rs else saveFits fw k rs.dropLast

/-- Bytes of pen ring, pens and spill area of a Bellwether context, and the ring's LOG2. -/
def penLog2 (pens : Nat) : Nat := max 4 (Nat.log2 pens + 1)
def penBytes (b : List Byte) : Nat := ceilDiv (8 * 2 ^ penLog2 (u16 b 2)) 4096 * 4096 + u16 b 2 * 4096
def bwBytes (b : List Byte) : Nat := penBytes b + u16 b 4 * 2 ^ 20

/-- A Bellwether context: its role, its save area if it has one, and its pens and spill area below the DRAM fold line. -/
def applyBw (save : Option Nat) (b : List Byte) (r : List (Nat × Nat) × Dev) : List (Nat × Nat) × Dev :=
  let c := Page.ctx (u8 b 0)
  let q := freePlace 4096 0 (dramFold r.2) (bwBytes b) r.1 r.2
  match q.1 with
  | none => (r.1, refuseContent q.2)
  | some a =>
    let d := modCtx (u8 b 0) (fun s => { s with bwHead := some (u8 b 1), area := save.map (fun o => (o, u16 b 6)), placed := (a, bwBytes b) }) q.2
    let d := sf c Reg.Ctx.CTX_CTRL 18 12 0x41 (sg c Reg.OWNER (BitVec.ofNat 32 (ownerCode 1 0)) d)
    let d := sf c Reg.Ctx.PEN_CFG 15 0 (u16 b 2) (sg64 c Reg.Ctx.PEN_RING_LO a d)
    let d := sg c Reg.Ctx.PEN_WPTR (BitVec.ofNat 32 (u16 b 2)) (sg c Reg.Ctx.PEN_RING_LOG2 (BitVec.ofNat 32 (penLog2 (u16 b 2))) d)
    let d := sg c Reg.Ctx.SPILL_SIZE (BitVec.ofNat 32 (u16 b 4)) (sg64 c Reg.Ctx.SPILL_LO (a + penBytes b) d)
    (r.1 ++ [(a, bwBytes b)], d)

/-- MEMORY: the firmware area, the Bellwether contexts, and the L2 split. -/
def applyMemory (bs : List Byte) (d : Dev) : Dev :=
  let d := if u16 bs 0 ≤ 16384 then d else refuseContent d
  let ways := u8 bs 4
  let d := applyOr (decide (ways < 1 ∨ 15 < ways)) (sg (.wld 0) Reg.Wld0.L2_SPLIT (BitVec.ofNat 32 ways)) d
  let recs := bwRecords d (recordsAt bs 8 8 8)
  let d := refuseN recs.2 d
  let fw := (fwStart (u16 bs 2) ((cfgSect d 0x10 0).getD []).length).getD 0x10000
  let saved := saveFits fw recs.1.length recs.1
  let d := refuseN (recs.1.length - saved.length) d
  let base := fw - (saved.map saveBytes).foldl (· + ·) 0x10000
  let d := sg (.wld 0) Reg.Wld0.FRAME_BASE (BitVec.ofNat 32 base) d
  (recs.1.zipIdx.foldl (fun (r : List (Nat × Nat) × Dev) e =>
    let at0 := fw - ((saved.take (e.2 + 1)).map saveBytes).foldl (· + ·) 0
    applyBw (if e.2 < saved.length then some at0 else none) e.1 r) ([], d)).2

/-- The start of the firmware area (R503). -/
def frameBase (d : Dev) : Nat := rf d (.wld 0) Reg.Wld0.FRAME_BASE 24 0

/-- PREEMPT_AREA, or the GPU stays disabled for want of room (R296). -/
def applyGpu (d : Dev) : Dev :=
  let a := max 0x1000000 (pastFold d)
  let d := sb .gpu Reg.OWNER 31 true d
  if 0x2000000 < a + 0x600000 then event .img Reg.Img.EV_CONTENT_REFUSED (modGpu (fun g => { g with off := true }) d)
  else sg .gpu Reg.Gpu.PREEMPT_AREA (BitVec.ofNat 32 a) d

/-! ## FOLD_SURFACES (R303, R304) -/

/-- A fold surface that is placed: its Pasture offset, footprint and stride. -/
structure FoldSurf where
  off : Nat
  size : Nat
  stride : Nat

/-- The footprint of a descriptor. -/
def footprint (bs b : List Byte) : Nat :=
  if u8 b 0 = 0x08 then 1024 + u16 b 4 * u16 b 6
  else if u8 b 0 = 0x00 then u16 b 4 * u16 b 6
  else
    let hd := (bs.drop (u32 b 12)).take 64
    headerPayload hd + headerPaySize hd

/-- A descriptor keeps to the rules of R303, beside the footprints of those before it, and lies below the firmware area. -/
def surfOk (d : Dev) (bs b : List Byte) (before : List FoldSurf) : Bool :=
  let f := u8 b 0
  let w := u16 b 2
  let h := u16 b 4
  let stride := u16 b 6
  let off := u32 b 8
  let size := footprint bs b
  [0x00, 0x08, 0x20, 0x21, 0x22].contains f && decide (1 ≤ w ∧ w ≤ 8192 ∧ 1 ≤ h ∧ h ≤ 8192) &&
    (if isFleece f then decide (stride = 0 ∧ off % 256 = 0)
     else decide (stride % 64 = 0 ∧ (if f = 0 then 4 * w else w) ≤ stride ∧ off % 64 = 0)) &&
    decide (off + size ≤ pastFold d ∧ off + size ≤ frameBase d ∧ u32 b 12 + size ≤ bs.length) &&
    before.all (fun s => decide (off + size ≤ s.off ∨ s.off + s.size ≤ off))

/-- The surfaces are copied to their places; the answer names those accepted. -/
def applySurfaces (bs : List Byte) (d : Dev) : List FoldSurf × Dev :=
  if bs = [] then ([], d)
  else if 256 < u16 bs 0 then ([], refuseContent d)
  else
    let recs := recordsAt bs 16 16 (u16 bs 0)
    let surfs := recs.map (fun b => ({ off := u32 b 8, size := footprint bs b, stride := u16 b 6 } : FoldSurf))
    ((recs.zip surfs).zipIdx).foldl (fun (r : List FoldSurf × Dev) e =>
      let s := e.1.2
      if surfOk r.2 bs e.1.1 (surfs.take e.2) then
        (r.1 ++ [s], writeBytes setPast s.off ((bs.drop (u32 e.1.1 12)).take s.size) r.2)
      else (r.1, refuseContent r.2)) ([], d)

/-! ## The Fold part (R80, R496) -/

/-- The area of a part of RES_APP, from its LOAD_ADDR. -/
def appLen (bs : List Byte) : Nat := u32 bs 16 + u32 bs 20

/-- The Fold part lies wholly in Pasture below FRAME_BASE. -/
def foldPartOk (d : Dev) (bs : List Byte) : Bool :=
  decide (32 + u32 bs 16 ≤ bs.length ∧ pastBase ≤ u64 bs 0 ∧ u64 bs 0 + appLen bs ≤ pastBase + frameBase d)

/-- The Fold part is stored and its area after the code zeroed. Its core mask, which FOLD_INT_MASK takes, has four bits. -/
def loadFoldPart (d : Dev) : Dev :=
  match cfgSect d 0x12 0 with
  | none => d
  | some bs =>
    applyOr (!foldPartOk d bs) (fun d =>
      let a := u64 bs 0 - pastBase
      let d := pastZero (a + u32 bs 16) (u32 bs 20) (writeBytes setPast a ((bs.drop 32).take (u32 bs 16)) d)
      let mask := u8 bs 24 % 16
      let d := modWld (fun w => { w with foldMask := mask, foldPart := true, foldEntry := BitVec.ofNat 64 (u64 bs 8) }) d
      sg (.wld 0) Reg.Wld0.FOLD_INT_MASK (BitVec.ofNat 32 mask) d) d

/-- The leading fields of the Field part's section, as the image gave them when it was taken (R110). -/
def fieldHead (d : Dev) : Option (List Byte) := (sectFind (d.boot.loaded ++ d.boot.group2) 0x12 1).map (·.bytes)

/-- What the worlds know of the Field part before it is stored: that the image has one, and its cores, which FIELD_INT_MASK
takes (R497). -/
def expectField (d : Dev) : Dev :=
  match fieldHead d with
  | none => d
  | some bs =>
    let mask := u8 bs 24 % 16
    sg (.wld 1) Reg.Wld1.FIELD_INT_MASK (BitVec.ofNat 32 mask)
      (modWld (fun w => { w with fieldMask := mask, fieldPart := true, fieldEntry := BitVec.ofNat 64 (u64 bs 8) }) d)

/-- The Fold part starts on the cores of its mask. -/
def startFoldPart (d : Dev) : Dev :=
  if d.wld.foldPart then forN (fun n d => if d.wld.foldMask.testBit n then startFold n d else d) 4 d else d

/-! ## CAMERA and MESH (R223, R250, R296) -/

/-- A CAMERA port record. -/
def applyCamPort (p : Nat) (b : List Byte) (d : Dev) : Dev :=
  applyOr (decide (3 < u8 b 1 ∨ 31 < u8 b 3)) (fun d =>
    let d := plainWrite .cam (Reg.Cam.CSI_RATE p) (BitVec.ofNat 32 (u16 b 4)) d
    let d := plainWrite .cam (Reg.Cam.CSI_LANE p) (BitVec.ofNat 32 (u8 b 3 * 256 + u8 b 2)) d
    if u8 b 0 = 0 then d
    else
      let d := csiCtrl p (BitVec.ofNat 32 (u8 b 1 * 2 + 1)) d
      if csiOn d p then d else refuseContent d) d

/-- What MESH sections give: the instance with its bytes. -/
def meshSects (d : Dev) : List (Nat × List Byte) :=
  (d.boot.sects.filter (fun s => s.typ == 0x26 && sectGroup s == 1)).map (fun s => (s.inst, s.bytes))

/-- A mesh of the sizes that MESH admits, with all its nodes. -/
def meshOk (m : List Byte) : Bool :=
  decide (2 ≤ u16 m 0 ∧ u16 m 0 ≤ 129 ∧ 2 ≤ u16 m 2 ∧ u16 m 2 ≤ 97 ∧ u16 m 4 ≤ 255 ∧ u16 m 6 ≤ 255 ∧
    16 + 8 * u16 m 0 * u16 m 2 ≤ m.length)

/-- Bytes of an output ring: eight lines of the mesh's output. -/
def outRing (m : List Byte) (t : Nat) : Nat := 8 * pitchOf ((u16 m 0 - 1) * u16 m 4) t

/-- The rings that a stream record takes in Pasture, its input ring and the output ring behind it. -/
def recRing (b : List Byte) (mesh : Option (List Byte)) : Nat × Nat :=
  (u32 b 20, u16 b 12 * pitchOf (u16 b 8) (u8 b 3) + (mesh.map (fun m => outRing m (u8 b 3))).getD 0)

/-- The mesh that a record names, if it uses an engine. -/
def recMesh (d : Dev) (b : List Byte) : Option (List Byte) :=
  if u8 b 6 = 0xFF then none else ((meshSects d).find? (fun m => m.1 == u8 b 7 && meshOk m.2)).map (·.2)

/-- Areas that a mesh keeps clear of: rings, the firmware area, PREEMPT_AREA, fold surfaces and the Fold part. -/
def meshClear (d : Dev) (recs : List (List Byte)) (surfs : List FoldSurf) : List (Nat × Nat) :=
  (recs.filter (fun b => u8 b 0 != 0)).map (fun b => recRing b (recMesh d b)) ++
    [(frameBase d, pastFold d - frameBase d)] ++
    (if d.gpu.off then [] else [(rf d .gpu Reg.Gpu.PREEMPT_AREA 24 0, 0x600000)]) ++ d.boot.g2at ++
    surfs.map (fun s => (s.off, s.size)) ++
    (match cfgSect d 0x12 0 with
     | some bs => if d.wld.foldPart then [(u64 bs 0 - pastBase, appLen bs)] else []
     | none => [])

/-- Meshes placed so far: the instance and side of each with its address; the occupied areas; and the device. -/
structure MeshRun where
  at_ : List ((Nat × Bool) × Nat)
  occ : List (Nat × Nat)
  dev : Dev

/-- A mesh in Pasture on the side of the line that the stream's class asks for, stored once on each side. -/
def placeMesh (inst : Nat) (below : Bool) (m : List Byte) (r : MeshRun) : Option Nat × MeshRun :=
  match r.at_.find? (fun e => e.1 == (inst, below)) with
  | some e => (some e.2, r)
  | none =>
    let size := 8 * u16 m 0 * u16 m 2
    let lo := if below then 0 else pastFold r.dev
    let hi := if below then pastFold r.dev else 0x2000000
    let q := freePlace 64 lo hi size r.occ r.dev
    match q.1 with
    | none => (none, { r with dev := q.2 })
    | some a =>
      (some a, { at_ := r.at_ ++ [((inst, below), a)], occ := r.occ ++ [(a, size)]
                 dev := writeBytes setPast a ((m.drop 16).take size) q.2 })

/-- A stream record breaks a field, or its rings touch PREEMPT_AREA or the firmware area. -/
def streamRecBad (d : Dev) (b : List Byte) : Bool :=
  let ring := recRing b (recMesh d b)
  let hits := fun (a n : Nat) => decide (ring.1 < a + n ∧ a < ring.1 + ring.2)
  let pre := rf d .gpu Reg.Gpu.PREEMPT_AREA 24 0
  decide (3 < u8 b 1 ∨ 3 < u8 b 2 ∨ 63 < u8 b 3 ∨ 7 < u8 b 4 ∨ 2 < u8 b 5 ∨ (7 < u8 b 6 ∧ u8 b 6 ≠ 0xFF) ∨
    0x2000000 ≤ u32 b 20 ∨ 2 ^ 20 ≤ u32 b 16) ||
    (u8 b 6 != 0xFF && (recMesh d b).isNone) ||
    (u16 b 12 != 0 && ((!d.gpu.off && hits pre 0x600000) || hits (frameBase d) (pastFold d - frameBase d)))

/-- The registers of a stream and of its engine, from its record. -/
def streamRegs (n : Nat) (b : List Byte) (mesh : Option (Nat × List Byte)) (d : Dev) : Dev :=
  let p := Page.stream n
  let dest := u32 b 24 * 256
  let d := sg p Reg.OWNER (BitVec.ofNat 32 (if u8 b 5 = 0 then 0 else ownerCode 1 0)) d
  let d := sg p Reg.Stream.STREAM_SIZE (BitVec.ofNat 32 (u16 b 10 * 65536 + u16 b 8)) d
  let d := sg p Reg.Stream.RING_LINES (BitVec.ofNat 32 (u16 b 12)) (sg p Reg.Stream.RING_ADDR (BitVec.ofNat 32 (u32 b 20)) d)
  let d := sg64 p Reg.Stream.DRAM_ADDR_LO dest (sg p Reg.Stream.DRAM_STRIDE (BitVec.ofNat 32 (pitchOf (u16 b 8) (u8 b 3))) d)
  let d := sg p Reg.Stream.DRAM_BUF 2 (sg p Reg.Stream.FRAME_PERIOD (BitVec.ofNat 32 (u32 b 16)) d)
  let d := sg p Reg.Stream.SYNC_DELAY 0 (sg p Reg.Stream.FROZEN_N (BitVec.ofNat 32 (u8 b 14)) d)
  match mesh with
  | none => d
  | some (a, m) =>
    let e := Page.dw (u8 b 6)
    let d := sg e Reg.Dw.DW_MESH_DIM (BitVec.ofNat 32 (u16 m 2 * 65536 + u16 m 0)) (sg e Reg.Dw.DW_MESH_ADDR (BitVec.ofNat 32 a) d)
    let d := sg e Reg.Dw.DW_CELL (BitVec.ofNat 32 (u16 m 6 * 65536 + u16 m 4)) d
    sg e Reg.Dw.DW_OUT_ADDR (BitVec.ofNat 32 (u32 b 20 + u16 b 12 * pitchOf (u16 b 8) (u8 b 3))) d

/-- STREAM_CTRL of a record, ENABLE apart; FROZEN_HOLD keeps its reset value, 1. -/
def streamWord (b : List Byte) : Nat :=
  2 ^ 30 + (if u8 b 6 = 0xFF then 0 else 2 ^ 27 + u8 b 6 * 2 ^ 24) + u8 b 4 * 2 ^ 20 + u8 b 5 * 2 ^ 18 + u8 b 2 * 2 ^ 16 + u8 b 3 * 256 + u8 b 1 * 16

/-- A stream record. One that cannot be applied, or whose enable is refused, leaves its stream disabled. -/
def applyStream (n : Nat) (b : List Byte) (r : MeshRun) : MeshRun :=
  if streamRecBad r.dev b then { r with dev := refuseContent r.dev }
  else
    let q := match recMesh r.dev b with
      | none => (some none, r)
      | some m =>
        let q := placeMesh (u8 b 7) (u8 b 5 == 0) m r
        (q.1.map (fun a => some (a, m)), q.2)
    match q.1 with
    | none => { q.2 with dev := refuseContent q.2.dev }
    | some mesh =>
      let d := streamRegs n b mesh q.2.dev
      let d := streamCtrl .fold n (BitVec.ofNat 32 (streamWord b + (u8 b 0 != 0).toNat)) d
      { q.2 with dev := if u8 b 0 ≠ 0 ∧ (streamOf d n).on = false then refuseContent d else d }

/-- CAMERA with its meshes. -/
def applyCamera (bs : List Byte) (surfs : List FoldSurf) (d : Dev) : Dev :=
  let d := refuseN ((meshSects d).filter (fun m => !meshOk m.2)).length d
  let d := eachRec applyCamPort (recordsAt bs 0 16 4) d
  let recs := recordsAt bs 64 32 16
  (recs.zipIdx.foldl (fun r e => applyStream e.2 e.1 r) { at_ := [], occ := meshClear d recs surfs, dev := d }).dev

/-! ## LAYER_DEFAULTS (R112, R116, R304) -/

/-- A record that no pipe can take. -/
def layerRecBad (surfs : List FoldSurf) (p : Nat) (b : List Byte) : Bool :=
  decide (1 < u8 b 22 ∨ (p < 8 ∧ u8 b 22 ≠ 0) ∨ (u8 b 0 ≠ 0xFF ∧ (7 < u8 b 0 ∨ (p < 8 ∧ u8 b 0 ≠ p))) ∨ 2 < u8 b 2 ∨ 3 < u8 b 21 ∨
    31 < u8 b 1) ||
    (decide (p < 8 ∧ u8 b 0 ≠ 0xFF) && !surfs.any (fun s => s.off == u32 b 16))

/-- The staged state and owner of a pipe from its record. SOURCE is a Pasture offset, or the stream of a DIRECT layer; a linear
surface has the stride of its descriptor, or of its line rounded up. A YUV or DIRECT layer needs a conversion, which the
record does not name: its MODE is free. What the record does not carry keeps its reset value. -/
def stageLayer (surfs : List FoldSurf) (p : Nat) (b : List Byte) (d : Dev) : Dev :=
  let pg := Page.pipe p
  let f := u8 b 3
  let on := u8 b 0 ≠ 0xFF
  let head := if p < 8 then p else if on then u8 b 0 else 0
  let wh := BitVec.ofNat 32 (u16 b 14 % 16384 * 65536 + u16 b 12 % 16384)
  let addr := if f = 0x40 then 0 else pastBase + u32 b 16
  let stride := match surfs.find? (fun s => s.off == u32 b 16) with
    | some s => if p < 8 then s.stride else ceilDiv (u16 b 12 * fmtBytes f) 64 * 64
    | none => ceilDiv (u16 b 12 * fmtBytes f) 64 * 64
  let d := sg pg Reg.OWNER (BitVec.ofNat 32 (ownerCode (u8 b 22) 0)) d
  let d := sg pg Reg.Pipe.CTRL (BitVec.ofNat 32 (head * 4096 + u8 b 2 * 1024 + u8 b 1 * 32 + (if on then 1 else 0))) d
  let d := sg pg Reg.Pipe.FORMAT (BitVec.ofNat 32 (u8 b 21 * 2 ^ 20 + f)) d
  let d := sg64 pg Reg.Pipe.SRC_ADDR_LO (if f = 0x08 then addr + 1024 else addr) d
  let d := if f = 0x08 then sg64 pg Reg.Pipe.SRC_ADDR2_LO addr d else d
  let d := if f = 0x40 ∧ 48 ≤ p then sg pg Reg.Pipe.DIRECT_SRC (BitVec.ofNat 32 (u32 b 16 % 16)) d else d
  let d := if f = 0x40 ∨ isFleece f = true then d else sg pg Reg.Pipe.SRC_STRIDE (BitVec.ofNat 32 stride) d
  let d := sg pg Reg.Pipe.DST_WH wh (sg pg Reg.Pipe.SRC_WH wh d)
  let d := sg pg Reg.Pipe.DST_XY (BitVec.ofNat 32 (u16 b 10 % 16384 * 65536 + u16 b 8 % 16384)) d
  let d := sf pg Reg.Pipe.ALPHA_KEY 7 0 (u8 b 20) (sg pg Reg.Pipe.HOLD_COLOUR (BitVec.ofNat 32 (u32 b 4)) d)
  if f = 0x40 ∨ isYuv f = true then tick (sf pg Reg.Pipe.CSC_CTRL 3 0 (1 + Config.freeNat d.free 3 % 7) d) else d

/-- The staged layers of an owner on a head are committed; each refused one counts as a refused record. -/
def commitDefaults (owner h : Nat) (ps : List Nat) (d : Dev) : Dev :=
  let d' := commitPipes h owner ps none none d
  refuseN (ps.filter (fun p => rg d (.pipe p) Reg.Pipe.REFUSE_STAT != rg d' (.pipe p) Reg.Pipe.REFUSE_STAT)).length d'

/-- LAYER_DEFAULTS. -/
def applyLayers (bs : List Byte) (surfs : List FoldSurf) (d : Dev) : Dev :=
  let recs := (recordsAt bs 0 32 64).zipIdx
  let good := recs.filter (fun r => !layerRecBad surfs r.2 r.1)
  let d := good.foldl (fun d r => stageLayer surfs r.2 r.1 d) (refuseN (recs.length - good.length) d)
  forN (fun k d =>
    let owner := ownerCode (k / 8) 0
    let ps := (good.filter (fun r => u8 r.1 0 == k % 8 && u8 r.1 22 == k / 8)).map (·.2)
    commitDefaults owner (k % 8) ps d) 16 d

/-! ## CHECK_EXPECT (R307, R324) -/

/-- A CHECK_EXPECT record into its staged window. -/
def stageWindow (b : List Byte) (d : Dev) : Dev :=
  let pg := Page.chk (u8 b 0)
  let w := u8 b 1
  let ctrl := u8 b 13 * 2 ^ 24 + u8 b 12 % 16 * 2 ^ 16 + u8 b 14 % 8 * 2 ^ 12 + u8 b 14 / 8 % 2 * 2 ^ 11 + u8 b 14 / 16 % 2 * 2 ^ 10 +
    u8 b 2 % 4 * 64 + u8 b 3 % 4 * 16 + 1
  let d := sg pg (Reg.Chk.WIN_CTRL w) (BitVec.ofNat 32 ctrl) d
  let d := sg pg (Reg.Chk.WIN_XY w) (BitVec.ofNat 32 (u16 b 6 % 8192 * 65536 + u16 b 4 % 8192)) d
  let d := sg pg (Reg.Chk.WIN_WH w) (BitVec.ofNat 32 (u16 b 10 % 8192 * 65536 + u16 b 8 % 8192)) d
  forN (fun k d => sg pg (Reg.Chk.EXPECT (8 * w + k)) (BitVec.ofNat 32 (u32 b (16 + 4 * k))) d) 8 d

/-- CHECK_EXPECT: the windows are staged in record order and committed. Padding of the section is no record. -/
def applyChecks (bs : List Byte) (d : Dev) : Dev :=
  let recs := (recordsAt bs 0 48 128).filter (fun b => b.any (· != 0))
  let r := recs.foldl (fun (r : List (Nat × Nat) × Dev) b =>
    let key := (u8 b 0, u8 b 1)
    if 7 < u8 b 0 ∨ 15 < u8 b 1 ∨ 31 < u8 b 14 ∨ 3 < u8 b 2 ∨ 3 < u8 b 3 ∨ u8 b 12 < 1 ∨ 8 < u8 b 12 ∨ 8191 < u16 b 4 ∨ 8191 < u16 b 6 ∨
        8191 < u16 b 8 ∨ 8191 < u16 b 10 ∨ r.1.contains key = true then
      (r.1, refuseContent r.2)
    else (r.1 ++ [key], stageWindow b r.2)) ([], d)
  forN (fun h d => if r.1.any (fun k => k.1 == h) then chkWrite h 1 d else d) 8 r.2

/-! ## TOUCH_PANELS (R355, R362) -/

/-- A region of a panel. -/
def applyRegion (n r : Nat) (b : List Byte) (d : Dev) : Dev :=
  let pg := Page.panel n
  let fl := u8 b 11
  let ctrl := u8 b 9 * 2 ^ 20 + fl / 32 % 2 * 2 ^ 17 + fl / 16 % 2 * 2 ^ 16 + u8 b 10 * 256 + fl % 16 * 16 + u8 b 8 % 4 * 4 + 1
  let d' := sg pg (Reg.Panel.REGION_X r) (BitVec.ofNat 32 (u16 b 4 * 65536 + u16 b 0)) d
  let d' := sg pg (Reg.Panel.REGION_Y r) (BitVec.ofNat 32 (u16 b 6 * 65536 + u16 b 2)) d'
  let d' := sg pg (Reg.Panel.REGION_CTRL r) (BitVec.ofNat 32 ctrl) d'
  applyOr (decide (1 < u8 b 9 ∨ 2 < u8 b 8 ∨ 63 < fl) || !regionValid d' n r) (fun _ => d') d

/-- A TOUCH_PANELS section: the panel, its regions, and then its port and the panel enabled. -/
def applyPanel (n : Nat) (bs : List Byte) (d : Dev) : Dev :=
  let pg := Page.panel n
  applyOr (decide (512 < u16 bs 0 ∨ 512 < u16 bs 2 ∨ 32768 < u16 bs 0 * u16 bs 2 ∨ 255 < u16 bs 4 ∨ 4095 < u16 bs 8 ∨ 4095 < u16 bs 10 ∨
      4095 < u16 bs 12 ∨ 64 < u8 bs 14)) (fun d =>
    let d := sg pg Reg.Panel.PANEL_SIZE (BitVec.ofNat 32 (u16 bs 0 * 65536 + u16 bs 2)) d
    let d := sg pg Reg.Panel.PANEL_SCAN (BitVec.ofNat 32 (u16 bs 4 * 65536 + u16 bs 6)) d
    let d := sg pg Reg.Panel.PANEL_BASE (BitVec.ofNat 32 (u16 bs 8 * 65536 + u16 bs 10)) d
    let d := sf pg Reg.Panel.PANEL_FILTER 11 0 (u16 bs 12) d
    let d := eachRec (applyRegion n) (recordsAt bs 32 16 (u8 bs 14)) d
    let d := panelCtrl n (putBit (rg d pg Reg.Panel.PANEL_CTRL) 0 true)
      (lgCtrl n (putBit (rg d (.lg n) Reg.Lg.LG_CTRL) 0 true) d)
    if rb d pg Reg.Panel.PANEL_CTRL 0 then d else refuseContent d) d

/-- Every TOUCH_PANELS section. -/
def applyTouch (d : Dev) : Dev :=
  forN (fun n d => match cfgSect d 0x30 n with | some bs => applyPanel n bs d | none => d) 8 d

/-! ## AUDIO_ROUTES (R404, R417) -/

/-- The code of RATE_HZ, if it is one. -/
def rateCode (hz : Nat) : Option Nat :=
  match hz with | 8000 => some 0 | 16000 => some 1 | 32000 => some 2 | 44100 => some 3 | 48000 => some 4 | _ => none

/-- A TDM record by its own fields. -/
def tdmRecOk (b : List Byte) : Bool :=
  let m := u8 b 0
  decide (m < 32 ∧ m % 4 ≠ 3 ∧ m / 4 % 4 ≠ 3 ∧ 1 ≤ u8 b 1 ∧ u8 b 1 ≤ 8 ∧ (u8 b 3 = 0 → u8 b 1 = 2) ∧ u8 b 3 ≤ 3 ∧
    u8 b 1 * u8 b 2 * u32 b 4 ≤ 12288000 ∧ (m / 4 % 4 = 0 → u32 b 4 = 48000) ∧ (m / 16 = 1 → m % 4 = 2)) &&
    [16, 24, 32].contains (u8 b 2) && (rateCode (u32 b 4)).isSome

/-- A record goes with the ports taken before it: one rate and one clock port in a domain. -/
def tdmFits (before : List (List Byte)) (b : List Byte) : Bool :=
  (before.filter (fun c => u8 c 0 / 4 % 4 == u8 b 0 / 4 % 4)).all (fun c =>
    u32 c 4 == u32 b 4 && (u8 c 0 / 16 == 0 || u8 b 0 / 16 == 0))

/-- A TDM port with its domain, which takes its rate, and the port as its clock if the record says so. -/
def applyTdm (p : Nat) (b : List Byte) (r : List (List Byte) × Dev) : List (List Byte) × Dev :=
  if u8 b 0 % 4 = 0 then (r.1, if u8 b 0 / 32 = 0 then r.2 else refuseContent r.2)
  else if !tdmRecOk b || !tdmFits r.1 b then (r.1, refuseContent r.2)
  else
    let dom := u8 b 0 / 4 % 4
    let old := rf r.2 (.aud 0) (Reg.Aud0.DOMAIN_CFG dom) 18 16
    let src := if u8 b 0 / 16 = 1 then p + 1 else old
    let d := if dom = 0 then r.2 else
      plainWrite (.aud 0) (Reg.Aud0.DOMAIN_CFG dom) (BitVec.ofNat 32 (2 ^ 31 + src * 65536 + (rateCode (u32 b 4)).getD 4)) r.2
    let d := if dom = 0 then d else sb (.aud 0) (Reg.Aud0.DOMAIN_STAT dom) 31 (src != 0) d
    let bits := if u8 b 2 = 16 then 0 else if u8 b 2 = 24 then 1 else 2
    (r.1 ++ [b], tdmCfg p (BitVec.ofNat 32 (u8 b 3 * 65536 + bits * 4096 + (u8 b 1 - 1) * 256 + u8 b 0)) d)

/-- A route record into its staged route. -/
def stageRoute (k : Nat) (b : List Byte) (d : Dev) : Dev :=
  applyOr (decide (2 < u8 b 4 ∨ u8 b 5 < 2 ∨ 20 < u8 b 5)) (modRoute k (fun s => { s with
    cfgS := BitVec.ofNat 32 (2 ^ 31 + u8 b 4 * 2 ^ 24 + u8 b 6 * 2 ^ 16 + u8 b 1 * 256 + u8 b 0)
    gainS := BitVec.ofNat 32 (u8 b 5 * 65536 + u16 b 2) })) d

/-- AUDIO_ROUTES: the ports, then the routes, committed as one table. -/
def applyAudio (bs : List Byte) (d : Dev) : Dev :=
  if bs = [] then d
  else
    let d := ((recordsAt bs 0 8 4).zipIdx.foldl (fun r e => applyTdm e.2 e.1 r) ([], d)).2
    if 256 < u16 bs 32 then refuseContent d
    else
      let recs := recordsAt bs 40 8 (u16 bs 32)
      let d := routeCommit .fold 1 (eachRec stageRoute recs d)
      refuseN ((List.range recs.length).filter (fun k => (routeS d k).reason != 0)).length d

/-! ## DRAM (R567, R571) -/

/-- The section keeps to R567. -/
def dramOk (bs : List Byte) : Bool :=
  let swap := (List.range 8).map (fun c => u8 bs (8 + c))
  [6400, 7500, 8533].contains (u16 bs 0) && (u8 bs 3 == 1 || u8 bs 3 == 2) && [8, 12, 16].contains (u8 bs 4) &&
    u8 bs 2 == u8 bs 3 * u8 bs 4 && swap.all (fun s => s / 8 % 2 == 0 && decide (s < 32)) &&
    (List.range 8).all (fun c => swap.any (fun s => s % 8 == c)) &&
    (recordsAt bs 24 4 (u8 bs 16)).all (fun b => (decide (u8 b 0 ≤ 7) || u8 b 0 == 0xFF) && decide (u8 b 1 ≤ 63))

/-- A mode register that the controller sets itself. -/
def mrOwn (m : Nat) : Bool := decide (m ≤ 4 ∨ (10 ≤ m ∧ m ≤ 20))

/-- The mode-register values of a DRAM section, by channel × 64 + register; channel 0xFF is every channel (R82, R567). -/
def mrTable (bs : List Byte) : Tab (Option Nat) :=
  ((recordsAt bs 24 4 (u8 bs 16)).filter (fun b => !mrOwn (u8 b 1))).foldl (fun t b =>
    ((List.range 8).filter (fun c => u8 b 0 == c || u8 b 0 == 0xFF)).foldl (fun t c =>
      tabSet (fun _ => none) t (c * 64 + u8 b 1) (some (u8 b 2))) t) []

/-- DRAM training starts; a refused section leaves DRAM untrained. Inline ECC is on for INLINE_ECC 1 alone (R579). -/
def applyDram (d : Dev) : Dev :=
  let ecc := u8 (sect d 0x41) 5 == 1
  match cfgSect d 0x42 0 with
  | none => drcStart none ecc d
  | some bs =>
    applyOr (!dramOk bs) (fun d =>
      modDrc (fun s => { s with mrs := mrTable bs, swap := (List.range 8).map (fun c => u8 bs (8 + c)) })
        (drcStart (some (u16 bs 0, u8 bs 4, u8 bs 3)) ecc
          (refuseN ((recordsAt bs 24 4 (u8 bs 16)).filter (fun b => mrOwn (u8 b 1))).length d))) d

/-! ## The step -/

/-- Heads and ports: every head is loaded, the ports get their sources, and then the heads are enabled. -/
def applyHeads (d : Dev) : Dev :=
  let heads := recordsAt (sect d 0x21) 0 16 8
  eachRec applyHead heads (eachRec applyTiming (recordsAt (sect d 0x20) 0 32 16) d)

/-- What the sections give the blocks, in the order in which each needs the others. -/
def applyImage (d : Dev) : Dev :=
  let d := (classRecords d).foldl (fun d b => applyClass b d) d
  let d := applyHeads (applyPartition (sect d 0x40) d)
  let d := applyGpu (applyMemory (sect d 0x41) d)
  let s := applySurfaces (sect d 0x23) d
  let heads := recordsAt (sect d 0x21) 0 16 8
  let d := loadFoldPart s.2
  let d := eachRec (applyPort heads) (recordsAt (sect d 0x43) 0 16 8) d
  let d := eachRec applyPcie (recordsAt (sect d 0x43) (8 * 16) 16 2) d
  let d := applyCamera (sect d 0x25) s.1 d
  let d := applyLayers (sect d 0x22) s.1 (eachRec enableHead heads d)
  applyDram (applyAudio (sect d 0x33) (applyTouch (applyChecks (sect d 0x24) d)))

/-- The restarted die has come to "Firmware configured": entries that it answers may go (R525). -/
def restartDone (d : Dev) : Dev :=
  releaseDue 3 (modSdg (fun g => { g with active := g.active.map (fun a => if a.served then { a with done := true } else a) }) d)

/-- FIRMWARE_CONFIGURED. -/
def doFirmware (d : Dev) : Dev :=
  if d.boot.stage ≠ 7 then d
  else
    let d := modBoot (fun b => { b with stage := 8 }) (sb (.wld 0) Reg.OWNER 31 true (applyImage d))
    restartDone (startFoldPart (expectField d))
def execFirmwareConfigured (s : State) := onDev doFirmware s

end Sys2Proof.Machine
end

