-- ==== Sys2Proof/Machine/Bring.lean ====
section
/-! DEFINITION. Start-up after "Firmware configured": the sections of group 2, the first safe picture, "DRAM trained" with the
frame ownership table, and full composition (R80, R81, R89, R95, R96, R99, R282, R440). -/
namespace Sys2Proof.Machine

/-! ## The Field part (R80, R99, R496, R497) -/

/-- The Field part lies wholly above the DRAM fold line and below the installed capacity. -/
def fieldPartOk (d : Dev) (bs : List Byte) : Bool :=
  decide (dramFold d ≤ u64 bs 0 ∧ u64 bs 0 + appLen bs ≤ d.drc.capacity)

/-- There is no Field part to wait for: cores that wait in a FOLD.RET take the exception of R497, and contexts that wait for a
translation fault (R274). -/
def fieldAbsent (d : Dev) : Dev :=
  let d := missesFail (modWld (fun w => { w with fieldPart := false }) d)
  forN (fun n d => if (coreOf d n).waitStart then coreTrap n causeIllegal (modCore n (fun c => { c with waitStart := false }) d) else d) 4 d

/-- The Field part is stored in DRAM, its area after the code zeroed, and starts; or it is refused. -/
def fieldStart (d : Dev) : Dev :=
  match sectFind d.boot.loaded 0x12 1 with
  | none => d
  | some s =>
    let bs := s.bytes
    if !fieldPartOk d bs ∨ bs.length < 32 + u32 bs 16 then fieldAbsent (refuseContent d)
    else
      let a := u64 bs 0
      fieldGo (dramZero (a + u32 bs 16) (u32 bs 20) (dramWrite (u32 bs 16) a ((bs.drop 32).take (u32 bs 16)) d))

/-! ## SHADER_CACHE (R81, R272, R440) -/

/-- The entries of SHADER_CACHE for this stepping: key and length of each. -/
def shaderEntries (bs : List Byte) : List (Nat × Nat) :=
  if u8 bs 4 ≠ 0xB0 then [] else (recordsAt bs 16 32 (u32 bs 0)).map (fun b => (at_ b 0 16, u32 b 20))

/-- SHADER_CACHE as stored, or the entries that lead it as the image gave them when it was taken (R110). -/
def shaderBytes (d : Dev) : List Byte := ((sectFind (d.boot.loaded ++ d.boot.group2) 0x13 0).map (·.bytes)).getD []

/-- TCACHE_SIZE in MiB. -/
def tcacheMib (bs : List Byte) : Nat :=
  let need := ((shaderEntries bs).map (·.2)).foldl (· + ·) (16 * 2 ^ 20)
  if need ≤ 64 * 2 ^ 20 then 64 else min 1024 (ceilDiv need (2 ^ 21) * 2)

/-- The stored entries go into the translation cache, as far as it holds them. -/
def loadShaders (d : Dev) : Dev :=
  match sectFind d.boot.loaded 0x13 0 with
  | none => d
  | some s =>
    let size := rf d .gpu Reg.Gpu.TCACHE_SIZE 10 0 * 2 ^ 20
    let r := (shaderEntries s.bytes).foldl (fun (r : Nat × Dev) e =>
      if size < r.1 + e.2 then r
      else (r.1 + e.2, modGpu (fun g => { g with cache := g.cache.filter (fun x => x.1 != e.1) ++ [(e.1, true)] }) r.2)) (0, d)
    showCache r.2

/-! ## Group 2 (R73, R89, R99) -/

/-- Group 2 is read: the Fell die runs, and the sections fit into Pasture above the fold line or DRAM is trained. -/
def group2Goes (d : Dev) : Bool :=
  decide (7 ≤ d.boot.stage) &&
    (d.boot.dramUp || decide (((d.boot.group2 ++ d.boot.loaded).map (·.len)).foldl (· + ·) 0 ≤ 0x2000000 - pastFold d))

/-- What stands in Pasture above the fold line before DRAM is trained: rings and meshes, and the sections stored there. -/
def pastTaken (d : Dev) : List (Nat × Nat) :=
  ((recordsAt (sect d 0x25) 64 32 16).filter (fun b => u8 b 0 != 0)).map (fun b => recRing b (recMesh d b)) ++
    ((List.range 8).map (fun e => meshRegs d e)).map (fun m => (m.addr, 8 * m.cols * m.rows)) ++ d.boot.g2at

/-- A section of group 2 is stored above the Pasture fold line, if it finds a place, until DRAM is trained (R96). -/
def storePast (s : Sect) (d : Dev) : Dev :=
  let q := freePlace 8 (pastFold d) 0x2000000 s.bytes.length (pastTaken d) d
  match q.1 with
  | none => q.2
  | some a => modBoot (fun b => { b with g2at := b.g2at ++ [(a, s.bytes.length)] }) (writeBytes setPast a s.bytes q.2)

/-- A section that is stored: DRAM-bound parts act at once when DRAM is up. -/
def storeSect (s : Sect) (d : Dev) : Dev :=
  let d := modBoot (fun b => { b with group2 := b.group2.drop 1, loaded := b.loaded ++ [s] }) d
  if !d.boot.dramUp then storePast s d
  else if s.typ = 0x12 then fieldStart d
  else if s.typ = 0x13 then loadShaders d
  else d

/-- The same section of the other slot, if that slot's manifest holds under its signature and lists an identical hash. -/
def otherCopy (f : Fuses) (d : Dev) (s : Sect) : Option (List Byte) :=
  let o := 1 - d.boot.slot
  if imageReason d f o 7 wholeSlot ≠ 0 then none
  else
    match sectFind (sectsOf d o) s.typ s.inst with
    | none => none
    | some t =>
      let bs := imgBytes d o t.off t.len
      if manifestHash d o (sectPlace (sectsOf d o) 1).1 t.idx = s.hash ∧ sha384 bs = s.hash then some bs else none

/-- GROUP2_SECTION_CHECK: the next section of group 2 has been read; `garbled` says that it failed its check on the way. -/
def doGroup2 (f : Fuses) (garbled : Bool) (d : Dev) : Dev :=
  if !group2Goes d then d
  else
    match d.boot.group2 with
    | [] => d
    | s :: _ =>
      let bs := imgBytes d d.boot.slot s.off s.len
      if garbled = false ∧ crcFold s.idx bs = BitVec.ofNat 32 s.crc ∧ sha384 bs = s.hash then
        if sectGroup s = 0 then noteF0 8 (s.typ * 65536 + s.inst) 0 (modBoot (fun b => { b with group2 := b.group2.drop 1 }) d)
        else storeSect { s with bytes := bs } d
      else if !d.boot.reread.contains s.idx then modBoot (fun b => { b with reread := b.reread ++ [s.idx] }) d
      else
        match otherCopy f d s with
        | some bs => storeSect { s with bytes := bs } d
        | none =>
          let d := modBoot (fun b => { b with group2 := b.group2.drop 1 }) d
          let d := if s.typ = 0x12 then fieldAbsent d else d
          raiseFault .img Reg.Img.SRC_SECTION_LATE Reg.Img.EV_SECTION_LATE (bump .img Reg.Img.LATE_COUNT 7 0 d)
def execGroup2SectionCheck (garbled : Bool) (s : State) := onDev (doGroup2 s.fuses garbled) s

/-! ## First safe picture (R96, R104) -/

/-- FIRST_SAFE_PICTURE. -/
def doFirstPicture (d : Dev) : Dev :=
  if d.boot.stage < 8 ∨ d.boot.firstPic = true ∨ (firstHeads d).all (fun h => d.boot.pictured.contains h) = false then d
  else
    let d := modBoot (fun b => { b with firstPic := true }) d
    let d := sf .img Reg.Img.BOOT_STAT 11 8 (max 3 (rf d .img Reg.Img.BOOT_STAT 11 8)) d
    event .img Reg.Img.EV_FIRST_PICTURE (sg .img Reg.Img.T_SAFE (BitVec.ofNat 32 (d.us - d.boot.t0)) d)
def execFirstSafePicture (s : State) := onDev doFirstPicture s

/-! ## DRAM trained (R96, R440) -/

/-- The area of the Field part in DRAM, if the image has one that keeps to R80. -/
def fieldArea (d : Dev) : Option (Nat × Nat) :=
  match fieldHead d with
  | some bs => if fieldPartOk d bs then some (u64 bs 0, appLen bs) else none
  | none => none

/-- The frame ownership table and the place of the translation cache. -/
def setFrames (d : Dev) : Dev :=
  let frame := 0x200000
  let usable := d.drc.capacity / frame
  let area := fieldArea d
  let tc := ceilDiv (match area with | some a => a.1 + a.2 | none => dramFold d) frame
  let mib := tcacheMib (shaderBytes d)
  let init : FotInit := {
    fold := dramFold d / frame, usable := usable, devLo := usable - 8
    fieldLo := match area with | some a => a.1 / frame | none => 0
    fieldHi := match area with | some a => ceilDiv (a.1 + a.2) frame | none => 0
    tcLo := tc, tcHi := tc + mib / 2 }
  let d := modMach (fun m => { m with fotInit := some init, fot := [] }) d
  sg .gpu Reg.Gpu.TCACHE_SIZE (BitVec.ofNat 32 mib) (sg64 .gpu Reg.Gpu.TCACHE_LO (tc * frame) d)

/-- The pen ring of each Bellwether context is filled (R281). -/
def fillPens (d : Dev) : Dev :=
  forN (fun n d =>
    let a := rg64 d (.ctx n) Reg.Ctx.PEN_RING_LO
    let pens := rf d (.ctx n) Reg.Ctx.PEN_CFG 15 0
    let first := a + ceilDiv (8 * 2 ^ rf d (.ctx n) Reg.Ctx.PEN_RING_LOG2 4 0) 4096 * 4096
    if (ctxOf d n).bwHead.isNone then d
    else forN (fun i d => dramWrite 8 (a + 8 * i) (leBytes 8 (first + 4096 * i)) d) pens d) 64 d

/-- DRAM_TRAINED. A life-cycle transition's wipe comes before any other use of DRAM (R92). -/
def doDramTrained (d : Dev) : Dev :=
  if d.boot.stage < 8 ∨ d.boot.dramUp = true ∨ drcState d ≠ 2 then d
  else
    let d := if d.boot.wipeDram then dramZero 0 (dramFold d) d else d
    let d := modBoot (fun b => { b with dramUp := true, wipeDram := false, g2at := [] }) d
    let d := forN (fun n d => sb (.stream n) Reg.Stream.STREAM_STAT 27 false d) 16 d
    let d := loadShaders (fillPens (setFrames d))
    let d := if d.gpu.off then d else gpuCtrl (putBit (rg d .gpu Reg.Gpu.GPU_CTRL) 0 true) d
    fieldStart d
def execDramTrained (s : State) := onDev doDramTrained s

/-! ## Full composition (R95, R96, R282) -/

/-- The Bellwether contexts are bound: those of HEAD_MAP, and those of MEMORY. -/
def bindBellwethers (d : Dev) : Dev :=
  let d := eachRec (fun h b d => if headRecBad b = false ∧ u8 b 7 < 64 then
    sg (.head h) Reg.Head.BW_CTX (BitVec.ofNat 32 (0x80 + u8 b 7)) d else d) (recordsAt (sect d 0x21) 0 16 8) d
  flock0On (forN (fun n d => match (ctxOf d n).bwHead with
    | some h => sg (.head h) Reg.Head.BW_CTX (BitVec.ofNat 32 (0x80 + n)) d
    | none => d) 64 d)

/-- The start has come to full composition once DRAM is up and all of group 2 has been dealt with. -/
def fullReady (d : Dev) : Bool := d.boot.dramUp && !d.boot.full && d.boot.group2 == []

/-- FULL_COMPOSITION but for the fuses. -/
def fullComposition (f : Fuses) (d : Dev) : Dev :=
  let d := modBoot (fun b => { b with full := true, devStart := false }) (bindBellwethers d)
  let d := sf .img Reg.Img.BOOT_STAT 21 16 f.svn (sf .img Reg.Img.BOOT_STAT 11 8 4 d)
  let d := padFull (sg .img Reg.Img.T_FULL (BitVec.ofNat 32 (d.us - d.boot.t0)) d)
  event .img Reg.Img.EV_FULL_COMPOSITION d

/-- The fused security version after ADVANCE_SVN. -/
def svnAfter (f : Fuses) (d : Dev) : Fuses :=
  if d.boot.flags.testBit 0 = true ∧ f.svn < d.boot.svn then { f with svn := d.boot.svn } else f

/-- FULL_COMPOSITION. -/
def execFullComposition (s : State) : Host.Outcome State Fault Refusal :=
  if !fullReady s.dev then .next s
  else .next { s with fuses := svnAfter s.fuses s.dev, dev := cycleEnd (fullComposition (svnAfter s.fuses s.dev) s.dev) }

end Sys2Proof.Machine
end

