-- ==== Sys2Proof/Machine/Gpio.lean ====
section
/-! DEFINITION. The GPIO balls ("Balls and Package", R652, R653). -/
namespace Sys2Proof.Machine

/-- The balls that the device drives, with the levels it drives: an open-drain output of 1 releases its ball, and with
SUP_CFG.MODE 1 the setpoint code is on GPIO29 to GPIO31 (R605). -/
def gpioDrive (d : Dev) : Word × Word :=
  let out := rg d (.sys 3) Reg.Sys3.GPIO_OUT
  let drv := rg d (.sys 3) Reg.Sys3.GPIO_OE &&& ~~~(rg d (.sys 3) Reg.Sys3.GPIO_OD &&& out)
  if rb d (.sys 2) Reg.Sys2.SUP_CFG 0 then
    (drv ||| 0xE0000000#32, setFld out 31 29 (rf d (.sys 2) Reg.Sys2.SUP_STAT 2 0))
  else (drv, out)

/-- GPIO_IN as it reads: driven balls at their driven level, the others at the level that the last edge gave them. -/
def gpioIn (d : Dev) : Word :=
  let g := gpioDrive d
  (g.1 &&& g.2) ||| (~~~g.1 &&& rg d (.sys 3) Reg.Sys3.GPIO_IN)

/-- The edges that GPIO_RISE and GPIO_FALL select are latched; `old`: the levels before. -/
def gpioLatch (old : Word) (d : Dev) : Dev :=
  let new := gpioIn d
  let e := (~~~old &&& new &&& rg d (.sys 3) Reg.Sys3.GPIO_RISE) ||| (old &&& ~~~new &&& rg d (.sys 3) Reg.Sys3.GPIO_FALL)
  let was := rg d (.sys 3) Reg.Sys3.GPIO_EDGE
  let d := sg (.sys 3) Reg.Sys3.GPIO_EDGE (was ||| e) d
  if was = 0 ∧ e ≠ 0 then event (.sys 3) Reg.Sys3.EV_GPIO_EDGE d else d

/-- GPIO_EDGE: the outside takes a ball to a level. -/
def doGpioEdge (n : Nat) (level : Bool) (d : Dev) : Dev := gpioLatch (gpioIn d) (sb (.sys 3) Reg.Sys3.GPIO_IN n level d)
def execGpioEdge (n : Fin 32) (level : Bool) (s : State) := onDev (doGpioEdge n.val level) s

/-- A write that changes what the device drives. -/
def gpioWrite (o : Nat) (v : Word) (d : Dev) : Dev := gpioLatch (gpioIn d) (plainWrite (.sys 3) o v d)

/-- A write of GPIO_EDGE_CLR. -/
def gpioClr (v : Word) (d : Dev) : Dev := sg (.sys 3) Reg.Sys3.GPIO_EDGE (rg d (.sys 3) Reg.Sys3.GPIO_EDGE &&& ~~~v) d
/-- GPIO_EDGE_CLR. -/
def doGpioEdgeClr (who : Party) (v : Word) (d : Dev) : Dev := onWrite who (.sys 3) Reg.Sys3.GPIO_EDGE_CLR (gpioClr v) d
def execGpioEdgeClr (who : Party) (v : Word) (s : State) := onDev (doGpioEdgeClr who v) s

end Sys2Proof.Machine
end

