-- ==== Sys2Proof/Machine/NvmPage.lean ====
section
/-! DEFINITION. The NVM page: commands that read, program, erase and verify the NVM (R107–R110). -/
namespace Sys2Proof.Machine

/-- A command needs a page address (READ, PROGRAM) or a sector address (ERASE), and keeps off the Cairn dump area (R109). VERIFY_A
and VERIFY_B name their slot and are not judged by NVM_ADDR (DESIGN CHOICE: R109 says "a command", and gives no alignment for
them). -/
def nvmAddrBad (code a : Nat) : Bool :=
  decide (code < 4) && (decide (a % (if code = 3 then 0x10000 else 256) ≠ 0) ||
    decide ((0x04000000 ≤ a ∧ a < 0x04040000) ∨ 0x08000000 ≤ a))

/-- NVM_STAT shows a command, its result and whether it runs or waits. -/
def nvmStat (busy waits : Bool) (code result : Nat) (d : Dev) : Dev :=
  sg .nvm Reg.Nvm.NVM_STAT (BitVec.ofNat 32 (result * 256 + code * 16 + waits.toNat * 2 + busy.toNat)) d

/-- A command is refused. NVM_STAT then names the refused one, also while another runs (DESIGN CHOICE: R107 and R108 do not say
what LAST_CMD and LAST_RESULT show after a refusal). -/
def nvmRefuse (code result : Nat) (d : Dev) : Dev :=
  event .nvm Reg.Nvm.EV_CMD_REFUSED (sf .nvm Reg.Nvm.NVM_STAT 11 4 (result * 16 + code) d)

/-- A write of NVM_CMD; the codes that R108 does not list do nothing. A command that is refused both as busy and for its address
is refused as busy, and LAST_RESULT keeps its value while an accepted command runs (DESIGN CHOICE: R109 and R108 leave both
open). -/
def nvmCmd (v : Word) (d : Dev) : Dev :=
  let code := fld v 3 0
  let a := rf d .nvm Reg.Nvm.NVM_ADDR 26 0
  if code = 0 ∨ 5 < code ∨ isoOf d .nvm = true then d
  else if d.nvmc.cmd.isSome then nvmRefuse code 2 d
  else if nvmAddrBad code a then nvmRefuse code 1 d
  else
    let waits := d.cairn.exporting.isSome
    nvmStat true waits code (rf d .nvm Reg.Nvm.NVM_STAT 11 8) { d with nvmc := { cmd := some (code, a), waits := waits } }

/-- The write of a command code. -/
def doNvmCmd (who : Party) (code : Nat) (d : Dev) : Dev :=
  onWrite who .nvm Reg.Nvm.NVM_CMD (nvmCmd (BitVec.ofNat 32 code)) d
def execReadPage (who : Party) (s : State) := onDev (doNvmCmd who 1) s
def execProgramPage (who : Party) (s : State) := onDev (doNvmCmd who 2) s
def execEraseSector (who : Party) (s : State) := onDev (doNvmCmd who 3) s
def execVerifyA (who : Party) (s : State) := onDev (doNvmCmd who 4) s
def execVerifyB (who : Party) (s : State) := onDev (doNvmCmd who 5) s

/-- The page buffer takes 256 bytes. -/
def nvmBufSet (bs : List Byte) (d : Dev) : Dev :=
  forN (fun i d => sg .nvm (Reg.Nvm.NVM_BUF i) (BitVec.ofNat 32 (leNat ((bs.drop (4 * i)).take 4))) d) 64 d

/-- The bytes of the page buffer. -/
def nvmBuf (d : Dev) : List Byte := ((List.range 64).map (fun i => wordBytes (rg d .nvm (Reg.Nvm.NVM_BUF i)))).flatten

/-- The result of VERIFY_A and VERIFY_B: checks 1 to 10 of R86 (DESIGN CHOICE: whether "the full check of the slot as at start"
takes in the group-2 sections, which R89 checks after the start, is open). After an NVM error it is the first failing check whose
data had been read, 1 if there is none; how much had been read is open. -/
def verifyReason (f : Fuses) (slot : Nat) (error : Bool) (d : Dev) : Nat :=
  if !error then imageReason d f slot 10 wholeSlot
  else match imageReason d f slot 10 (Config.freeNat d.free 4) with
    | 0 => 1
    | r => r

/-- What a command does to the buffer or the NVM. After an NVM error, what the page, the sector or the buffer holds is open. -/
def nvmPerform (f : Fuses) (code a : Nat) (error : Bool) (d : Dev) : Dev :=
  match code, error with
  | 1, false => nvmBufSet (readBytes (nvmByte d) a 256) d
  | 1, true => tick (nvmBufSet ((List.range 256).map (fun i => Config.freeByte d.free i)) d)
  | 2, false => writeBytes setNvm a (nvmBuf d) d
  | 2, true => nvmUndefined a 256 d
  | 3, false => nvmErase a d
  | 3, true => nvmUndefined a 0x10000 d
  | k, e => tick (sg .nvm Reg.Nvm.NVM_VERIFY (BitVec.ofNat 32 (verifyReason f (k - 4) e d)) d)

/-- NVM_CMD_DONE: the command in progress ends; a Cairn export that waited for it starts. -/
def doNvmCmdDone (f : Fuses) (error : Bool) (d : Dev) : Dev :=
  match d.nvmc.cmd with
  | none => d
  | some (code, a) =>
    if d.nvmc.waits || isoOf d .nvm then d
    else
      let d := nvmPerform f code a error d
      let d := nvmStat false false code (if error then 3 else 0) { d with nvmc := {} }
      cairnExportDue (event .nvm Reg.Nvm.EV_DONE d)
def execNvmCmdDone (error : Bool) (s : State) := onDev (doNvmCmdDone s.fuses error) s

/-- NVM_CMD_RESUME: the export has ended, and the waiting command runs. -/
def doNvmCmdResume (d : Dev) : Dev :=
  if d.nvmc.waits = false ∨ d.cairn.exporting.isSome = true then d
  else sb .nvm Reg.Nvm.NVM_STAT 1 false { d with nvmc := { d.nvmc with waits := false } }
def execNvmCmdResume (s : State) := onDev doNvmCmdResume s

end Sys2Proof.Machine
end

