-- ==== Sys2Proof/Machine/Operands.lean ====
section
/-! DEFINITION. The operand forms of a register access: how a party's address names a page (R34, R38, R40), which slot of the
page an offset reaches (R50–R52), and what a window page passes on (R437–R439). -/
namespace Sys2Proof.Machine

/-! ## Where an access lands -/

/-- Where an access of a party goes: an address that falls in no page, a part of a BAR that maps nothing, or a page (R34,
R38, R40). -/
inductive Land where
  | unmapped
  | nothing
  | page (p : Page)
deriving DecidableEq, Repr

/-- An address is internal for the two worlds, an offset in BAR0 of its function for a manager and for a paddock. -/
def landOf (who : Party) (a : Nat) : Land :=
  match who with
  | .manager _ =>
    if a < 0x10000 then .page (.padg (a / 0x1000))
    else if 0x1000000 ≤ a ∧ a < 0x3000000 then .page (.pset ((a - 0x1000000) / 0x10000) (a / 0x1000 % 16))
    else .nothing
  | .paddock q => if a < 0x10000 then .page (.pset q.val (a / 0x1000)) else .nothing
  | _ => match pageOf a with | some p => .page p | none => .unmapped

/-- The slot that an access to an offset reaches: offset bits [9:2], with the highest set bits cleared until the slot holds
a register (R50, R51). Clearing the highest set bits leaves the remainders by falling powers of two. -/
def slotOffset (p : Page) (o : Nat) : Nat :=
  4 * (((List.range 9).map (fun i => o / 4 % 256 % 2 ^ (8 - i))).find? (fun s => (p.row? (4 * s)).isSome)).getD 0

/-- What an access to a page reaches: a register, or a page whose ACCESS_REFUSED it raises. -/
inductive Aim where
  | at_ (p : Page) (o : Nat)
  | refused (p : Page)
  | lost
deriving DecidableEq, Repr

/-- A window page holds slot 0 of its own, and through its other slots the leased page is reached, under that page's
rules (R438). To a manager a leased page gives what R45 gives to any party, HOLD alone, and a paddock of the other port is
refused in its own MGR page (R39, R439). -/
def aimAt (d : Dev) (who : Party) (p : Page) (o : Nat) : Aim :=
  if !p.isWindow then .at_ p (slotOffset p o)
  else match p with
    | .pset q k =>
      match who with
      | .manager u =>
        if portOf d q = some (1 - u.val) then .refused (.padg u.val)
        else match windowTarget d q k with
          | some r => if o / 4 % 256 = 0 then .refused (.pset q 0) else .at_ r (slotOffset r o)
          | none => .refused (.pset q 0)
      | _ =>
        if (match who with | .paddock _ => decide (padState d q = 0) | _ => false) then .lost
        else if o / 4 % 256 = 0 then .at_ p 0
        else match windowTarget d q k with
          | some r => .at_ r (slotOffset r o)
          | none => .refused (.pset q 0)
    | _ => .lost

end Sys2Proof.Machine
end

