-- ==== Sys2Proof/Machine/Bus.lean ====
section
/-! DEFINITION. The register bus: where an access lands (R34–R40, R50–R52, R437–R439), the access types of the common
header (R41–R60), parity (R61–R64), and what a write or a read of each register does, by the meanings of its chapter. -/
namespace Sys2Proof.Machine

/-- An access of a control core or a debugger to no page (R35, R36). -/
def unmapped (fold wr : Bool) (a : Nat) (d : Dev) : Dev :=
  let d := bumpSat (.sys 0) Reg.Sys0.UNMAPPED_INFO 29 16 (sg (.sys 0) Reg.Sys0.UNMAPPED_ADDR (BitVec.ofNat 32 a) d)
  let d := sf (.sys 0) Reg.Sys0.UNMAPPED_INFO 31 30 (2 * wr.toNat + fold.toNat) d
  raiseFault (.sys 0) Reg.Sys0.SRC_UNMAPPED_ACCESS Reg.Sys0.EV_UNMAPPED
    (sf (.sys 0) Reg.Sys0.UNMAPPED_INFO 11 0 ((!fold).toNat * 1024) d)

/-- A register is of access type `t`. -/
def accIs (p : Page) (o : Nat) (t : Acc) : Bool := match p.row? o with | some r => r.acc == t | none => false

/-- A register without behaviour of its own takes the value by its access type (R53). -/
def typedWrite (p : Page) (o : Nat) (v : Word) (d : Dev) : Dev :=
  if accIs p o .rwl then lockedWrite p o v d else plainWrite p o v d

/-- The word that holds the fields of a register: the register, or what its page's selector names. -/
def storedWord (d : Dev) (p : Page) (o : Nat) : Word :=
  let as := fun pad =>
    let s := asOf d (asSel d pad)
    if o = Reg.Aud2.AS_CFG then s.cfg else if o = Reg.Aud2.AS_RING_LO then s.lo else if o = Reg.Aud2.AS_RING_HI then s.hi
    else if 0x100 ≤ o then BitVec.ofNat 32 (asOf d ((o - 0x100) / 4)).own else rg d p o
  match p with
  | .aud 1 =>
    let s := routeS d (routeSel d)
    if o = Reg.Aud1.ROUTE_CFG then s.cfgS else if o = Reg.Aud1.ROUTE_GAIN then s.gainS else rg d p o
  | .aud 2 => as none
  | .pset q 13 => as (some q)
  | p => rg d p o

/-- A write that has taken effect leaves fresh parity (R61), also where the meaning stores the value by other means than
`plainWrite`. -/
def freshParity (p : Page) (o : Nat) (v : Word) (d : Dev) : Dev :=
  if tabGet (fun _ => 0) d.upset (p.base + o) != 0 && (storedWord d p o &&& BitVec.ofNat 32 (maskOf p o)) == (v &&& BitVec.ofNat 32 (maskOf p o))
  then { d with upset := tabSet (fun _ => 0) d.upset (p.base + o) 0 } else d

/-! ## Guarded pairs (R14, R15, R44, R59, R60) -/

/-- OWNER.KIND and OWNER.TAG of a value. -/
def ownerBits (v : Word) : Nat := ownerCode (fld v 17 16) (fld v 9 0)

/-- Parties that the spec lets own no page of a kind: another than the Fold part a fold pipe, and a paddock a writeback engine
(R112, R159). -/
def ownerBad (p : Page) (v : Word) : Bool :=
  match p with
  | .pipe n => decide (n < 8) && decide (ownerBits v / 65536 ≠ 0)
  | .wb _ => ownerBits v / 65536 == 3
  | _ => false

/-- An effective write of OWNER (R43, R44): refused while LOCK is set, and as a whole from a party other than the Fold world
that changes KIND or TAG. LOCK is set by a 1. -/
def ownerTake (who : Party) (p : Page) (v : Word) (d : Dev) : Dev :=
  if rb d p Reg.OWNER 31 || (who != .fold && ownerBits v != ownerOf d p) || ownerBad p v then accessRefused p d
  else
    let d := plainWrite p Reg.OWNER v d
    match p with
    | .stream n => dwFollow n d
    | _ => d

/-- A class given outside a source's range is recorded (R14). A source that the page does not define has none. -/
def classRecord (p : Page) (v : Word) (src : Nat) (d : Dev) : Dev :=
  let code := fld v (3 * src + 2) (3 * src)
  let used := p.adjustClass src code
  if (p.source src).isSome && used != code then
    cairnPut (cairnNow d p.code src 0 2 (chargeState d) (chargeState d) 0xFFFF code used) d
  else d

/-- FAULT_CLASS with each source's class in its range. -/
def classFit (p : Page) (v : Word) : Word :=
  BitVec.ofNat 32 ((List.range 8).foldl (fun a s => a + p.adjustClass s (fld v (3 * s + 2) (3 * s)) * 8 ^ s) 0)

/-- An effective write of FAULT_CLASS: adjusted, for the next occurrence of each fault, and after the restart of a block
that is isolated (R14, R15, R47). -/
def classTake (p : Page) (v : Word) (d : Dev) : Dev :=
  let d := forN (classRecord p v) 8 d
  if isoOf d p then { d with classDefer := tabSet (fun _ => none) d.classDefer p.base (some (classFit p v)) }
  else plainWrite p Reg.FAULT_CLASS (classFit p v) d

/-- The value of a completed guarded pair takes effect (R59). -/
def gpTake (p : Page) (g : GpPend) (d : Dev) : Dev :=
  if g.off = Reg.OWNER then ownerTake g.party p g.val d
  else if g.off = Reg.FAULT_CLASS then classTake p g.val d
  else if p = .wld 0 ∧ g.off = Reg.Wld0.DRAM_FOLD then freshParity p g.off g.val (foldRaise false g.val d)
  else if p = .wld 0 ∧ g.off = Reg.Wld0.PASTURE_FOLD then freshParity p g.off g.val (foldRaise true g.val d)
  else plainWrite p g.off g.val d

/-- A write of GUARD: the complement of the pending value makes it effective; any other value, or none pending, fails
(R59). -/
def guardTake (p : Page) (v : Word) (d : Dev) : Dev :=
  match tabGet (fun _ => none) d.gp p.base with
  | none => guardFail p d
  | some g =>
    let d := { d with gp := tabSet (fun _ => none) d.gp p.base none }
    if v = ~~~g.val then gpTake p g d else guardFail p d

/-- A GUARD write on the bus: it is the one access that does not intervene in the pair it completes. -/
def guardWrite (who : Party) (p : Page) (v : Word) (d : Dev) : Dev :=
  if routeOf d who p = .direct ∧ (p.onDale && daleAbsent d) = false ∧ blkDead d p true = false ∧
      mayAccess d p who Reg.GUARD true = true then guardTake p v d
  else onWrite who p Reg.GUARD id d

/-! ## What a write does, by page -/

/-- A choice by the index of a register in a run of `n` registers from `base` at distance `stride`. -/
def inRun {α : Type} (base stride n o : Nat) (f : Nat → α) (e : α) : α :=
  if base ≤ o ∧ (o - base) % stride = 0 ∧ (o - base) / stride < n then f ((o - base) / stride) else e

def sysWrite (who : Party) (k o : Nat) (v : Word) : Dev → Dev :=
  if k = 1 ∧ o = Reg.Sys1.BLK_REQ then blkReq who v
  else if k = 2 ∧ o = Reg.Sys2.SUP_CFG then supCfg v
  else if k = 3 then (if o = Reg.Sys3.GPIO_EDGE_CLR then gpioClr v else gpioWrite o v)
  else typedWrite (.sys k) o v

/-- SHEP_THRESH clamps LEAD_MIN to 2–63, and HOLD_CYC and O_DELAY to 1–255 (R154). -/
def shepClamp (v : Word) : Word :=
  setFld (setFld (setFld v 5 0 (clampN 2 63 (fld v 5 0))) 23 16 (max 1 (fld v 23 16))) 31 24 (max 1 (fld v 31 24))

/-- A write to the compositor page (R151, R152, R170). DESIGN CHOICE: after a write of LUT_SEL or LUT_INDEX the next LUT_DATA word is
the first of an entry. -/
def cmpWrite (o : Nat) (v : Word) : Dev → Dev :=
  if o = Reg.Cmp.LUT_DATA then lutWrite v
  else if o = Reg.Cmp.LUT_SEL ∨ o = Reg.Cmp.LUT_INDEX then fun d => { plainWrite .cmp o v d with lutHalf := false }
  else inRun (Reg.Cmp.COLOUR_CTRL 0) 64 8 o (fun h => colourCtrl h v)
    (inRun (Reg.Cmp.SHEP_THRESH 0) 64 8 o (fun _ => plainWrite .cmp o (shepClamp v)) (plainWrite .cmp o v))

def camWrite (o : Nat) (v : Word) : Dev → Dev :=
  inRun (Reg.Cam.CSI_CTRL 0) 32 4 o (fun p => csiCtrl p v)
    (fun d => if csiOn d ((o - 0x040) / 32) then d else plainWrite .cam o v d)

/-- While a stream is on, few of its registers take a write (R225). -/
def streamWrite (who : Party) (n o : Nat) (v : Word) (d : Dev) : Dev :=
  if o = Reg.Stream.STREAM_CTRL then streamCtrl who n v d
  else if !(streamOf d n).on || o = Reg.Stream.SYNC_DELAY || o = Reg.Stream.FROZEN_N then plainWrite (.stream n) o v d
  else if o = Reg.Stream.DRAM_BUF then plainWrite (.stream n) o (setFld (rg d (.stream n) o) 11 8 (fld v 11 8)) d
  else d

def chkRegWrite (h o : Nat) (v : Word) : Dev → Dev :=
  if o = Reg.Chk.CHK_COMMIT then chkWrite h v
  else if o = Reg.Chk.FAIL_CLEAR then failClear h v
  else plainWrite (.chk h) o v

/-- A register of the ring block of ring `k` (R356). -/
def ringWrite (k o : Nat) (v : Word) : Dev → Dev :=
  if o = ringBase k + Reg.Ring.RING_CFG then ringCfg k v
  else if o = ringBase k + Reg.Ring.RING_RPTR then ringRptr k v
  else plainWrite (ringPage k) o v

def tchWrite (o : Nat) (v : Word) : Dev → Dev :=
  if o = Reg.Tch.TCH_CTRL then tchCtrl v else if o < 0x060 then ringWrite 0 o v else ringWrite 1 o v

def panelWrite (who : Party) (n o : Nat) (v : Word) : Dev → Dev :=
  if o = Reg.Panel.PANEL_CTRL then panelCtrl n v
  else inRun 0x100 4 64 o (fun r => regionWrite who n r 0 v)
    (inRun 0x200 4 64 o (fun r => regionWrite who n r 1 v)
      (inRun 0x300 4 64 o (fun r => regionWrite who n r 2 v)
        (fun d => if (o = Reg.Panel.PANEL_SIZE ∨ o = Reg.Panel.PANEL_SCAN) ∧ panelOn d n = true then d else plainWrite (.panel n) o v d)))

def keyWrite (o : Nat) (v : Word) : Dev → Dev :=
  if o = Reg.Key0.KEY_CTRL then keyCtrl v
  else inRun (Reg.Key0.KEY_CFG 0) 4 48 o (fun k => keyCfg k v) (plainWrite (.key 0) o v)

def hapWrite (nF o : Nat) (v : Word) : Dev → Dev :=
  if o = Reg.Hap.HAP_CTRL then hapCtrl v
  else if o = Reg.Hap.BST_CTRL0 then boostCtrl 0 v
  else if o = Reg.Hap.BST_CTRL1 then boostCtrl 1 v
  else inRun (Reg.Hap.CH_CFG 0) 4 16 o (fun n => chCfg n v nF) (plainWrite (.hap 0) o v)

def trigPageWrite (who : Party) (pad : Option Nat) (o : Nat) (v : Word) : Dev → Dev :=
  inRun (Reg.Trig.TRIG 0) 4 16 o (fun n => trigWrite who pad n v) id

/-- The tenant-stream page, of the Field part or of a paddock (R428). -/
def asWrite (who : Party) (pad : Option Nat) (o : Nat) (v : Word) (d : Dev) : Dev :=
  let n := asSel d pad
  if o = Reg.Aud2.AS_CFG then asReach who pad n (asCfgIn who pad n v) d
  else if o = Reg.Aud2.AS_RING_LO ∨ o = Reg.Aud2.AS_RING_HI then asReach who pad n (asRing o n v) d
  else inRun (Reg.Aud2.AS_PTR 0) 4 64 o (fun k => asReach who pad k (modAs k (fun s => { s with own := fld v 15 0 })))
    (plainWrite (asPageOf pad) o v) d

def audWrite (who : Party) (k o : Nat) (v : Word) : Dev → Dev :=
  match k with
  | 0 =>
    if o = Reg.Aud0.AUD_CTRL then audCtrl v
    else inRun (Reg.Aud0.DOMAIN_CFG 0) 4 3 o (fun n => domCfg n v)
      (inRun (Reg.Aud0.TDM_CFG 0) 8 4 o (fun n => tdmCfg n v) (plainWrite (.aud 0) o v))
  | 1 =>
    if o = Reg.Aud1.ROUTE_CFG ∨ o = Reg.Aud1.ROUTE_GAIN then routeStage o v
    else if o = Reg.Aud1.ROUTE_COMMIT then routeCommit who v
    else inRun (Reg.Aud1.BUS_CFG 0) 4 32 o (fun b => busCfg b v) (plainWrite (.aud 1) o v)
  | 2 => asWrite who none o v
  | _ => plainWrite (.aud k) o v

def afeWrite (k o : Nat) (v : Word) : Dev → Dev :=
  if k = 0 then
    if o = Reg.Afe0.AFE_CTRL then afeCtrl v
    else inRun (Reg.Afe0.SPK_CFG 0) 4 4 o (fun n => spkCfg n v) (plainWrite (.afe 0) o v)
  else if o = Reg.Afe1.ST_APPLY then stApply v else plainWrite (.afe k) o v

/-- A copy-queue register at an offset within its block (R470). -/
def cqWrite (who : Party) (q o : Nat) (v : Word) : Dev → Dev :=
  if o = Reg.Cq.CQ_CFG then cqCfg q v else if o = Reg.Cq.CQ_WPTR then cqBell who q v else cqBaseWrite q o v

/-- A page of MSI-X tables (R466). -/
def msixWrite (fn o : Nat) (v : Word) : Dev → Dev :=
  inRun (Reg.MSIX_CTRL 0) 16 32 o (fun k => msixCtrl fn k v) (plainWrite (msixPage fn) o v)

def padgWrite (who : Party) (k o : Nat) (v : Word) : Dev → Dev :=
  if k < 2 then
    if o = Reg.Mgr.MGR_CMD then mgrCmd k (fld v 7 0)
    else if o = Reg.Mgr.MGR_CFG then plainWrite (.padg k) o (setFld v 9 0 (clampN 10 1000 (fld v 9 0)))
    else if 0x070 ≤ o ∧ o ≤ 0x088 then cqWrite who k (o - 0x070) v
    else plainWrite (.padg k) o v
  else if k = 2 then (if o = Reg.Pool.FOT_CMD then fotCmd v else plainWrite (.padg k) o v)
  else msixWrite (k - 14) o v

def psetWrite (who : Party) (p k o : Nat) (v : Word) : Dev → Dev :=
  match k with
  | 0 => if 0x060 ≤ o then cqWrite who (2 + p) (o - 0x060) v else plainWrite (.pset p 0) o v
  | 1 =>
    if o = Reg.Gate.UP_WPTR then gateBell p gateUp v
    else if o = Reg.Gate.DOWN_WPTR then gateBell p gateDown v
    else if o = Reg.Gate.UP_RPTR then gateFree p gateUp v
    else if o = Reg.Gate.DOWN_RPTR then gateFree p gateDown v
    else gateSlotWrite p o v
  | 11 => ringWrite (2 + p) o v
  | 12 => trigPageWrite who (some p) o v
  | 13 => asWrite who (some p) o v
  | 15 => msixWrite (2 + p) o v
  | _ => id

/-- SDG_REQ: RELEASE in bit 31 names an entry, and without it a code is requested (R538). -/
def sdgWrite (v : Word) : Dev → Dev :=
  if bitOf v 31 then releaseRequest (fld v 15 0) else foldRequest (fld v 7 0)

/-- CRN_CMD (R540). -/
def crnWrite (k o : Nat) (v : Word) : Dev → Dev :=
  if k = 0 ∧ o = Reg.Crn0.CRN_CMD then
    match fld v 2 0 with
    | 1 => crnTakes cairnFreeze
    | 2 => crnTakes cairnUnfreeze
    | 3 => crnTakes cairnExport
    | 4 => crnTakes cairnNote
    | _ => id
  else plainWrite (.crn k) o v

/-- A CAN page: the bit timing is fixed while the controller is enabled (R527, R541). -/
def canWrite (seen : Bool) (n o : Nat) (v : Word) : Dev → Dev :=
  if o = Reg.Can.CAN_CTRL then canCtrl n v
  else if o = Reg.Can.TX_CMD then txCmd n v seen
  else if o = Reg.Can.RX_POP then rxPopWrite n v
  else fun d =>
    if (o = Reg.Can.CAN_TIMING ∨ o = Reg.Can.CAN_SAMPLE) ∧ rb d (.can n) Reg.Can.CAN_CTRL 0 = true then d
    else plainWrite (.can n) o v d

def tlyWrite (k o : Nat) (v : Word) : Dev → Dev :=
  if k = 0 then (if o = Reg.Tly0.GLB_CTRL then glbCtrl v else plainWrite (.tly 0) o v)
  else if k = 3 then (if o = Reg.Tly3.SMP_POP then smpPopWrite v else plainWrite (.tly 3) o v)
  else inRun (Reg.Tly1.COUNT_LO 0) 8 64 o (fun i => countLoHold (64 * (k - 1) + i) v)
    (inRun (Reg.Tly1.COUNT_HI 0) 8 64 o (fun i => countHiLoad (64 * (k - 1) + i) v) id)

/-- What a write to a register beyond the header does. `sense` is what the write's own effect measures: the load that an
enabled haptic channel finds, in nF, or not 0 where a CAN controller sees its own start-of-frame. -/
def pageWrite (who : Party) (sense : Nat) (p : Page) (o : Nat) (v : Word) : Dev → Dev :=
  match p with
  | .sys k => sysWrite who k o v
  | .nvm => if o = Reg.Nvm.NVM_CMD then nvmCmd v else plainWrite .nvm o v
  | .pipe i => if o = Reg.Pipe.COMMIT then commitWrite who i v else pipeRegWrite i o v
  | .cmp => cmpWrite o v
  | .wb k => if o = Reg.Wb.WB_ARM then wbArm k v else plainWrite (.wb k) o v
  | .head h => headRegWrite h o v
  | .port n =>
    if o = Reg.Port.PORT_CTRL then portCtrl n v else if o = Reg.Port.AUX_CMD then auxCmdWrite n v else plainWrite (.port n) o v
  | .cam => camWrite o v
  | .stream n => streamWrite who n o v
  | .dw e => if o = Reg.Dw.DW_APPLY then dwApply e v else plainWrite (.dw e) o v
  | .gpu => gpuRegWrite o v
  | .ctx n => ctxRegWrite who n o v
  | .chk h => chkRegWrite h o v
  | .tch => tchWrite o v
  | .panel n => panelWrite who n o v
  | .lg n => if o = Reg.Lg.LG_CTRL then lgCtrl n v else plainWrite (.lg n) o v
  | .key 0 => keyWrite o v
  | .hap 0 => hapWrite sense o v
  | .hap _ => trigPageWrite who none o v
  | .aud k => audWrite who k o v
  | .afe k => afeWrite k o v
  | .padg k => padgWrite who k o v
  | .pset q k => psetWrite who q k o v
  | .wld 0 => if o = Reg.Wld0.WLD_CTRL then wldCtrl v else typedWrite (.wld 0) o v
  | .lcs => if o = Reg.Lcs.TAMPER_CLEAR then tamperClearWrite v else typedWrite .lcs o v
  | .sdg => sdgWrite v
  | .crn k => crnWrite k o v
  | .can n => canWrite (sense != 0) n o v
  | .pst 0 => if o = Reg.Pst0.PST_CTRL then pstCtrl v else plainWrite (.pst 0) o v
  | .pst 1 => inRun (Reg.Pst1.BANK_MODE 0) 4 4 o (fun i => bankModes who i v) (plainWrite (.pst 1) o v)
  | .drc 0 =>
    if o = Reg.Drc0.MR_CMD then mrWrite v else if o = Reg.Drc0.DRC_CTRL then drcCtrl v else plainWrite (.drc 0) o v
  | .drv 0 => if o = Reg.Drv0.DRV_CTRL then drvCtrl v else plainWrite (.drv 0) o v
  | .tly k => tlyWrite k o v
  | p => typedWrite p o v

/-- What a write that has passed its checks does, by the access type of the register (R41, R53). -/
def regWrite (who : Party) (sense : Nat) (p : Page) (o : Nat) (v : Word) : Dev → Dev :=
  match p.row? o with
  | none => id
  | some r =>
    match r.acc with
    | .ro => (match p with | .ctx n => ctxReadOnly n o | _ => id)
    | .sq => sqWrite p o v
    | .gp => gpWrite who p o v
    | _ =>
      if o = Reg.EVENT_EN then withIrq p (plainWrite p o v)
      else if o = Reg.HOLD then fun d => freshParity p o v (holdSet p (bitOf v 0) d)
      else fun d => freshParity p o v (pageWrite who sense p o v d)

/-! ## What a read gives -/

/-- A register value read without a side effect. -/
def plainRead (p : Page) (o : Nat) (d : Dev) : Word × Dev := (rg d p o, d)

/-- The record that CRN_RD_SEQ names, if Cairn holds it (R536, R540). -/
def cairnRead (d : Dev) : Option CairnRec :=
  d.cairn.ring.find? (fun r => r.seq == (rg d (.crn 1) Reg.Crn1.CRN_RD_SEQ).toNat)

def crnRead (o : Nat) (d : Dev) : Word :=
  if o = Reg.Crn1.CRN_RD_STAT then (if (cairnRead d).isSome then 1 else 0)
  else inRun (Reg.Crn1.CRN_RD_DATA 0) 4 8 o
    (fun i => match cairnRead d with
      | some r => BitVec.ofNat 32 (leNat ((r.bytes.drop (4 * i)).take 4))
      | none => 0)
    (rg d (.crn 1) o)

/-- A read of a paddock's tenant-stream page that names a stream not leased to it (R422). -/
def asForeign (q o : Nat) (d : Dev) : Bool :=
  let sel := decide (o = Reg.Aud2.AS_CFG ∨ o = Reg.Aud2.AS_RING_LO ∨ o = Reg.Aud2.AS_RING_HI ∨ o = Reg.Aud2.AS_STAT ∨ o = Reg.Aud2.AS_COUNT)
  (sel && asPad d (asSel d (some q)) != some q) ||
    inRun (Reg.Aud2.AS_PTR 0) 4 64 o (fun n => asPad d n != some q) false

/-- The registers of a tenant-stream page; a paddock reads 0 of a stream that is not leased to it. -/
def asRead (pad : Option Nat) (o : Nat) (d : Dev) : Word :=
  let see := fun n => match pad with | some p => asPad d n == some p | none => true
  let s := asOf d (asSel d pad)
  let w := if o = Reg.Aud2.AS_CFG then some s.cfg else if o = Reg.Aud2.AS_RING_LO then some s.lo
    else if o = Reg.Aud2.AS_RING_HI then some s.hi else if o = Reg.Aud2.AS_STAT then some (asStat s)
    else if o = Reg.Aud2.AS_COUNT then some (asCount s) else none
  match w with
  | some w => if see (asSel d pad) then w else 0
  | none => inRun (Reg.Aud2.AS_PTR 0) 4 64 o (fun n => if see n then asPtr (asOf d n) else 0) (rg d (asPageOf pad) o)

def routeRead (o : Nat) (d : Dev) : Word :=
  let s := routeS d (routeSel d)
  if o = Reg.Aud1.ROUTE_CFG then s.cfgS else if o = Reg.Aud1.ROUTE_GAIN then s.gainS
  else if o = Reg.Aud1.ROUTE_STAT then routeStat d (routeSel d) else rg d (.aud 1) o

def mgrRead (u o : Nat) (d : Dev) : Word :=
  if o = Reg.Mgr.MGR_STAT then mgrStat d u
  else if o = Reg.Mgr.MGR_RANGE then mgrRange d u
  else if o = Reg.Mgr.MGR_QUOTA then BitVec.ofNat 32 (d.pad.quota % 2 ^ 15)
  else if o = Reg.Mgr.FOT_DATA then mgrFotData d u
  else if o = Reg.Mgr.PMAP_DATA then mgrPmapData d u
  else rg d (.padg u) o

def tlyRead (k o : Nat) (d : Dev) : Word × Dev :=
  if k = 0 then (if o = Reg.Tly0.GLB_STAT then (glbStat d, d) else plainRead (.tly 0) o d)
  else if k = 3 then plainRead (.tly 3) o d
  else inRun (Reg.Tly1.COUNT_LO 0) 8 64 o (fun i => countLo (64 * (k - 1) + i))
    (inRun (Reg.Tly1.COUNT_HI 0) 8 64 o (fun i => countHi (64 * (k - 1) + i)) (plainRead (.tly k) o)) d

/-- What a read of a register beyond the header gives and does. -/
def pageRead (who : Party) (p : Page) (o : Nat) (d : Dev) : Word × Dev :=
  match p with
  | .sys 1 => (if o = Reg.Sys1.BLK_STAT then blkStat d else rg d p o, d)
  | .sys 2 => (if o = Reg.Sys2.CLK_STAT then clkStat d else rg d p o, d)
  | .sys 3 => (if o = Reg.Sys3.GPIO_IN then gpioIn d else rg d p o, d)
  | .pipe i =>
    (if o = Reg.Pipe.COMMIT_SEQ then BitVec.ofNat 32 (commitSeq d i)
     else if o = Reg.Pipe.RELEASED_SEQ then BitVec.ofNat 32 (releasedSeq d i)
     else if o = Reg.Pipe.LAYER_STAT then layerStat d i else rg d p o, d)
  -- The place of scan-out within its line is a matter of time, and open (R207).
  | .head h =>
    if o = Reg.Head.LINE_POS ∧ (headOf d h).run = true then
      (setFld (rg d p o) 13 0 (Config.freeNat d.free 5 % max 1 (hTotal d h)), tick d)
    else plainRead p o d
  | .cmp =>
    if o = Reg.Cmp.LUT_DATA then lutRead d
    else (inRun (Reg.Cmp.LAYER_COUNT 0) 64 8 o (fun h => BitVec.ofNat 32 (layerCount d h)) (rg d p o), d)
  | .chk h => (inRun (Reg.Chk.WIN_STAT 0) 4 16 o (winStat d h) (rg d p o), d)
  | .tch => (if o = Reg.Tch.TCH_TIME then BitVec.ofNat 32 (tchTime d) else rg d p o, d)
  | .hap 0 =>
    if o = Reg.Hap.WH_DATA then (whData d, tick (bump (.hap 0) Reg.Hap.WH_SEL 30 16 d))
    else (if o = Reg.Hap.WH_INFO0 then (whInfo d).1 else if o = Reg.Hap.WH_INFO1 then (whInfo d).2 else rg d p o, d)
  | .aud 1 => (routeRead o d, d)
  | .aud 2 => (asRead none o d, d)
  | .padg 2 => (if o = Reg.Pool.FOT_DATA then fotGet d (rf d p Reg.Pool.FOT_INDEX 13 0) else rg d p o, d)
  | .padg k => (if k < 2 then mgrRead k o d else rg d p o, d)
  | .pset q 0 => if o = Reg.Pad.PAD_STAT then padStatRead who q d else plainRead p o d
  | .pset q 13 => (asRead (some q) o d, when (asForeign q o d) (accessRefused (.pset q 13)) d)
  | .wld 0 =>
    (if o = Reg.Wld0.FOLD_CLAIM then claim d 0 else if o = Reg.Wld0.CORE_WORLD then coreWorld d else rg d p o, d)
  | .wld 1 =>
    (if o = Reg.Wld1.FIELD_CLAIM then claim d 1
     else if o = Reg.Wld1.DRAM_LINE then rg d (.wld 0) Reg.Wld0.DRAM_FOLD
     else if o = Reg.Wld1.PASTURE_LINE then rg d (.wld 0) Reg.Wld0.PASTURE_FOLD
     else inRun (Reg.Wld1.HELD_MAP 0) 4 8 o (heldMap d) (rg d p o), d)
  | .crn 1 => (crnRead o d, d)
  | .drc 0 => (if o = Reg.Drc0.DRC_STAT then drcStatRead d else rg d p o, d)
  | .drc 2 => (if o = Reg.Drc2.ISO_RES then isoResRead d else rg d p o, d)
  | .pwr =>
    if o = Reg.Pwr.RAIL_MEAS then
      (railMeas d, modRail (rf d .pwr Reg.Pwr.RAIL_SEL 3 0) (fun r => { r with low := r.now }) d)
    else
      (if o = Reg.Pwr.RAIL_STAT then railStat d else if o = Reg.Pwr.RAIL_COUNT then railCount d
       else if o = Reg.Pwr.PWR_FLAGS then pwrFlags d else rg d p o, d)
  | .tly k => tlyRead k o d
  | p => plainRead p o d

/-- What a read that has passed its checks gives: WO registers read 0, a GP register its effective value (R53, R60). -/
def regRead (who : Party) (p : Page) (o : Nat) (d : Dev) : Word × Dev :=
  match p.row? o with
  | none => (0, d)
  | some r =>
    if r.acc = .wo then (0, d)
    else if o = Reg.HOLD then (holdRead d p, d)
    else if o < 0x024 then plainRead p o d
    else pageRead who p o d

/-! ## Accesses -/

/-- An access that is refused whatever register it lands on: a narrow write, or one that a window cannot pass on (R37,
R438, R439). It has reached its page, and intervenes in a pair pending there. -/
def barred (who : Party) (p : Page) (wr : Bool) (d : Dev) : Dev :=
  match routeOf d who p with
  | .direct =>
    if p.onDale && daleAbsent d then daleAbsentEvent d
    else if blkDead d p wr then d
    else accessRefused p (gpIntervene p d)
  | .unleased q => accessRefused (.pset q 0) d
  | .otherPort u => accessRefused (.padg u) d
  | _ => d

/-- A write of one 32-bit word by a party at an address; `only` says which registers the command is about. -/
def writeWord (who : Party) (only : Page → Nat → Bool) (sense a : Nat) (v : Word) (d : Dev) : Dev :=
  match landOf who a with
  | .unmapped => unmapped (who == .fold) true a d
  | .nothing => d
  | .page p =>
    match aimAt d who p (a % 0x1000) with
    | .lost => d
    | .refused r => accessRefused r d
    | .at_ r o =>
      if !only r o then d
      else if o = Reg.GUARD then guardWrite who r v d
      else onWrite who r o (regWrite who sense r o v) d

/-- A read of one 32-bit word by a party at an address; the answer stands in `resp`. -/
def readWord (who : Party) (a : Nat) (d : Dev) : Dev :=
  match landOf who a with
  | .unmapped => { unmapped (who == .fold) false a d with resp := 0 }
  | .nothing => { d with resp := 0 }
  | .page p =>
    match aimAt d who p (a % 0x1000) with
    | .lost => { d with resp := 0 }
    | .refused r => { accessRefused r d with resp := 0 }
    | .at_ r o => onRead who r o (regRead who r o) d

/-- A write narrower than a word is dropped, and refused by the page it lands on (R37). -/
def narrowWrite (who : Party) (a : Nat) (d : Dev) : Dev :=
  match landOf who a with
  | .unmapped => unmapped (who == .fold) true a d
  | .nothing => d
  | .page p =>
    match aimAt d who p (a % 0x1000) with
    | .lost => d
    | .refused r => accessRefused r d
    | .at_ r _ => barred who r true d

/-- A write of a width (R37): 64 bits at a multiple of 8 are two words, the lower first. -/
def busWrite (who : Party) (a : Nat) (w : Width) (v : BitVec 64) (sense : Nat) (d : Dev) : Dev :=
  let all := fun _ _ => true
  match w with
  | .b1 => narrowWrite who a d
  | .b2 => narrowWrite who a d
  | .b4 => writeWord who all sense a (v.setWidth 32) d
  | .b8 =>
    let d := writeWord who all sense a (v.setWidth 32) d
    if a % 8 = 0 then writeWord who all sense (a + 4) ((v >>> 32).setWidth 32) d else d

/-- A read of a width (R37): the addressed bytes of the word, or two words. -/
def busRead (who : Party) (a : Nat) (w : Width) (d : Dev) : Dev :=
  let d := readWord who a d
  match w with
  | .b1 => { d with resp := (d.resp >>> (8 * (a % 4))) &&& 0xFF }
  | .b2 => { d with resp := (d.resp >>> (16 * (a % 4 / 2))) &&& 0xFFFF }
  | .b4 => d
  | .b8 =>
    if a % 8 = 0 then
      let lo := d.resp
      let d := readWord who (a + 4) d
      { d with resp := (d.resp <<< 32) ||| lo }
    else d

/-! ## The commands -/

/-- REGISTER_WRITE. -/
def execRegisterWrite (who : Party) (addr : BitVec 32) (w : Width) (v : BitVec 64) (sense : Nat) (s : State) :=
  onDev (busWrite who addr.toNat w v sense) s

/-- UNMAPPED_ACCESS; an address that falls in a page is none. -/
def doUnmapped (fold wr : Bool) (a : Nat) (d : Dev) : Dev :=
  if (pageOf a).isSome then d
  else
    let d := unmapped fold wr a d
    if wr then d else { d with resp := 0 }
def execUnmappedAccess (fold write : Bool) (addr : BitVec 32) (s : State) := onDev (doUnmapped fold write addr.toNat) s

/-- SEQUENCE_CLEAR: a write that lands on EVENT or PARITY_STAT. -/
def execSequenceClear (who : Party) (addr : BitVec 32) (v : Word) (s : State) :=
  onDev (writeWord who (fun _ o => o == Reg.EVENT || o == Reg.PARITY_STAT) 0 addr.toNat v) s

/-- GP_WRITE: a write that lands on a GP register. -/
def execGpWrite (who : Party) (addr : BitVec 32) (v : Word) (s : State) := onDev (writeWord who (fun p o => accIs p o .gp) 0 addr.toNat v) s

/-- GUARD_WRITE: a write that lands on GUARD. -/
def execGuardWrite (who : Party) (addr : BitVec 32) (v : Word) (s : State) :=
  onDev (writeWord who (fun _ o => o == Reg.GUARD) 0 addr.toNat v) s

/-- GUARD_WINDOW_EXPIRY: the window of the value pending in a page passes. -/
def doGuardExpiry (a : Nat) (d : Dev) : Dev :=
  match pageOf a with
  | some p => gpIntervene p d
  | none => d
def execGuardWindowExpiry (page : BitVec 32) (s : State) := onDev (doGuardExpiry page.toNat) s

/-- The parity of a field of the register at an address does not match: an odd number of its bits has changed (R61, R62). -/
def parityBad (a flips : Nat) : Bool :=
  match pageOf a with
  | some p => (match p.row? (a % 0x1000) with | some r => oddField flips r.lows | none => false)
  | none => false

/-- The pages that hold a field with mismatched parity, by rising address. Of a Dale die in reset none is checked. -/
def upsetPages (d : Dev) : List Page :=
  let ps := d.upset.filterMap (fun e => if parityBad e.1 e.2 then pageOf e.1 else none)
  (ps.foldl (fun l p => if l.contains p then l else l ++ [p]) []).filter (fun p => !(p.onDale && d.sdg.inReset))

/-- The scrubber finds a mismatch in a page (R63). -/
def scrubFinds (p : Page) (d : Dev) : Dev :=
  let was := rb d p Reg.PARITY_STAT 0
  let d := event p Reg.EV_PARITY (sg p Reg.PARITY_STAT (sqEvent (rg d p Reg.PARITY_STAT) 0) d)
  if was then d else fireSource p Reg.SRC_CFG_PARITY d

/-- PARITY_SCRUB. -/
def doParityScrub (d : Dev) : Dev := (upsetPages d).foldl (fun d p => scrubFinds p d) d
def execParityScrub (s : State) := onDev doParityScrub s

/-- REGISTER_READ. -/
def execRegisterRead (who : Party) (addr : BitVec 32) (w : Width) (s : State) := onDev (busRead who addr.toNat w) s

/-- A bit of a word changes. -/
def flipBit (w : Word) (k : Nat) : Word := putBit w k (!bitOf w k)

/-- The stored value of a field changes: it lies in the register, or behind a selector in the block's own table. -/
def upsetStore (p : Page) (o k : Nat) (d : Dev) : Dev :=
  let as := fun pad => if o = Reg.Aud2.AS_CFG then modAs (asSel d pad) (fun s => { s with cfg := flipBit s.cfg k })
    else if o = Reg.Aud2.AS_RING_LO then modAs (asSel d pad) (fun s => { s with lo := flipBit s.lo k })
    else if o = Reg.Aud2.AS_RING_HI then modAs (asSel d pad) (fun s => { s with hi := flipBit s.hi k })
    else inRun (Reg.Aud2.AS_PTR 0) 4 64 o
      (fun n => modAs n (fun s => { s with own := (flipBit (BitVec.ofNat 32 s.own) k).toNat }))
      (fun d => sg p o (flipBit (rg d p o) k) d)
  match p with
  | .aud 2 => as none d
  | .pset q 13 => as (some q) d
  | .aud 1 =>
    if o = Reg.Aud1.ROUTE_CFG then modRoute (routeSel d) (fun s => { s with cfgS := flipBit s.cfgS k }) d
    else if o = Reg.Aud1.ROUTE_GAIN then modRoute (routeSel d) (fun s => { s with gainS := flipBit s.gainS k }) d
    else sg p o (flipBit (rg d p o) k) d
  | p => withIrq p (fun d => sg p o (flipBit (rg d p o) k) d) d

/-- A bit of the register at an address has changed since it was written; a second change of it undoes the first. -/
def upsetMark (a k : Nat) (d : Dev) : Dev :=
  { d with upset := tabSet (fun _ => 0) d.upset a (tabGet (fun _ => 0) d.upset a ^^^ 2 ^ k) }

/-- A block that has taken an enabling field over acts by the altered value from then on, as it does by a written one: an ENABLE of
a head, a stream, a context, a panel, a Laiga port or a CAN controller, the MODE of a port (R61). -/
def upsetFollow (p : Page) (o k : Nat) (d : Dev) : Dev :=
  match p with
  | .head h =>
    if o = Reg.Head.HEAD_CTRL ∧ k = 0 then
      (if rb d p o 0 then headEnable h d
       else chkFlush h (if (headOf d h).run then modHead h (fun s => { s with off := true }) d else headStop h d))
    else d
  | .stream n =>
    if o = Reg.Stream.STREAM_CTRL ∧ k = 0 then
      (if (streamOf d n).on then modStream n (fun s => { s with stopping := !rb d p o 0 }) d
       else streamCtrl (ownerParty d p) n (rg d p o) d)
    else d
  | .ctx n => if o = Reg.Ctx.CTX_CTRL ∧ k = 0 then (if rb d p o 0 then cxEnable n d else cxDisable n d) else d
  | .panel n =>
    if o = Reg.Panel.PANEL_CTRL ∧ k = 0 ∧ isoOf d p = false then (if rb d p o 0 then panelEnable n d else panelOff n d) else d
  | .port n => if o = Reg.Port.PORT_CTRL ∧ 20 ≤ k ∧ k ≤ 23 then connect n d else d
  | .lg n => if o = Reg.Lg.LG_CTRL ∧ k = 0 then lgCtrl n (rg d p o) d else d
  | .can n =>
    if o = Reg.Can.CAN_CTRL ∧ k = 0 then
      (if rb d p o 0 then canStart n d else sf p Reg.Can.CAN_STAT 1 0 0 (canDrop n d))
    else d
  | _ => d

/-- STORAGE_UPSET: a bit of an RW, RWL or GP field changes at once, and its parity no longer matches until the field is
rewritten (R61). A Dale die in reset holds its fields at their reset values, but for those on VAO. -/
def doStorageUpset (a k : Nat) (d : Dev) : Dev :=
  match pageOf a with
  | none => d
  | some p =>
    let o := a % 0x1000
    if p.isWindow || (p.onDale && d.sdg.inReset && !onVao a) then d
    else match p.row? o with
      | none => d
      | some r =>
        if r.acc = .ro ∨ r.acc = .wo ∨ r.acc = .sq ∨ r.mask.testBit k = false then d
        else upsetMark a k (upsetFollow p o k (upsetStore p o k d))
def execStorageUpset (addr : BitVec 32) (bit : Fin 32) (s : State) := onDev (doStorageUpset addr.toNat bit.val) s

end Sys2Proof.Machine
end

