-- ==== Sys2Proof/Machine/Gather.lean ====
section
/-! DEFINITION. Gather mode in the Fell blocks: how it begins and ends (R20, R145, R249, R290, R392, R425, R462, R517, R518). The
blocks that merely look at the mark (compositing, check windows, audio, touch) do so in their own chapters. -/
namespace Sys2Proof.Machine

/-- A pipe that gather stops ends its fetch, and its surface is no longer read (R145). -/
def endFetch (p : Nat) (d : Dev) : Dev :=
  forN (fun h => modHead h (fun s => { s with reading := s.reading.filter (fun x => x.pipe != p) })) 8
    (modPipe p (fun s => { s with lines := [], cut := true }) d)

/-- The Fell blocks enter gather mode. -/
def enterGather (d : Dev) : Dev :=
  let d := forN (fun i d => endFetch (8 + i) d) 56 (modTet (fun t => { t with gather := true }) d)
  padGather true (gpuGather true (forN tryRelease 8 d))

/-- OWN_GATHER: the Fell die has had no valid Dale word for 1 ms. -/
def doOwnGather (d : Dev) : Dev :=
  if d.boot.stage < 7 ∨ d.sdg.fellHeld = true ∨ ownGather d = true then d
  else
    let d := event .tet Reg.Tet.EV_OWN_GATHER (sb .tet Reg.Tet.TET_STAT 30 true (modTet (fun t => { t with runWord := false }) d))
    if d.tet.gather then d else enterGather d
def execOwnGather (s : State) := onDev doOwnGather s

/-- GATHER_WIRE_ASSERT: the driven wire reaches the haptics and the Fell blocks. -/
def doGatherAssert (d : Dev) : Dev :=
  if !gatherWire d then d
  else
    let d := hapSettle d
    if d.tet.gather ∨ d.sdg.fellHeld = true then d else enterGather d
def execGatherWireAssert (s : State) := onDev doGatherAssert s

/-- GATHER_RELEASE: with the wire released, gather ends; the die's own gather ends only with a Dale word of STATE RUN or
DEGRADED. -/
def doGatherRelease (d : Dev) : Dev :=
  if gatherWire d then d
  else
    let d := hapSettle d
    if !d.tet.gather ∨ d.sdg.fellHeld = true ∨ (ownGather d = true ∧ d.tet.runWord = false) then d
    else
      let d := sb .tet Reg.Tet.TET_STAT 30 false (modTet (fun t => { t with gather := false }) d)
      padGather false (gpuGather false d)
def execGatherRelease (s : State) := onDev doGatherRelease s

end Sys2Proof.Machine
end

