-- ==== Sys2Proof/Machine/Dispatch.lean ====
section
/-! DEFINITION. The dispatch: the meaning of every command on everything but the queue, one direct call for each. -/
namespace Sys2Proof.Machine

def exec (i : Instr) (s : State) : Host.Outcome State Fault Refusal :=
  match i with
  | .registerWrite who addr w v sense => Sys2Proof.Machine.execRegisterWrite who addr w v sense s
  | .unmappedAccess fold write addr => Sys2Proof.Machine.execUnmappedAccess fold write addr s
  | .sequenceClear who addr v => Sys2Proof.Machine.execSequenceClear who addr v s
  | .gpWrite who addr v => Sys2Proof.Machine.execGpWrite who addr v s
  | .guardWrite who addr v => Sys2Proof.Machine.execGuardWrite who addr v s
  | .guardWindowExpiry page => Sys2Proof.Machine.execGuardWindowExpiry page s
  | .holdWrite who p on => Sys2Proof.Machine.execHoldWrite who p on s
  | .heldRequestsAct code => Sys2Proof.Machine.execHeldRequestsAct code s
  | .parityScrub => Sys2Proof.Machine.execParityScrub s
  | .daleOutOfReset => Sys2Proof.Machine.execDaleOutOfReset s
  | .selfTestDone fails => Sys2Proof.Machine.execSelfTestDone fails s
  | .tetherTrained up down => Sys2Proof.Machine.execTetherTrained up down s
  | .headerRead garbled => Sys2Proof.Machine.execHeaderRead garbled s
  | .signatureVerified => Sys2Proof.Machine.execSignatureVerified s
  | .group1Read nF => Sys2Proof.Machine.execGroup1Read nF s
  | .nvmReadError read => Sys2Proof.Machine.execNvmReadError read s
  | .recoveryAttempt csLow => Sys2Proof.Machine.execRecoveryAttempt csLow s
  | .fellReleased => Sys2Proof.Machine.execFellReleased s
  | .firmwareConfigured => Sys2Proof.Machine.execFirmwareConfigured s
  | .group2SectionCheck garbled => Sys2Proof.Machine.execGroup2SectionCheck garbled s
  | .firstSafePicture => Sys2Proof.Machine.execFirstSafePicture s
  | .dramTrained => Sys2Proof.Machine.execDramTrained s
  | .fullComposition => Sys2Proof.Machine.execFullComposition s
  | .readPage who => Sys2Proof.Machine.execReadPage who s
  | .programPage who => Sys2Proof.Machine.execProgramPage who s
  | .eraseSector who => Sys2Proof.Machine.execEraseSector who s
  | .verifyA who => Sys2Proof.Machine.execVerifyA who s
  | .verifyB who => Sys2Proof.Machine.execVerifyB who s
  | .nvmCmdDone error => Sys2Proof.Machine.execNvmCmdDone error s
  | .nvmCmdResume => Sys2Proof.Machine.execNvmCmdResume s
  | .commit who p => Sys2Proof.Machine.execCommit who p s
  | .lineTrigCommit who p line => Sys2Proof.Machine.execLineTrigCommit who p line s
  | .disabledHeadCommitApply h => Sys2Proof.Machine.execDisabledHeadCommitApply h s
  | .pipeRestart who p => Sys2Proof.Machine.execPipeRestart who p s
  | .coefDataWrite who p v => Sys2Proof.Machine.execCoefDataWrite who p v s
  | .pipeFetch p line => Sys2Proof.Machine.execPipeFetch p line s
  | .lastLineFetched h => Sys2Proof.Machine.execLastLineFetched h s
  | .shepherdDemoteC h part => Sys2Proof.Machine.execShepherdDemoteC h part s
  | .shepherdDemoteO h part => Sys2Proof.Machine.execShepherdDemoteO h part s
  | .lutDataWrite who v => Sys2Proof.Machine.execLutDataWrite who v s
  | .lutDataRead who => Sys2Proof.Machine.execLutDataRead who s
  | .colourSwapRequest who h => Sys2Proof.Machine.execColourSwapRequest who h s
  | .wbArm who k => Sys2Proof.Machine.execWbArm who k s
  | .wbFrameDone k => Sys2Proof.Machine.execWbFrameDone k s
  | .headEnable who h => Sys2Proof.Machine.execHeadEnable who h s
  | .headDisable who h => Sys2Proof.Machine.execHeadDisable who h s
  | .pixelPllLocked h => Sys2Proof.Machine.execPixelPllLocked h s
  | .pllUnlock h => Sys2Proof.Machine.execPllUnlock h s
  | .headRestart who h => Sys2Proof.Machine.execHeadRestart who h s
  | .frameBegin h => Sys2Proof.Machine.execFrameBegin h s
  | .frameStart h => Sys2Proof.Machine.execFrameStart h s
  | .lineStart h line under wbOver => Sys2Proof.Machine.execLineStart h line under wbOver s
  | .syncOutPulseEnd h pin => Sys2Proof.Machine.execSyncOutPulseEnd h pin s
  | .syncEdge h period phase => Sys2Proof.Machine.execSyncEdge h period phase s
  | .syncTimeout h => Sys2Proof.Machine.execSyncTimeout h s
  | .cutHold h => Sys2Proof.Machine.execCutHold h s
  | .portSourceChange who n en h => Sys2Proof.Machine.execPortSourceChange who n en h s
  | .retrain who n => Sys2Proof.Machine.execRetrain who n s
  | .linkTrainingDone n ok rate lanes msaIgnore => Sys2Proof.Machine.execLinkTrainingDone n ok rate lanes msaIgnore s
  | .trainRetry n => Sys2Proof.Machine.execTrainRetry n s
  | .hpdUnplug n => Sys2Proof.Machine.execHpdUnplug n s
  | .hpdPlug n => Sys2Proof.Machine.execHpdPlug n s
  | .irqHpd n lost => Sys2Proof.Machine.execIrqHpd n lost s
  | .auxCmd who n v => Sys2Proof.Machine.execAuxCmd who n v s
  | .auxDone n result reply count bytes => Sys2Proof.Machine.execAuxDone n result reply count bytes s
  | .short n lane supply => Sys2Proof.Machine.execShort n lane supply s
  | .shortRetest n kinds => Sys2Proof.Machine.execShortRetest n kinds s
  | .csiPortEnable who p v => Sys2Proof.Machine.execCsiPortEnable who p v s
  | .csiRestart who p => Sys2Proof.Machine.execCsiRestart who p s
  | .csiUlps p enter => Sys2Proof.Machine.execCsiUlps p enter s
  | .csiFs p vc hdr => Sys2Proof.Machine.execCsiFs p vc hdr s
  | .csiLongPacket p vc dt hdr crcOk t payload => Sys2Proof.Machine.execCsiLongPacket p vc dt hdr crcOk t payload s
  | .csiFe p vc hdr => Sys2Proof.Machine.execCsiFe p vc hdr s
  | .streamEnable who n v => Sys2Proof.Machine.execStreamEnable who n v s
  | .streamLost n => Sys2Proof.Machine.execStreamLost n s
  | .streamRestart who n => Sys2Proof.Machine.execStreamRestart who n s
  | .dwApply who n => Sys2Proof.Machine.execDwApply who n s
  | .dwRestart who n => Sys2Proof.Machine.execDwRestart who n s
  | .dwLineBegin n waited => Sys2Proof.Machine.execDwLineBegin n waited s
  | .dwLineVisible n => Sys2Proof.Machine.execDwLineVisible n s
  | .ctxEnable who n => Sys2Proof.Machine.execCtxEnable who n s
  | .ctxDisable who n => Sys2Proof.Machine.execCtxDisable who n s
  | .queueWptr who n v => Sys2Proof.Machine.execQueueWptr who n v s
  | .nop n => Sys2Proof.Machine.execNop n s
  | .pipeline n => Sys2Proof.Machine.execPipeline n s
  | .bindResources n => Sys2Proof.Machine.execBindResources n s
  | .push n => Sys2Proof.Machine.execPush n s
  | .passBegin n => Sys2Proof.Machine.execPassBegin n s
  | .passEnd n t0 t1 t2 => Sys2Proof.Machine.execPassEnd n t0 t1 t2 s
  | .draw n run pens need => Sys2Proof.Machine.execDraw n run pens need s
  | .drawIndexed n run pens need => Sys2Proof.Machine.execDrawIndexed n run pens need s
  | .drawIndirect n run pens need => Sys2Proof.Machine.execDrawIndirect n run pens need s
  | .dispatch n run => Sys2Proof.Machine.execDispatch n run s
  | .dispatchIndirect n run => Sys2Proof.Machine.execDispatchIndirect n run s
  | .barrier n => Sys2Proof.Machine.execBarrier n s
  | .fenceSignal n => Sys2Proof.Machine.execFenceSignal n s
  | .fenceWait n => Sys2Proof.Machine.execFenceWait n s
  | .fenceRecheck => Sys2Proof.Machine.execFenceRecheck s
  | .penRing n => Sys2Proof.Machine.execPenRing n s
  | .waitCall n => Sys2Proof.Machine.execWaitCall n s
  | .layerCommit n => Sys2Proof.Machine.execLayerCommit n s
  | .translationDone n evict refused => Sys2Proof.Machine.execTranslationDone n evict refused s
  | .translationTimeout n => Sys2Proof.Machine.execTranslationTimeout n s
  | .preemptSaveDone n cores => Sys2Proof.Machine.execPreemptSaveDone n cores s
  | .tileStopTimeout n f => Sys2Proof.Machine.execTileStopTimeout n f s
  | .bellwetherFirstWave n lat => Sys2Proof.Machine.execBellwetherFirstWave n lat s
  | .preemptRestoreDone n => Sys2Proof.Machine.execPreemptRestoreDone n s
  | .ctxCmdReset who n => Sys2Proof.Machine.execCtxCmdReset who n s
  | .preemptSave who n => Sys2Proof.Machine.execPreemptSave who n s
  | .ctxSaveDone n kib => Sys2Proof.Machine.execCtxSaveDone n kib s
  | .ctxDrainDone n => Sys2Proof.Machine.execCtxDrainDone n s
  | .resume who n => Sys2Proof.Machine.execResume who n s
  | .ctxRestart who n => Sys2Proof.Machine.execCtxRestart who n s
  | .penWptr who n v => Sys2Proof.Machine.execPenWptr who n v s
  | .penTimeout n => Sys2Proof.Machine.execPenTimeout n s
  | .partialRender n t0 t1 t2 => Sys2Proof.Machine.execPartialRender n t0 t1 t2 s
  | .runLimitTimeout n => Sys2Proof.Machine.execRunLimitTimeout n s
  | .gpuLevelWindow busy slots => Sys2Proof.Machine.execGpuLevelWindow busy slots s
  | .levelDeferralEnd => Sys2Proof.Machine.execLevelDeferralEnd s
  | .voltageRampDone => Sys2Proof.Machine.execVoltageRampDone s
  | .vfgSettle mv => Sys2Proof.Machine.execVfgSettle mv s
  | .throttle temp => Sys2Proof.Machine.execThrottle temp s
  | .capRise temp => Sys2Proof.Machine.execCapRise temp s
  | .thermalTrip temp => Sys2Proof.Machine.execThermalTrip temp s
  | .flockPowerDown f => Sys2Proof.Machine.execFlockPowerDown f s
  | .flockWake f => Sys2Proof.Machine.execFlockWake f s
  | .coreErr n fail => Sys2Proof.Machine.execCoreErr n fail s
  | .gpuRestart who => Sys2Proof.Machine.execGpuRestart who s
  | .chkCommit who h => Sys2Proof.Machine.execChkCommit who h s
  | .chkRestart who h => Sys2Proof.Machine.execChkRestart who h s
  | .windowEval h w => Sys2Proof.Machine.execWindowEval h w s
  | .failClear who h v => Sys2Proof.Machine.execFailClear who h v s
  | .lgEnable who n v => Sys2Proof.Machine.execLgEnable who n v s
  | .lgRestart who n v => Sys2Proof.Machine.execLgRestart who n v s
  | .uplinkAligned n inverted => Sys2Proof.Machine.execUplinkAligned n inverted s
  | .helloRetry n => Sys2Proof.Machine.execHelloRetry n s
  | .reply n bytes codeErr => Sys2Proof.Machine.execReply n bytes codeErr s
  | .scanTick n => Sys2Proof.Machine.execScanTick n s
  | .mutualC n bytes codeErr late => Sys2Proof.Machine.execMutualC n bytes codeErr late s
  | .self n bytes codeErr late => Sys2Proof.Machine.execSelf n bytes codeErr late s
  | .listen n bytes codeErr late => Sys2Proof.Machine.execListen n bytes codeErr late s
  | .suspectTimeout n node => Sys2Proof.Machine.execSuspectTimeout n node s
  | .forcedLift n track => Sys2Proof.Machine.execForcedLift n track s
  | .uplinkLoss n => Sys2Proof.Machine.execUplinkLoss n s
  | .lostToAlign n => Sys2Proof.Machine.execLostToAlign n s
  | .panelEnable who n v => Sys2Proof.Machine.execPanelEnable who n v s
  | .rebase who n => Sys2Proof.Machine.execRebase who n s
  | .panelRestart who n => Sys2Proof.Machine.execPanelRestart who n s
  | .regionWrite who n r reg v => Sys2Proof.Machine.execRegionWrite who n r reg v s
  | .ringCfgWrite who ring v => Sys2Proof.Machine.execRingCfgWrite who ring v s
  | .ringRptrWrite who ring v => Sys2Proof.Machine.execRingRptrWrite who ring v s
  | .tchRestart who => Sys2Proof.Machine.execTchRestart who s
  | .keySample raw => Sys2Proof.Machine.execKeySample raw s
  | .keyShortTest sat => Sys2Proof.Machine.execKeyShortTest sat s
  | .keyForcedLift k => Sys2Proof.Machine.execKeyForcedLift k s
  | .keyRebase who => Sys2Proof.Machine.execKeyRebase who s
  | .keyRestart who => Sys2Proof.Machine.execKeyRestart who s
  | .boostCtrlWrite who b v => Sys2Proof.Machine.execBoostCtrlWrite who b v s
  | .vhvOk b tenths => Sys2Proof.Machine.execVhvOk b tenths s
  | .chEnable who n v nF => Sys2Proof.Machine.execChEnable who n v nF s
  | .trigger who page n v => Sys2Proof.Machine.execTrigger who page n v s
  | .stop who page n v => Sys2Proof.Machine.execStop who page n v s
  | .hapSample nF => Sys2Proof.Machine.execHapSample nF s
  | .pendTimeout n cls => Sys2Proof.Machine.execPendTimeout n cls s
  | .onLimit n => Sys2Proof.Machine.execOnLimit n s
  | .dutyUpdate => Sys2Proof.Machine.execDutyUpdate s
  | .thermWarn temp => Sys2Proof.Machine.execThermWarn temp s
  | .hapThermTrip temp => Sys2Proof.Machine.execHapThermTrip temp s
  | .capProbe n nF => Sys2Proof.Machine.execCapProbe n nF s
  | .hapShort n kind => Sys2Proof.Machine.execHapShort n kind s
  | .chShortRetry n => Sys2Proof.Machine.execChShortRetry n s
  | .boostFault b kind => Sys2Proof.Machine.execBoostFault b kind s
  | .boostRetry b => Sys2Proof.Machine.execBoostRetry b s
  | .hapRestart who => Sys2Proof.Machine.execHapRestart who s
  | .whDataRead who => Sys2Proof.Machine.execWhDataRead who s
  | .routeCommit who v => Sys2Proof.Machine.execRouteCommit who v s
  | .routeDeferredApply r => Sys2Proof.Machine.execRouteDeferredApply r s
  | .audioSampleFrame dom inputs => Sys2Proof.Machine.execAudioSampleFrame dom inputs s
  | .duckOff => Sys2Proof.Machine.execDuckOff s
  | .domainLost dom ppm => Sys2Proof.Machine.execDomainLost dom ppm s
  | .domainBack dom ppm => Sys2Proof.Machine.execDomainBack dom ppm s
  | .tdmSlip p => Sys2Proof.Machine.execTdmSlip p s
  | .stApply who v => Sys2Proof.Machine.execStApply who v s
  | .stZeroCrossing k element => Sys2Proof.Machine.execStZeroCrossing k element s
  | .stForced k element => Sys2Proof.Machine.execStForced k element s
  | .micFault m => Sys2Proof.Machine.execMicFault m s
  | .micFaultClear m => Sys2Proof.Machine.execMicFaultClear m s
  | .hsPlug h microamps => Sys2Proof.Machine.execHsPlug h microamps s
  | .hsUnplug h => Sys2Proof.Machine.execHsUnplug h s
  | .hsMicFault h => Sys2Proof.Machine.execHsMicFault h s
  | .spkEnable who o v => Sys2Proof.Machine.execSpkEnable who o v s
  | .loadDone o tenthOhms toGround toVspk => Sys2Proof.Machine.execLoadDone o tenthOhms toGround toVspk s
  | .spkFault o kind => Sys2Proof.Machine.execSpkFault o kind s
  | .spkRecovery o => Sys2Proof.Machine.execSpkRecovery o s
  | .asEnable who page v => Sys2Proof.Machine.execAsEnable who page v s
  | .asPtrWrite who page n v => Sys2Proof.Machine.execAsPtrWrite who page n v s
  | .fellAudioLoss => Sys2Proof.Machine.execFellAudioLoss s
  | .audRestart who => Sys2Proof.Machine.execAudRestart who s
  | .afeRestart who => Sys2Proof.Machine.execAfeRestart who s
  | .sriovConfig u numVfs vfEnable => Sys2Proof.Machine.execSriovConfig u numVfs vfEnable s
  | .create who u => Sys2Proof.Machine.execCreate who u s
  | .quiesce who u => Sys2Proof.Machine.execQuiesce who u s
  | .resumePaddock who u => Sys2Proof.Machine.execResumePaddock who u s
  | .reset who u => Sys2Proof.Machine.execReset who u s
  | .remove who u => Sys2Proof.Machine.execRemove who u s
  | .claim who u => Sys2Proof.Machine.execClaim who u s
  | .release who u => Sys2Proof.Machine.execRelease who u s
  | .grant who u => Sys2Proof.Machine.execGrant who u s
  | .revoke who u => Sys2Proof.Machine.execRevoke who u s
  | .lease who u => Sys2Proof.Machine.execLease who u s
  | .unlease who u => Sys2Proof.Machine.execUnlease who u s
  | .mgrCmdDone u => Sys2Proof.Machine.execMgrCmdDone u s
  | .unleaseFrameStart pipe => Sys2Proof.Machine.execUnleaseFrameStart pipe s
  | .quiesceDone p => Sys2Proof.Machine.execQuiesceDone p s
  | .quiesceTimeout p => Sys2Proof.Machine.execQuiesceTimeout p s
  | .forcedQuiesceDone p => Sys2Proof.Machine.execForcedQuiesceDone p s
  | .clearingDone p => Sys2Proof.Machine.execClearingDone p s
  | .vfFlr p => Sys2Proof.Machine.execVfFlr p s
  | .busMasterClear fn => Sys2Proof.Machine.execBusMasterClear fn s
  | .pfFlr u => Sys2Proof.Machine.execPfFlr u s
  | .pfD3hot u => Sys2Proof.Machine.execPfD3hot u s
  | .hotReset u => Sys2Proof.Machine.execHotReset u s
  | .linkDown u => Sys2Proof.Machine.execLinkDown u s
  | .perst u => Sys2Proof.Machine.execPerst u s
  | .upWptr who p v => Sys2Proof.Machine.execUpWptr who p v s
  | .downWptr who p v => Sys2Proof.Machine.execDownWptr who p v s
  | .upRptr who p v => Sys2Proof.Machine.execUpRptr who p v s
  | .downRptr who p v => Sys2Proof.Machine.execDownRptr who p v s
  | .cqCfgWrite who q v => Sys2Proof.Machine.execCqCfgWrite who q v s
  | .cqWptr who q v => Sys2Proof.Machine.execCqWptr who q v s
  | .cqDescDone q host => Sys2Proof.Machine.execCqDescDone q host s
  | .apertureAccess p off w v => Sys2Proof.Machine.execApertureAccess p off w v s
  | .frameScrubDone f => Sys2Proof.Machine.execFrameScrubDone f s
  | .take who => Sys2Proof.Machine.execTake who s
  | .give who => Sys2Proof.Machine.execGive who s
  | .msixUnmask who fn k => Sys2Proof.Machine.execMsixUnmask who fn k s
  | .foldCall n file => Sys2Proof.Machine.execFoldCall n file s
  | .foldRet n file => Sys2Proof.Machine.execFoldRet n file s
  | .interruptDelivery p en file => Sys2Proof.Machine.execInterruptDelivery p en file s
  | .foldLong n => Sys2Proof.Machine.execFoldLong n s
  | .coreMemoryAccess n kind a bytes v => Sys2Proof.Machine.execCoreMemoryAccess n kind a bytes v s
  | .raiseDone => Sys2Proof.Machine.execRaiseDone s
  | .wldRestart who => Sys2Proof.Machine.execWldRestart who s
  | .debugHalt n => Sys2Proof.Machine.execDebugHalt n s
  | .jtagInstruction k => Sys2Proof.Machine.execJtagInstruction k s
  | .tamper n => Sys2Proof.Machine.execTamper n s
  | .pastureWiped => Sys2Proof.Machine.execPastureWiped s
  | .wipeDone => Sys2Proof.Machine.execWipeDone s
  | .tamperClear who v => Sys2Proof.Machine.execTamperClear who v s
  | .tetherFrame toDale bytes => Sys2Proof.Machine.execTetherFrame toDale bytes s
  | .tetherRetrain => Sys2Proof.Machine.execTetherRetrain s
  | .tetherTrainRetry => Sys2Proof.Machine.execTetherTrainRetry s
  | .chargeWordSend => Sys2Proof.Machine.execChargeWordSend s
  | .chargeAnswer bytes => Sys2Proof.Machine.execChargeAnswer bytes s
  | .chargeAnswerReceived bytes => Sys2Proof.Machine.execChargeAnswerReceived bytes s
  | .exchangeTimeout => Sys2Proof.Machine.execExchangeTimeout s
  | .ownGather => Sys2Proof.Machine.execOwnGather s
  | .gatherWireAssert => Sys2Proof.Machine.execGatherWireAssert s
  | .gatherRelease => Sys2Proof.Machine.execGatherRelease s
  | .lockstep syndrome => Sys2Proof.Machine.execLockstep syndrome s
  | .daleResetEnd => Sys2Proof.Machine.execDaleResetEnd s
  | .daleReloaded nF => Sys2Proof.Machine.execDaleReloaded nF s
  | .faultReport => Sys2Proof.Machine.execFaultReport s
  | .entryHoldExpiry pos => Sys2Proof.Machine.execEntryHoldExpiry pos s
  | .causeClear pos => Sys2Proof.Machine.execCauseClear pos s
  | .foldRequest who code => Sys2Proof.Machine.execFoldRequest who code s
  | .releaseRequest who entry => Sys2Proof.Machine.execReleaseRequest who entry s
  | .fellResetEnd fails => Sys2Proof.Machine.execFellResetEnd fails s
  | .restartBudgetWaitEnd => Sys2Proof.Machine.execRestartBudgetWaitEnd s
  | .txCmd who n v seen => Sys2Proof.Machine.execTxCmd who n v seen s
  | .canTxDone n result => Sys2Proof.Machine.execCanTxDone n result s
  | .canRx n hdr dlc bytes => Sys2Proof.Machine.execCanRx n hdr dlc bytes s
  | .rxPop who n v => Sys2Proof.Machine.execRxPop who n v s
  | .canBusOff n => Sys2Proof.Machine.execCanBusOff n s
  | .canBusRecovery n => Sys2Proof.Machine.execCanBusRecovery n s
  | .canEnable who n v => Sys2Proof.Machine.execCanEnable who n v s
  | .reportPeriod k => Sys2Proof.Machine.execReportPeriod k s
  | .freeze who => Sys2Proof.Machine.execFreeze who s
  | .unfreeze who => Sys2Proof.Machine.execUnfreeze who s
  | .exportC who => Sys2Proof.Machine.execExportC who s
  | .note who => Sys2Proof.Machine.execNote who s
  | .exportDone failAt => Sys2Proof.Machine.execExportDone failAt s
  | .pastureAccess tier fold off bytes v flips turn => Sys2Proof.Machine.execPastureAccess tier fold off bytes v flips turn s
  | .eccWriteback b => Sys2Proof.Machine.execEccWriteback b s
  | .testRow fails => Sys2Proof.Machine.execTestRow fails s
  | .bankRetention b => Sys2Proof.Machine.execBankRetention b s
  | .bankWake b => Sys2Proof.Machine.execBankWake b s
  | .bankModeWrite who bank v => Sys2Proof.Machine.execBankModeWrite who bank v s
  | .pstRestart who => Sys2Proof.Machine.execPstRestart who s
  | .trainStageDone c ok gbit ranks => Sys2Proof.Machine.execTrainStageDone c ok gbit ranks s
  | .dramTrack c rank code drift hot => Sys2Proof.Machine.execDramTrack c rank code drift hot s
  | .zqCalibration c rank code => Sys2Proof.Machine.execZqCalibration c rank code s
  | .refresh c rank bank atLimit mr => Sys2Proof.Machine.execRefresh c rank bank atLimit mr s
  | .mrCmd who v => Sys2Proof.Machine.execMrCmd who v s
  | .dramRequest who src port a n v flips dt slots code => Sys2Proof.Machine.execDramRequest who src port a n v flips dt slots code s
  | .backoffEnd port c => Sys2Proof.Machine.execBackoffEnd port c s
  | .isoWindow => Sys2Proof.Machine.execIsoWindow s
  | .isoSizing => Sys2Proof.Machine.execIsoSizing s
  | .drvStarve port age => Sys2Proof.Machine.execDrvStarve port age s
  | .drcRestart who => Sys2Proof.Machine.execDrcRestart who s
  | .drvRestart who => Sys2Proof.Machine.execDrvRestart who s
  | .railSample idx mv => Sys2Proof.Machine.execRailSample idx mv s
  | .vaoPowerUp => Sys2Proof.Machine.execVaoPowerUp s
  | .rstN low => Sys2Proof.Machine.execRstN low s
  | .xtalFell => Sys2Proof.Machine.execXtalFell s
  | .xtalDale => Sys2Proof.Machine.execXtalDale s
  | .xtalRestored fell => Sys2Proof.Machine.execXtalRestored fell s
  | .pllCore k => Sys2Proof.Machine.execPllCore k s
  | .pllGpu => Sys2Proof.Machine.execPllGpu s
  | .pllAux k => Sys2Proof.Machine.execPllAux k s
  | .dalePllUnlock => Sys2Proof.Machine.execDalePllUnlock s
  | .clkStop who => Sys2Proof.Machine.execClkStop who s
  | .clkRun who => Sys2Proof.Machine.execClkRun who s
  | .pwrOff who => Sys2Proof.Machine.execPwrOff who s
  | .pwrOn who => Sys2Proof.Machine.execPwrOn who s
  | .rstAssert who => Sys2Proof.Machine.execRstAssert who s
  | .rstRelease who => Sys2Proof.Machine.execRstRelease who s
  | .blkDone => Sys2Proof.Machine.execBlkDone s
  | .supCfgWrite who v => Sys2Proof.Machine.execSupCfgWrite who v s
  | .run who on => Sys2Proof.Machine.execRun who on s
  | .clear who => Sys2Proof.Machine.execClear who s
  | .tlyRestart who => Sys2Proof.Machine.execTlyRestart who s
  | .tallyCount k x foldX d1 d2 => Sys2Proof.Machine.execTallyCount k x foldX d1 d2 s
  | .countLoRead who k => Sys2Proof.Machine.execCountLoRead who k s
  | .countLoWrite who k v => Sys2Proof.Machine.execCountLoWrite who k v s
  | .countHiWrite who k v => Sys2Proof.Machine.execCountHiWrite who k v s
  | .smpPop who => Sys2Proof.Machine.execSmpPop who s
  | .gpioEdge n level => Sys2Proof.Machine.execGpioEdge n level s
  | .gpioEdgeClr who v => Sys2Proof.Machine.execGpioEdgeClr who v s
  | .registerRead who addr w => Sys2Proof.Machine.execRegisterRead who addr w s
  | .padStatRead who p => Sys2Proof.Machine.execPadStatRead who p s
  | .railMeasRead who => Sys2Proof.Machine.execRailMeasRead who s
  | .storageUpset addr bit => Sys2Proof.Machine.execStorageUpset addr bit s
  | .gpuTripClear temp => Sys2Proof.Machine.execGpuTripClear temp s
  | .hapTripClear temp => Sys2Proof.Machine.execHapTripClear temp s
  | .thermWarnClear temp => Sys2Proof.Machine.execThermWarnClear temp s
  | .busMasterEnable fn msixEn mask => Sys2Proof.Machine.execBusMasterEnable fn msixEn mask s
  | .pcieLinkUp u => Sys2Proof.Machine.execPcieLinkUp u s
  | .perstRelease u => Sys2Proof.Machine.execPerstRelease u s

end Sys2Proof.Machine
end

