-- ==== Sys2Proof/Machine/Idle.lean ====
section
/-! DEFINITION. What the block does of itself while no command waits. -/
namespace Sys2Proof.Machine

/-- A step without a command: a microsecond passes, and what blocks do on their own, with no row of the table for it, is
done: the queues of DRAM empty, work in flight on the GPU ends, the touch engine follows its links, side-tone ramps end. DESIGN CHOICE. -/
def idle (d : Dev) : Dev := stIdle (tchIdle (gpuIdle (dramIdle { d with us := d.us + 1 })))

end Sys2Proof.Machine
end

