-- ==== Sys2Proof/Safety.lean ====
section
/-! DEFINITION. The terms that the statements are made in: states whose device changes, accesses that are granted, the packet
at the front of a context's queue, what a memory table must be, and the fuses that a step may lead to. -/
namespace Sys2Proof.Machine

/-- The state with its device changed by `f` in one cycle; the queue and the fuses stay. -/
def State.on (s : State) (f : Dev → Dev) : State := { s with dev := cycleEnd (f s.dev) }

/-- An access of a party to offset `o` of a page passes every check (R39, R45, R59, R438, R439, R512, R611). -/
abbrev Granted (d : Dev) (who : Party) (p : Page) (o : Nat) (wr : Bool) : Prop := (access who p o wr d).1 = true

/-- What a party must be for its work to be taken: no paddock, or a paddock that is OPEN (R460). -/
def takesWork (d : Dev) (who : Party) : Bool :=
  match who with
  | .paddock p => padState d p.val == 1
  | _ => true

/-- The packet at the read pointer of context `n` is whole and has opcode `op`: the packet, and the device after it has
read it (R262–R264). -/
def PktFront (n op : Nat) (d : Dev) (k : Pkt) (e : Dev) : Prop :=
  pktReady d n = true ∧ ∃ hb d1 bs d2, ringRead n (qRptr d n) 4 d = (some hb, d1) ∧
    headerOk (leNat hb / 2 ^ 24) (leNat hb % 65536) (leNat hb / 65536 % 256) = true ∧ leNat hb / 2 ^ 24 = op ∧
    (if op = 0 then (some [], d1) else ringRead n (qRptr d n + 4) (4 * (leNat hb % 65536)) d1) = (some bs, d2) ∧
    k = { flags := leNat hb / 65536 % 256, words := wordsOf (leNat hb % 65536) bs, at_ := qRptr d n } ∧
    e = ctxState n 3 0 (sf (.ctx n) Reg.Ctx.QUEUE_RPTR 19 0 ((qRptr d n + 4 + 4 * (leNat hb % 65536)) % qSize d n) d2)

/-- The memories of the device are in canonical form: Pasture, DRAM and the NVM list rising addresses and no byte that an
unlisted address reads as. -/
def Dev.memWf (d : Dev) : Bool :=
  tabWf (fun _ => (0 : Byte)) d.pasture && tabWf (fun _ => (0 : Byte)) d.dram && tabWf (fun _ => (0xFF : Byte)) d.nvm

/-- `e` is `d` but for what an event, a fault and its reaction may change: registers, messages out, marks of isolation, the
contexts and their translation requests, the ports, and the fault reports on their way to the Sheepdog (R12–R16, R45, R680). No
byte of a memory is among it, nor any block's own records but a context's and a port's. -/
def FaultsOnly (d e : Dev) : Prop :=
  e = { d with regs := e.regs, out := e.out, iso := e.iso, ctxs := e.ctxs, ports := e.ports, firing := e.firing
               gpu := { d.gpu with reqs := e.gpu.reqs }, sdg := { d.sdg with reports := e.sdg.reports }
               tet := { d.tet with queue := e.tet.queue, dropped := e.tet.dropped } }

/-- A command is turned away by the checks of its access: it answers a next state that differs from `s` only by what the
refusal itself does (R39, R45, R438, R439, R512) and by the pair it breaks off (R59), and by the answer of a read. -/
def Turned (s : State) (r : Host.Outcome State Fault Refusal) : Prop :=
  ∃ t, r = .next t ∧ t.fuses = s.fuses ∧ t.pending = s.pending ∧
    ∃ g, FaultsOnly { s.dev with gp := g } { t.dev with resp := s.dev.resp }

/-- The fault source `src` of page `p` was raised: a report of it with its class is among those that have gone to the Sheepdog, or
among those that TET keeps, of which it drops and counts what comes after 256 (R12, R533, R680). -/
def Reported (p : Page) (src : Nat) (d e : Dev) : Prop :=
  ∃ (r : FaultRep) (l : List (FaultRep × Nat)), r.block = p.code ∧ r.src = src ∧ r.cls = classOf d p src ∧ (r, p.base) ∈ l ∧
    (e.sdg.reports = d.sdg.reports ++ l ∨
     e.tet.queue = (d.tet.queue ++ l).take 256 ∧ e.tet.dropped = d.tet.dropped + ((d.tet.queue ++ l).length - 256))

/-- An address is that of the pending bits of a function's MSI-X page (R434). -/
def pbaAt (a : Nat) : Prop := ∃ fn, a = (msixPage fn).base + Reg.PBA

/-- The commands of a list taken one after the other, each with those behind it still waiting. -/
def takenInOrder : List Instr → State → Option State
  | [], s => some s
  | c :: cs, s =>
    match exec c { s with pending := cs } with
    | .next t => takenInOrder cs t
    | _ => none

/-! ## The fuses (R91, R95) -/

/-- A move of the life cycle along one transition of R91, or none. -/
def LcMove (a b : Nat) : Prop :=
  b = a ∨ (a = 0 ∧ b = 1) ∨ (a = 1 ∧ b = 2) ∨ (a = 2 ∧ b = 3) ∨ (a < 4 ∧ b = 4)

/-- The fuses hold a state of the life cycle (R91). -/
def Fuses.legal (f : Fuses) : Prop := f.lcState ≤ 4

/-- What a step may do to the fuses: the serial number and the debug fuses stay, the fused security version never falls, the
life cycle moves along one transition at most, and the owner key hash changes only with PROVISION. -/
def FuseStep (a b : Fuses) : Prop :=
  b.serial = a.serial ∧ b.debug = a.debug ∧ a.svn ≤ b.svn ∧ LcMove a.lcState b.lcState ∧
  (b.ownerKey ≠ a.ownerKey → a.lcState = 0 ∧ b.lcState = 1)

end Sys2Proof.Machine
end

