-- ==== Sys2Proof/Certificates/Slice0/Obligations.lean ====
section
/-! DEFINITION. The statements about the model: what the queue and the fuses obey at every step, the numbered rules the spec
states, and for every command what it answers when nothing turns it away. -/
open Sys2Proof Sys2Proof.Machine

/-- A step takes the command at the front of the queue: it is the command's meaning on the state with the queue's
rest. -/
def Obligations.StepRunsTheFrontCommand : Prop :=
  ∀ (c : Instr) (rest : List Instr) (s : State), s.pending = c :: rest → step s = exec c { s with pending := rest }

/-- With nothing waiting a step answers a next state in which a microsecond has passed. The spec gives no such step:
it is the model's choice, log entry 2. -/
def Obligations.StepIdlesOnAnEmptyQueue : Prop :=
  ∀ s : State, s.pending = [] → step s = .next (s.on idle)

/-- The spec gives every command an effect, also where it is refused (R45): no command faults and none is refused by
the model. -/
def Obligations.EveryCommandAnswersANextState : Prop :=
  ∀ (c : Instr) (s : State), ∃ t, exec c s = .next t ∧ t.pending = s.pending

/-- A run of as many steps as the queue holds commands takes them in order and leaves the queue empty. -/
def Obligations.QueueIsTakenInOrder : Prop :=
  ∀ (cs : List Instr) (s : State), s.pending = cs →
    ∃ t, takenInOrder cs s = some t ∧ Host.Core.run core cs.length s = .next t ∧ t.pending = []

/-- The rows of the table carry no bits: no word spells a command, and none is put into the queue. -/
def Obligations.NoWordSpellsACommand : Prop :=
  ∀ (nbits w : Nat) (s : State), decodeTableWord nbits w = none ∧ s.withFetchWord nbits w = s

/-- The fuses over one step, whatever command it takes: the serial and the debug fuses stay, the security version
never falls, the life cycle moves along one transition at most, and the owner key hash changes with PROVISION alone
(R91, R95). -/
def Obligations.StepMovesTheFusesOnlyAsAllowed : Prop :=
  ∀ s t : State, step s = .next t → FuseStep s.fuses t.fuses

/-- The invariants of the life cycle (R91) and of the faults (what fires in a command leaves as a report at its end,
log entry 181): they hold after reset (ResetHoldsTheStatedValues) and every step keeps them. -/
def Obligations.StepKeepsTheLifeCycleLegal : Prop :=
  ∀ s t : State, step s = .next t → (s.fuses.legal → t.fuses.legal) ∧ (s.dev.firing = [] → t.dev.firing = [])

/-- Over a run of any length from any state, the life cycle and the fused security version never turn back (R91, R95).
-/
def Obligations.RunNeverTurnsTheLifeCycleBack : Prop :=
  ∀ (n : Nat) (s t : State), Host.Core.run core n s = .next t →
    s.fuses.lcState ≤ t.fuses.lcState ∧ s.fuses.svn ≤ t.fuses.svn ∧ t.fuses.serial = s.fuses.serial ∧
    (1 ≤ s.fuses.lcState → t.fuses.ownerKey = s.fuses.ownerKey) ∧ (s.fuses.lcState = 4 → t.fuses.lcState = 4 ∨ 4 < t.fuses.lcState)

/-- The state after reset: the queue empty, the invariants of the life cycle, of the memories and of the faults, no
page isolated, and registers of every chapter at the values their tables state. -/
def Obligations.ResetHoldsTheStatedValues : Prop :=
  (let d := State.reset.dev
   State.reset.pending = [] ∧ State.reset.fuses.legal ∧ d.memWf = true ∧ d.firing = [] ∧ (∀ p, isoOf d p = false) ∧
   (∀ n : Fin 64, rg d (.pipe n.val) Reg.Pipe.ALPHA_KEY = 0x000000FF ∧ rg d (.pipe n.val) Reg.Pipe.HOLD_COLOUR = 0xFF000000) ∧
   (∀ n : Fin 16, rg d (.pipe (48 + n.val)) Reg.Pipe.H_STEP = 0x00010000 ∧ rg d (.pipe (48 + n.val)) Reg.Pipe.V_STEP = 0x00010000) ∧
   (∀ h : Fin 8, rg d .cmp (Reg.Cmp.COLOUR_CTRL h.val) = 0x00000200 ∧ rg d .cmp (Reg.Cmp.SHEP_THRESH h.val) = 0x20080008 ∧
     rg d (.head h.val) Reg.Head.TRIM_CFG = 0x00040040) ∧
   (∀ p : Fin 4, rg d .cam (Reg.Cam.CSI_RATE p.val) = 0x000009C4 ∧ rg d .cam (Reg.Cam.CSI_LANE p.val) = 0x000000E4) ∧
   (∀ n : Fin 4, rg d (.dw n.val) Reg.Dw.DW_MESH_DIM = 0x00020002 ∧ rg d (.dw n.val) Reg.Dw.DW_CELL = 0x00040004) ∧
   rg d .gpu Reg.Gpu.GPU_CTRL = 0x05700000 ∧ rg d .gpu Reg.Gpu.TCACHE_SIZE = 0x00000040 ∧
   (∀ n : Fin 8, rg d (.panel n.val) Reg.Panel.PANEL_SIZE = 0x00040004 ∧ rg d (.panel n.val) Reg.Panel.PANEL_SCAN = 0x00781001 ∧
     rg d (.panel n.val) Reg.Panel.PANEL_TRACK = 0x02002710) ∧
   rg d (.key 0) Reg.Key0.KEY_CTRL = 0x00000001 ∧ rg d (.key 0) Reg.Key0.KEY_TEST = 0x01000001 ∧
   rg d (.hap 0) Reg.Hap.HAP_CTRL = 0x00000001 ∧ (∀ n : Fin 16, rg d (.hap 0) (Reg.Hap.CH_CFG n.val) = 0xC80A6400) ∧
   rg d (.pst 0) Reg.Pst0.TEST_CFG = 0x80000064 ∧ rg d (.drc 2) Reg.Drc2.ISO_CFG = 0x84C0C010)

/-- A refused access has none of its effect: it changes only what the refusal itself brings (R45), the pair it breaks
off (R59) and the answer of a read. -/
def Obligations.RefusedAccessesChangeOnlyFaultState : Prop :=
  (∀ (who : Party) (p : BitVec 32) (on : Bool) (r : Page) (s : State), pageOf p.toNat = some r →
      ¬ Granted s.dev who r Reg.HOLD true → Turned s (exec (.holdWrite who p on) s)) ∧
  (∀ (who : Party) (s : State), ¬ Granted s.dev who .nvm Reg.Nvm.NVM_CMD true →
      Turned s (exec (.readPage who) s)) ∧
  (∀ (who : Party) (s : State), ¬ Granted s.dev who .nvm Reg.Nvm.NVM_CMD true →
      Turned s (exec (.programPage who) s)) ∧
  (∀ (who : Party) (s : State), ¬ Granted s.dev who .nvm Reg.Nvm.NVM_CMD true →
      Turned s (exec (.eraseSector who) s)) ∧
  (∀ (who : Party) (s : State), ¬ Granted s.dev who .nvm Reg.Nvm.NVM_CMD true →
      Turned s (exec (.verifyA who) s)) ∧
  (∀ (who : Party) (s : State), ¬ Granted s.dev who .nvm Reg.Nvm.NVM_CMD true →
      Turned s (exec (.verifyB who) s)) ∧
  (∀ (who : Party) (p : Fin 64) (s : State), ¬ Granted s.dev who (.pipe p.val) Reg.Pipe.COMMIT true →
      Turned s (exec (.commit who p) s)) ∧
  (∀ (who : Party) (p : Fin 64) (line : BitVec 13) (s : State), ¬ Granted s.dev who (.pipe p.val) Reg.Pipe.COMMIT true →
      Turned s (exec (.lineTrigCommit who p line) s)) ∧
  (∀ (who : Party) (p : Fin 64) (s : State), ¬ Granted s.dev who (.pipe p.val) Reg.Pipe.CTRL true →
      Turned s (exec (.pipeRestart who p) s)) ∧
  (∀ (who : Party) (p : Fin 64) (v : Word) (s : State), ¬ Granted s.dev who (.pipe p.val) Reg.Pipe.COEF_DATA true →
      Turned s (exec (.coefDataWrite who p v) s)) ∧
  (∀ (who : Party) (v : Word) (s : State), ¬ Granted s.dev who .cmp Reg.Cmp.LUT_DATA true →
      Turned s (exec (.lutDataWrite who v) s)) ∧
  (∀ (who : Party) (s : State), ¬ Granted s.dev who .cmp Reg.Cmp.LUT_DATA false →
      Turned s (exec (.lutDataRead who) s) ∧ ∃ t, exec (.lutDataRead who) s = .next t ∧ t.dev.resp = 0) ∧
  (∀ (who : Party) (h : Fin 8) (s : State), ¬ Granted s.dev who .cmp (Reg.Cmp.COLOUR_CTRL h.val) true →
      Turned s (exec (.colourSwapRequest who h) s)) ∧
  (∀ (who : Party) (k : Fin 2) (s : State), ¬ Granted s.dev who (.wb k.val) Reg.Wb.WB_ARM true →
      Turned s (exec (.wbArm who k) s)) ∧
  (∀ (who : Party) (h : Fin 8) (s : State), ¬ Granted s.dev who (.head h.val) Reg.Head.HEAD_CTRL true →
      Turned s (exec (.headEnable who h) s)) ∧
  (∀ (who : Party) (h : Fin 8) (s : State), ¬ Granted s.dev who (.head h.val) Reg.Head.HEAD_CTRL true →
      Turned s (exec (.headDisable who h) s)) ∧
  (∀ (who : Party) (h : Fin 8) (s : State), ¬ Granted s.dev who (.head h.val) Reg.Head.HEAD_CTRL true →
      Turned s (exec (.headRestart who h) s)) ∧
  (∀ (who : Party) (n : Fin 8) (en : Bool) (h : Fin 8) (s : State), ¬ Granted s.dev who (.port n.val) Reg.Port.PORT_CTRL true →
      Turned s (exec (.portSourceChange who n en h) s)) ∧
  (∀ (who : Party) (n : Fin 8) (s : State), ¬ Granted s.dev who (.port n.val) Reg.Port.PORT_CTRL true →
      Turned s (exec (.retrain who n) s)) ∧
  (∀ (who : Party) (n : Fin 8) (v : Word) (s : State), ¬ Granted s.dev who (.port n.val) Reg.Port.AUX_CMD true →
      Turned s (exec (.auxCmd who n v) s)) ∧
  (∀ (who : Party) (p : Fin 4) (v : Word) (s : State), ¬ Granted s.dev who .cam (Reg.Cam.CSI_CTRL p.val) true →
      Turned s (exec (.csiPortEnable who p v) s)) ∧
  (∀ (who : Party) (p : Fin 4) (s : State), ¬ Granted s.dev who .cam (Reg.Cam.CSI_CTRL p.val) true →
      Turned s (exec (.csiRestart who p) s)) ∧
  (∀ (who : Party) (n : Fin 16) (v : Word) (s : State), ¬ Granted s.dev who (.stream n.val) Reg.Stream.STREAM_CTRL true →
      Turned s (exec (.streamEnable who n v) s)) ∧
  (∀ (who : Party) (n : Fin 16) (s : State), ¬ Granted s.dev who (.stream n.val) Reg.Stream.STREAM_CTRL true →
      Turned s (exec (.streamRestart who n) s)) ∧
  (∀ (who : Party) (n : Fin 8) (s : State), ¬ Granted s.dev who (.dw n.val) Reg.Dw.DW_APPLY true →
      Turned s (exec (.dwApply who n) s)) ∧
  (∀ (who : Party) (n : Fin 8) (s : State), ¬ Granted s.dev who (.dw n.val) Reg.Dw.DW_APPLY true →
      Turned s (exec (.dwRestart who n) s)) ∧
  (∀ (who : Party) (n : Fin 64) (s : State), ¬ Granted s.dev who (.ctx n.val) Reg.Ctx.CTX_CTRL true →
      Turned s (exec (.ctxEnable who n) s)) ∧
  (∀ (who : Party) (n : Fin 64) (s : State), ¬ Granted s.dev who (.ctx n.val) Reg.Ctx.CTX_CTRL true →
      Turned s (exec (.ctxDisable who n) s)) ∧
  (∀ (who : Party) (n : Fin 64) (v : BitVec 20) (s : State), ¬ Granted s.dev who (.ctx n.val) Reg.Ctx.QUEUE_WPTR true →
      Turned s (exec (.queueWptr who n v) s)) ∧
  (∀ (who : Party) (n : Fin 64) (s : State), ¬ Granted s.dev who (.ctx n.val) Reg.Ctx.CTX_CMD true →
      Turned s (exec (.ctxCmdReset who n) s)) ∧
  (∀ (who : Party) (n : Fin 64) (s : State), ¬ Granted s.dev who (.ctx n.val) Reg.Ctx.CTX_CMD true →
      Turned s (exec (.preemptSave who n) s)) ∧
  (∀ (who : Party) (n : Fin 64) (s : State), ¬ Granted s.dev who (.ctx n.val) Reg.Ctx.CTX_CMD true →
      Turned s (exec (.resume who n) s)) ∧
  (∀ (who : Party) (n : Fin 64) (s : State), ¬ Granted s.dev who (.ctx n.val) Reg.Ctx.CTX_CTRL true →
      Turned s (exec (.ctxRestart who n) s)) ∧
  (∀ (who : Party) (n : Fin 64) (v : BitVec 16) (s : State), ¬ Granted s.dev who (.ctx n.val) Reg.Ctx.PEN_WPTR true →
      Turned s (exec (.penWptr who n v) s)) ∧
  (∀ (who : Party) (s : State), ¬ Granted s.dev who .gpu Reg.Gpu.GPU_CTRL true →
      Turned s (exec (.gpuRestart who) s)) ∧
  (∀ (who : Party) (h : Fin 8) (s : State), ¬ Granted s.dev who (.chk h.val) Reg.Chk.CHK_COMMIT true →
      Turned s (exec (.chkCommit who h) s)) ∧
  (∀ (who : Party) (h : Fin 8) (s : State), ¬ Granted s.dev who (.chk h.val) Reg.Chk.CHK_COMMIT true →
      Turned s (exec (.chkRestart who h) s)) ∧
  (∀ (who : Party) (h : Fin 8) (v : BitVec 16) (s : State), ¬ Granted s.dev who (.chk h.val) Reg.Chk.FAIL_CLEAR true →
      Turned s (exec (.failClear who h v) s)) ∧
  (∀ (who : Party) (n : Fin 8) (v : Word) (s : State), ¬ Granted s.dev who (.lg n.val) Reg.Lg.LG_CTRL true →
      Turned s (exec (.lgEnable who n v) s)) ∧
  (∀ (who : Party) (n : Fin 8) (v : Word) (s : State), ¬ Granted s.dev who (.lg n.val) Reg.Lg.LG_CTRL true →
      Turned s (exec (.lgRestart who n v) s)) ∧
  (∀ (who : Party) (n : Fin 8) (v : Word) (s : State), ¬ Granted s.dev who (.panel n.val) Reg.Panel.PANEL_CTRL true →
      Turned s (exec (.panelEnable who n v) s)) ∧
  (∀ (who : Party) (n : Fin 8) (s : State), ¬ Granted s.dev who (.panel n.val) Reg.Panel.PANEL_CTRL true →
      Turned s (exec (.rebase who n) s)) ∧
  (∀ (who : Party) (n : Fin 8) (s : State), ¬ Granted s.dev who (.panel n.val) Reg.Panel.PANEL_CTRL true →
      Turned s (exec (.panelRestart who n) s)) ∧
  (∀ (who : Party) (n : Fin 8) (r : Fin 64) (reg : Fin 3) (v : Word) (s : State), ¬ Granted s.dev who (.panel n.val) (regionOff r.val reg.val) true →
      Turned s (exec (.regionWrite who n r reg v) s)) ∧
  (∀ (who : Party) (k : Fin 514) (v : Word) (s : State), ¬ Granted s.dev who (ringPage k.val) (ringBase k.val + Reg.Ring.RING_CFG) true →
      Turned s (exec (.ringCfgWrite who k v) s)) ∧
  (∀ (who : Party) (k : Fin 514) (v : Word) (s : State), ¬ Granted s.dev who (ringPage k.val) (ringBase k.val + Reg.Ring.RING_RPTR) true →
      Turned s (exec (.ringRptrWrite who k v) s)) ∧
  (∀ (who : Party) (s : State), ¬ Granted s.dev who .tch Reg.Tch.TCH_CTRL true →
      Turned s (exec (.tchRestart who) s)) ∧
  (∀ (who : Party) (s : State), ¬ Granted s.dev who (.key 0) Reg.Key0.KEY_CTRL true →
      Turned s (exec (.keyRebase who) s)) ∧
  (∀ (who : Party) (s : State), ¬ Granted s.dev who (.key 0) Reg.Key0.KEY_CTRL true →
      Turned s (exec (.keyRestart who) s)) ∧
  (∀ (who : Party) (b : Fin 2) (v : Word) (s : State), ¬ Granted s.dev who (.hap 0) (bstCtrl b.val) true →
      Turned s (exec (.boostCtrlWrite who b v) s)) ∧
  (∀ (who : Party) (n : Fin 16) (v : Word) (nF : Nat) (s : State), ¬ Granted s.dev who (.hap 0) (Reg.Hap.CH_CFG n.val) true →
      Turned s (exec (.chEnable who n v nF) s)) ∧
  (∀ (who : Party) (page : Option (Fin 512)) (n : Fin 16) (v : Word) (s : State), ¬ Granted s.dev who (trigPage (page.map (·.val))) (Reg.Trig.TRIG n.val) true →
      Turned s (exec (.trigger who page n v) s)) ∧
  (∀ (who : Party) (page : Option (Fin 512)) (n : Fin 16) (v : Word) (s : State), ¬ Granted s.dev who (trigPage (page.map (·.val))) (Reg.Trig.TRIG n.val) true →
      Turned s (exec (.stop who page n v) s)) ∧
  (∀ (who : Party) (s : State), ¬ Granted s.dev who (.hap 0) Reg.Hap.HAP_CTRL true →
      Turned s (exec (.hapRestart who) s)) ∧
  (∀ (who : Party) (s : State), ¬ Granted s.dev who (.hap 0) Reg.Hap.WH_DATA false →
      Turned s (exec (.whDataRead who) s) ∧ ∃ t, exec (.whDataRead who) s = .next t ∧ t.dev.resp = 0) ∧
  (∀ (who : Party) (v : Word) (s : State), ¬ Granted s.dev who (.aud 1) Reg.Aud1.ROUTE_COMMIT true →
      Turned s (exec (.routeCommit who v) s)) ∧
  (∀ (who : Party) (v : Word) (s : State), ¬ Granted s.dev who (.afe 1) Reg.Afe1.ST_APPLY true →
      Turned s (exec (.stApply who v) s)) ∧
  (∀ (who : Party) (o : Fin 4) (v : Word) (s : State), ¬ Granted s.dev who (.afe 0) (Reg.Afe0.SPK_CFG o.val) true →
      Turned s (exec (.spkEnable who o v) s)) ∧
  (∀ (who : Party) (page : Option (Fin 512)) (v : Word) (s : State), ¬ Granted s.dev who (asPageOf (page.map (·.val))) Reg.Aud2.AS_CFG true →
      Turned s (exec (.asEnable who page v) s)) ∧
  (∀ (who : Party) (page : Option (Fin 512)) (n : Fin 64) (v : Word) (s : State), ¬ Granted s.dev who (asPageOf (page.map (·.val))) (Reg.Aud2.AS_PTR n.val) true →
      Turned s (exec (.asPtrWrite who page n v) s)) ∧
  (∀ (who : Party) (s : State), ¬ Granted s.dev who (.aud 0) Reg.Aud0.AUD_CTRL true →
      Turned s (exec (.audRestart who) s)) ∧
  (∀ (who : Party) (s : State), ¬ Granted s.dev who (.afe 0) Reg.Afe0.AFE_CTRL true →
      Turned s (exec (.afeRestart who) s)) ∧
  (∀ (who : Party) (u : Fin 2) (s : State), ¬ Granted s.dev who (.padg u.val) Reg.Mgr.MGR_CMD true →
      Turned s (exec (.create who u) s)) ∧
  (∀ (who : Party) (u : Fin 2) (s : State), ¬ Granted s.dev who (.padg u.val) Reg.Mgr.MGR_CMD true →
      Turned s (exec (.quiesce who u) s)) ∧
  (∀ (who : Party) (u : Fin 2) (s : State), ¬ Granted s.dev who (.padg u.val) Reg.Mgr.MGR_CMD true →
      Turned s (exec (.resumePaddock who u) s)) ∧
  (∀ (who : Party) (u : Fin 2) (s : State), ¬ Granted s.dev who (.padg u.val) Reg.Mgr.MGR_CMD true →
      Turned s (exec (.reset who u) s)) ∧
  (∀ (who : Party) (u : Fin 2) (s : State), ¬ Granted s.dev who (.padg u.val) Reg.Mgr.MGR_CMD true →
      Turned s (exec (.remove who u) s)) ∧
  (∀ (who : Party) (u : Fin 2) (s : State), ¬ Granted s.dev who (.padg u.val) Reg.Mgr.MGR_CMD true →
      Turned s (exec (.claim who u) s)) ∧
  (∀ (who : Party) (u : Fin 2) (s : State), ¬ Granted s.dev who (.padg u.val) Reg.Mgr.MGR_CMD true →
      Turned s (exec (.release who u) s)) ∧
  (∀ (who : Party) (u : Fin 2) (s : State), ¬ Granted s.dev who (.padg u.val) Reg.Mgr.MGR_CMD true →
      Turned s (exec (.grant who u) s)) ∧
  (∀ (who : Party) (u : Fin 2) (s : State), ¬ Granted s.dev who (.padg u.val) Reg.Mgr.MGR_CMD true →
      Turned s (exec (.revoke who u) s)) ∧
  (∀ (who : Party) (u : Fin 2) (s : State), ¬ Granted s.dev who (.padg u.val) Reg.Mgr.MGR_CMD true →
      Turned s (exec (.lease who u) s)) ∧
  (∀ (who : Party) (u : Fin 2) (s : State), ¬ Granted s.dev who (.padg u.val) Reg.Mgr.MGR_CMD true →
      Turned s (exec (.unlease who u) s)) ∧
  (∀ (who : Party) (p : Fin 512) (v : Word) (s : State), ¬ Granted s.dev who (.pset p.val 1) gateUp.wptr true →
      Turned s (exec (.upWptr who p v) s)) ∧
  (∀ (who : Party) (p : Fin 512) (v : Word) (s : State), ¬ Granted s.dev who (.pset p.val 1) gateDown.wptr true →
      Turned s (exec (.downWptr who p v) s)) ∧
  (∀ (who : Party) (p : Fin 512) (v : Word) (s : State), ¬ Granted s.dev who (.pset p.val 1) gateUp.rptr true →
      Turned s (exec (.upRptr who p v) s)) ∧
  (∀ (who : Party) (p : Fin 512) (v : Word) (s : State), ¬ Granted s.dev who (.pset p.val 1) gateDown.rptr true →
      Turned s (exec (.downRptr who p v) s)) ∧
  (∀ (who : Party) (q : Fin 514) (v : Word) (s : State), ¬ Granted s.dev who (cqPage q.val) (cqBase q.val + Reg.Cq.CQ_CFG) true →
      Turned s (exec (.cqCfgWrite who q v) s)) ∧
  (∀ (who : Party) (q : Fin 514) (v : Word) (s : State), ¬ Granted s.dev who (cqPage q.val) (cqBase q.val + Reg.Cq.CQ_WPTR) true →
      Turned s (exec (.cqWptr who q v) s)) ∧
  (∀ (who : Party) (s : State), ¬ Granted s.dev who (.padg 2) Reg.Pool.FOT_CMD true →
      Turned s (exec (.take who) s)) ∧
  (∀ (who : Party) (s : State), ¬ Granted s.dev who (.padg 2) Reg.Pool.FOT_CMD true →
      Turned s (exec (.give who) s)) ∧
  (∀ (who : Party) (fn : Fin 514) (k : Fin 32) (s : State), ¬ Granted s.dev who (msixPage fn.val) (Reg.MSIX_CTRL k.val) true →
      Turned s (exec (.msixUnmask who fn k) s)) ∧
  (∀ (who : Party) (s : State), ¬ Granted s.dev who (.wld 0) Reg.Wld0.WLD_CTRL true →
      Turned s (exec (.wldRestart who) s)) ∧
  (∀ (who : Party) (v : Word) (s : State), ¬ Granted s.dev who .lcs Reg.Lcs.TAMPER_CLEAR true →
      Turned s (exec (.tamperClear who v) s)) ∧
  (∀ (who : Party) (code : BitVec 8) (s : State), ¬ Granted s.dev who .sdg Reg.Sdg.SDG_REQ true →
      Turned s (exec (.foldRequest who code) s)) ∧
  (∀ (who : Party) (entry : BitVec 16) (s : State), ¬ Granted s.dev who .sdg Reg.Sdg.SDG_REQ true →
      Turned s (exec (.releaseRequest who entry) s)) ∧
  (∀ (who : Party) (n : Fin 4) (v : Word) (seen : Bool) (s : State), ¬ Granted s.dev who (.can n.val) Reg.Can.TX_CMD true →
      Turned s (exec (.txCmd who n v seen) s)) ∧
  (∀ (who : Party) (n : Fin 4) (v : Word) (s : State), ¬ Granted s.dev who (.can n.val) Reg.Can.RX_POP true →
      Turned s (exec (.rxPop who n v) s)) ∧
  (∀ (who : Party) (n : Fin 4) (v : Word) (s : State), ¬ Granted s.dev who (.can n.val) Reg.Can.CAN_CTRL true →
      Turned s (exec (.canEnable who n v) s)) ∧
  (∀ (who : Party) (s : State), ¬ Granted s.dev who (.crn 0) Reg.Crn0.CRN_CMD true →
      Turned s (exec (.freeze who) s)) ∧
  (∀ (who : Party) (s : State), ¬ Granted s.dev who (.crn 0) Reg.Crn0.CRN_CMD true →
      Turned s (exec (.unfreeze who) s)) ∧
  (∀ (who : Party) (s : State), ¬ Granted s.dev who (.crn 0) Reg.Crn0.CRN_CMD true →
      Turned s (exec (.exportC who) s)) ∧
  (∀ (who : Party) (s : State), ¬ Granted s.dev who (.crn 0) Reg.Crn0.CRN_CMD true →
      Turned s (exec (.note who) s)) ∧
  (∀ (who : Party) (i : Fin 4) (v : Word) (s : State), ¬ Granted s.dev who (.pst 1) (Reg.Pst1.BANK_MODE i.val) true →
      Turned s (exec (.bankModeWrite who i v) s)) ∧
  (∀ (who : Party) (s : State), ¬ Granted s.dev who (.pst 0) Reg.Pst0.PST_CTRL true →
      Turned s (exec (.pstRestart who) s)) ∧
  (∀ (who : Party) (v : Word) (s : State), ¬ Granted s.dev who (.drc 0) Reg.Drc0.MR_CMD true →
      Turned s (exec (.mrCmd who v) s)) ∧
  (∀ (who : Party) (s : State), ¬ Granted s.dev who (.drc 0) Reg.Drc0.DRC_CTRL true →
      Turned s (exec (.drcRestart who) s)) ∧
  (∀ (who : Party) (s : State), ¬ Granted s.dev who (.drv 0) Reg.Drv0.DRV_CTRL true →
      Turned s (exec (.drvRestart who) s)) ∧
  (∀ (who : Party) (s : State), ¬ Granted s.dev who (.sys 1) Reg.Sys1.BLK_REQ true →
      Turned s (exec (.clkStop who) s)) ∧
  (∀ (who : Party) (s : State), ¬ Granted s.dev who (.sys 1) Reg.Sys1.BLK_REQ true →
      Turned s (exec (.clkRun who) s)) ∧
  (∀ (who : Party) (s : State), ¬ Granted s.dev who (.sys 1) Reg.Sys1.BLK_REQ true →
      Turned s (exec (.pwrOff who) s)) ∧
  (∀ (who : Party) (s : State), ¬ Granted s.dev who (.sys 1) Reg.Sys1.BLK_REQ true →
      Turned s (exec (.pwrOn who) s)) ∧
  (∀ (who : Party) (s : State), ¬ Granted s.dev who (.sys 1) Reg.Sys1.BLK_REQ true →
      Turned s (exec (.rstAssert who) s)) ∧
  (∀ (who : Party) (s : State), ¬ Granted s.dev who (.sys 1) Reg.Sys1.BLK_REQ true →
      Turned s (exec (.rstRelease who) s)) ∧
  (∀ (who : Party) (v : Word) (s : State), ¬ Granted s.dev who (.sys 2) Reg.Sys2.SUP_CFG true →
      Turned s (exec (.supCfgWrite who v) s)) ∧
  (∀ (who : Party) (on : Bool) (s : State), ¬ Granted s.dev who (.tly 0) Reg.Tly0.GLB_CTRL true →
      Turned s (exec (.run who on) s)) ∧
  (∀ (who : Party) (s : State), ¬ Granted s.dev who (.tly 0) Reg.Tly0.GLB_CTRL true →
      Turned s (exec (.clear who) s)) ∧
  (∀ (who : Party) (s : State), ¬ Granted s.dev who (.tly 0) Reg.Tly0.GLB_CTRL true →
      Turned s (exec (.tlyRestart who) s)) ∧
  (∀ (who : Party) (k : Fin 128) (s : State), ¬ Granted s.dev who (tlyPage k.val) (Reg.Tly1.COUNT_LO (k.val % 64)) false →
      Turned s (exec (.countLoRead who k) s) ∧ ∃ t, exec (.countLoRead who k) s = .next t ∧ t.dev.resp = 0) ∧
  (∀ (who : Party) (k : Fin 128) (v : Word) (s : State), ¬ Granted s.dev who (tlyPage k.val) (Reg.Tly1.COUNT_LO (k.val % 64)) true →
      Turned s (exec (.countLoWrite who k v) s)) ∧
  (∀ (who : Party) (k : Fin 128) (v : Word) (s : State), ¬ Granted s.dev who (tlyPage k.val) (Reg.Tly1.COUNT_HI (k.val % 64)) true →
      Turned s (exec (.countHiWrite who k v) s)) ∧
  (∀ (who : Party) (s : State), ¬ Granted s.dev who (.tly 3) Reg.Tly3.SMP_POP true →
      Turned s (exec (.smpPop who) s)) ∧
  (∀ (who : Party) (v : Word) (s : State), ¬ Granted s.dev who (.sys 3) Reg.Sys3.GPIO_EDGE_CLR true →
      Turned s (exec (.gpioEdgeClr who v) s)) ∧
  (∀ (who : Party) (p : Fin 512) (s : State), ¬ Granted s.dev who (.pset p.val 0) Reg.Pad.PAD_STAT false →
      Turned s (exec (.padStatRead who p) s) ∧ ∃ t, exec (.padStatRead who p) s = .next t ∧ t.dev.resp = 0) ∧
  (∀ (who : Party) (s : State), ¬ Granted s.dev who .pwr Reg.Pwr.RAIL_MEAS false →
      Turned s (exec (.railMeasRead who) s) ∧ ∃ t, exec (.railMeasRead who) s = .next t ∧ t.dev.resp = 0)

/-- The invariant of the memory tables (rising addresses, no entry equal to what an unlisted address reads as) is kept
by every request to the memories. -/
def Obligations.MemoryCommandsKeepTheCanonicalForm : Prop :=
  ∀ (s t : State), s.dev.memWf = true →
    (∀ tier fold off bytes v flips turn, exec (.pastureAccess tier fold off bytes v flips turn) s = .next t → t.dev.memWf = true) ∧
    (∀ who src port a n v flips dt slots code,
      exec (.dramRequest who src port a n v flips dt slots code) s = .next t → t.dev.memWf = true) ∧
    (∀ n kind a bytes v, exec (.coreMemoryAccess n kind a bytes v) s = .next t → t.dev.memWf = true) ∧
    (∀ p off w v, exec (.apertureAccess p off w v) s = .next t → t.dev.memWf = true)

/-- R56: a write to an SQ register clears under the current SEQ alone. -/
def Obligations.SequenceClearClearsUnderTheCurrentSeq : Prop :=
  ∀ (who : Party) (addr : BitVec 32) (v : Word) (q r : Page) (o : Nat) (row : Row) (s : State),
    landOf who addr.toNat = .page q → aimAt s.dev who q (addr.toNat % 0x1000) = .at_ r o →
    o = Reg.EVENT ∨ o = Reg.PARITY_STAT → r.row? o = some row → row.acc = .sq → Granted s.dev who r o true →
    ∃ t, exec (.sequenceClear who addr v) s = .next t ∧ t.fuses = s.fuses ∧ t.pending = s.pending ∧
      (let d := cycleEnd (gpIntervene r s.dev)
       (fld v 23 0 ≠ 0 → fld v 31 24 = rf d r o 31 24 →
          (∀ k, k < 24 → rb t.dev r o k = (rb d r o k && !bitOf v k)) ∧ rf t.dev r o 31 24 = rf d r o 31 24 ∧
          ∀ (x : Page) (y : Nat), x.base + y ≠ r.base + o → ¬ pbaAt (x.base + y) → rg t.dev x y = rg d x y) ∧
       (fld v 23 0 ≠ 0 → fld v 31 24 ≠ rf d r o 31 24 →
          rf t.dev r Reg.STAT_COUNT 31 16 = (rf d r Reg.STAT_COUNT 31 16 + 1) % 65536 ∧
          rf t.dev r Reg.STAT_COUNT 15 0 = rf d r Reg.STAT_COUNT 15 0 ∧
          ∀ (x : Page) (y : Nat), x.base + y ≠ r.base + Reg.STAT_COUNT → rg t.dev x y = rg d x y) ∧
       (fld v 23 0 = 0 → ∀ (x : Page) (y : Nat), ¬ pbaAt (x.base + y) → rg t.dev x y = rg d x y) ∧
       { t.dev with regs := d.regs, out := d.out } = d)

/-- R55: what an event does to the EVENT register, and when the interrupt of a page is asserted. -/
def Obligations.EventSetsItsBitAndAssertsTheInterrupt : Prop :=
  ∀ (p : Page) (d : Dev),
    (∀ k, k < 24 →
      rb (event p k d) p Reg.EVENT k = true ∧ rf (event p k d) p Reg.EVENT 31 24 = (rf d p Reg.EVENT 31 24 + 1) % 256 ∧
      (∀ j, j < 24 → j ≠ k → rb (event p k d) p Reg.EVENT j = rb d p Reg.EVENT j) ∧
      (∀ (x : Page) (y : Nat), x.base + y ≠ p.base + Reg.EVENT → ¬ pbaAt (x.base + y) → rg (event p k d) x y = rg d x y) ∧
      { event p k d with regs := d.regs, out := d.out } = d) ∧
    (irqOn d p = true ↔ ∃ k, k < 24 ∧ rb d p Reg.EVENT k = true ∧ rb d p Reg.EVENT_EN k = true)

/-- R50 and R51: the decoding of an offset into a slot and the search for the slot that an access lands on. -/
def Obligations.SlotsRepeatAndFallBack : Prop :=
  ∀ (p : Page) (o : Nat),
    slotOffset p o = slotOffset p (o % 0x400) ∧
    (p.row? (4 * (o / 4 % 256)) ≠ none → slotOffset p o = 4 * (o / 4 % 256)) ∧
    (p.row? (4 * (o / 4 % 256)) = none →
      slotOffset p o = slotOffset p (4 * (o / 4 % 256 - 2 ^ Nat.log2 (o / 4 % 256)))) ∧
    p.row? 0 ≠ none ∧
    (p.isWindow = false → ∀ (d : Dev) (who : Party), aimAt d who p o = .at_ p (slotOffset p o))

/-- R95: when the fused security version rises, and that nothing else moves it. -/
def Obligations.OnlyFullCompositionRaisesTheFusedVersion : Prop :=
  ∀ (c : Instr) (s t : State), exec c s = .next t →
    (c = .fullComposition → fullReady s.dev = true → s.dev.boot.flags.testBit 0 = true → s.fuses.svn < s.dev.boot.svn →
      t.fuses.svn = s.dev.boot.svn) ∧
    (¬ (c = .fullComposition ∧ fullReady s.dev = true ∧ s.dev.boot.flags.testBit 0 = true ∧ s.fuses.svn < s.dev.boot.svn) →
      t.fuses.svn = s.fuses.svn)

/-- R35: an access to an address of no page. -/
def Obligations.UnmappedAccessIsReported : Prop :=
  ∀ (fold write : Bool) (addr : BitVec 32) (s : State), s.dev.firing = [] → pageOf addr.toNat = none →
    ∃ t, exec (.unmappedAccess fold write addr) s = .next t ∧ t.fuses = s.fuses ∧ t.pending = s.pending ∧
      (write = false → t.dev.resp = 0) ∧
      rb t.dev (.sys 0) Reg.EVENT Reg.Sys0.EV_UNMAPPED = true ∧
      Reported (.sys 0) Reg.Sys0.SRC_UNMAPPED_ACCESS s.dev t.dev ∧
      FaultsOnly s.dev { t.dev with resp := s.dev.resp } ∧
      ∀ (x : Page) (y : Nat), x.base + y ∉ [(Page.sys 0).base + Reg.EVENT, (Page.sys 0).base + Reg.Sys0.UNMAPPED_ADDR,
        (Page.sys 0).base + Reg.Sys0.UNMAPPED_INFO] → ¬ pbaAt (x.base + y) → rg t.dev x y = rg s.dev x y

/-- R12 and R13: what a raised fault source does at each class; the recording and the reaction of the Sheepdog follow
from the report. -/
def Obligations.FaultClassDecidesIsolation : Prop :=
  ∀ (p : Page) (src : Nat) (d : Dev),
    (d.firing = [] → Reported p src d (cycleEnd (fireSource p src d))) ∧ FaultsOnly d (fireSource p src d) ∧
    (classOf d p src < 2 → (fireSource p src d).iso = d.iso ∧ (fireSource p src d).regs = d.regs ∧ (fireSource p src d).ctxs = d.ctxs) ∧
    (2 ≤ classOf d p src → isoOf (fireSource p src d) p = true)

/-- R59: the guarded pair. The value takes effect on its complement; any other value discards it, sets
EVENT.GUARD_FAIL, counts and raises GUARD_FAIL. -/
def Obligations.GuardedPairTakesOnlyTheComplement : Prop :=
  ∀ (who who₂ : Party) (addr addr₂ : BitVec 32) (v w : Word) (q q₂ r : Page) (o : Nat) (row : Row) (s t : State),
    landOf who addr.toNat = .page q → aimAt s.dev who q (addr.toNat % 0x1000) = .at_ r o →
    r.row? o = some row → row.acc = .gp → o ≠ Reg.GUARD → Granted s.dev who r o true →
    exec (.gpWrite who addr v) s = .next t →
    landOf who₂ addr₂.toNat = .page q₂ → aimAt t.dev who₂ q₂ (addr₂.toNat % 0x1000) = .at_ r Reg.GUARD →
    routeOf t.dev who₂ r = .direct → (r.onDale && daleAbsent t.dev) = false → blkDead t.dev r true = false →
    mayAccess t.dev r who₂ Reg.GUARD true = true →
    t.dev = cycleEnd { gpIntervene r s.dev with gp := t.dev.gp } ∧
    tabGet (fun _ => none) t.dev.gp r.base = some { off := o, val := v, party := who } ∧
    ∃ u, exec (.guardWrite who₂ addr₂ w) t = .next u ∧
      (let e := { t.dev with gp := tabSet (fun _ => none) t.dev.gp r.base none }
       (w = ~~~v → u.dev = cycleEnd (gpTake r { off := o, val := v, party := who } e) ∧
         (o = Reg.OWNER → who = .fold → rb t.dev r Reg.OWNER 31 = false → ownerBad r v = false → (∀ n, r = .stream n → n < 16) →
           rg u.dev r o = (rg t.dev r o &&& ~~~ 0x800303FF) ||| (v &&& 0x800303FF)) ∧
         (o = Reg.OWNER → rb t.dev r Reg.OWNER 31 = true ∨ ownerBad r v = true → rg u.dev r o = rg t.dev r o) ∧
         (o = Reg.FAULT_CLASS → isoOf t.dev r = false →
           (∀ n, n < 8 → (r.source n).isSome = true →
             r.adjustClass n (fld v (3 * n + 2) (3 * n)) = fld v (3 * n + 2) (3 * n)) →
           rg u.dev r o &&& 0x00FFFFFF = classFit r v &&& 0x00FFFFFF)) ∧
       (w ≠ ~~~v → rb u.dev r Reg.EVENT Reg.EV_GUARD_FAIL = true ∧
         rf u.dev r Reg.STAT_COUNT 15 0 = (rf t.dev r Reg.STAT_COUNT 15 0 + 1) % 65536 ∧
         rg u.dev r Reg.OWNER = rg t.dev r Reg.OWNER ∧ rg u.dev r Reg.FAULT_CLASS = rg t.dev r Reg.FAULT_CLASS ∧
         Reported r Reg.SRC_GUARD_FAIL t.dev u.dev ∧ FaultsOnly e u.dev))

/-- R477 and R478 but for the caches, which the model does not hold: a call into the Fold world and its return. -/
def Obligations.FoldCallReturnsWithScrubbedRegisters : Prop :=
  ∀ (n : Fin 4) (file : CoreFile) (s : State), s.dev.firing = [] →
    coreGoes s.dev n.val = true → (coreOf s.dev n.val).fold = false → file.mode ≠ 0 → isoOf s.dev (.wld 0) = false →
    ∃ t, exec (.foldCall n file) s = .next t ∧
      (let c := coreOf t.dev n.val
       c.fold = true ∧ c.entry = some (.call (file.pc + 4) file.mode) ∧ c.shadow = (List.range 4).map (regAt file.x) ∧
       c.regs = { file with pc := rg s.dev (.wld 0) Reg.Wld0.CALL_VEC_HI ++ rg s.dev (.wld 0) Reg.Wld0.CALL_VEC_LO, mode := 1 }) ∧
      rf t.dev (.wld 0) (Reg.Wld0.SWITCH_COUNT n.val) 31 16 = (rf s.dev (.wld 0) (Reg.Wld0.SWITCH_COUNT n.val) 31 16 + 1) % 65536 ∧
      (∀ j, j ≠ n.val → coreOf t.dev j = coreOf s.dev j) ∧
      { t.dev with wld := s.dev.wld, regs := s.dev.regs } = s.dev ∧
      ∀ out : CoreFile, out.mode ≠ 0 → coreGoes t.dev n.val = true →
        ∃ u, exec (.foldRet n out) t = .next u ∧
          (let c := coreOf u.dev n.val
           c.fold = false ∧ c.regs.pc = file.pc + 4 ∧ c.regs.mode = file.mode ∧
           (∀ i, i < 4 → regAt c.regs.x i = regAt file.x i) ∧
           (∀ i, 9 ≤ i → i ≤ 12 → regAt c.regs.x i = regAt out.x i) ∧
           (∀ i, 4 ≤ i → i < 31 → ¬ (9 ≤ i ∧ i ≤ 12) → regAt c.regs.x i = 0) ∧
           c.regs.f = List.replicate 32 0 ∧ c.regs.fcsr = 0) ∧
          (∀ j, j ≠ n.val → coreOf u.dev j = coreOf s.dev j) ∧ { u.dev with wld := t.dev.wld } = t.dev

/-- R537: the NOTE records of the Fold part. -/
def Obligations.NotesFollowAtOneHundredMicroseconds : Prop :=
  ∀ (who : Party) (s : State), s.dev.firing = [] → Granted s.dev who (.crn 0) Reg.Crn0.CRN_CMD true →
    isoOf (gpIntervene (.crn 0) s.dev) (.crn 0) = false →
    ∃ t, exec (.note who) s = .next t ∧ t.fuses = s.fuses ∧ t.pending = s.pending ∧
      (let d := gpIntervene (.crn 0) s.dev
       ((∃ n, d.cairn.noteTime = some n ∧ d.us < n + 100) →
          t.dev.cairn = { d.cairn with lost := (d.cairn.lost + 1) % 65536 } ∧
          rf t.dev (.crn 0) Reg.Crn0.CRN_STAT 15 0 = (d.cairn.lost + 1) % 65536 ∧
          Reported (.crn 0) Reg.Crn0.SRC_CRN_LOST d t.dev) ∧
       ((∀ n, d.cairn.noteTime = some n → n + 100 ≤ d.us) → d.cairn.post ≠ some 0 →
          t.dev.cairn.noteTime = some d.us ∧ t.dev.cairn.lost = d.cairn.lost ∧
          (∃ r, t.dev.cairn.ring.getLast? = some r ∧ r.kind = 9 ∧ r.time = d.us % 2 ^ 48 ∧
            r.d0 = (rg d (.crn 0) Reg.Crn0.CRN_NOTE0).toNat ∧ r.d1 = (rg d (.crn 0) Reg.Crn0.CRN_NOTE1).toNat) ∧
          t.dev.cairn.ring.dropLast = d.cairn.ring.drop (d.cairn.ring.length + 1 - 2048)))

/-- R485: what a read of a CLAIM register answers. -/
def Obligations.ClaimNamesTheLowestAssertedPage : Prop :=
  ∀ (who : Party) (kind : Fin 2) (addr : BitVec 32) (q : Page) (s : State),
    (let o := if kind.val = 0 then Reg.Wld0.FOLD_CLAIM else Reg.Wld1.FIELD_CLAIM
     landOf who addr.toNat = .page q → aimAt s.dev who q (addr.toNat % 0x1000) = .at_ (.wld kind.val) o →
      Granted s.dev who (.wld kind.val) o false →
      ∃ t, exec (.registerRead who addr .b4) s = .next t ∧ t.fuses = s.fuses ∧ t.pending = s.pending ∧
        (let d := cycleEnd (gpIntervene (.wld kind.val) s.dev)
         let up (p : Page) := pageOf (p.base + Reg.EVENT) = some p ∧ irqOn d p = true ∧ rf d p Reg.OWNER 17 16 = kind.val
         t.dev = { d with resp := t.dev.resp } ∧
         ((∃ p, up p ∧ t.dev.resp.toNat = p.base ∧ ∀ r, up r → p.base ≤ r.base) ∨
          (t.dev.resp = 0 ∧ ∀ r, ¬ up r))))

/-- R630: the overflow of a Tally count. -/
def Obligations.TallyCountsPassToTheResidue : Prop :=
  ∀ (k : Fin 128) (x fx : Nat) (d1 d2 : Word) (s : State),
    (let c := rg s.dev (.tly 0) (Reg.Tly0.CFG k.val)
     let n := tlyCount s.dev k.val + tlyAdd (fld c 28 27) (rf s.dev (.tly 3) (Reg.Tly3.THR (fld c 26 24)) 15 0)
       (tlyValue s.dev c x fx) (tabGet (fun _ => 0) s.dev.tly.prev k.val)
     tlyRuns s.dev = true → bitOf c 31 = true → tlyListed c = true → (tlyWorld c && fld c 30 29 == 3) = false →
     ∃ t, exec (.tallyCount k x fx d1 d2) s = .next t ∧ t.fuses = s.fuses ∧ t.pending = s.pending ∧
       tlyCount t.dev k.val = n % 2 ^ 48 ∧
       (2 ^ 48 ≤ n →
         rb t.dev (tlyPage k.val) (Reg.Tly1.COUNT_HI (k.val % 64)) 31 = true ∧
         rb t.dev (.tly 0) (Reg.Tly0.OVF_STAT (k.val / 32)) (k.val % 32) = true ∧
         rb t.dev (.tly 0) Reg.EVENT Reg.Tly0.EV_OVERFLOW = true) ∧
       (n < 2 ^ 48 →
         rb t.dev (tlyPage k.val) (Reg.Tly1.COUNT_HI (k.val % 64)) 31 = rb s.dev (tlyPage k.val) (Reg.Tly1.COUNT_HI (k.val % 64)) 31 ∧
         rg t.dev (.tly 0) (Reg.Tly0.OVF_STAT (k.val / 32)) = rg s.dev (.tly 0) (Reg.Tly0.OVF_STAT (k.val / 32)) ∧
         rg t.dev (.tly 0) Reg.EVENT = rg s.dev (.tly 0) Reg.EVENT) ∧
       (∀ (who : Party) (v : Word),
         Granted t.dev who (tlyPage k.val) (Reg.Tly1.COUNT_HI (k.val % 64)) true →
         ∃ u, exec (.countHiWrite who k v) t = .next u ∧
           rb u.dev (tlyPage k.val) (Reg.Tly1.COUNT_HI (k.val % 64)) 31 = false ∧
           rb u.dev (.tly 0) (Reg.Tly0.OVF_STAT (k.val / 32)) (k.val % 32) = false) ∧
       (∀ who : Party, Granted t.dev who (.tly 0) Reg.Tly0.GLB_CTRL true →
         ∃ u, exec (.clear who) t = .next u ∧ tlyCount u.dev k.val = 0 ∧
           rb u.dev (tlyPage k.val) (Reg.Tly1.COUNT_HI (k.val % 64)) 31 = false ∧
           rb u.dev (.tly 0) (Reg.Tly0.OVF_STAT (k.val / 32)) (k.val % 32) = false))

/-- R632: the two halves of a count. -/
def Obligations.TallyHalvesMoveTogether : Prop :=
  ∀ (who : Party) (k : Fin 128) (s : State),
    (Granted s.dev who (tlyPage k.val) (Reg.Tly1.COUNT_LO (k.val % 64)) false →
      (let d := cycleEnd (gpIntervene (tlyPage k.val) s.dev)
       ∃ t, exec (.countLoRead who k) s = .next t ∧ t.dev.resp.toNat = tlyCount d k.val % 2 ^ 32 ∧
         { t.dev with tly := d.tly, resp := d.resp } = d ∧
         ∀ r : State, tabGet (fun _ => none) r.dev.tly.cap (k.val / 64) = tabGet (fun _ => none) t.dev.tly.cap (k.val / 64) →
           ∀ (addr : BitVec 32) (q : Page), landOf who addr.toNat = .page q →
           aimAt r.dev who q (addr.toNat % 0x1000) = .at_ (tlyPage k.val) (Reg.Tly1.COUNT_HI (k.val % 64)) →
           Granted r.dev who (tlyPage k.val) (Reg.Tly1.COUNT_HI (k.val % 64)) false →
           ∃ u, exec (.registerRead who addr .b4) r = .next u ∧
             u.dev.resp.toNat % 2 ^ 16 = tlyCount d k.val / 2 ^ 32 ∧
             u.dev.resp.toNat.testBit 31 = rb (gpIntervene (tlyPage k.val) r.dev) (tlyPage k.val) (Reg.Tly1.COUNT_HI (k.val % 64)) 31)) ∧
    (∀ v : Word, Granted s.dev who (tlyPage k.val) (Reg.Tly1.COUNT_LO (k.val % 64)) true →
      ∃ t, exec (.countLoWrite who k v) s = .next t ∧
        (let d := cycleEnd (gpIntervene (tlyPage k.val) s.dev)
         { t.dev with tly := d.tly } = d) ∧
        ∀ (w : Word) (r : State),
          tabGet (fun _ => none) r.dev.tly.held k.val = tabGet (fun _ => none) t.dev.tly.held k.val →
          Granted r.dev who (tlyPage k.val) (Reg.Tly1.COUNT_HI (k.val % 64)) true →
          ∃ u, exec (.countHiWrite who k w) r = .next u ∧ tlyCount u.dev k.val = v.toNat + 2 ^ 32 * fld w 15 0)

/-- R108: the bytes that the NVM commands move. That PROGRAM_PAGE stores the buffer as it stands, over whatever was
there, is the model's reading (log entry 55). -/
def Obligations.NvmCommandsMoveTheirBytes : Prop :=
  ∀ (code a : Nat) (s : State), s.dev.nvmc.cmd = some (code, a) → s.dev.nvmc.waits = false → isoOf s.dev .nvm = false → 1 ≤ code → code ≤ 5 →
    ∃ t, exec (.nvmCmdDone false) s = .next t ∧ t.fuses = s.fuses ∧ t.pending = s.pending ∧
      t.dev.pasture = s.dev.pasture ∧ t.dev.dram = s.dev.dram ∧ t.dev.nvmc.cmd = none ∧
      rf t.dev .nvm Reg.Nvm.NVM_STAT 11 8 = 0 ∧ rb t.dev .nvm Reg.EVENT Reg.Nvm.EV_DONE = true ∧
      (code = 1 → t.dev.nvm = s.dev.nvm ∧ ∀ i, i < 256 →
        (rg t.dev .nvm (Reg.Nvm.NVM_BUF (i / 4))).toNat / 256 ^ (i % 4) % 256 = (nvmByte s.dev (a + i)).toNat) ∧
      (code = 2 → ∀ c, nvmByte t.dev c =
        if a ≤ c ∧ c < a + 256 then
          BitVec.ofNat 8 ((rg s.dev .nvm (Reg.Nvm.NVM_BUF ((c - a) / 4))).toNat / 256 ^ ((c - a) % 4))
        else nvmByte s.dev c) ∧
      (code = 3 → ∀ c, nvmByte t.dev c = if a ≤ c ∧ c < a + 0x10000 then 0xFF else nvmByte s.dev c) ∧
      (code = 4 ∨ code = 5 → t.dev.nvm = s.dev.nvm)

/-- A core's store to DRAM: the bytes stored, and the frame. -/
def Obligations.CoreStoreWritesExactlyItsBytes : Prop :=
  ∀ (n : Fin 4) (a : BitVec 64) (bytes : Nat) (bs : List Byte) (s : State), s.dev.firing = [] →
    coreGoes s.dev n.val = true →
    (!(coreOf s.dev n.val).fold && belowLine s.dev a.toNat bs.length) = false →
    rangeOk s.dev (.party (if (coreOf s.dev n.val).fold then .fold else .field)) a.toNat bs.length = true →
    a.toNat + bs.length ≤ pastBase →
    ∃ t, exec (.coreMemoryAccess n 2 a bytes (some bs)) s = .next t ∧ t.fuses = s.fuses ∧ t.pending = s.pending ∧
      (∀ c, dramByte t.dev c =
        if a.toNat ≤ c ∧ c < a.toNat + bs.length then bs.getD (c - a.toNat) 0 else dramByte s.dev c) ∧
      { t.dev with dram := s.dev.dram, drc := s.dev.drc, data := s.dev.data, poisoned := s.dev.poisoned } = s.dev ∧
      { t.dev.drc with err := s.dev.drc.err } = s.dev.drc

/-- A write to Pasture: the bytes stored, and the frame. -/
def Obligations.PastureWriteStoresExactlyItsBytes : Prop :=
  ∀ (r : PastReq) (bs : List Byte) (s : State), s.dev.firing = [] → r.v = some bs →
    r.off.toNat + bs.length ≤ 0x2000000 → r.fold = true ∨ pastFold s.dev ≤ r.off.toNat →
    (∀ w, r.off.toNat / 8 ≤ w → 8 * w < r.off.toNat + bs.length → pastErr s.dev w = 0) →
    (∀ b, bankOf r.off.toNat ≤ b → b * bankBytes < r.off.toNat + bs.length → bankState s.dev b ≠ 2) →
    ∃ t, exec (.pastureAccess r.tier r.fold r.off r.bytes r.v [] ⟨r.num, r.waited, []⟩) s = .next t ∧ t.fuses = s.fuses ∧ t.pending = s.pending ∧
      (∀ c, pastByte t.dev c =
        if r.off.toNat ≤ c ∧ c < r.off.toNat + bs.length then bs.getD (c - r.off.toNat) 0 else pastByte s.dev c) ∧
      t.dev.dram = s.dev.dram ∧ t.dev.nvm = s.dev.nvm ∧ t.dev.drc = s.dev.drc ∧
      { t.dev with pasture := s.dev.pasture, pst := s.dev.pst, regs := s.dev.regs, data := s.dev.data, poisoned := s.dev.poisoned } = s.dev

/-- R489: the Field world and the banks below the Pasture fold line. That a field which repeats OFF asks nothing is
the model's reading (log entry 168). -/
def Obligations.FieldCannotTurnOffBanksBelowTheFoldLine : Prop :=
  ∀ (who : Party) (i : Fin 4) (v : Word) (s : State),
    (let d := gpIntervene (.pst 1) s.dev
     let asks (j : Nat) : Prop := 2 ≤ fld v (2 * j + 1) (2 * j) ∧
       ¬ (fld v (2 * j + 1) (2 * j) = 2 ∧ bankMode d (16 * i.val + j) = 2) ∧ (16 * i.val + j) * bankBytes < pastFold d
     Granted s.dev who (.pst 1) (Reg.Pst1.BANK_MODE i.val) true → who ≠ .fold → isoOf d (.pst 1) = false →
     ∃ t, exec (.bankModeWrite who i v) s = .next t ∧ t.fuses = s.fuses ∧ t.pending = s.pending ∧
       (∀ j, j < 16 → asks j →
         bankMode t.dev (16 * i.val + j) = bankMode d (16 * i.val + j) ∧
         bankState t.dev (16 * i.val + j) = bankState d (16 * i.val + j) ∧
         tabGet (fun _ => none) t.dev.pst.latched (16 * i.val + j) = tabGet (fun _ => none) d.pst.latched (16 * i.val + j) ∧
         rb t.dev (.wld 0) Reg.EVENT Reg.Wld0.EV_PASTURE_OFF_REFUSED = true) ∧
       ∃ l : List Nat, l.Nodup ∧ (∀ j, j ∈ l ↔ j < 16 ∧ asks j) ∧
         rf t.dev (.wld 0) Reg.Wld0.DENY_COUNT 15 0 = (rf d (.wld 0) Reg.Wld0.DENY_COUNT 15 0 + l.length) % 65536)

/-- R65, for the RWL registers: the lock makes them read-only; without it they take their writable bits. -/
def Obligations.LockMakesLockedFieldsReadOnly : Prop :=
  ∀ (who : Party) (addr : BitVec 32) (v : BitVec 64) (sense : Nat) (q r : Page) (o : Nat) (row : Row) (s : State),
    landOf who addr.toNat = .page q → aimAt s.dev who q (addr.toNat % 0x1000) = .at_ r o →
    r.row? o = some row → row.acc = .rwl → Granted s.dev who r o true →
    ∃ t, exec (.registerWrite who addr .b4 v sense) s = .next t ∧ t.fuses = s.fuses ∧ t.pending = s.pending ∧
      (let d := gpIntervene r s.dev
       (rb d r Reg.OWNER 31 = true →
          (∀ (x : Page) (y : Nat), x.base + y ≠ r.base + Reg.EVENT → ¬ pbaAt (x.base + y) → rg t.dev x y = rg d x y) ∧
          rb t.dev r Reg.EVENT Reg.EV_LOCKED_WRITE = true) ∧
       (rb d r Reg.OWNER 31 = false →
          rg t.dev r o = (rg d r o &&& ~~~ BitVec.ofNat 32 row.mask) ||| (v.setWidth 32 &&& BitVec.ofNat 32 row.mask) ∧
          ∀ (x : Page) (y : Nat), x.base + y ≠ r.base + o → rg t.dev x y = rg d x y) ∧
       t.dev.pasture = d.pasture ∧ t.dev.dram = d.dram ∧ t.dev.nvm = d.nvm)

/-- CREATE: what it does to its paddock, and that no other paddock, no frame, no map and no memory changes. That the
state changes at once and the status follows is the model's choice (log entry 120). -/
def Obligations.CreateOpensAVoidPaddock : Prop :=
  ∀ (who : Party) (u : Fin 2) (s : State),
    (let d := gpIntervene (.padg u.val) s.dev
     let p := mgrArg d u.val 0
     Granted s.dev who (.padg u.val) Reg.Mgr.MGR_CMD true → (upOf d u.val).cmd = none → isoOf d (.padg u.val) = false → d.pad.full = true →
     portOf d p = some u.val → padState d p = 0 → vfLive d p = true → p < 512 →
     ∃ t, exec (.create who u) s = .next t ∧ t.fuses = s.fuses ∧ t.pending = s.pending ∧
       padState t.dev p = 1 ∧ rb t.dev (.pset p 0) Reg.EVENT Reg.Pad.EV_STATE = true ∧
       rf t.dev (.pset p 0) Reg.Pad.PAD_STAT 9 8 = 0 ∧
       rg t.dev (.padg u.val) Reg.Mgr.MGR_RESULT = 0x80010000 ∧ (upOf t.dev u.val).cmd = some (1, 0) ∧
       (∀ q, q ≠ p → padState t.dev q = padState d q) ∧
       t.dev.pad.fot = d.pad.fot ∧ t.dev.pad.maps = d.pad.maps ∧
       t.dev.pasture = d.pasture ∧ t.dev.dram = d.dram ∧ t.dev.nvm = d.nvm)

/-- GRANT: the frames and the pages it changes, and that it changes none where one of them is not as it must be
(R445). -/
def Obligations.GrantMovesOwnFramesOnly : Prop :=
  ∀ (who : Party) (u : Fin 2) (s : State),
    (let d := gpIntervene (.padg u.val) s.dev
     let p := mgrArg d u.val 0
     let f := mgrArg d u.val 1
     let i := mgrArg d u.val 2
     let n := mgrArg d u.val 3
     Granted s.dev who (.padg u.val) Reg.Mgr.MGR_CMD true → (upOf d u.val).cmd = none → isoOf d (.padg u.val) = false → d.pad.full = true →
     portOf d p = some u.val → 1 ≤ padState d p → padState d p ≤ 4 →
     1 ≤ n → n ≤ 512 → f + n ≤ 16384 → i + n ≤ 8192 →
     ∃ t, exec (.grant who u) s = .next t ∧ t.fuses = s.fuses ∧ t.pending = s.pending ∧
       t.dev.pasture = d.pasture ∧ t.dev.dram = d.dram ∧ t.dev.nvm = d.nvm ∧
       ((∀ k, k < n → fotKind d (f + k) = fkManager ∧ fotTag d (f + k) = u.val ∧ bitOf (pmapGet d p (i + k)) 31 = false) →
         (upOf t.dev u.val).cmd = some (0x12, 0) ∧
         (∀ g, fotGet t.dev g = if f ≤ g ∧ g < f + n then fotWord fkPaddock p (i + (g - f)) else fotGet d g) ∧
         (∀ q j, j < 8192 → pmapGet t.dev q j =
           if q = p ∧ i ≤ j ∧ j < i + n then BitVec.ofNat 32 (0x80000000 + f + (j - i)) else pmapGet d q j)) ∧
       ((∃ k, k < n ∧ ¬ (fotKind d (f + k) = fkManager ∧ fotTag d (f + k) = u.val ∧ bitOf (pmapGet d p (i + k)) 31 = false)) →
         (upOf t.dev u.val).cmd = some (0x12, 5) ∧ t.dev.pad.fot = d.pad.fot ∧ t.dev.pad.maps = d.pad.maps))

/-- Register accesses: writes, reads, pairs, HOLD, scrubs and upsets: what each command answers when nothing turns it
away (R53, R35, R56, R59, R48, R492, R62, R60, R61). -/
def Obligations.RegisterCommandsAnswer : Prop :=
  (∀ (who : Party) (addr : BitVec 32) (v : BitVec 64) (sense : Nat) (q r : Page) (o : Nat) (s : State),
      landOf who addr.toNat = .page q →
      aimAt s.dev who q (addr.toNat % 0x1000) = .at_ r o →
      o ≠ Reg.GUARD →
      Granted s.dev who r o true →
      exec (.registerWrite who addr .b4 v sense) s = .next (s.on fun d =>
        regWrite who sense r o (v.setWidth 32) (gpIntervene r d))) ∧
  (∀ (fold write : Bool) (addr : BitVec 32) (s : State),
      (pageOf addr.toNat).isSome = false →
      exec (.unmappedAccess fold write addr) s = .next (s.on fun d =>
        let d := unmapped fold write addr.toNat d
        if write then d else { d with resp := 0 })) ∧
  (∀ (who : Party) (addr : BitVec 32) (v w : Word) (q r : Page) (o : Nat) (row : Row) (s : State),
      landOf who addr.toNat = .page q →
      aimAt s.dev who q (addr.toNat % 0x1000) = .at_ r o →
      o = Reg.EVENT ∨ o = Reg.PARITY_STAT →
      r.row? o = some row →
      row.acc = .sq →
      Granted s.dev who r o true →
      sqClear (rg (gpIntervene r s.dev) r o) v = some w →
      exec (.sequenceClear who addr v) s = .next (s.on fun d => withIrq r (sg r o w) (gpIntervene r d))) ∧
  (∀ (who : Party) (addr : BitVec 32) (v : Word) (q r : Page) (o : Nat) (row : Row) (s : State),
      landOf who addr.toNat = .page q →
      aimAt s.dev who q (addr.toNat % 0x1000) = .at_ r o →
      r.row? o = some row →
      row.acc = .gp →
      o ≠ Reg.GUARD →
      Granted s.dev who r o true →
      exec (.gpWrite who addr v) s = .next (s.on fun d =>
        { gpIntervene r d with gp := tabSet (fun _ => none) (gpIntervene r d).gp r.base (some { off := o, val := v, party := who }) })) ∧
  (∀ (who : Party) (addr : BitVec 32) (q r : Page) (g : GpPend) (s : State),
      landOf who addr.toNat = .page q →
      aimAt s.dev who q (addr.toNat % 0x1000) = .at_ r Reg.GUARD →
      routeOf s.dev who r = .direct →
      (r.onDale && daleAbsent s.dev) = false →
      blkDead s.dev r true = false →
      mayAccess s.dev r who Reg.GUARD true = true →
      tabGet (fun _ => none) s.dev.gp r.base = some g →
      exec (.guardWrite who addr (~~~g.val)) s = .next (s.on fun d =>
        gpTake r g { d with gp := tabSet (fun _ => none) d.gp r.base none })) ∧
  (∀ (page : BitVec 32) (p : Page) (s : State),
      pageOf page.toNat = some p →
      exec (.guardWindowExpiry page) s = .next (s.on fun d => gpIntervene p d)) ∧
  (∀ (who : Party) (p : BitVec 32) (on : Bool) (r : Page) (s : State),
      pageOf p.toNat = some r →
      Granted s.dev who r Reg.HOLD true →
      exec (.holdWrite who p on) s = .next (s.on fun d => holdSet r on (gpIntervene r d))) ∧
  (∀ (code : Byte) (s : State),
      holdOn s.dev code.toNat = false →
      latchedOf s.dev code.toNat ≠ 0 →
      code.toNat ≠ 3 →
      exec (.heldRequestsAct code) s = .next (s.on fun d =>
        let b := blkOf d code.toNat
        let d := modBlk code.toNat (fun b => { b with heldClk := false, heldPwr := false, heldRst := false }) d
        let act := fun (c : Bool) k d => when c (fun d => reqDone (reqAct code.toNat k d)) d
        heldRelease (act (b.heldRst && !b.heldPwr) 4 (act b.heldPwr 2 (act b.heldClk 0 d))))) ∧
  (∀ (s : State),
      holdOn s.dev 3 = false →
      latchedOf s.dev 3 ≠ 0 →
      exec (.heldRequestsAct 3) s = .next (s.on fun d => heldRelease (banksAct d))) ∧
  (∀ (s : State),
      exec .parityScrub s = .next (s.on fun d => (upsetPages d).foldl (fun d p => scrubFinds p d) d)) ∧
  (∀ (who : Party) (addr : BitVec 32) (q r : Page) (o : Nat) (s : State),
      landOf who addr.toNat = .page q →
      aimAt s.dev who q (addr.toNat % 0x1000) = .at_ r o →
      Granted s.dev who r o false →
      exec (.registerRead who addr .b4) s = .next (s.on fun d =>
        { (regRead who r o (gpIntervene r d)).2 with resp := (regRead who r o (gpIntervene r d)).1.setWidth 64 })) ∧
  (∀ (addr : BitVec 32) (bit : Fin 32) (p : Page) (r : Row) (s : State),
      pageOf addr.toNat = some p →
      (let d := s.dev; p.isWindow = false ∧ (p.onDale && d.sdg.inReset && !onVao addr.toNat) = false) →
      p.row? (addr.toNat % 0x1000) = some r →
      r.acc ≠ .ro ∧ r.acc ≠ .wo ∧ r.acc ≠ .sq ∧ r.mask.testBit bit.val = true →
      exec (.storageUpset addr bit) s = .next (s.on fun d =>
        let o := addr.toNat % 0x1000
        upsetMark addr.toNat bit.val (upsetFollow p o bit.val (upsetStore p o bit.val d))))

/-- Start-up: from the release of the Dale die to full composition: what each command answers when nothing turns it
away (R96, R513, R88, R86, R103, R89, R440). -/
def Obligations.StartUpCommandsAnswer : Prop :=
  (∀ (s : State),
      s.dev.pwr.held = true →
      s.dev.pwr.rstLow = false →
      (List.range 11).any (railInvalid s.dev) = false →
      (s.dev.sdg.deadHeld && !s.dev.pwr.vaoBad) = false →
      exec .daleOutOfReset s = .next (s.on fun d =>
        let d := when d.pwr.vaoBad (modSdg (fun g => { g with deadHeld := false, vaoLocks := [] })) d
        let d := { d with pwr := { d.pwr with held := false, vaoBad := false }, boot := { stage := 1, t0 := d.us - 1000 } }
        daleOut (readFuses s.fuses d))) ∧
  (∀ (fails : List (Fin 64 × Nat)) (s : State),
      s.dev.sdg.inReset = false →
      s.dev.sdg.reload ≠ 1 →
      s.dev.boot.stage = 1 →
      exec (.selfTestDone fails) s = .next (s.on fun d =>
        sf .tet Reg.Tet.TET_STAT 1 0 1 (pastStart (fails.map (fun f => (f.1.val, f.2))) (modBoot (fun b => { b with stage := 2 }) d)))) ∧
  (∀ (up down : Nat) (s : State),
      tetState s.dev ≠ 0 →
      tetState s.dev ≠ 2 →
      s.dev.sdg.inReset = false →
      isoOf s.dev .tet = false →
      up = 16 ∨ up = 8 →
      down = 16 ∨ down = 8 →
      exec (.tetherTrained up down) s = .next (s.on fun d =>
        let d := modTet (fun t => { t with toDale := none, toFell := none }) d
        let d := when (d.boot.stage == 2) (fun d => { d with boot := { d.boot with stage := 3 } }) d
        let d := tetFlush (sb .tet Reg.Tet.TET_STAT 31 true (sf .tet Reg.Tet.TET_STAT 20 16 up
          (sf .tet Reg.Tet.TET_STAT 12 8 down (sf .tet Reg.Tet.TET_STAT 1 0 2 d))))
        if up = 8 ∨ down = 8 then raiseFault .tet Reg.Tet.SRC_TET_LANE Reg.Tet.EV_LANE_DROP d else d)) ∧
  (∀ (garbled : Bool) (e f : Dev) (s : State),
      s.dev.boot.stage = 3 →
      s.dev.sdg.inReset = false →
      s.fuses.lcState ≠ 4 →
      when s.dev.xspi.octal xspiReset s.dev = e →
      imageReason e s.fuses s.dev.boot.slot 2 wholeSlot = 0 →
      when (octalAsked e s.dev.boot.slot) (xspiEnter s.dev.boot.slot) e = f →
      f.xspi.octal = false ∨ (garbled = false ∧ tableHolds f s.dev.boot.slot = true) →
      imageReason f s.fuses s.dev.boot.slot 5 wholeSlot = 0 →
      exec (.headerRead garbled) s = .next (s.on fun _ => modBoot (fun b => { b with stage := 4 }) f)) ∧
  (∀ (s : State),
      s.dev.boot.stage = 4 →
      s.dev.sdg.inReset = false →
      imageReason s.dev s.fuses s.dev.boot.slot 8 wholeSlot = 0 →
      exec .signatureVerified s = .next (s.on fun d => modBoot (fun b => { b with stage := 5 }) d)) ∧
  (∀ (nF : List (Fin 16 × Nat)) (s : State),
      s.dev.boot.stage = 5 →
      s.dev.sdg.inReset = false →
      imageReason s.dev s.fuses s.dev.boot.slot 10 wholeSlot = 0 →
      exec (.group1Read nF) s = .next (s.on fun d =>
        let d := storeFw (takeImage d.boot.slot d)
        let d := sf .img Reg.Img.BOOT_STAT 11 8 1 (modBoot (fun b => { b with stage := 6 }) d)
        daleLoad d.boot.sects (nF.map (fun e => (e.1.val, e.2))) d)) ∧
  (∀ (read : Nat) (s : State),
      3 ≤ s.dev.boot.stage →
      s.dev.boot.stage ≤ 5 →
      s.dev.sdg.inReset = false →
      imageReason s.dev s.fuses s.dev.boot.slot 10 read = 0 →
      exec (.nvmReadError read) s = .next (s.on fun d => imageFail s.fuses 1 d)) ∧
  (∀ (csLow : Bool) (s : State),
      s.dev.sdg.recovery = true →
      s.dev.boot.stage = 0 →
      csLow = false →
      s.fuses.lcState ≠ 4 →
      s.dev.sdg.inReset = false →
      s.dev.pwr.held = false →
      exec (.recoveryAttempt csLow) s = .next (s.on fun d =>
        modBoot (fun b => { b with stage := 3, slot := 0, failA := 0, failB := 0, single := true, retry := true }) d)) ∧
  (∀ (s : State),
      s.dev.boot.stage = 6 →
      s.dev.sdg.inReset = false →
      (fusesAfter s.fuses s.dev).lcState ≠ 4 →
      exec .fellReleased s = .next ({ s with fuses := fusesAfter s.fuses s.dev, dev := cycleEnd (releaseFell (fusesAfter s.fuses s.dev) (readFuses (fusesAfter s.fuses s.dev) (carryOut s.fuses s.dev))) })) ∧
  (∀ (s : State),
      s.dev.boot.stage = 7 →
      exec .firmwareConfigured s = .next (s.on fun d =>
        let d := modBoot (fun b => { b with stage := 8 }) (sb (.wld 0) Reg.OWNER 31 true (applyImage d))
        restartDone (startFoldPart (expectField d)))) ∧
  (∀ (x : Sect) (rest : List Sect) (s : State),
      group2Goes s.dev = true →
      s.dev.boot.group2 = x :: rest →
      crcFold x.idx (imgBytes s.dev s.dev.boot.slot x.off x.len) = BitVec.ofNat 32 x.crc →
      sha384 (imgBytes s.dev s.dev.boot.slot x.off x.len) = x.hash →
      sectGroup x ≠ 0 →
      exec (.group2SectionCheck false) s = .next (s.on fun d =>
        storeSect { x with bytes := imgBytes d d.boot.slot x.off x.len } d)) ∧
  (∀ (s : State),
      ¬ (s.dev.boot.stage < 8) →
      s.dev.boot.firstPic = false →
      (firstHeads s.dev).all (fun h => s.dev.boot.pictured.contains h) = true →
      exec .firstSafePicture s = .next (s.on fun d =>
        let d := modBoot (fun b => { b with firstPic := true }) d
        let d := sf .img Reg.Img.BOOT_STAT 11 8 (max 3 (rf d .img Reg.Img.BOOT_STAT 11 8)) d
        event .img Reg.Img.EV_FIRST_PICTURE (sg .img Reg.Img.T_SAFE (BitVec.ofNat 32 (d.us - d.boot.t0)) d))) ∧
  (∀ (s : State),
      ¬ (s.dev.boot.stage < 8) →
      s.dev.boot.dramUp = false →
      drcState s.dev = 2 →
      exec .dramTrained s = .next (s.on fun d =>
        let d := if d.boot.wipeDram then dramZero 0 (dramFold d) d else d
        let d := modBoot (fun b => { b with dramUp := true, wipeDram := false, g2at := [] }) d
        let d := forN (fun n d => sb (.stream n) Reg.Stream.STREAM_STAT 27 false d) 16 d
        let d := loadShaders (fillPens (setFrames d))
        let d := if d.gpu.off then d else gpuCtrl (putBit (rg d .gpu Reg.Gpu.GPU_CTRL) 0 true) d
        fieldStart d)) ∧
  (∀ (s : State),
      fullReady s.dev = true →
      exec .fullComposition s = .next ({ s with fuses := svnAfter s.fuses s.dev, dev := cycleEnd (fullComposition (svnAfter s.fuses s.dev) s.dev) }))

/-- The NVM page: commands, their end and their resumption: what each command answers when nothing turns it away
(R108, R109). -/
def Obligations.NvmCommandsAnswer : Prop :=
  (∀ (who : Party) (s : State),
      Granted s.dev who .nvm Reg.Nvm.NVM_CMD true →
      exec (.readPage who) s = .next (s.on fun d => nvmCmd (BitVec.ofNat 32 1) (gpIntervene .nvm d))) ∧
  (∀ (who : Party) (d : Dev) (s : State),
      Granted s.dev who .nvm Reg.Nvm.NVM_CMD true →
      gpIntervene .nvm s.dev = d →
      isoOf d .nvm = false →
      d.nvmc.cmd = none →
      nvmAddrBad 1 (rf d .nvm Reg.Nvm.NVM_ADDR 26 0) = false →
      exec (.readPage who) s = .next (s.on fun _ =>
        nvmStat true d.cairn.exporting.isSome 1 (rf d .nvm Reg.Nvm.NVM_STAT 11 8)
          { d with nvmc := { cmd := some (1, rf d .nvm Reg.Nvm.NVM_ADDR 26 0), waits := d.cairn.exporting.isSome } })) ∧
  (∀ (who : Party) (s : State),
      Granted s.dev who .nvm Reg.Nvm.NVM_CMD true →
      exec (.programPage who) s = .next (s.on fun d => nvmCmd (BitVec.ofNat 32 2) (gpIntervene .nvm d))) ∧
  (∀ (who : Party) (d : Dev) (s : State),
      Granted s.dev who .nvm Reg.Nvm.NVM_CMD true →
      gpIntervene .nvm s.dev = d →
      isoOf d .nvm = false →
      d.nvmc.cmd = none →
      nvmAddrBad 2 (rf d .nvm Reg.Nvm.NVM_ADDR 26 0) = false →
      exec (.programPage who) s = .next (s.on fun _ =>
        nvmStat true d.cairn.exporting.isSome 2 (rf d .nvm Reg.Nvm.NVM_STAT 11 8)
          { d with nvmc := { cmd := some (2, rf d .nvm Reg.Nvm.NVM_ADDR 26 0), waits := d.cairn.exporting.isSome } })) ∧
  (∀ (who : Party) (s : State),
      Granted s.dev who .nvm Reg.Nvm.NVM_CMD true →
      exec (.eraseSector who) s = .next (s.on fun d => nvmCmd (BitVec.ofNat 32 3) (gpIntervene .nvm d))) ∧
  (∀ (who : Party) (d : Dev) (s : State),
      Granted s.dev who .nvm Reg.Nvm.NVM_CMD true →
      gpIntervene .nvm s.dev = d →
      isoOf d .nvm = false →
      d.nvmc.cmd = none →
      nvmAddrBad 3 (rf d .nvm Reg.Nvm.NVM_ADDR 26 0) = false →
      exec (.eraseSector who) s = .next (s.on fun _ =>
        nvmStat true d.cairn.exporting.isSome 3 (rf d .nvm Reg.Nvm.NVM_STAT 11 8)
          { d with nvmc := { cmd := some (3, rf d .nvm Reg.Nvm.NVM_ADDR 26 0), waits := d.cairn.exporting.isSome } })) ∧
  (∀ (who : Party) (s : State),
      Granted s.dev who .nvm Reg.Nvm.NVM_CMD true →
      exec (.verifyA who) s = .next (s.on fun d => nvmCmd (BitVec.ofNat 32 4) (gpIntervene .nvm d))) ∧
  (∀ (who : Party) (d : Dev) (s : State),
      Granted s.dev who .nvm Reg.Nvm.NVM_CMD true →
      gpIntervene .nvm s.dev = d →
      isoOf d .nvm = false →
      d.nvmc.cmd = none →
      nvmAddrBad 4 (rf d .nvm Reg.Nvm.NVM_ADDR 26 0) = false →
      exec (.verifyA who) s = .next (s.on fun _ =>
        nvmStat true d.cairn.exporting.isSome 4 (rf d .nvm Reg.Nvm.NVM_STAT 11 8)
          { d with nvmc := { cmd := some (4, rf d .nvm Reg.Nvm.NVM_ADDR 26 0), waits := d.cairn.exporting.isSome } })) ∧
  (∀ (who : Party) (s : State),
      Granted s.dev who .nvm Reg.Nvm.NVM_CMD true →
      exec (.verifyB who) s = .next (s.on fun d => nvmCmd (BitVec.ofNat 32 5) (gpIntervene .nvm d))) ∧
  (∀ (who : Party) (d : Dev) (s : State),
      Granted s.dev who .nvm Reg.Nvm.NVM_CMD true →
      gpIntervene .nvm s.dev = d →
      isoOf d .nvm = false →
      d.nvmc.cmd = none →
      nvmAddrBad 5 (rf d .nvm Reg.Nvm.NVM_ADDR 26 0) = false →
      exec (.verifyB who) s = .next (s.on fun _ =>
        nvmStat true d.cairn.exporting.isSome 5 (rf d .nvm Reg.Nvm.NVM_STAT 11 8)
          { d with nvmc := { cmd := some (5, rf d .nvm Reg.Nvm.NVM_ADDR 26 0), waits := d.cairn.exporting.isSome } })) ∧
  (∀ (error : Bool) (code : Nat) (a : Nat) (s : State),
      s.dev.nvmc.cmd = some (code, a) →
      s.dev.nvmc.waits = false →
      isoOf s.dev .nvm = false →
      exec (.nvmCmdDone error) s = .next (s.on fun d =>
        let d := nvmPerform s.fuses code a error d
        let d := nvmStat false false code (if error then 3 else 0) { d with nvmc := {} }
        cairnExportDue (event .nvm Reg.Nvm.EV_DONE d))) ∧
  (∀ (s : State),
      s.dev.nvmc.waits = true →
      s.dev.cairn.exporting.isSome = false →
      exec .nvmCmdResume s = .next (s.on fun d =>
        sb .nvm Reg.Nvm.NVM_STAT 1 false { d with nvmc := { d.nvmc with waits := false } }))

/-- The compositor: commits, fetches, tables and write-backs: what each command answers when nothing turns it away
(R119, R188, R124, R170, R164, R319, R160, R153, R151, R171, R156). -/
def Obligations.CompositorCommandsAnswer : Prop :=
  (∀ (who : Party) (p : Fin 64) (s : State),
      Granted s.dev who (.pipe p.val) Reg.Pipe.COMMIT true →
      exec (.commit who p) s = .next (s.on fun d => commitWrite who p.val 1 (gpIntervene (.pipe p.val) d))) ∧
  (∀ (who : Party) (p : Fin 64) (d : Dev) (s : State),
      Granted s.dev who (.pipe p.val) Reg.Pipe.COMMIT true →
      gpIntervene (.pipe p.val) s.dev = d →
      takesWork d who = true →
      exec (.commit who p) s = .next (s.on fun _ =>
        commitPipes (rf d (.pipe p.val) Reg.Pipe.CTRL 14 12) (ownerCode (partyKind who) (partyTag who))
          (commitSet d (ownerCode (partyKind who) (partyTag who)) (rf d (.pipe p.val) Reg.Pipe.CTRL 14 12)) none none d)) ∧
  (∀ (who : Party) (p : Fin 64) (line : BitVec 13) (s : State),
      Granted s.dev who (.pipe p.val) Reg.Pipe.COMMIT true →
      exec (.lineTrigCommit who p line) s = .next (s.on fun d =>
        commitWrite who p.val (BitVec.ofNat 32 (line.toNat * 65536 + 3)) (gpIntervene (.pipe p.val) d))) ∧
  (∀ (who : Party) (p : Fin 64) (line : BitVec 13) (d : Dev) (s : State),
      Granted s.dev who (.pipe p.val) Reg.Pipe.COMMIT true →
      gpIntervene (.pipe p.val) s.dev = d →
      takesWork d who = true →
      exec (.lineTrigCommit who p line) s = .next (s.on fun _ =>
        commitPipes (rf d (.pipe p.val) Reg.Pipe.CTRL 14 12) (ownerCode (partyKind who) (partyTag who))
          (commitSet d (ownerCode (partyKind who) (partyTag who)) (rf d (.pipe p.val) Reg.Pipe.CTRL 14 12)) (some line.toNat) none d)) ∧
  (∀ (h : Fin 8) (s : State),
      headDisabled s.dev h.val = true →
      exec (.disabledHeadCommitApply h) s = .next (s.on fun d =>
        let s := headOf d h.val
        let cs := s.latched ++ s.opened ++ s.trig
        let d := applyCommits h.val cs (modHead h.val (fun s => { s with latched := [], opened := [], trig := [] }) d)
        tryRelease h.val (showTrig h.val (((cs.map (·.layers)).flatten).foldl (fun d l => refetch h.val l d) d)))) ∧
  (∀ (who : Party) (p : Fin 64) (s : State),
      Granted s.dev who (.pipe p.val) Reg.Pipe.CTRL true →
      exec (.pipeRestart who p) s = .next (s.on fun d =>
        let d := gpIntervene (.pipe p.val) d
        pipeCtrl p.val (rg d (.pipe p.val) Reg.Pipe.CTRL ||| 0x80000000) d)) ∧
  (∀ (who : Party) (p : Fin 64) (v : Word) (s : State),
      48 ≤ p.val →
      Granted s.dev who (.pipe p.val) Reg.Pipe.COEF_DATA true →
      exec (.coefDataWrite who p v) s = .next (s.on fun d => coefWrite p.val v (gpIntervene (.pipe p.val) d))) ∧
  (∀ (p : Fin 64) (line : Nat) (c : LayerCfg) (s : State),
      (pipeOf s.dev p.val).pre = some c →
      exec (.pipeFetch p line) s = .next (s.on fun d =>
        let d := resumeFetch p.val c d
        if pipeBarred d p.val || heldOut d p.val then d
        else if cFmt p.val c = 0x40 then directFetch p.val c line d
        else if line < cTh p.val c then fetchLine p.val c line d
        else d)) ∧
  (∀ (h : Fin 8) (s : State),
      exec (.lastLineFetched h) s = .next (s.on fun d =>
        tryRelease h.val (modHead h.val (fun s => { s with reading := [] }) d))) ∧
  (∀ (h : Fin 8) (part : Fin 16) (lead : Option Nat) (e : Dev) (s : State),
      shepLead s.dev h.val (nextLine s.dev h.val) part.val = lead →
      leadLow s.dev h.val lead = true →
      (headOf s.dev h.val).run = true →
      (headOf s.dev h.val).stepC = false →
      demoteClass h.val 2 (modHead h.val (fun s => { s with stepC := true }) (noteLead h.val lead s.dev)) = (true, e) →
      exec (.shepherdDemoteC h part) s = .next (s.on fun _ =>
          event .cmp (Reg.Cmp.EV_DEMOTION + h.val) (bump .cmp (Reg.Cmp.DEMOTE_C_COUNT h.val) 31 0
            (sb .cmp (Reg.Cmp.SHEP_STAT h.val) 0 true (modHead h.val (fun s => { s with cDone := true, demoted2 := true }) e))))) ∧
  (∀ (h : Fin 8) (part : Fin 16) (lead : Option Nat) (d e : Dev) (s : State),
      shepLead s.dev h.val (nextLine s.dev h.val) part.val = lead →
      noteLead h.val lead s.dev = d →
      leadLow d h.val lead = true →
      (headOf d h.val).run = true →
      (headOf d h.val).stepC = true →
      (headOf d h.val).oDone = false →
      demoteClass h.val 1 d = (true, e) →
      exec (.shepherdDemoteO h part) s = .next (s.on fun _ =>
          event .cmp (Reg.Cmp.EV_DEMOTION + h.val) (bump .cmp (Reg.Cmp.DEMOTE_O_COUNT h.val) 31 0
            (sb .cmp (Reg.Cmp.SHEP_STAT h.val) 1 true (modHead h.val (fun s => { s with oDone := true, demoted2 := true }) e))))) ∧
  (∀ (who : Party) (v : Word) (s : State),
      Granted s.dev who .cmp Reg.Cmp.LUT_DATA true →
      exec (.lutDataWrite who v) s = .next (s.on fun d => lutWrite v (gpIntervene .cmp d))) ∧
  (∀ (who : Party) (v : Word) (h i : Nat) (d : Dev) (s : State),
      Granted s.dev who .cmp Reg.Cmp.LUT_DATA true →
      gpIntervene .cmp s.dev = d →
      rf d .cmp Reg.Cmp.LUT_SEL 18 16 = h →
      rf d .cmp Reg.Cmp.LUT_SEL 9 8 = 0 →
      rf d .cmp Reg.Cmp.LUT_INDEX 12 0 = i →
      rb d .cmp (Reg.Cmp.COLOUR_CTRL h) 16 = false →
      i < lutSize 0 →
      exec (.lutDataWrite who v) s = .next (s.on fun _ =>
        lutNext 0 (lutSet h (1 - lutBank d h) 0 i 0 (fld v 15 0) d))) ∧
  (∀ (who : Party) (v : Word) (h i : Nat) (d : Dev) (s : State),
      Granted s.dev who .cmp Reg.Cmp.LUT_DATA true →
      gpIntervene .cmp s.dev = d →
      rf d .cmp Reg.Cmp.LUT_SEL 18 16 = h →
      rf d .cmp Reg.Cmp.LUT_SEL 9 8 = 2 →
      rf d .cmp Reg.Cmp.LUT_INDEX 12 0 = i →
      rb d .cmp (Reg.Cmp.COLOUR_CTRL h) 16 = false →
      i < lutSize 2 →
      exec (.lutDataWrite who v) s = .next (s.on fun _ =>
        lutNext 2 (lutSet h (1 - lutBank d h) 2 i 0 (fld v 11 0) d))) ∧
  (∀ (who : Party) (s : State),
      Granted s.dev who .cmp Reg.Cmp.LUT_DATA false →
      exec (.lutDataRead who) s = .next (s.on fun d =>
        let d := gpIntervene .cmp d
        let x := lutRead d
        { x.2 with resp := x.1.setWidth 64 })) ∧
  (∀ (who : Party) (h : Fin 8) (s : State),
      Granted s.dev who .cmp (Reg.Cmp.COLOUR_CTRL h.val) true →
      exec (.colourSwapRequest who h) s = .next (s.on fun d =>
        let d := gpIntervene .cmp d
        colourCtrl h.val (rg d .cmp (Reg.Cmp.COLOUR_CTRL h.val) ||| 0x10000) d)) ∧
  (∀ (who : Party) (k : Fin 2) (s : State),
      Granted s.dev who (.wb k.val) Reg.Wb.WB_ARM true →
      exec (.wbArm who k) s = .next (s.on fun d => wbArm k.val 1 (gpIntervene (.wb k.val) d))) ∧
  (∀ (who : Party) (k : Fin 2) (d : Dev) (s : State),
      Granted s.dev who (.wb k.val) Reg.Wb.WB_ARM true →
      gpIntervene (.wb k.val) s.dev = d →
      wbRefuse d k.val = 0 →
      exec (.wbArm who k) s = .next (s.on fun _ =>
        sf (.wb k.val) Reg.Wb.WB_STAT 3 0 0 (modWb k.val (fun x => { x with
          armed := some (wbOffsets.foldl (fun t o => tabSet (fun _ => 0) t o (rg d (.wb k.val) o)) [])
          armedBy := ownerOf d (.wb k.val) }) d))) ∧
  (∀ (k : Fin 2) (t : Tab Word) (s : State),
      (let d := s.dev; let s := wbOf d k.val; s.set = some t) →
      (let d := s.dev; let s := wbOf d k.val; let ht := fld (wbReg t Reg.Wb.WB_RECT_WH) 29 16; s.busy = true ∧ s.dead = false ∧ s.lines = ht) →
      exec (.wbFrameDone k) s = .next (s.on fun d =>
        let s := wbOf d k.val
        let c := wbReg t Reg.Wb.WB_CTRL
        let f := fld c 15 8
        let w := fld (wbReg t Reg.Wb.WB_RECT_WH) 13 0
        let ht := fld (wbReg t Reg.Wb.WB_RECT_WH) 29 16
        let r := if isFleece f then
            writeHeader (wbWho d k.val) { tier := 1, iso := true } (wbAddr t s.buf) f w ht (rg d (.wb k.val) Reg.Wb.WB_GEN).toNat d
          else (true, d)
        if !r.1 then wbDrop k.val true r.2
        else
          let d := when (isFleece f) (bump (.wb k.val) Reg.Wb.WB_GEN 31 0) r.2
          let single := fld c 6 5 == 0
          let d := sf (.wb k.val) Reg.Wb.WB_STAT 17 16 s.buf (sg (.wb k.val) Reg.Wb.WB_FRAME s.frame d)
          let d := modWb k.val (fun s => { s with
            busy := false, lines := 0, set := if single then none else s.set
            buf := if single then 0 else if s.buf = fld c 17 16 then 0 else s.buf + 1 }) d
          let d := when single (sb (.wb k.val) Reg.Wb.WB_STAT 31 false) d
          event (.wb k.val) Reg.Wb.EV_DONE (bump (.wb k.val) Reg.Wb.WB_COUNT 15 0 d)))

/-- The heads: enabling, timing, frames and external synchronisation: what each command answers when nothing turns it
away (R178, R180, R211, R212, R181, R199, R193, R195). -/
def Obligations.HeadCommandsAnswer : Prop :=
  (∀ (who : Party) (h : Fin 8) (s : State),
      Granted s.dev who (.head h.val) Reg.Head.HEAD_CTRL true →
      exec (.headEnable who h) s = .next (s.on fun d =>
        let d := gpIntervene (.head h.val) d
        headCtrl h.val (putBit (rg d (.head h.val) Reg.Head.HEAD_CTRL) 0 true) d)) ∧
  (∀ (who : Party) (h : Fin 8) (d : Dev) (s : State),
      Granted s.dev who (.head h.val) Reg.Head.HEAD_CTRL true →
      gpIntervene (.head h.val) s.dev = d →
      2 ≤ h.val →
      rb d (.head h.val) Reg.Head.HEAD_CTRL 0 = false →
      bitOf (rg d (.head h.val) Reg.Head.HEAD_CTRL) 31 = false →
      (headOf d h.val).run = false →
      exec (.headEnable who h) s = .next (s.on fun _ =>
        headEnable h.val (plainWrite (.head h.val) Reg.Head.HEAD_CTRL (putBit (rg d (.head h.val) Reg.Head.HEAD_CTRL) 0 true) d))) ∧
  (∀ (who : Party) (h : Fin 8) (s : State),
      Granted s.dev who (.head h.val) Reg.Head.HEAD_CTRL true →
      exec (.headDisable who h) s = .next (s.on fun d =>
        let d := gpIntervene (.head h.val) d
        headCtrl h.val (putBit (rg d (.head h.val) Reg.Head.HEAD_CTRL) 0 false) d)) ∧
  (∀ (h : Fin 8) (s : State),
      rb s.dev (.head h.val) Reg.Head.HEAD_CTRL 0 = true →
      exec (.pixelPllLocked h) s = .next (s.on fun d =>
        let d := sb (.head h.val) Reg.Head.HEAD_STAT 23 true d
        if (headOf d h.val).run then d
        else
          sb (.head h.val) Reg.Head.HEAD_STAT 31 true
            (modHead h.val (fun s => { s with run := true, line := (vActive d h.val : Int) - 1, ahead := false, off := false, under := false }) d))) ∧
  (∀ (h : Fin 8) (s : State),
      rb s.dev (.head h.val) Reg.Head.HEAD_STAT 23 = true →
      exec (.pllUnlock h) s = .next (s.on fun d =>
        raiseFault (.head h.val) Reg.Head.SRC_PLL_UNLOCK Reg.Head.EV_PLL_UNLOCK (sb (.head h.val) Reg.Head.HEAD_STAT 23 false d))) ∧
  (∀ (who : Party) (h : Fin 8) (s : State),
      Granted s.dev who (.head h.val) Reg.Head.HEAD_CTRL true →
      exec (.headRestart who h) s = .next (s.on fun d =>
        let d := gpIntervene (.head h.val) d
        headCtrl h.val (rg d (.head h.val) Reg.Head.HEAD_CTRL ||| 0x80000000) d)) ∧
  (∀ (h : Fin 8) (s : State),
      (headOf s.dev h.val).run = true →
      rb s.dev (.head h.val) Reg.Head.HEAD_STAT 22 = false →
      (headOf s.dev h.val).line + 1 = (vActive s.dev h.val : Int) →
      firstWaits s.dev h.val = false →
      (headOf s.dev h.val).off = false →
      aligning s.dev h.val = false →
      s.dev.boot.pictured.contains h.val = true →
      exec (.frameBegin h) s = .next (s.on fun d =>
        let d := modHead h.val (fun s => { s with
          line := -(vBlank d h.val : Int) - 1, ahead := true, closed := false, under := false, first := false, alignNext := false
          frames := if s.alignNext then 0 else s.frames + 1
          trig := s.trig.map (fun c => { c with next := false }) }) d
        let d := if (headOf d h.val).src ≠ (rg d (.head h.val) Reg.Head.HEAD_CTRL &&& 0xFF3C).toNat then takeSync h.val d else d
        let d := sendMsa h.val (startStreams h.val (event (.head h.val) Reg.Head.EV_FRAME_BEGIN (bump (.head h.val) Reg.Head.FRAME_COUNT 31 0 d)))
        let d := when (decide (h.val < 2)) (edgesOf (0x20 + h.val)) (modHead h.val (fun s => { s with reading := [] }) d)
        forN (fun p d =>
          let c := fetchCfg d h.val p
          if cHead p c ≠ h.val then d
          else
            let d := modPipe p (fun s => { s with counted := 0 }) d
            if cEnable p c then beginFetch h.val p c d
            else modPipe p (fun s => { s with pre := none, lines := [], hdr := none }) d) 64 d)) ∧
  (∀ (h : Fin 8) (s : State),
      (let d := s.dev; let s := headOf d h.val; s.run = true ∧ s.ahead = true ∧ s.line = -1) →
      exec (.frameStart h) s = .next (s.on fun d =>
        let s := headOf d h.val
        let d := event (.head h.val) Reg.Head.EV_FRAME_START (modHead h.val (fun s => { s with ahead := false, latched := [] }) d)
        let d := if s.back then endIso (.head h.val) (modHead h.val (fun s => { s with back := false }) d) else d
        let d := applyCommits h.val s.latched d
        let d := forN (pipeFrameStart h.val) 64 d
        let d := forN (fun k => wbFrameStart h.val k) 2 (chkFrameStart h.val (swapBanks h.val (endDemotions h.val d)))
        tryRelease h.val d)) ∧
  (∀ (h : Fin 8) (line : Int) (under : List Nat) (wbOver : List (Fin 2)) (s : State),
      (headOf s.dev h.val).run = true →
      rb s.dev (.head h.val) Reg.Head.HEAD_STAT 22 = false →
      (headOf s.dev h.val).goto_ = none →
      line = (headOf s.dev h.val).line + 1 →
      line < (vActive s.dev h.val : Int) →
      ¬ (line = 0 ∧ (headOf s.dev h.val).ahead = true) →
      ¬ (line < 0 ∧ (headOf s.dev h.val).ahead = false) →
      aligning s.dev h.val = false →
      exec (.lineStart h line under wbOver) s = .next (s.on fun d =>
        let d := modHead h.val (fun s => { s with goto_ := if s.ahead then none else s.goto_ }) d
        let d := sf (.head h.val) Reg.Head.LINE_POS 28 16 (unsigned 13 line) (modHead h.val (fun s => { s with line := line }) d)
        let d := lineEvents h.val line d
        if 0 ≤ line then activeLine h.val line.toNat under wbOver d else d)) ∧
  (∀ (h : Fin 8) (pin : Fin 2) (s : State),
      exec (.syncOutPulseEnd h pin) s = .next (s.on fun d =>
        driveSync (modHead h.val (fun s => { s with pulse := s.pulse.filter (· != pin.val) })) d)) ∧
  (∀ (h : Fin 8) (period phase : Nat) (s : State),
      (headOf s.dev h.val).run = true →
      edgeHere s.dev h.val = true →
      (headOf s.dev h.val).seen = false →
      exec (.syncEdge h period phase) s = .next (s.on fun d =>
        modHead h.val (fun s => { s with seen := true, edgeDue := s.edgeDue - 1, first := s.first && s.firstAt.isNone }) d)) ∧
  (∀ (h : Fin 8) (period phase : Nat) (e : Dev) (s : State),
      (headOf s.dev h.val).run = true →
      edgeHere s.dev h.val = true →
      (headOf s.dev h.val).seen = true →
      sg (.head h.val) Reg.Head.SYNC_PERIOD (BitVec.ofNat 32 period) (modHead h.val (fun s => { s with seen := true, edgeDue := s.edgeDue - 1, first := s.first && s.firstAt.isNone }) s.dev) = e →
      inRange e h.val period = false →
      exec (.syncEdge h period phase) s = .next (s.on fun _ => lockLoss h.val e)) ∧
  (∀ (h : Fin 8) (period phase : Nat) (e : Dev) (s : State),
      (headOf s.dev h.val).run = true →
      edgeHere s.dev h.val = true →
      (headOf s.dev h.val).seen = true →
      sg (.head h.val) Reg.Head.SYNC_PERIOD (BitVec.ofNat 32 period) (modHead h.val (fun s => { s with seen := true, edgeDue := s.edgeDue - 1, first := s.first && s.firstAt.isNone }) s.dev) = e →
      inRange e h.val period = true →
      headState e h.val = 1 →
      (headOf e h.val).good = 0 →
      exec (.syncEdge h period phase) s = .next (s.on fun _ => modHead h.val (fun s => { s with good := s.good + 1 }) e)) ∧
  (∀ (h : Fin 8) (period phase : Nat) (e : Dev) (s : State),
      (headOf s.dev h.val).run = true →
      edgeHere s.dev h.val = true →
      (headOf s.dev h.val).seen = true →
      sg (.head h.val) Reg.Head.SYNC_PERIOD (BitVec.ofNat 32 period) (modHead h.val (fun s => { s with seen := true, edgeDue := s.edgeDue - 1, first := s.first && s.firstAt.isNone }) s.dev) = e →
      inRange e h.val period = true →
      headState e h.val = 1 →
      1 ≤ (headOf e h.val).good →
      exec (.syncEdge h period phase) s = .next (s.on fun _ => sf (.head h.val) Reg.Head.HEAD_STAT 30 28 2
          (modHead h.val (fun s => { s with good := 0, jumped := false, aligned := 0 }) (modHead h.val (fun s => { s with good := s.good + 1 }) e)))) ∧
  (∀ (h : Fin 8) (period phase : Nat) (e : Dev) (s : State),
      (headOf s.dev h.val).run = true →
      edgeHere s.dev h.val = true →
      (headOf s.dev h.val).seen = true →
      sg (.head h.val) Reg.Head.SYNC_PERIOD (BitVec.ofNat 32 period) (modHead h.val (fun s => { s with seen := true, edgeDue := s.edgeDue - 1, first := s.first && s.firstAt.isNone }) s.dev) = e →
      inRange e h.val period = true →
      headState e h.val ≠ 1 →
      (headOf s.dev h.val).jumped = false →
      exec (.syncEdge h period phase) s = .next (s.on fun _ => captureJump h.val e)) ∧
  (∀ (h : Fin 8) (period phase : Nat) (e : Dev) (s : State),
      (headOf s.dev h.val).run = true →
      edgeHere s.dev h.val = true →
      (headOf s.dev h.val).seen = true →
      sg (.head h.val) Reg.Head.SYNC_PERIOD (BitVec.ofNat 32 period) (modHead h.val (fun s => { s with seen := true, edgeDue := s.edgeDue - 1, first := s.first && s.firstAt.isNone }) s.dev) = e →
      inRange e h.val period = true →
      headState e h.val ≠ 1 →
      (headOf s.dev h.val).jumped = true →
      ratioDen (modHead h.val (fun s => { s with edges := s.edges + 1 }) e) h.val ≤ (headOf s.dev h.val).edges + 1 →
      exec (.syncEdge h period phase) s = .next (s.on fun _ => alignEdge h.val phase (modHead h.val (fun s => { s with edges := s.edges + 1 }) e))) ∧
  (∀ (h : Fin 8) (period phase : Nat) (e : Dev) (s : State),
      (headOf s.dev h.val).run = true →
      edgeHere s.dev h.val = true →
      (headOf s.dev h.val).seen = true →
      sg (.head h.val) Reg.Head.SYNC_PERIOD (BitVec.ofNat 32 period) (modHead h.val (fun s => { s with seen := true, edgeDue := s.edgeDue - 1, first := s.first && s.firstAt.isNone }) s.dev) = e →
      inRange e h.val period = true →
      headState e h.val ≠ 1 →
      (headOf s.dev h.val).jumped = true →
      (headOf s.dev h.val).edges + 1 < ratioDen (modHead h.val (fun s => { s with edges := s.edges + 1 }) e) h.val →
      exec (.syncEdge h period phase) s = .next (s.on fun _ => modHead h.val (fun s => { s with edges := s.edges + 1 }) e)) ∧
  (∀ (h : Fin 8) (s : State),
      (headOf s.dev h.val).run = true →
      syncSrc s.dev h.val ≠ 0 →
      (headOf s.dev h.val).seen = true →
      exec (.syncTimeout h) s = .next (s.on fun d =>
        modHead h.val (fun s => { s with seen := false }) (lockLoss h.val d))) ∧
  (∀ (h : Fin 8) (s : State),
      rb s.dev (.head h.val) Reg.Head.HEAD_STAT 22 = true →
      exec (.cutHold h) s = .next (s.on fun d =>
        let d := sg (.head h.val) Reg.Head.HOLD_PCLK (BitVec.ofNat 32 (frameClocks d h.val / 40)) d
        lockLoss h.val (bump (.head h.val) Reg.Head.ALIGN_COUNT 23 16 (sb (.head h.val) Reg.Head.HEAD_STAT 22 false d))))

/-- The display ports: training, hot plug, AUX and short circuits: what each command answers when nothing turns it
away (R200, R203, R202, R204, R205). -/
def Obligations.PortCommandsAnswer : Prop :=
  (∀ (who : Party) (n : Fin 8) (en : Bool) (h : Fin 8) (s : State),
      Granted s.dev who (.port n.val) Reg.Port.PORT_CTRL true →
      exec (.portSourceChange who n en h) s = .next (s.on fun d =>
        let d := gpIntervene (.port n.val) d
        portCtrl n.val (setFld (rg d (.port n.val) Reg.Port.PORT_CTRL) 23 20 (en.toNat * 8 + h.val)) d)) ∧
  (∀ (who : Party) (n : Fin 8) (s : State),
      Granted s.dev who (.port n.val) Reg.Port.PORT_CTRL true →
      exec (.retrain who n) s = .next (s.on fun d =>
        let d := gpIntervene (.port n.val) d
        portCtrl n.val (rg d (.port n.val) Reg.Port.PORT_CTRL ||| 0x80000000) d)) ∧
  (∀ (n : Fin 8) (rate : Fin 6) (lanes : Fin 3) (msaIgnore : Bool) (s : State),
      linkState s.dev n.val = 2 →
      exec (.linkTrainingDone n false rate lanes msaIgnore) s = .next (s.on fun d =>
        raiseFault (.port n.val) Reg.Port.SRC_TRAIN_FAIL Reg.Port.EV_TRAIN_FAIL
          (bump (.port n.val) Reg.Port.TRAIN_COUNT 15 0 (setPort n.val 4 false d)))) ∧
  (∀ (n : Fin 8) (rate : Fin 6) (lanes : Fin 3) (msaIgnore : Bool) (s : State),
      linkState s.dev n.val = 2 →
      exec (.linkTrainingDone n true rate lanes msaIgnore) s = .next (s.on fun d =>
        let d := sf (.port n.val) Reg.Port.LINK_STAT 26 24 (min rate.val (maxRate d n.val))
          (sf (.port n.val) Reg.Port.LINK_STAT 18 16 (min (2 ^ lanes.val) (maxLanes d n.val)) (sb (.port n.val) Reg.Port.LINK_STAT 28 msaIgnore d))
        let d := noteLink (event (.port n.val) Reg.Port.EV_TRAINED (setPort n.val 3 true (when msaIgnore (emit (.msaIgnore n.val)) d)))
        match (portS d n.val).src with
        | some h => if linkCarries d n.val h then d else bwShort n.val d
        | none => d)) ∧
  (∀ (n : Fin 8) (s : State),
      linkState s.dev n.val = 4 →
      exec (.trainRetry n) s = .next (s.on fun d => train n.val d)) ∧
  (∀ (n : Fin 8) (s : State),
      rb s.dev (.port n.val) Reg.Port.LINK_STAT 31 = true →
      exec (.hpdUnplug n) s = .next (s.on fun d =>
        let d := sb (.port n.val) Reg.Port.LINK_STAT 31 false d
        let st := linkState d n.val
        event (.port n.val) Reg.Port.EV_HPD_UNPLUG (setPort n.val (if st = 0 ∨ st = 5 ∨ st = 6 then st else 1) false d))) ∧
  (∀ (n : Fin 8) (s : State),
      rb s.dev (.port n.val) Reg.Port.LINK_STAT 31 = false →
      exec (.hpdPlug n) s = .next (s.on fun d =>
        train n.val (event (.port n.val) Reg.Port.EV_HPD_PLUG (sb (.port n.val) Reg.Port.LINK_STAT 31 true d)))) ∧
  (∀ (n : Fin 8) (lost : Bool) (s : State),
      rb s.dev (.port n.val) Reg.Port.LINK_STAT 31 = true →
      exec (.irqHpd n lost) s = .next (s.on fun d =>
        let d := event (.port n.val) Reg.Port.EV_IRQ_HPD d
        if lost && rb d (.port n.val) Reg.Port.LINK_STAT 30 then
          train n.val (raiseFault (.port n.val) Reg.Port.SRC_LINK_LOST Reg.Port.EV_LINK_LOST d)
        else d)) ∧
  (∀ (who : Party) (n : Fin 8) (v : Word) (s : State),
      Granted s.dev who (.port n.val) Reg.Port.AUX_CMD true →
      exec (.auxCmd who n v) s = .next (s.on fun d => auxCmdWrite n.val v (gpIntervene (.port n.val) d))) ∧
  (∀ (who : Party) (n : Fin 8) (v : Word) (d : Dev) (s : State),
      Granted s.dev who (.port n.val) Reg.Port.AUX_CMD true →
      gpIntervene (.port n.val) s.dev = d →
      bitOf v 31 = true →
      rb d (.port n.val) Reg.Port.AUX_STAT 31 = false →
      [0, 1, 4, 5, 8, 9].contains (fld v 3 0) = true →
      rf d (.port n.val) Reg.Port.SHORT_STAT 9 8 = 0 →
      exec (.auxCmd who n v) s = .next (s.on fun _ =>
        auxSend n.val (sg (.port n.val) Reg.Port.AUX_STAT 0x80000000 (modPort n.val (fun x => { x with aux := some v, auxOut := false, auxMute := false }) d)))) ∧
  (∀ (n : Fin 8) (result reply : Fin 3) (count : Fin 17) (bytes : List Byte) (v : Word) (s : State),
      (portS s.dev n.val).aux = some v →
      (portS s.dev n.val).auxOut = true →
      exec (.auxDone n result reply count bytes) s = .next (s.on fun d =>
        if (portS d n.val).auxMute then auxEnd n.val 1 d
        else if result.val ≠ 0 then auxEnd n.val result.val (when (result.val == 2) (sf (.port n.val) Reg.Port.AUX_STAT 13 12 2) d)
        else
          let c := min count.val (fld v 11 8 + 1)
          let d := sf (.port n.val) Reg.Port.AUX_STAT 20 16 c (sf (.port n.val) Reg.Port.AUX_STAT 13 12 reply.val d)
          auxEnd n.val 0 (if bitOf v 0 then auxStore n.val (bytes.take c) d else d))) ∧
  (∀ (n : Fin 8) (lane : Fin 5) (supply : Bool) (s : State),
      ¬ (modeOf (rg s.dev (.port n.val) Reg.Port.PORT_CTRL) = 0 ∧ (portS s.dev n.val).mode = 0) →
      exec (.short n lane supply) s = .next (s.on fun d =>
        let d := sf (.port n.val) Reg.Port.SHORT_STAT (2 * lane.val + 1) (2 * lane.val) (if supply then 2 else 1) d
        let d := raiseFault (.port n.val) Reg.Port.SRC_SHORT Reg.Port.EV_SHORT (if linkState d n.val = 6 then d else setPort n.val 5 false d)
        if lane.val = 4 ∧ rb d (.port n.val) Reg.Port.AUX_STAT 31 then auxEnd n.val 4 d else d)) ∧
  (∀ (n : Fin 8) (kinds : List (Fin 3)) (s : State),
      rg s.dev (.port n.val) Reg.Port.SHORT_STAT ≠ 0 →
      exec (.shortRetest n kinds) s = .next (s.on fun d =>
        let w := (List.range 5).foldl (fun v i => setFld v (2 * i + 1) (2 * i) ((kinds.map (·.val)).getD i 0)) (0 : Word)
        let d := sg (.port n.val) Reg.Port.SHORT_STAT w d
        if w = 0 ∧ linkState d n.val = 5 then train n.val d else d))

/-- The camera path: ports, streams and the dewarper: what each command answers when nothing turns it away (R218,
R249, R217, R219, R220, R226, R225, R247, R238, R254, R239). -/
def Obligations.CameraCommandsAnswer : Prop :=
  (∀ (who : Party) (p : Fin 4) (v : Word) (s : State),
      Granted s.dev who .cam (Reg.Cam.CSI_CTRL p.val) true →
      exec (.csiPortEnable who p v) s = .next (s.on fun d => csiCtrl p.val (v ||| 1) (gpIntervene .cam d))) ∧
  (∀ (who : Party) (p : Fin 4) (v : Word) (e : Dev) (d : Dev) (s : State),
      Granted s.dev who .cam (Reg.Cam.CSI_CTRL p.val) true →
      gpIntervene .cam s.dev = d →
      bitOf (v ||| 1) 31 = false →
      bitOf (v ||| 1) 0 = true →
      csiOn d p.val = false →
      sf .cam (Reg.Cam.CSI_CTRL p.val) 2 1 (fld (v ||| 1) 2 1) d = e →
      csiRefuse e p.val (fld (v ||| 1) 2 1) = 0 →
      exec (.csiPortEnable who p v) s = .next (s.on fun _ =>
        let f := sf .cam (Reg.Cam.CSI_STAT p.val) 3 0 0 e
        event .cam (Reg.Cam.EV_PORT_UP + p.val)
          (sg .cam (Reg.Cam.CSI_STAT p.val) (rg f .cam (Reg.Cam.CSI_STAT p.val) &&& 0x50000000)
            (sb .cam (Reg.Cam.CSI_CTRL p.val) 0 true f)))) ∧
  (∀ (who : Party) (p : Fin 4) (s : State),
      Granted s.dev who .cam (Reg.Cam.CSI_CTRL p.val) true →
      exec (.csiRestart who p) s = .next (s.on fun d =>
        let d := gpIntervene .cam d
        csiCtrl p.val (rg d .cam (Reg.Cam.CSI_CTRL p.val) ||| 0x80000000) d)) ∧
  (∀ (p : Fin 4) (enter : Bool) (s : State),
      csiOn s.dev p.val = true →
      stands s.dev .cam = false →
      exec (.csiUlps p enter) s = .next (s.on fun d => sb .cam (Reg.Cam.CSI_STAT p.val) 30 enter d)) ∧
  (∀ (p : Fin 4) (vc hdr : Nat) (s : State),
      exec (.csiFs p vc hdr) s = .next (s.on fun d =>
        let d := if isoOf d .cam && d.cam.restart then endIso .cam (modCam (fun c => { c with restart := false }) d) else d
        if !csiTakes d p.val then d
        else
          let h := csiHeader p.val hdr (csiTraffic p.val d)
          if h.1 then csiEach streamFs p.val vc h.2 else h.2)) ∧
  (∀ (p : Fin 4) (vc dt hdr : Nat) (crcOk : Bool) (t : Nat) (payload : List Byte) (s : State),
      csiTakes s.dev p.val = true →
      exec (.csiLongPacket p vc dt hdr crcOk t payload) s = .next (s.on fun d =>
        let h := csiHeader p.val hdr (csiTraffic p.val d)
        if !h.1 then h.2
        else if ¬(vc < 4) ∨ !([0x1E, 0x1F, 0x22, 0x24].contains dt) then csiDrop p.val false h.2
        else
          let d := when (!crcOk) (bump .cam (Reg.Cam.CSI_ERR p.val) 15 0) h.2
          match (streamsOf d p.val vc).filter (fun n => stType d n == dt) with
          | [] => csiDrop p.val true d
          | ns => ns.foldl (fun d n => streamLine n crcOk t payload d) d)) ∧
  (∀ (p : Fin 4) (vc hdr : Nat) (s : State),
      csiTakes s.dev p.val = true →
      exec (.csiFe p vc hdr) s = .next (s.on fun d =>
        let h := csiHeader p.val hdr (csiTraffic p.val d)
        if h.1 then csiEach streamFe p.val vc h.2 else h.2)) ∧
  (∀ (who : Party) (n : Fin 16) (v : Word) (s : State),
      Granted s.dev who (.stream n.val) Reg.Stream.STREAM_CTRL true →
      exec (.streamEnable who n v) s = .next (s.on fun d =>
        streamCtrl who n.val (v ||| 1) (gpIntervene (.stream n.val) d))) ∧
  (∀ (who : Party) (n : Fin 16) (v : Word) (e : Dev) (d : Dev) (s : State),
      Granted s.dev who (.stream n.val) Reg.Stream.STREAM_CTRL true →
      gpIntervene (.stream n.val) s.dev = d →
      bitOf (v ||| 1) 31 = false →
      bitOf (v ||| 1) 0 = true →
      (streamOf d n.val).on = false →
      plainWrite (.stream n.val) Reg.Stream.STREAM_CTRL ((v ||| 1) &&& 0xFFFFFFFE) d = e →
      streamRefuse e who n.val = 0 →
      exec (.streamEnable who n v) s = .next (s.on fun _ =>
        streamStart n.val (sb (.stream n.val) Reg.Stream.STREAM_CTRL 0 true (sf (.stream n.val) Reg.Stream.STREAM_STAT 3 0 0 e)))) ∧
  (∀ (n : Fin 16) (s : State),
      (let d := s.dev; let s := streamOf d n.val; s.on = true ∧ s.lost = false) →
      exec (.streamLost n) s = .next (s.on fun d =>
        let d := modStream n.val (fun s => { s with lost := true, okFrom := s.seq + 1 }) d
        let d := sb (.stream n.val) Reg.Stream.STREAM_STAT 30 true d
        let d := raiseFault (.stream n.val) Reg.Stream.SRC_STREAM_LOST Reg.Stream.EV_STREAM_LOST (bump (.stream n.val) Reg.Stream.ERR_COUNT 31 24 d)
        forN (fun h d => if fld (BitVec.ofNat 32 (headOf d h).src) 15 8 = 0x10 + n.val then lockLoss h d else d) 8 d)) ∧
  (∀ (who : Party) (n : Fin 16) (s : State),
      Granted s.dev who (.stream n.val) Reg.Stream.STREAM_CTRL true →
      exec (.streamRestart who n) s = .next (s.on fun d =>
        let d := gpIntervene (.stream n.val) d
        streamCtrl who n.val (rg d (.stream n.val) Reg.Stream.STREAM_CTRL ||| 0x80000000) d)) ∧
  (∀ (who : Party) (n : Fin 8) (s : State),
      Granted s.dev who (.dw n.val) Reg.Dw.DW_APPLY true →
      exec (.dwApply who n) s = .next (s.on fun d => dwApply n.val 1 (gpIntervene (.dw n.val) d))) ∧
  (∀ (who : Party) (n : Fin 8) (s : State),
      Granted s.dev who (.dw n.val) Reg.Dw.DW_APPLY true →
      exec (.dwRestart who n) s = .next (s.on fun d => dwApply n.val 0x80000000 (gpIntervene (.dw n.val) d))) ∧
  (∀ (who : Party) (n : Fin 8) (d : Dev) (s : State),
      Granted s.dev who (.dw n.val) Reg.Dw.DW_APPLY true →
      gpIntervene (.dw n.val) s.dev = d →
      isoOf d (.dw n.val) = true →
      exec (.dwRestart who n) s = .next (s.on fun _ =>
        modDw n.val (fun w => { w with restart := true }) d)) ∧
  (∀ (n : Fin 8) (waited : Bool) (k : Nat) (m : MeshCfg) (s : State),
      dwReady s.dev n.val = true →
      (dwOf s.dev n.val).serves = some k →
      (dwOf s.dev n.val).mesh = some m →
      exec (.dwLineBegin n waited) s = .next (s.on fun d =>
        dwProduce n.val k m (when (waited || (dwOf d n.val).waits) (bump (.dw n.val) Reg.Dw.DW_COUNT 15 0) d))) ∧
  (∀ (n : Fin 8) (waited : Bool) (s : State),
      dwReady s.dev n.val = false →
      dwInput s.dev n.val = true →
      exec (.dwLineBegin n waited) s = .next (s.on fun d => modDw n.val (fun w => { w with waits := true }) d)) ∧
  (∀ (n : Fin 8) (t : RingTag) (ts : List RingTag) (m : MeshCfg) (s : State),
      (dwOf s.dev n.val).made = t :: ts →
      (dwOf s.dev n.val).mesh = some m →
      exec (.dwLineVisible n) s = .next (s.on fun d =>
        when (t.line + 1 == m.outH) (bump (.dw n.val) Reg.Dw.DW_FRAMES 31 0)
          (modDw n.val (fun w => { w with made := ts, tags := tabSet (fun _ => none) w.tags (t.line % 8) (some t) }) d)))

/-- The contexts of the GPU: enabling, saving, restoring and their pens: what each command answers when nothing turns
it away (R262, R298, R263, R286, R284, R287, R289, R279, R280). -/
def Obligations.ContextCommandsAnswer : Prop :=
  (∀ (who : Party) (n : Fin 64) (s : State),
      Granted s.dev who (.ctx n.val) Reg.Ctx.CTX_CTRL true →
      exec (.ctxEnable who n) s = .next (s.on fun d =>
        let d := gpIntervene (.ctx n.val) d
        ctxCtrl who n.val (putBit (rg d (.ctx n.val) Reg.Ctx.CTX_CTRL) 0 true) d)) ∧
  (∀ (who : Party) (n : Fin 64) (o : Word) (d : Dev) (s : State),
      Granted s.dev who (.ctx n.val) Reg.Ctx.CTX_CTRL true →
      gpIntervene (.ctx n.val) s.dev = d →
      who = .fold →
      rg d (.ctx n.val) Reg.Ctx.CTX_CTRL = o →
      bitOf o 0 = false →
      bitOf o 31 = false →
      fld o 17 16 ≠ 0 →
      fld o 13 12 ≠ 3 →
      bitOf o 18 = false →
      (ctxOf d n.val).closing = false →
      putBit o 0 true = o ||| 1 →
      bitOf (o ||| 1) 0 = true →
      bitOf (o ||| 1) 31 = false →
      fld (o ||| 1) 17 16 = fld o 17 16 →
      fld (o ||| 1) 13 12 = fld o 13 12 →
      exec (.ctxEnable who n) s = .next (s.on fun _ =>
        cxEnable n.val (plainWrite (.ctx n.val) Reg.Ctx.CTX_CTRL (o ||| 1) d))) ∧
  (∀ (who : Party) (n : Fin 64) (s : State),
      Granted s.dev who (.ctx n.val) Reg.Ctx.CTX_CTRL true →
      exec (.ctxDisable who n) s = .next (s.on fun d =>
        let d := gpIntervene (.ctx n.val) d
        ctxCtrl who n.val (putBit (rg d (.ctx n.val) Reg.Ctx.CTX_CTRL) 0 false) d)) ∧
  (∀ (who : Party) (n : Fin 64) (e : Dev) (d : Dev) (s : State),
      Granted s.dev who (.ctx n.val) Reg.Ctx.CTX_CTRL true →
      gpIntervene (.ctx n.val) s.dev = d →
      sf (.ctx n.val) Reg.Ctx.CTX_CTRL 0 0 0 d = e →
      bitOf (rg d (.ctx n.val) Reg.Ctx.CTX_CTRL) 31 = false →
      rb d (.ctx n.val) Reg.Ctx.CTX_CTRL 0 = true →
      bitOf (putBit (rg d (.ctx n.val) Reg.Ctx.CTX_CTRL) 0 false) 0 = false →
      bitOf (putBit (rg d (.ctx n.val) Reg.Ctx.CTX_CTRL) 0 false) 31 = false →
      cxState e n.val ≠ 8 →
      cxStarted e n.val = false ∨ cxState e n.val = 0 ∨ cxState e n.val = 7 →
      exec (.ctxDisable who n) s = .next (s.on fun _ =>
        cxClosed n.val e)) ∧
  (∀ (who : Party) (n : Fin 64) (v : BitVec 20) (s : State),
      Granted s.dev who (.ctx n.val) Reg.Ctx.QUEUE_WPTR true →
      exec (.queueWptr who n v) s = .next (s.on fun d =>
        queueDoorbell who n.val (v.setWidth 32) (gpIntervene (.ctx n.val) d))) ∧
  (∀ (who : Party) (n : Fin 64) (v : BitVec 20) (d : Dev) (s : State),
      Granted s.dev who (.ctx n.val) Reg.Ctx.QUEUE_WPTR true →
      gpIntervene (.ctx n.val) s.dev = d →
      takesWork d who = true →
      exec (.queueWptr who n v) s = .next (s.on fun _ =>
        cxKick n.val (plainWrite (.ctx n.val) Reg.Ctx.QUEUE_WPTR (v.setWidth 32) d))) ∧
  (∀ (n : Fin 64) (cores : List (Fin 24 × Nat)) (s : State),
      cxStops s.dev n.val = true →
      (ctxOf s.dev n.val).work = true →
      exec (.preemptSaveDone n cores) s = .next (s.on fun d =>
        let d := (cores.filter (fun e => coreOk d e.1.val)).foldl (fun d e =>
          let q := slotAt d n.val e.1.val (slotSum (ctxOf d n.val).slots) e.2
          modCtx n.val (fun c => { c with slots := c.slots ++ [(e.1.val, q.2)] }) (saveTo q.1 q.2 d)) d
        cxPreempt n.val d)) ∧
  (∀ (n : Fin 64) (f : Fin 4) (s : State),
      cxStops s.dev n.val = true →
      (ctxOf s.dev n.val).pass.isNone = false →
      exec (.tileStopTimeout n f) s = .next (s.on fun d =>
        cxPreempt n.val (bump (.flock f.val) Reg.Flock.FLOCK_REDO 15 0 d))) ∧
  (∀ (n : Fin 64) (lat : Word) (s : State),
      (ctxOf s.dev n.val).called = true →
      exec (.bellwetherFirstWave n lat) s = .next (s.on fun d =>
        let d := modCtx n.val (fun c => { c with called := false }) (sg (.ctx n.val) Reg.Ctx.CALL_LAT lat d)
        let up := fun (p : Page) o (d : Dev) => if (rg d p o).toNat < lat.toNat then sg p o lat d else d
        let d := up .gpu Reg.Gpu.BW_LAT_MAX (up (.ctx n.val) Reg.Ctx.CALL_LAT_MAX d)
        if 40000 < lat.toNat then boundBroken n.val d else d)) ∧
  (∀ (n : Fin 64) (s : State),
      restoreFree s.dev n.val = true →
      exec (.preemptRestoreDone n) s = .next (s.on fun d =>
        let r := readSlots n.val (ctxOf d n.val).slots 0 d
        if !r.1 then r.2
        else
          let d := modCtx n.val (fun c => { c with stopping := false, stopped := false, slots := [] }) r.2
          let d := if cxState d n.val = 5 then ctxState n.val 3 0 d else d
          if cxState d n.val = 3 ∧ (ctxOf d n.val).want ≠ 0 ∧ !(ctxOf d n.val).partialOn then bin n.val (rf d (.ctx n.val) Reg.Ctx.PEN_STAT 15 0) d
          else cxSettle n.val d)) ∧
  (∀ (who : Party) (n : Fin 64) (s : State),
      Granted s.dev who (.ctx n.val) Reg.Ctx.CTX_CMD true →
      exec (.ctxCmdReset who n) s = .next (s.on fun d => ctxCmd n.val 1 (gpIntervene (.ctx n.val) d))) ∧
  (∀ (who : Party) (n : Fin 64) (d : Dev) (s : State),
      Granted s.dev who (.ctx n.val) Reg.Ctx.CTX_CMD true →
      gpIntervene (.ctx n.val) s.dev = d →
      cxState d n.val ≠ 8 →
      exec (.ctxCmdReset who n) s = .next (s.on fun _ =>
        sg (.ctx n.val) Reg.Ctx.CTX_STAT 0 (sf (.ctx n.val) Reg.Ctx.CTX_CTRL 0 0 0
          (sg (.ctx n.val) Reg.Ctx.PEN_STAT 0 (sg (.ctx n.val) Reg.Ctx.SAVE_NEED 0 (sg (.ctx n.val) Reg.Ctx.QUEUE_WPTR 0
            (sg (.ctx n.val) Reg.Ctx.QUEUE_RPTR 0 (modCtx n.val
              (fun c => { ({} : CtxS) with lease := c.lease, bwHead := c.bwHead, area := c.area, placed := c.placed }) (ctxHalt n.val d))))))))) ∧
  (∀ (who : Party) (n : Fin 64) (s : State),
      Granted s.dev who (.ctx n.val) Reg.Ctx.CTX_CMD true →
      exec (.preemptSave who n) s = .next (s.on fun d => ctxCmd n.val 2 (gpIntervene (.ctx n.val) d))) ∧
  (∀ (who : Party) (n : Fin 64) (d : Dev) (s : State),
      Granted s.dev who (.ctx n.val) Reg.Ctx.CTX_CMD true →
      gpIntervene (.ctx n.val) s.dev = d →
      1 ≤ cxState d n.val →
      cxState d n.val ≤ 5 →
      rg64 d (.ctx n.val) Reg.Ctx.SAVE_LO ≠ 0 →
      exec (.preemptSave who n) s = .next (s.on fun _ =>
        modCtx n.val (fun c => { c with saving := true }) d)) ∧
  (∀ (n : Fin 64) (kib : Nat) (s : State),
      (ctxOf s.dev n.val).saving = true →
      exec (.ctxSaveDone n kib) s = .next (s.on fun d =>
        let k := clampN 16 6160 kib
        let r := cxWrite n.val frontLane (rg64 d (.ctx n.val) Reg.Ctx.SAVE_LO) (freeBytes (k * 1024) d) (tick d)
        if !r.1 then r.2
        else
          event (.ctx n.val) Reg.Ctx.EV_SAVED (ctxState n.val 6 0
            (modCtx n.val (fun c => { c with saving := false, stopping := false, stopped := false }) (sg (.ctx n.val) Reg.Ctx.SAVE_NEED (BitVec.ofNat 32 k) r.2))))) ∧
  (∀ (n : Fin 64) (s : State),
      (ctxOf s.dev n.val).drain = some (qRptr s.dev n.val) →
      ¬ (cxState s.dev n.val < 1) →
      ¬ (3 < cxState s.dev n.val) →
      exec (.ctxDrainDone n) s = .next (s.on fun d =>
        ctxState n.val 1 0 (modCtx n.val (fun c => { c with drain := none, stop := true }) (finishWork n.val d)))) ∧
  (∀ (who : Party) (n : Fin 64) (s : State),
      Granted s.dev who (.ctx n.val) Reg.Ctx.CTX_CMD true →
      exec (.resume who n) s = .next (s.on fun d => ctxCmd n.val 4 (gpIntervene (.ctx n.val) d))) ∧
  (∀ (who : Party) (n : Fin 64) (d : Dev) (s : State),
      Granted s.dev who (.ctx n.val) Reg.Ctx.CTX_CMD true →
      gpIntervene (.ctx n.val) s.dev = d →
      (ctxOf d n.val).stop = true →
      cxState d n.val ≠ 6 →
      cxState (modCtx n.val (fun c => { c with stop := false }) d) n.val ≠ 6 →
      exec (.resume who n) s = .next (s.on fun _ =>
        cxKick n.val (modCtx n.val (fun c => { c with stop := false }) d))) ∧
  (∀ (who : Party) (n : Fin 64) (s : State),
      Granted s.dev who (.ctx n.val) Reg.Ctx.CTX_CTRL true →
      exec (.ctxRestart who n) s = .next (s.on fun d =>
        let d := gpIntervene (.ctx n.val) d
        ctxCtrl who n.val (putBit (putBit (rg d (.ctx n.val) Reg.Ctx.CTX_CTRL) 0 false) 31 true) d)) ∧
  (∀ (who : Party) (n : Fin 64) (v : BitVec 16) (s : State),
      Granted s.dev who (.ctx n.val) Reg.Ctx.PEN_WPTR true →
      exec (.penWptr who n v) s = .next (s.on fun d => penWptrWrite n.val (v.setWidth 32) (gpIntervene (.ctx n.val) d))) ∧
  (∀ (n : Fin 64) (s : State),
      cxState s.dev n.val = 4 →
      (ctxOf s.dev n.val).want ≠ 0 →
      (ctxOf s.dev n.val).partialOn = false →
      exec (.penTimeout n) s = .next (s.on fun d => beginPartial n.val d)) ∧
  (∀ (n : Fin 64) (t0 t1 t2 : Nat) (ps : GPass) (s : State),
      (ctxOf s.dev n.val).pass = some ps →
      (ctxOf s.dev n.val).partialOn = true →
      exec (.partialRender n t0 t1 t2) s = .next (s.on fun d =>
        let r := renderPass n.val ps true (countTiles ps t0 t1 t2 (modCtx n.val (fun c => { c with partialOn := false }) d))
        let q := if r.1 then ownWrite n.val (flockLane 0) (rg64 r.2 (.ctx n.val) Reg.Ctx.SPILL_LO)
            (freeBytes (spillBytes ps) r.2) (tick r.2) else r
        if !q.1 then q.2
        else
          let d := modCtx n.val (fun c => { c with pass := some { ps with spilled := true, touched := [] } }) (freePens n.val q.2)
          let d := raiseFault (.ctx n.val) Reg.Ctx.SRC_PARTIAL_RENDER Reg.Ctx.EV_PARTIAL_RENDER (bump (.ctx n.val) Reg.Ctx.PREEMPT_COUNT 15 0 d)
          if cxState d n.val = 3 ∨ cxState d n.val = 4 then bin n.val (rf d (.ctx n.val) Reg.Ctx.PEN_STAT 15 0) d else d)) ∧
  (∀ (n : Fin 64) (s : State),
      cxState s.dev n.val = 3 →
      (ctxOf s.dev n.val).work = true →
      rf s.dev (.ctx n.val) Reg.Ctx.RUN_LIMIT 15 0 ≠ 0 →
      exec (.runLimitTimeout n) s = .next (s.on fun d => ctxFault n.val 6 0 0 d))

/-- The packets of a context's queue: what each command answers when nothing turns it away (R264, R271, R268, R275,
R277, R265, R283, R266). -/
def Obligations.PacketCommandsAnswer : Prop :=
  (∀ (n : Fin 64) (k : Pkt) (e : Dev) (s : State),
      PktFront n.val 0x00 s.dev k e →
      exec (.nop n) s = .next (s.on fun _ => cxSettle n.val e)) ∧
  (∀ (n : Fin 64) (s : State),
      cxState s.dev n.val = 4 →
      cxCause s.dev n.val = 2 →
      gpuRuns s.dev = true →
      exec (.pipeline n) s = .next (s.on fun d => lookUpAhead n.val d)) ∧
  (∀ (n : Fin 64) (k : Pkt) (g : GPipe) (f : Dev) (e : Dev) (s : State),
      PktFront n.val 0x01 s.dev k e →
      ¬ (cxState s.dev n.val = 4 ∧ cxCause s.dev n.val = 2) →
      k.addr 1 % 64 = 0 →
      tableLook n.val (k.addr 1) e = (some g, f) →
      g.kind ≤ 1 →
      cacheHas f g = true ∨ noTranslator (cacheLook n.val g (modCtx n.val (fun c => { c with bound := some g }) f)) = true →
      exec (.pipeline n) s = .next (s.on fun _ => cxSettle n.val
        (cacheLook n.val g (modCtx n.val (fun c => { c with bound := some g }) f)))) ∧
  (∀ (n : Fin 64) (k : Pkt) (g : GPipe) (f : Dev) (e : Dev) (s : State),
      PktFront n.val 0x01 s.dev k e →
      ¬ (cxState s.dev n.val = 4 ∧ cxCause s.dev n.val = 2) →
      k.addr 1 % 64 = 0 →
      tableLook n.val (k.addr 1) e = (some g, f) →
      g.kind ≤ 1 →
      cacheHas f g = false →
      noTranslator (cacheLook n.val g (modCtx n.val (fun c => { c with bound := some g }) f)) = false →
      exec (.pipeline n) s = .next (s.on fun _ => cxSettle n.val
        (ctxState n.val 4 4 (modCtx n.val (fun c => { c with transWait := true })
          (cacheLook n.val g (modCtx n.val (fun c => { c with bound := some g }) f)))))) ∧
  (∀ (n : Fin 64) (k : Pkt) (e : Dev) (s : State),
      PktFront n.val 0x02 s.dev k e →
      exec (.bindResources n) s = .next (s.on fun _ => cxSettle n.val (pktBind n.val k e))) ∧
  (∀ (n : Fin 64) (k : Pkt) (e : Dev) (s : State),
      PktFront n.val 0x02 s.dev k e →
      k.addr 2 % 64 = 0 →
      exec (.bindResources n) s = .next (s.on fun _ => cxSettle n.val
        (modCtx n.val (fun c => { c with sets := tabSet (fun _ => 0) c.sets (k.w 1 % 4) (k.addr 2) }) e))) ∧
  (∀ (n : Fin 64) (k : Pkt) (e : Dev) (s : State),
      PktFront n.val 0x03 s.dev k e →
      exec (.push n) s = .next (s.on fun _ => cxSettle n.val (pktPush n.val k e))) ∧
  (∀ (n : Fin 64) (k : Pkt) (e : Dev) (s : State),
      PktFront n.val 0x10 s.dev k e →
      exec (.passBegin n) s = .next (s.on fun _ => cxSettle n.val (pktPassBegin n.val k e))) ∧
  (∀ (n : Fin 64) (k : Pkt) (b : List Byte) (f : Dev) (e : Dev) (s : State),
      PktFront n.val 0x10 s.dev k e →
      k.addr 1 % 64 = 0 →
      (ctxOf e n.val).pass = none →
      cxRead n.val frontLane (k.addr 1) 128 e = (some b, f) →
      1 ≤ leNat ((b.drop 0).take 2) ∧ leNat ((b.drop 0).take 2) ≤ 8192 →
      1 ≤ leNat ((b.drop 2).take 2) ∧ leNat ((b.drop 2).take 2) ≤ 8192 →
      leNat ((b.drop 4).take 1) = 1 ∨ leNat ((b.drop 4).take 1) = 4 →
      leNat ((b.drop 5).take 1) ≤ 4 →
      attOk false (attOf (b.drop 8)) = true →
      ((List.range (min 4 (leNat ((b.drop 5).take 1)))).map (fun i => attOf (b.drop (0x20 + 24 * i)))).all (attOk true) = true →
      exec (.passBegin n) s = .next (s.on fun _ => cxSettle n.val
        (sb (.ctx n.val) Reg.Ctx.CTX_STAT 12 true (modCtx n.val (fun c => { c with pass := some {
          w := leNat ((b.drop 0).take 2), h := leNat ((b.drop 2).take 2), samples := leNat ((b.drop 4).take 1)
          colour := (List.range (min 4 (leNat ((b.drop 5).take 1)))).map (fun i => attOf (b.drop (0x20 + 24 * i)))
          depth := attOf (b.drop 8) } }) f)))) ∧
  (∀ (n : Fin 64) (t0 t1 t2 : Nat) (k : Pkt) (e : Dev) (s : State),
      PktFront n.val 0x11 s.dev k e →
      exec (.passEnd n t0 t1 t2) s = .next (s.on fun _ => cxSettle n.val (pktPassEnd n.val t0 t1 t2 k e))) ∧
  (∀ (n : Fin 64) (t0 t1 t2 : Nat) (k : Pkt) (ps : GPass) (f h : Dev) (e : Dev) (s : State),
      PktFront n.val 0x11 s.dev k e →
      (ctxOf e n.val).pass = some ps →
      renderPass n.val ps false (countTiles ps t0 t1 t2 (finishWork n.val e)) = (true, f) →
      storeHeaders n.val ps (ps.colour.filter (fun a => a.store == 0)) f = (true, h) →
      exec (.passEnd n t0 t1 t2) s = .next (s.on fun _ => cxSettle n.val
        (showPens n.val (freePens n.val (sb (.ctx n.val) Reg.Ctx.CTX_STAT 12 false (modCtx n.val (fun c => { c with pass := none }) h)))))) ∧
  (∀ (n : Fin 64) (run : ShaderRun) (pens need : Nat) (k : Pkt) (e : Dev) (s : State),
      canIssue s.dev n.val run = true →
      PktFront n.val 0x12 s.dev k e →
      exec (.draw n run pens need) s = .next (s.on fun _ => cxSettle n.val (pktDraw n.val run pens need k e))) ∧
  (∀ (n : Fin 64) (run : ShaderRun) (pens need : Nat) (k : Pkt) (ps : GPass) (g : GPipe) (f : Dev) (e : Dev) (s : State),
      canIssue s.dev n.val run = true →
      PktFront n.val 0x12 s.dev k e →
      (ctxOf e n.val).pass = some ps →
      (ctxOf e n.val).bound = some g →
      g.kind = 0 →
      g.samples = ps.samples →
      k.w 1 ≠ 0 →
      k.w 2 ≠ 0 →
      runShader n.val run (wakeFlocks e) = (true, f) →
      exec (.draw n run pens need) s = .next (s.on fun _ => cxSettle n.val
        (bin n.val need (modCtx n.val (fun c => { c with work := true, want := pens, pass := some (touchTiles g run ps), waves := c.waves ++ run.waves.map (fun w => (w.1.val, w.2)) }) f)))) ∧
  (∀ (n : Fin 64) (run : ShaderRun) (pens need : Nat) (k : Pkt) (e : Dev) (s : State),
      canIssue s.dev n.val run = true →
      PktFront n.val 0x13 s.dev k e →
      exec (.drawIndexed n run pens need) s = .next (s.on fun _ => cxSettle n.val (pktDrawIndexed n.val run pens need k e))) ∧
  (∀ (n : Fin 64) (run : ShaderRun) (pens need : Nat) (k : Pkt) (ps qs : GPass) (g h : GPipe) (b : List Byte) (x f : Dev) (e : Dev) (s : State),
      canIssue s.dev n.val run = true →
      PktFront n.val 0x13 s.dev k e →
      (ctxOf e n.val).pass = some qs →
      (ctxOf e n.val).bound = some h →
      cxRead n.val frontLane (k.addr 6 + k.w 3 * (if k.flags = 1 then 4 else 2)) (k.w 1 * (if k.flags = 1 then 4 else 2)) e = (some b, x) →
      (ctxOf x n.val).pass = some ps →
      (ctxOf x n.val).bound = some g →
      g.kind = 0 →
      g.samples = ps.samples →
      k.w 1 ≠ 0 →
      k.w 2 ≠ 0 →
      runShader n.val run (wakeFlocks x) = (true, f) →
      exec (.drawIndexed n run pens need) s = .next (s.on fun _ => cxSettle n.val
        (bin n.val need (modCtx n.val (fun c => { c with work := true, want := pens, pass := some (touchTiles g run ps), waves := c.waves ++ run.waves.map (fun w => (w.1.val, w.2)) }) f)))) ∧
  (∀ (n : Fin 64) (run : ShaderRun) (pens need : Nat) (k : Pkt) (e : Dev) (s : State),
      canIssue s.dev n.val run = true →
      PktFront n.val 0x14 s.dev k e →
      exec (.drawIndirect n run pens need) s = .next (s.on fun _ => cxSettle n.val (pktDrawIndirect n.val run pens need k e))) ∧
  (∀ (n : Fin 64) (run : ShaderRun) (pens need : Nat) (k : Pkt) (ps qs : GPass) (g h : GPipe) (b : List Byte) (x f : Dev) (e : Dev) (s : State),
      canIssue s.dev n.val run = true →
      PktFront n.val 0x14 s.dev k e →
      k.addr 1 % 4 = 0 →
      (ctxOf e n.val).pass = some qs →
      (ctxOf e n.val).bound = some h →
      cxRead n.val frontLane (k.addr 1) (16 * k.w 3) e = (some b, x) →
      (ctxOf x n.val).pass = some ps →
      (ctxOf x n.val).bound = some g →
      g.kind = 0 →
      g.samples = ps.samples →
      (List.range (k.w 3)).any (fun i => (wordsOf (4 * k.w 3) b).getD (4 * i) 0 != 0 && (wordsOf (4 * k.w 3) b).getD (4 * i + 1) 0 != 0) = true →
      runShader n.val run (wakeFlocks x) = (true, f) →
      exec (.drawIndirect n run pens need) s = .next (s.on fun _ => cxSettle n.val
        (bin n.val need (modCtx n.val (fun c => { c with work := true, want := pens, pass := some (touchTiles g run ps), waves := c.waves ++ run.waves.map (fun w => (w.1.val, w.2)) }) f)))) ∧
  (∀ (n : Fin 64) (run : ShaderRun) (k : Pkt) (e : Dev) (s : State),
      canIssue s.dev n.val run = true →
      PktFront n.val 0x20 s.dev k e →
      exec (.dispatch n run) s = .next (s.on fun _ => cxSettle n.val (pktDispatch n.val run k e))) ∧
  (∀ (n : Fin 64) (run : ShaderRun) (k : Pkt) (g : GPipe) (f : Dev) (e : Dev) (s : State),
      canIssue s.dev n.val run = true →
      PktFront n.val 0x20 s.dev k e →
      (ctxOf e n.val).pass = none →
      (ctxOf e n.val).bound = some g →
      g.kind = 1 →
      1 ≤ k.w 1 ∧ k.w 1 ≤ 65535 →
      1 ≤ k.w 2 ∧ k.w 2 ≤ 65535 →
      1 ≤ k.w 3 ∧ k.w 3 ≤ 65535 →
      runShader n.val run (wakeFlocks e) = (true, f) →
      exec (.dispatch n run) s = .next (s.on fun _ => cxSettle n.val
        (modCtx n.val (fun c => { c with work := true, waves := c.waves ++ run.waves.map (fun w => (w.1.val, w.2)) }) f))) ∧
  (∀ (n : Fin 64) (run : ShaderRun) (k : Pkt) (e : Dev) (s : State),
      canIssue s.dev n.val run = true →
      PktFront n.val 0x21 s.dev k e →
      exec (.dispatchIndirect n run) s = .next (s.on fun _ => cxSettle n.val (pktDispatchIndirect n.val run k e))) ∧
  (∀ (n : Fin 64) (run : ShaderRun) (k : Pkt) (g h : GPipe) (b : List Byte) (x f : Dev) (e : Dev) (s : State),
      canIssue s.dev n.val run = true →
      PktFront n.val 0x21 s.dev k e →
      (ctxOf e n.val).pass = none →
      (ctxOf e n.val).bound = some h →
      h.kind = 1 →
      cxRead n.val frontLane (k.addr 1) 12 e = (some b, x) →
      (ctxOf x n.val).pass = none →
      (ctxOf x n.val).bound = some g →
      g.kind = 1 →
      1 ≤ (wordsOf 3 b).getD 0 0 ∧ (wordsOf 3 b).getD 0 0 ≤ 65535 →
      1 ≤ (wordsOf 3 b).getD 1 0 ∧ (wordsOf 3 b).getD 1 0 ≤ 65535 →
      1 ≤ (wordsOf 3 b).getD 2 0 ∧ (wordsOf 3 b).getD 2 0 ≤ 65535 →
      runShader n.val run (wakeFlocks x) = (true, f) →
      exec (.dispatchIndirect n run) s = .next (s.on fun _ => cxSettle n.val
        (modCtx n.val (fun c => { c with work := true, waves := c.waves ++ run.waves.map (fun w => (w.1.val, w.2)) }) f))) ∧
  (∀ (n : Fin 64) (k : Pkt) (e : Dev) (s : State),
      PktFront n.val 0x30 s.dev k e →
      exec (.barrier n) s = .next (s.on fun _ => cxSettle n.val (finishWork n.val e))) ∧
  (∀ (n : Fin 64) (k : Pkt) (e : Dev) (s : State),
      PktFront n.val 0x31 s.dev k e →
      exec (.fenceSignal n) s = .next (s.on fun _ => cxSettle n.val (pktFenceSignal n.val k e))) ∧
  (∀ (n : Fin 64) (k : Pkt) (f : Dev) (e : Dev) (s : State),
      PktFront n.val 0x31 s.dev k e →
      k.addr 1 % 8 = 0 →
      cxWrite n.val frontLane (k.addr 1) (leBytes 8 (k.addr 3)) (finishWork n.val e) = (true, f) →
      exec (.fenceSignal n) s = .next (s.on fun _ => cxSettle n.val
        (doFenceRecheck (if k.flags % 2 = 1 then event (.ctx n.val) Reg.Ctx.EV_FENCE f else f)))) ∧
  (∀ (n : Fin 64) (k : Pkt) (e : Dev) (s : State),
      PktFront n.val 0x32 s.dev k e →
      exec (.fenceWait n) s = .next (s.on fun _ => cxSettle n.val (pktFenceWait n.val k e))) ∧
  (∀ (n : Fin 64) (k : Pkt) (v : Nat) (f : Dev) (e : Dev) (s : State),
      PktFront n.val 0x32 s.dev k e →
      k.addr 1 % 8 = 0 →
      fenceValue n.val (k.addr 1) e = (some v, f) →
      k.addr 3 ≤ v →
      exec (.fenceWait n) s = .next (s.on fun _ => cxSettle n.val
        (f))) ∧
  (∀ (n : Fin 64) (k : Pkt) (v : Nat) (f : Dev) (e : Dev) (s : State),
      PktFront n.val 0x32 s.dev k e →
      k.addr 1 % 8 = 0 →
      fenceValue n.val (k.addr 1) e = (some v, f) →
      v < k.addr 3 →
      exec (.fenceWait n) s = .next (s.on fun _ => cxSettle n.val
        (ctxState n.val 4 1 (modCtx n.val (fun c => { c with fence := some (k.addr 1, k.addr 3) }) f)))) ∧
  (∀ (s : State),
      exec .fenceRecheck s = .next (s.on fun d => forN fenceCheck 64 d)) ∧
  (∀ (n : Fin 64) (k : Pkt) (e : Dev) (s : State),
      PktFront n.val 0x40 s.dev k e →
      exec (.penRing n) s = .next (s.on fun _ => cxSettle n.val (pktPenRing n.val k e))) ∧
  (∀ (n : Fin 64) (k : Pkt) (e : Dev) (s : State),
      PktFront n.val 0x40 s.dev k e →
      (ctxOf e n.val).pass = none →
      k.addr 1 % 8 = 0 →
      exec (.penRing n) s = .next (s.on fun _ => cxSettle n.val
        (sf (.ctx n.val) Reg.Ctx.PEN_RING_LOG2 4 0 (k.w 3) (sg64 (.ctx n.val) Reg.Ctx.PEN_RING_LO (k.addr 1) e)))) ∧
  (∀ (n : Fin 64) (k : Pkt) (e : Dev) (s : State),
      PktFront n.val 0x50 s.dev k e →
      exec (.waitCall n) s = .next (s.on fun _ => cxSettle n.val (pktWaitCall n.val k e))) ∧
  (∀ (n : Fin 64) (k : Pkt) (e : Dev) (s : State),
      PktFront n.val 0x50 s.dev k e →
      cxBw e n.val = true →
      rb e (.ctx n.val) Reg.Ctx.CTX_STAT 11 = true →
      exec (.waitCall n) s = .next (s.on fun _ => cxSettle n.val
        (sb (.ctx n.val) Reg.Ctx.CTX_STAT 11 false e))) ∧
  (∀ (n : Fin 64) (k : Pkt) (e : Dev) (s : State),
      PktFront n.val 0x50 s.dev k e →
      cxBw e n.val = true →
      rb e (.ctx n.val) Reg.Ctx.CTX_STAT 11 = false →
      exec (.waitCall n) s = .next (s.on fun _ => cxSettle n.val
        (ctxState n.val 4 2 (modCtx n.val (fun c => { c with callWait := true }) (sb (.ctx n.val) Reg.Ctx.CTX_STAT 10 false e))))) ∧
  (∀ (n : Fin 64) (k : Pkt) (e : Dev) (s : State),
      PktFront n.val 0x51 s.dev k e →
      exec (.layerCommit n) s = .next (s.on fun _ => cxSettle n.val (pktLayerCommit n.val k e))) ∧
  (∀ (n : Fin 64) (k : Pkt) (c pipe : Nat) (owner : Party) (prs : List (Nat × Word)) (f : Dev) (e : Dev) (s : State),
      PktFront n.val 0x51 s.dev k e →
      k.w 1 / 256 % 256 = c →
      k.w 1 % 64 = pipe →
      ownerParty e (.ctx n.val) = owner →
      c ≤ 32 →
      k.words.length = 1 + 2 * c →
      (List.range c).map (fun i => (k.w (2 + 2 * i), BitVec.ofNat 32 (k.w (3 + 2 * i)))) = prs →
      isOwner (finishWork n.val e) (.pipe pipe) owner = true →
      prs.all (fun x => (stagedOffsets pipe).contains x.1 || (x.1 == Reg.Pipe.COEF_DATA && decide (48 ≤ pipe))) = true →
      prs.foldl (fun d x => onWrite owner (.pipe pipe) x.1 (pipeRegWrite pipe x.1 x.2) d) (finishWork n.val e) = f →
      Granted f owner (.pipe pipe) Reg.Pipe.COMMIT true →
      takesWork (gpIntervene (.pipe pipe) f) owner = true →
      exec (.layerCommit n) s = .next (s.on fun _ => cxSettle n.val
        (let g := gpIntervene (.pipe pipe) f
        commitPipes (rf g (.pipe pipe) Reg.Pipe.CTRL 14 12) (ownerCode (partyKind owner) (partyTag owner))
          (commitSet g (ownerCode (partyKind owner) (partyTag owner)) (rf g (.pipe pipe) Reg.Pipe.CTRL 14 12)) none (some n.val) g)))

/-- The GPU as a whole: levels, flocks, translations and errors: what each command answers when nothing turns it away
(R272, R274, R292, R606, R293, R294, R297, R296). -/
def Obligations.GpuCommandsAnswer : Prop :=
  (∀ (n : Fin 64) (evict : Nat) (r : TransReq) (s : State),
      (s.dev.gpu.reqs.take 2).find? (fun r => r.ctx == n.val) = some r →
      s.dev.wld.fieldReady = true →
      r.pipe.bad = false →
      exec (.translationDone n evict none) s = .next (s.on fun d =>
        let d := modGpu (fun g => { g with reqs := g.reqs.filter (fun x => x != r) }) d
        let kept := evictKeys evict d.gpu.cache
        let d := addTo .gpu Reg.Gpu.TCACHE_STAT 15 0 (d.gpu.cache.length - kept.length)
          (modGpu (fun g => { g with cache := kept ++ [(r.pipe.key, false)] }) d)
        let d := bump .gpu Reg.Gpu.TRANS_COUNT 31 16 (showCache d)
        let d := sg (.ctx n.val) Reg.Ctx.TRANS_WAIT (BitVec.ofNat 32 (d.us - r.since)) d
        if (ctxOf d n.val).bound.any (fun g => g.key == r.pipe.key) then
          cxWake n.val (modCtx n.val (fun c => { c with transWait := false }) d)
        else d)) ∧
  (∀ (n : Fin 64) (s : State),
      s.dev.gpu.reqs.any (fun r => r.ctx == n.val) = true →
      exec (.translationTimeout n) s = .next (s.on fun d => transFail n.val 0xFFFF d)) ∧
  (∀ (busy slots : Nat) (s : State),
      gpuRuns s.dev = true →
      gTrip s.dev = false →
      exec (.gpuLevelWindow busy slots) s = .next (s.on fun d =>
        let low := busy * 100 < 45 * slots
        let run := if low then d.gpu.lowRun + 1 else 0
        let d := modGpu (fun g => { g with lowRun := if 4 ≤ run then 0 else run }) d
        let d :=
          if 85 * slots < busy * 100 then setTarget (holdLevel d (gTarget d + 1)) d
          else if 4 ≤ run ∧ !callOut d then setTarget (clampLevel d (gTarget d - 1)) d
          else d
        if d.gpu.deferred then d else relimit d)) ∧
  (∀ (s : State),
      exec .levelDeferralEnd s = .next (s.on fun d =>
        if !d.gpu.deferred ∨ gTrip d then modGpu (fun g => { g with deferred := false }) d
        else setTarget (clampLevel d (gTarget d)) (modGpu (fun g => { g with deferred := false }) d))) ∧
  (∀ (l : Nat) (s : State),
      s.dev.gpu.raising = some l →
      rb s.dev (.sys 2) Reg.Sys2.SUP_CFG 0 = false →
      exec .voltageRampDone s = .next (s.on fun d => setLevel l (modGpu (fun g => { g with raising := none }) d))) ∧
  (∀ (mv : Nat) (l : Nat) (s : State),
      s.dev.gpu.raising = some l →
      rb s.dev (.sys 2) Reg.Sys2.SUP_CFG 0 = true →
      exec (.vfgSettle mv) s = .next (s.on fun d =>
        let e := { modGpu (fun g => { g with raising := none }) d with pwr := { d.pwr with masked1 := false } }
        if codeMv (levelCode l) ≤ mv + 25 then setLevel l e
        else
          raiseFault (.sys 2) Reg.Sys2.SRC_VFG_RAISE Reg.Sys2.EV_VFG_RAISE
            (bump (.sys 2) Reg.Sys2.SUP_STAT 15 8
              (driveCode (gLevel e) { e with pwr := { e.pwr with raiseUs := some (e.us + 1000) } })))) ∧
  (∀ (temp : BitVec 8) (s : State),
      exec (.throttle temp) s = .next (s.on fun d =>
        let d := gpuTemp temp d
        if temp.toInt ≤ throttleC d then d
        else relimit (event .gpu Reg.Gpu.EV_THROTTLE (sf .gpu Reg.Gpu.GPU_STAT 10 8 (rf d .gpu Reg.Gpu.GPU_STAT 10 8 - 1) d)))) ∧
  (∀ (temp : BitVec 8) (s : State),
      exec (.capRise temp) s = .next (s.on fun d =>
        let d := gpuTemp temp d
        if throttleC d - 5 ≤ temp.toInt then d
        else relimit (sf .gpu Reg.Gpu.GPU_STAT 10 8 (min 7 (rf d .gpu Reg.Gpu.GPU_STAT 10 8 + 1)) d))) ∧
  (∀ (temp : BitVec 8) (s : State),
      exec (.thermalTrip temp) s = .next (s.on fun d =>
        let d := gpuTemp temp d
        if temp.toInt < tripC d ∨ gTrip d then d
        else
          let d := modGpu (fun g => { g with deferred := false, raising := none }) { d with pwr := { d.pwr with masked1 := false } }
          let d := driveCode 0 (setLevel 0 (sb .gpu Reg.Gpu.GPU_STAT 12 true (sf .gpu Reg.Gpu.GPU_STAT 6 4 0 d)))
          raiseFault .gpu Reg.Gpu.SRC_THERMAL_TRIP Reg.Gpu.EV_THERMAL_TRIP (bump .gpu Reg.Gpu.LEVEL_COUNT 31 16 d))) ∧
  (∀ (f : Fin 4) (s : State),
      ¬ (f.val = 0 ∧ anyBound s.dev) →
      exec (.flockPowerDown f) s = .next (s.on fun d => flockPower f.val false d)) ∧
  (∀ (f : Fin 4) (s : State),
      rb s.dev (.flock f.val) Reg.Flock.FLOCK_STAT 30 = true →
      exec (.flockWake f) s = .next (s.on fun d => flockPower f.val true d)) ∧
  (∀ (n : Fin 64) (fail : CoreFail) (s : State),
      exec (.coreErr n fail) s = .next (s.on fun d =>
        let f := fail.core.val / 6
        let d := addTo (.flock f) Reg.Flock.FLOCK_ERR 31 16 fail.corrected.toNat
          (bump (.flock f) Reg.Flock.FLOCK_ERR 15 0 (sb (.flock f) Reg.Flock.FLOCK_STAT (fail.core.val % 6) false d))
        raiseFault .gpu Reg.Gpu.SRC_CORE_ERR Reg.Gpu.EV_CORE_ERR (ctxFault n.val 9 0 0 d))) ∧
  (∀ (who : Party) (s : State),
      Granted s.dev who .gpu Reg.Gpu.GPU_CTRL true →
      exec (.gpuRestart who) s = .next (s.on fun d =>
        let d := gpIntervene .gpu d
        gpuCtrl (rg d .gpu Reg.Gpu.GPU_CTRL ||| 0x80000000) d)) ∧
  (∀ (temp : BitVec 8) (s : State),
      exec (.gpuTripClear temp) s = .next (s.on fun d =>
        let d := gpuTemp temp d
        if tripC d - 10 ≤ temp.toInt ∨ !gTrip d then d else relimit (sb .gpu Reg.Gpu.GPU_STAT 12 false d)))

/-- Picture integrity: the windows, their evaluation and their restart: what each command answers when nothing turns
it away (R317, R325, R312, R315). -/
def Obligations.CheckCommandsAnswer : Prop :=
  (∀ (who : Party) (h : Fin 8) (s : State),
      Granted s.dev who (.chk h.val) Reg.Chk.CHK_COMMIT true →
      exec (.chkCommit who h) s = .next (s.on fun d => chkWrite h.val 1 (gpIntervene (.chk h.val) d))) ∧
  (∀ (who : Party) (h : Fin 8) (d : Dev) (s : State),
      Granted s.dev who (.chk h.val) Reg.Chk.CHK_COMMIT true →
      gpIntervene (.chk h.val) s.dev = d →
      headDisabled d h.val = true →
      exec (.chkCommit who h) s = .next (s.on fun _ =>
        chkApply h.val (winStaged d h.val) d)) ∧
  (∀ (who : Party) (h : Fin 8) (d : Dev) (s : State),
      Granted s.dev who (.chk h.val) Reg.Chk.CHK_COMMIT true →
      gpIntervene (.chk h.val) s.dev = d →
      headDisabled d h.val = false →
      exec (.chkCommit who h) s = .next (s.on fun _ =>
        modHead h.val (fun x => { x with wins := some (winStaged d h.val) }) d)) ∧
  (∀ (who : Party) (h : Fin 8) (s : State),
      Granted s.dev who (.chk h.val) Reg.Chk.CHK_COMMIT true →
      exec (.chkRestart who h) s = .next (s.on fun d => chkWrite h.val 0x80000000 (gpIntervene (.chk h.val) d))) ∧
  (∀ (h : Fin 8) (w : Fin 16) (t : Tab Word) (s : State),
      (let d := s.dev; let s := winOf d (winKey h.val w.val); s.cfg = some t) →
      (let d := s.dev; let s := winOf d (winKey h.val w.val); s.full = true ∧ wOn t = true ∧ winSuspended d h.val w.val = false) →
      exec (.windowEval h w) s = .next (s.on fun d =>
        let s := winOf d (winKey h.val w.val)
        let r := winResult t s
        let bad := winBad t s
        let run := rf d (.chk h.val) (Reg.Chk.WIN_STAT w.val) 15 8
        let run' := if bad then min 255 (run + 1) else 0
        let d := sg (.chk h.val) (Reg.Chk.LAST_CRC w.val) r (sg (.chk h.val) Reg.Chk.CHK_FRAME (rg d (.head h.val) Reg.Head.FRAME_COUNT) d)
        let d := modWin (winKey h.val w.val) (fun s => { s with full := false, prev := some r }) d
        let d := sf (.chk h.val) (Reg.Chk.WIN_STAT w.val) 15 8 run' d
        let d := match winMatch t r with
          | some k => if wLive t then d else sf (.chk h.val) (Reg.Chk.WIN_STAT w.val) 26 24 k d
          | none => d
        let d := when bad (bump (.chk h.val) (Reg.Chk.WIN_COUNT w.val) 31 16) d
        if run < wThreshold t ∧ wThreshold t ≤ run' then winFail h.val w.val t d else d)) ∧
  (∀ (who : Party) (h : Fin 8) (v : BitVec 16) (s : State),
      Granted s.dev who (.chk h.val) Reg.Chk.FAIL_CLEAR true →
      exec (.failClear who h v) s = .next (s.on fun d => failClear h.val (v.setWidth 32) (gpIntervene (.chk h.val) d)))

/-- Touch: glass links, panels, regions, rings and contacts: what each command answers when nothing turns it away
(R331, R330, R335, R337, R341, R339, R347, R338, R369, R353, R356, R357, R368). -/
def Obligations.TouchCommandsAnswer : Prop :=
  (∀ (who : Party) (n : Fin 8) (v : Word) (s : State),
      Granted s.dev who (.lg n.val) Reg.Lg.LG_CTRL true →
      exec (.lgEnable who n v) s = .next (s.on fun d => lgCtrl n.val v (gpIntervene (.lg n.val) d))) ∧
  (∀ (who : Party) (n : Fin 8) (v : Word) (e : Dev) (d : Dev) (s : State),
      Granted s.dev who (.lg n.val) Reg.Lg.LG_CTRL true →
      gpIntervene (.lg n.val) s.dev = d →
      bitOf v 31 = false →
      bitOf v 0 = true →
      plainWrite (.lg n.val) Reg.Lg.LG_CTRL v d = e →
      stands e (.lg n.val) = false →
      lgState e n.val = 0 →
      exec (.lgEnable who n v) s = .next (s.on fun _ =>
        setLg n.val 1 e)) ∧
  (∀ (who : Party) (n : Fin 8) (v : Word) (s : State),
      Granted s.dev who (.lg n.val) Reg.Lg.LG_CTRL true →
      exec (.lgRestart who n v) s = .next (s.on fun d => lgCtrl n.val (putBit v 31 true) (gpIntervene (.lg n.val) d))) ∧
  (∀ (n : Fin 8) (inverted : Bool) (s : State),
      lgState s.dev n.val = 1 →
      exec (.uplinkAligned n inverted) s = .next (s.on fun d =>
        let d := if inverted then event (.lg n.val) Reg.Lg.EV_POLARITY (sb (.lg n.val) Reg.Lg.LG_STAT 8 true d) else d
        lgSend n.val 1 1 (setLg n.val 2 d))) ∧
  (∀ (n : Fin 8) (c : LgCmd) (s : State),
      (tpOf s.dev n.val).cmd = some c →
      c.cmd ≠ 3 →
      ¬ (lgState s.dev n.val ≠ 2 ∧ lgState s.dev n.val ≠ 3) →
      exec (.helloRetry n) s = .next (s.on fun d =>
        if (tpOf d n.val).tries < 3 then lgSend n.val c.cmd ((tpOf d n.val).tries + 1) d
        else linkLost n.val d)) ∧
  (∀ (n : Fin 8) (bytes : List Byte) (codeErr : Bool) (s : State),
      exec (.reply n bytes codeErr) s = .next (s.on fun d =>
        let hello := (tpOf d n.val).cmd.any (fun c => c.cmd == 1)
        lgReceive n.val bytes codeErr false (replyOk d n.val bytes)
        (fun d => if hello then helloReply n.val (payload bytes) d else configReply n.val d) d)) ∧
  (∀ (n : Fin 8) (s : State),
      (let d := s.dev; let t := tpOf d n.val; t.scanning = true ∧ lgState d n.val = 3 ∧ stands d (.panel n.val) = false ∧ t.cmd.any (fun c => c.cmd != 3) = false) →
      exec (.scanTick n) s = .next (s.on fun d =>
        let t := tpOf d n.val
        if t.recfg then lgSend n.val 2 1 d
        else sendScan n.val d)) ∧
  (∀ (n : Fin 8) (bytes : List Byte) (codeErr late : Bool) (s : State),
      exec (.mutualC n bytes codeErr late) s = .next (s.on fun d =>
        lgReceive n.val bytes codeErr late (scanHeaderOk d n.val 1 bytes)
        (fun d => if (tpOf d n.val).scanning then mutualFrame n.val (samples (payload bytes) (sampleCount d n.val 1)) d else d) d)) ∧
  (∀ (n : Fin 8) (bytes : List Byte) (codeErr late : Bool) (s : State),
      exec (.self n bytes codeErr late) s = .next (s.on fun d =>
        lgReceive n.val bytes codeErr late (scanHeaderOk d n.val 2 bytes)
        (fun d => if (tpOf d n.val).scanning then selfFrame n.val (samples (payload bytes) (sampleCount d n.val 2)) d else d) d)) ∧
  (∀ (n : Fin 8) (bytes : List Byte) (codeErr late : Bool) (s : State),
      exec (.listen n bytes codeErr late) s = .next (s.on fun d =>
        lgReceive n.val bytes codeErr late (scanHeaderOk d n.val 3 bytes)
        (fun d => if (tpOf d n.val).scanning then listenFrame n.val (hdr bytes 1 1) (samples (payload bytes) (sampleCount d n.val 3)) d else d) d)) ∧
  (∀ (n : Fin 8) (i : Nat) (s : State),
      (let d := s.dev; panelReady d n.val = true) →
      exec (.suspectTimeout n i) s = .next (s.on fun d =>
        let area := areaOf (rxOf d n.val) (tpOf d n.val).suspect i
        panelShow n.val (modTp n.val (fun t => { t with suspect := t.suspect.filter (fun j => !area.contains j) }) d))) ∧
  (∀ (n : Fin 8) (track : Nat) (k : TrackS) (s : State),
      (tpOf s.dev n.val).tracks.find? (fun t => t.id == track) = some k →
      panelReady s.dev n.val = true →
      k.region.any (fun r => fld (regOf s.dev n.val r).ctrl 15 8 != 0) = true →
      exec (.forcedLift n track) s = .next (s.on fun d => liftTrack n.val k d)) ∧
  (∀ (n : Fin 8) (s : State),
      lgState s.dev n.val = 3 →
      exec (.uplinkLoss n) s = .next (s.on fun d => linkLost n.val (bump (.lg n.val) Reg.Lg.LG_DROP 15 0 d))) ∧
  (∀ (n : Fin 8) (s : State),
      lgState s.dev n.val = 4 →
      exec (.lostToAlign n) s = .next (s.on fun d => setLg n.val 1 d)) ∧
  (∀ (who : Party) (n : Fin 8) (v : Word) (s : State),
      Granted s.dev who (.panel n.val) Reg.Panel.PANEL_CTRL true →
      exec (.panelEnable who n v) s = .next (s.on fun d => panelCtrl n.val v (gpIntervene (.panel n.val) d))) ∧
  (∀ (who : Party) (n : Fin 8) (v : Word) (e : Dev) (d : Dev) (s : State),
      Granted s.dev who (.panel n.val) Reg.Panel.PANEL_CTRL true →
      gpIntervene (.panel n.val) s.dev = d →
      bitOf v 31 = false →
      bitOf v 0 = true →
      panelOn d n.val = false →
      plainWrite (.panel n.val) Reg.Panel.PANEL_CTRL v d = e →
      isoOf e (.panel n.val) = false →
      panelRefuse e n.val = 0 →
      exec (.panelEnable who n v) s = .next (s.on fun _ =>
        panelStart n.val (sf (.panel n.val) Reg.Panel.ELEC_STAT 9 0 0 (modTp n.val (fun t => { t with elec := [], dead := [] })
          (sf (.panel n.val) Reg.Panel.PANEL_STAT 3 0 0 e))))) ∧
  (∀ (who : Party) (n : Fin 8) (s : State),
      Granted s.dev who (.panel n.val) Reg.Panel.PANEL_CTRL true →
      exec (.rebase who n) s = .next (s.on fun d =>
        let d := gpIntervene (.panel n.val) d
        panelCtrl n.val (putBit (rg d (.panel n.val) Reg.Panel.PANEL_CTRL) 30 true) d)) ∧
  (∀ (who : Party) (n : Fin 8) (s : State),
      Granted s.dev who (.panel n.val) Reg.Panel.PANEL_CTRL true →
      exec (.panelRestart who n) s = .next (s.on fun d =>
        let d := gpIntervene (.panel n.val) d
        panelCtrl n.val (putBit (rg d (.panel n.val) Reg.Panel.PANEL_CTRL) 31 true) d)) ∧
  (∀ (who : Party) (n : Fin 8) (r : Fin 64) (reg : Fin 3) (v : Word) (s : State),
      Granted s.dev who (.panel n.val) (regionOff r.val reg.val) true →
      exec (.regionWrite who n r reg v) s = .next (s.on fun d =>
        regionWrite who n.val r.val reg.val v (gpIntervene (.panel n.val) d))) ∧
  (∀ (who : Party) (n : Fin 8) (r : Fin 64) (reg : Fin 3) (v : Word) (d : Dev) (s : State),
      Granted s.dev who (.panel n.val) (regionOff r.val reg.val) true →
      gpIntervene (.panel n.val) s.dev = d →
      who = .fold →
      regionValid (plainWrite (.panel n.val) (regionOff r.val reg.val) v d) n.val r.val = true →
      exec (.regionWrite who n r reg v) s = .next (s.on fun _ =>
        plainWrite (.panel n.val) (regionOff r.val reg.val) v d)) ∧
  (∀ (who : Party) (k : Fin 514) (v : Word) (s : State),
      Granted s.dev who (ringPage k.val) (ringBase k.val + Reg.Ring.RING_CFG) true →
      exec (.ringCfgWrite who k v) s = .next (s.on fun d => ringCfg k.val v (gpIntervene (ringPage k.val) d))) ∧
  (∀ (who : Party) (k : Fin 514) (v : Word) (d : Dev) (s : State),
      Granted s.dev who (ringPage k.val) (ringBase k.val + Reg.Ring.RING_CFG) true →
      gpIntervene (ringPage k.val) s.dev = d →
      bitOf v 31 = false →
      exec (.ringCfgWrite who k v) s = .next (s.on fun _ =>
        plainWrite (ringPage k.val) (ringBase k.val + Reg.Ring.RING_CFG) v d)) ∧
  (∀ (who : Party) (k : Fin 514) (v : Word) (s : State),
      Granted s.dev who (ringPage k.val) (ringBase k.val + Reg.Ring.RING_RPTR) true →
      exec (.ringRptrWrite who k v) s = .next (s.on fun d => ringRptr k.val v (gpIntervene (ringPage k.val) d))) ∧
  (∀ (who : Party) (s : State),
      Granted s.dev who .tch Reg.Tch.TCH_CTRL true →
      exec (.tchRestart who) s = .next (s.on fun d =>
        let d := gpIntervene .tch d
        tchCtrl (putBit (rg d .tch Reg.Tch.TCH_CTRL) 31 true) d))

/-- The keys: what each command answers when nothing turns it away (R363, R366, R371). -/
def Obligations.KeyCommandsAnswer : Prop :=
  (∀ (raw : List Word) (s : State),
      keysRun s.dev = true →
      exec (.keySample raw) s = .next (s.on fun d =>
        let d := modKeys (fun s => { s with samples := s.samples + 1 }) d
        let d := forN (fun k d => keyHealth k (keyTake k ((raw.map (·.toNat)).getD k 0 % 65536) d)) 48 d
        let ready := (List.range 48).filter (fun k => keyReady d k && keyState d k != 5)
        let down := ready.filter (fun k => keyCould d k && keyChosen d k)
        let d := ready.foldl (fun d k => keyMove down k d) d
        forN (fun k d => keyShowDelta k (if keyState d k = 5 then d else keyBaseline k d)) 48 (tick d))) ∧
  (∀ (sat : List (Fin 48)) (s : State),
      keysRun s.dev = true →
      rb s.dev (.key 0) Reg.Key0.KEY_TEST 0 = true →
      exec (.keyShortTest sat) s = .next (s.on fun d =>
        (sat.map (·.val)).foldl (fun d k =>
        if (keyOf d k).sat ≠ 0 then d
        else if keyState d k = 5 then modKey k (fun s => { s with good := 0 }) d
        else keyFault k 3 d) d)) ∧
  (∀ (k : Fin 48) (s : State),
      keyState s.dev k.val = 2 →
      rf s.dev (.key 0) (Reg.Key0.KEY_CLICK k.val) 23 16 ≠ 0 →
      keysRun s.dev = true →
      exec (.keyForcedLift k) s = .next (s.on fun d =>
        let d := modKey k.val (fun s => { s with ref := keyRaw d k.val }) (setKeyState k.val 4 d)
        keyFree k.val (keyRec k.val 3 2 (event (.key 0) Reg.Key0.EV_FORCED_LIFT (bump (.key 1) Reg.Key1.KEY_SUPPRESS 15 0 d))))) ∧
  (∀ (who : Party) (s : State),
      Granted s.dev who (.key 0) Reg.Key0.KEY_CTRL true →
      exec (.keyRebase who) s = .next (s.on fun d =>
        let d := gpIntervene (.key 0) d
        keyCtrl (putBit (rg d (.key 0) Reg.Key0.KEY_CTRL) 30 true) d)) ∧
  (∀ (who : Party) (s : State),
      Granted s.dev who (.key 0) Reg.Key0.KEY_CTRL true →
      exec (.keyRestart who) s = .next (s.on fun d =>
        let d := gpIntervene (.key 0) d
        keyCtrl (putBit (rg d (.key 0) Reg.Key0.KEY_CTRL) 31 true) d))

/-- Haptics: boosts, channels, triggers and protection: what each command answers when nothing turns it away (R373,
R377, R383, R387, R384, R386, R389, R390, R391, R396). -/
def Obligations.HapticCommandsAnswer : Prop :=
  (∀ (who : Party) (b : Fin 2) (v : Word) (s : State),
      Granted s.dev who (.hap 0) (bstCtrl b.val) true →
      exec (.boostCtrlWrite who b v) s = .next (s.on fun d => boostCtrl b.val v (gpIntervene (.hap 0) d))) ∧
  (∀ (b : Fin 2) (tenths : BitVec 16) (s : State),
      exec (.vhvOk b tenths) s = .next (s.on fun d =>
        let set := 5 * vhvSet d b.val
        let d := sf (.hap 0) Reg.Hap.VHV_MEAS (16 * b.val + 15) (16 * b.val) tenths.toNat d
        if bst d b.val 14 14 = 1 ∧ 97 * set ≤ 100 * tenths.toNat ∧ 100 * tenths.toNat ≤ 103 * set then hapSettle (setBst b.val 15 14 2 d) else d)) ∧
  (∀ (who : Party) (n : Fin 16) (v : Word) (nF : Nat) (s : State),
      Granted s.dev who (.hap 0) (Reg.Hap.CH_CFG n.val) true →
      exec (.chEnable who n v nF) s = .next (s.on fun d => chCfg n.val v nF (gpIntervene (.hap 0) d))) ∧
  (∀ (who : Party) (n : Fin 16) (v : Word) (nF : Nat) (d : Dev) (s : State),
      Granted s.dev who (.hap 0) (Reg.Hap.CH_CFG n.val) true →
      gpIntervene (.hap 0) s.dev = d →
      bitOf v 0 = true →
      rb d (.hap 0) (Reg.Hap.CH_CFG n.val) 0 = false →
      exec (.chEnable who n v nF) s = .next (s.on fun _ =>
        chRest n.val (measureCap n.val nF (plainWrite (.hap 0) (Reg.Hap.CH_CFG n.val) v d)))) ∧
  (∀ (who : Party) (page : Option (Fin 512)) (n : Fin 16) (v : Word) (s : State),
      Granted s.dev who (trigPage (page.map (·.val))) (Reg.Trig.TRIG n.val) true →
      exec (.trigger who page n v) s = .next (s.on fun d =>
        trigWrite who (page.map (·.val)) n.val (putBit v 31 false) (gpIntervene (trigPage (page.map (·.val))) d))) ∧
  (∀ (who : Party) (page : Option (Fin 512)) (n : Fin 16) (v : Word) (c : Nat) (d : Dev) (s : State),
      Granted s.dev who (trigPage (page.map (·.val))) (Reg.Trig.TRIG n.val) true →
      gpIntervene (trigPage (page.map (·.val))) s.dev = d →
      isoOf d (trigPage (page.map (·.val))) = false →
      trigClass d (putBit v 31 false) = c →
      trigRefuse d who (page.map (·.val)) n.val (fld (putBit v 31 false) 7 0) c = 0 →
      bitOf (putBit v 31 false) 31 = false →
      exec (.trigger who page n v) s = .next (s.on fun _ =>
        let t : HapTrig := { effect := fld (putBit v 31 false) 7 0, cls := c, level := max 1 (fld (putBit v 31 false) 23 16)
                             rep := fld (putBit v 31 false) 27 24, pad := page.map (·.val) }
        modHap (fun h => { h with queue := h.queue ++ [(n.val, t)] })
          (bump (trigPage (page.map (·.val))) Reg.Trig.TRIG_COUNT 15 0 d))) ∧
  (∀ (who : Party) (page : Option (Fin 512)) (n : Fin 16) (v : Word) (s : State),
      Granted s.dev who (trigPage (page.map (·.val))) (Reg.Trig.TRIG n.val) true →
      exec (.stop who page n v) s = .next (s.on fun d =>
        trigWrite who (page.map (·.val)) n.val (putBit v 31 true) (gpIntervene (trigPage (page.map (·.val))) d))) ∧
  (∀ (who : Party) (page : Option (Fin 512)) (n : Fin 16) (v : Word) (c : Nat) (d : Dev) (s : State),
      Granted s.dev who (trigPage (page.map (·.val))) (Reg.Trig.TRIG n.val) true →
      gpIntervene (trigPage (page.map (·.val))) s.dev = d →
      isoOf d (trigPage (page.map (·.val))) = false →
      bitOf (putBit v 31 true) 31 = true →
      fld (putBit v 31 true) 9 8 = c →
      chState d n.val ≠ 0 →
      chState d n.val ≠ 5 →
      notLeased d (page.map (·.val)) n.val = false →
      who = .fold ∨ c ≠ 0 →
      (page.map (·.val)).any (fun p => padState d p != 1) = false →
      exec (.stop who page n v) s = .next (s.on fun _ =>
        let e := setSlot n.val c none d
        chShow n.val (if (hapChOf e n.val).run.any (fun r => r.trig.cls == c) then goBrake n.val e else e))) ∧
  (∀ (nF : List (Fin 16 × Nat)) (s : State),
      exec (.hapSample nF) s = .next (s.on fun d =>
        let d := forN takeTrigs 16 (hapSettle d)
        let d := modHap (fun h => { h with queue := [], now := h.now + 1 }) d
        let d := forN (fun n d => chShow n (if chSafe d n then d else playSample n (movePhase 16 n d))) 16 d
        (nF.map (fun m => (m.1.val, m.2))).foldl (fun d m => if (hapChOf d m.1).run.isSome then measureCap m.1 m.2 d else d) d)) ∧
  (∀ (n : Fin 16) (cls : Fin 3) (t : HapTrig) (s : State),
      slotOf s.dev n.val cls.val = some t →
      (let d := s.dev; let lim := 48 * rf d (.hap 0) (Reg.Hap.CH_LIM n.val) 23 16; lim ≠ 0 ∧ ¬ (d.hap.now < t.taken + lim)) →
      exec (.pendTimeout n cls) s = .next (s.on fun d => chShow n.val (hapDrop n.val t (setSlot n.val cls.val none d)))) ∧
  (∀ (n : Fin 16) (s : State),
      (hapChOf s.dev n.val).run.any (fun r => decide (r.phase < 4 ∧ onMax s.dev n.val ≤ r.driven)) = true →
      exec (.onLimit n) s = .next (s.on fun d =>
        raiseFault (.hap 0) Reg.Hap.SRC_ON_LIMIT Reg.Hap.EV_ON_LIMIT (chShow n.val (goBrake n.val d)))) ∧
  (∀ (s : State),
      exec .dutyUpdate s = .next (s.on fun d =>
        forN (fun n => modHapCh n (fun h =>
        let win := (h.ms :: h.win).take 1000
        { h with ms := 0, win := if win.all (· == 0) then [] else win, duty := win.foldl (· + ·) 0 })) 16 d)) ∧
  (∀ (temp : BitVec 8) (s : State),
      exec (.thermWarn temp) s = .next (s.on fun d => hapTemp temp d)) ∧
  (∀ (temp : BitVec 8) (s : State),
      exec (.hapThermTrip temp) s = .next (s.on fun d => hapTemp temp d)) ∧
  (∀ (n : Fin 16) (nF : Nat) (s : State),
      chState s.dev n.val = 1 ∨ (hapChOf s.dev n.val).fault = 1 →
      exec (.capProbe n nF) s = .next (s.on fun d => chRest n.val (measureCap n.val nF d))) ∧
  (∀ (n : Fin 16) (kind : Fin 3) (s : State),
      chSafe s.dev n.val = false →
      exec (.hapShort n kind) s = .next (s.on fun d => chShort n.val (kind.val + 2) d)) ∧
  (∀ (n : Fin 16) (s : State),
      (let d := s.dev; let h := hapChOf d n.val; 2 ≤ h.fault ∧ h.stuck = false) →
      exec (.chShortRetry n) s = .next (s.on fun d =>
        chShow n.val (modHapCh n.val (fun h => { h with fault := 0, highs := 0 }) d))) ∧
  (∀ (b : Fin 2) (kind : Fin 4) (s : State),
      bst s.dev b.val 13 13 ≠ 0 →
      ¬ ((kind.val + 1) = 2 ∧ bst s.dev b.val 15 15 = 0) →
      exec (.boostFault b kind) s = .next (s.on fun d =>
        let d := boostStop b.val (setBst b.val 2 0 (kind.val + 1) d)
        let d := forN (fun k d => chRest (8 * b.val + k) (chEmpty (8 * b.val + k) d)) 8 d
        raiseFault (.hap 0) Reg.Hap.SRC_BOOST_FAULT Reg.Hap.EV_BOOST_FAULT d)) ∧
  (∀ (b : Fin 2) (s : State),
      bst s.dev b.val 2 0 ≠ 0 →
      ¬ (bst s.dev b.val 2 0 = 4 ∧ railBad s.dev 11 = true) →
      exec (.boostRetry b) s = .next (s.on fun d => hapSettle (setBst b.val 2 0 0 d))) ∧
  (∀ (who : Party) (s : State),
      Granted s.dev who (.hap 0) Reg.Hap.HAP_CTRL true →
      exec (.hapRestart who) s = .next (s.on fun d =>
        let d := gpIntervene (.hap 0) d
        hapCtrl (putBit (rg d (.hap 0) Reg.Hap.HAP_CTRL) 31 true) d)) ∧
  (∀ (who : Party) (s : State),
      Granted s.dev who (.hap 0) Reg.Hap.WH_DATA false →
      exec (.whDataRead who) s = .next (s.on fun d =>
        let d := gpIntervene (.hap 0) d
        let x := (fun d => (whData d, tick (bump (.hap 0) Reg.Hap.WH_SEL 30 16 d))) d
        { x.2 with resp := x.1.setWidth 64 })) ∧
  (∀ (temp : BitVec 8) (s : State),
      exec (.hapTripClear temp) s = .next (s.on fun d => hapTemp temp d)) ∧
  (∀ (temp : BitVec 8) (s : State),
      exec (.thermWarnClear temp) s = .next (s.on fun d => hapTemp temp d))

/-- Audio: routes, domains, sidetone, speakers and streams: what each command answers when nothing turns it away
(R404, R409, R411, R413, R401, R417, R416, R418, R419, R420, R421, R423, R424, R425, R426, R430). -/
def Obligations.AudioCommandsAnswer : Prop :=
  (∀ (who : Party) (v : Word) (s : State),
      Granted s.dev who (.aud 1) Reg.Aud1.ROUTE_COMMIT true →
      exec (.routeCommit who v) s = .next (s.on fun d => routeCommit who v (gpIntervene (.aud 1) d))) ∧
  (∀ (who : Party) (v : Word) (d : Dev) (s : State),
      Granted s.dev who (.aud 1) Reg.Aud1.ROUTE_COMMIT true →
      gpIntervene (.aud 1) s.dev = d →
      bitOf v 0 = true →
      exec (.routeCommit who v) s = .next (s.on fun _ =>
        event (.aud 1) Reg.Aud1.EV_ROUTE_APPLIED (busShow
          (forN (commitRoute who) 256 (bump (.aud 1) Reg.Aud1.ROUTE_COUNT 15 0 d))))) ∧
  (∀ (r : Fin 256) (s : State),
      (routeS s.dev r.val).defer.isSome = true →
      exec (.routeDeferredApply r) s = .next (s.on fun d => doRouteDeferred r.val d)) ∧
  (∀ (dom : Fin 3) (inputs : List (BitVec 8 × BitVec 24)) (s : State),
      audRuns s.dev = true →
      domOn s.dev dom.val = true →
      exec (.audioSampleFrame dom inputs) s = .next (s.on fun d =>
        audFrame dom.val (inputs.map (fun i => (i.1.toNat, i.2.toInt))) d)) ∧
  (∀ (s : State),
      s.dev.aud.active = [] →
      rb s.dev (.aud 0) Reg.Aud0.DUCK_STAT 31 = true →
      exec .duckOff s = .next (s.on fun d =>
        event (.aud 0) Reg.Aud0.EV_DUCK_OFF
        (duckRamp 0 (clampN 10 2000 (rf d (.aud 0) Reg.Aud0.DUCK_TIME 23 12)) (sb (.aud 0) Reg.Aud0.DUCK_STAT 31 false d)))) ∧
  (∀ (dom : Fin 3) (ppm : BitVec 16) (s : State),
      rb s.dev (.aud 0) (Reg.Aud0.DOMAIN_STAT dom.val) 31 = true →
      exec (.domainLost dom ppm) s = .next (s.on fun d =>
        let d := sg (.aud 0) (Reg.Aud0.DOMAIN_STAT dom.val) (ppm.setWidth 32) d
        raiseFault (.aud 0) Reg.Aud0.SRC_DOMAIN_LOST Reg.Aud0.EV_DOMAIN_LOST (forN tdmShow 4 d))) ∧
  (∀ (dom : Fin 3) (ppm : BitVec 16) (s : State),
      ppm.toInt.natAbs ≤ 1000 →
      domOn s.dev dom.val = true →
      rf s.dev (.aud 0) (Reg.Aud0.DOMAIN_CFG dom.val) 18 16 ≠ 0 →
      rb s.dev (.aud 0) (Reg.Aud0.DOMAIN_STAT dom.val) 31 = false →
      exec (.domainBack dom ppm) s = .next (s.on fun d =>
        let d := sg (.aud 0) (Reg.Aud0.DOMAIN_STAT dom.val) (0x80000000 ||| ppm.setWidth 32) d
        event (.aud 0) Reg.Aud0.EV_DOMAIN_BACK (forN tdmShow 4 d))) ∧
  (∀ (p : Fin 4) (s : State),
      tdmMode s.dev p.val = 2 →
      exec (.tdmSlip p) s = .next (s.on fun d =>
        raiseFault (.aud 0) Reg.Aud0.SRC_TDM_SLIP Reg.Aud0.EV_TDM_SLIP (bump (.aud 0) (Reg.Aud0.TDM_STAT p.val) 15 0 d))) ∧
  (∀ (who : Party) (v : Word) (s : State),
      Granted s.dev who (.afe 1) Reg.Afe1.ST_APPLY true →
      exec (.stApply who v) s = .next (s.on fun d => stApply v (gpIntervene (.afe 1) d))) ∧
  (∀ (who : Party) (v : Word) (d : Dev) (s : State),
      Granted s.dev who (.afe 1) Reg.Afe1.ST_APPLY true →
      gpIntervene (.afe 1) s.dev = d →
      bitOf v 0 = true →
      (List.range 4).any (fun k => stBad (rg d (.afe 1) (Reg.Afe1.ST_CFG k))) = false →
      exec (.stApply who v) s = .next (s.on fun _ =>
        let e := forN (fun k d =>
          let w := rg d (.afe 1) (Reg.Afe1.ST_CFG k)
          stShow k (modSt k (fun s => { s with
            tgt := w, pend := if s.ramp.isSome ∧ stElems s.act w = [] then [] else stElems s.act w
            ramp := if s.ramp.isSome ∧ s.tgt ≠ w then some d.us else s.ramp }) d)) 4 d
        if (List.range 4).all (fun j => (stOf e j).pend == []) then event (.afe 1) Reg.Afe1.EV_ST_APPLIED e else e)) ∧
  (∀ (k : Fin 4) (element : Fin 3) (s : State),
      (stOf s.dev k.val).pend.contains element.val = true →
      exec (.stZeroCrossing k element) s = .next (s.on fun d => stElem k.val element.val d)) ∧
  (∀ (k : Fin 4) (element : Fin 3) (s : State),
      (stOf s.dev k.val).pend.contains element.val = true →
      exec (.stForced k element) s = .next (s.on fun d =>
        event (.afe 1) Reg.Afe1.EV_ST_FORCED (stElem k.val element.val (modSt k.val (fun s => { s with ramp := some d.us }) d)))) ∧
  (∀ (m : Fin 8) (s : State),
      rb s.dev (.afe 0) Reg.Afe0.MIC_CFG m.val = true →
      rb s.dev (.afe 0) Reg.Afe0.MIC_STAT m.val = false →
      exec (.micFault m) s = .next (s.on fun d =>
        raiseFault (.afe 0) Reg.Afe0.SRC_MIC_FAULT Reg.Afe0.EV_MIC_FAULT (sb (.afe 0) Reg.Afe0.MIC_STAT m.val true d))) ∧
  (∀ (m : Fin 8) (s : State),
      exec (.micFaultClear m) s = .next (s.on fun d => sb (.afe 0) Reg.Afe0.MIC_STAT m.val false d)) ∧
  (∀ (h : Fin 2) (microamps : Nat) (s : State),
      exec (.hsPlug h microamps) s = .next (s.on fun d =>
        let bias := rb d (.afe 0) (Reg.Afe0.HS_CFG h.val) 1
        let d := modEar h.val (fun _ => { from_ := amp1, dest := amp1 }) d
        let d := setHs h.val 29 false (setHs h.val 30 (bias && decide (100 ≤ microamps ∧ microamps ≤ 1500)) (setHs h.val 31 true d))
        let d := event (.afe 0) Reg.Afe0.EV_HS_PLUG d
        if bias && decide (3000 < microamps) then doHsMicFault h.val d else d)) ∧
  (∀ (h : Fin 2) (s : State),
      exec (.hsUnplug h) s = .next (s.on fun d =>
        event (.afe 0) Reg.Afe0.EV_HS_UNPLUG (setHs h.val 30 false (setHs h.val 31 false (modEar h.val (fun r => r.goto 0 240) d))))) ∧
  (∀ (h : Fin 2) (s : State),
      rb s.dev (.afe 0) (Reg.Afe0.HS_STAT h.val) 31 = true →
      rb s.dev (.afe 0) (Reg.Afe0.HS_CFG h.val) 1 = true →
      rb s.dev (.afe 0) (Reg.Afe0.HS_STAT h.val) 29 = false →
      exec (.hsMicFault h) s = .next (s.on fun d =>
        fireSource (.afe 0) Reg.Afe0.SRC_HS_MIC_FAULT (setHs h.val 30 false (setHs h.val 29 true d)))) ∧
  (∀ (who : Party) (o : Fin 4) (v : Word) (s : State),
      Granted s.dev who (.afe 0) (Reg.Afe0.SPK_CFG o.val) true →
      exec (.spkEnable who o v) s = .next (s.on fun d => spkCfg o.val v (gpIntervene (.afe 0) d))) ∧
  (∀ (who : Party) (o : Fin 4) (v : Word) (d : Dev) (s : State),
      Granted s.dev who (.afe 0) (Reg.Afe0.SPK_CFG o.val) true →
      gpIntervene (.afe 0) s.dev = d →
      bitOf v 31 = true →
      rb d (.afe 0) (Reg.Afe0.SPK_CFG o.val) 31 = false →
      isoOf (plainWrite (.afe 0) (Reg.Afe0.SPK_CFG o.val) v d) (.afe 0) = false →
      exec (.spkEnable who o v) s = .next (s.on fun _ =>
        setSpk o.val 1 (sf (.afe 0) (Reg.Afe0.SPK_STAT o.val) 26 24 0
          (modSpk o.val (fun _ => {}) (plainWrite (.afe 0) (Reg.Afe0.SPK_CFG o.val) v d))))) ∧
  (∀ (o : Fin 4) (tenthOhms : Nat) (toGround toVspk : Bool) (s : State),
      spkState s.dev o.val = 1 →
      exec (.loadDone o tenthOhms toGround toVspk) s = .next (s.on fun d =>
        let d := sf (.afe 0) (Reg.Afe0.SPK_STAT o.val) 11 0 (if tenthOhms ≤ 4095 then tenthOhms else Config.freeNat d.free 0x420) d
        let d := event (.afe 0) Reg.Afe0.EV_LOAD_DONE d
        if toGround then spkFail o.val 2 d
        else if toVspk then spkFail o.val 3 d
        else if 400 < tenthOhms then spkFail o.val 1 d
        else if tenthOhms < 20 then spkFail o.val 4 d
        else setSpk o.val 2 (sf (.afe 0) (Reg.Afe0.SPK_STAT o.val) 26 24 0 d))) ∧
  (∀ (o : Fin 4) (kind : Fin 3) (s : State),
      spkState s.dev o.val = 2 →
      exec (.spkFault o kind) s = .next (s.on fun d =>
        let recent := (spkOf d o.val).times.filter (fun t => decide (d.us < t + 10000000)) ++ [d.us]
        let d := if (kind.val + 5) = 5 then modSpk o.val (fun s => { times := recent, stuck := s.stuck || decide (4 ≤ recent.length) }) d else d
        spkFail o.val (kind.val + 5) d)) ∧
  (∀ (o : Fin 4) (s : State),
      (let d := s.dev; let kind := rf d (.afe 0) (Reg.Afe0.SPK_STAT o.val) 26 24; let still := kind < 5 ∨ (kind = 6 ∧ railBad d 12 = true) ∨ (kind = 7 ∧ junctionLimit < daleTemp d + 10); spkState d o.val = 3 ∧ still = false ∧ (spkOf d o.val).stuck = false) →
      exec (.spkRecovery o) s = .next (s.on fun d => setSpk o.val 1 d)) ∧
  (∀ (who : Party) (page : Option (Fin 512)) (v : Word) (s : State),
      Granted s.dev who (asPageOf (page.map (·.val))) Reg.Aud2.AS_CFG true →
      exec (.asEnable who page v) s = .next (s.on fun d =>
        let d := gpIntervene (asPageOf (page.map (·.val))) d
        asReach who (page.map (·.val)) (asSel d (page.map (·.val))) (asCfgIn who (page.map (·.val)) (asSel d (page.map (·.val))) v) d)) ∧
  (∀ (who : Party) (page : Option (Fin 512)) (v : Word) (k : Nat) (w : Word) (d : Dev) (s : State),
      Granted s.dev who (asPageOf (page.map (·.val))) Reg.Aud2.AS_CFG true →
      gpIntervene (asPageOf (page.map (·.val))) s.dev = d →
      page = none →
      who = .fold →
      asSel d none = k →
      bitOf v 31 = true →
      bitOf (asOf d k).cfg 31 = false →
      maskIn (asOf d k).cfg v 0x9F033330 = w →
      asRefuse d who (asOf d k) w = 0 →
      exec (.asEnable who page v) s = .next (s.on fun _ =>
        modAs k (fun x => { x with cfg := w, running := true, stopping := false, hold := false, under := false, fault := false
                                   quiesced := false, refuse := 0, by_ := 0, gain := { from_ := amp1, dest := amp1 } }) d)) ∧
  (∀ (who : Party) (page : Option (Fin 512)) (n : Fin 64) (v : Word) (s : State),
      Granted s.dev who (asPageOf (page.map (·.val))) (Reg.Aud2.AS_PTR n.val) true →
      exec (.asPtrWrite who page n v) s = .next (s.on fun d =>
        asReach who (page.map (·.val)) n.val (modAs n.val (fun s => { s with own := fld v 15 0 })) (gpIntervene (asPageOf (page.map (·.val))) d))) ∧
  (∀ (who : Party) (page : Option (Fin 512)) (n : Fin 64) (v : Word) (d : Dev) (s : State),
      Granted s.dev who (asPageOf (page.map (·.val))) (Reg.Aud2.AS_PTR n.val) true →
      gpIntervene (asPageOf (page.map (·.val))) s.dev = d →
      page = none →
      who = .fold ∨ (asPad d n.val).isSome = false ∧ asFoldS d n.val = false →
      exec (.asPtrWrite who page n v) s = .next (s.on fun _ =>
        modAs n.val (fun x => { x with own := fld v 15 0 }) d)) ∧
  (∀ (s : State),
      exec .fellAudioLoss s = .next (s.on fun d =>
        let on := fun c =>
          if c < 0x34 then spkState d (c - 0x30) == 2
          else rb d (.afe 0) (Reg.Afe0.HS_CFG ((c - 0x34) / 2)) 31 && rb d (.afe 0) (Reg.Afe0.HS_STAT ((c - 0x34) / 2)) 31
        modAfe (fun a => { a with lost := true })
        (if d.afe.lost then d else forN (fun k => when (on (0x30 + k)) (emit (.audio (0x30 + k) 0))) 8 d))) ∧
  (∀ (who : Party) (s : State),
      Granted s.dev who (.aud 0) Reg.Aud0.AUD_CTRL true →
      exec (.audRestart who) s = .next (s.on fun d =>
        let d := gpIntervene (.aud 0) d
        audCtrl (putBit (rg d (.aud 0) Reg.Aud0.AUD_CTRL) 31 true) d)) ∧
  (∀ (who : Party) (s : State),
      Granted s.dev who (.afe 0) Reg.Afe0.AFE_CTRL true →
      exec (.afeRestart who) s = .next (s.on fun d =>
        let d := gpIntervene (.afe 0) d
        afeCtrl (putBit (rg d (.afe 0) Reg.Afe0.AFE_CTRL) 31 true) d))

/-- The paddock managers and the life of a paddock: what each command answers when nothing turns it away (R459, R460,
R463, R445, R446, R448, R456, R461). -/
def Obligations.ManagerCommandsAnswer : Prop :=
  (∀ (who : Party) (u : Fin 2) (s : State),
      Granted s.dev who (.padg u.val) Reg.Mgr.MGR_CMD true →
      exec (.create who u) s = .next (s.on fun d => mgrCmd u.val 0x01 (gpIntervene (.padg u.val) d))) ∧
  (∀ (who : Party) (u : Fin 2) (p : Nat) (d : Dev) (s : State),
      Granted s.dev who (.padg u.val) Reg.Mgr.MGR_CMD true →
      gpIntervene (.padg u.val) s.dev = d →
      isoOf d (.padg u.val) = false →
      (upOf d u.val).cmd = none →
      mgrArg d u.val 0 = p →
      d.pad.full = true →
      padCheck d u.val p [0] = 0 →
      vfLive d p = true →
      exec (.create who u) s = .next (s.on fun _ =>
        modUp u.val (fun x => { x with cmd := some (0x1, 0) })
          (sg (.padg u.val) Reg.Mgr.MGR_RESULT (BitVec.ofNat 32 (0x80000000 + 0x1 * 65536))
            (padTo p 1 (sf (.pset p 0) Reg.Pad.PAD_STAT 9 8 0 (modPad p (fun _ => {}) (padClasses p d))))))) ∧
  (∀ (who : Party) (u : Fin 2) (s : State),
      Granted s.dev who (.padg u.val) Reg.Mgr.MGR_CMD true →
      exec (.quiesce who u) s = .next (s.on fun d => mgrCmd u.val 0x02 (gpIntervene (.padg u.val) d))) ∧
  (∀ (who : Party) (u : Fin 2) (p : Nat) (d : Dev) (s : State),
      Granted s.dev who (.padg u.val) Reg.Mgr.MGR_CMD true →
      gpIntervene (.padg u.val) s.dev = d →
      isoOf d (.padg u.val) = false →
      (upOf d u.val).cmd = none →
      mgrArg d u.val 0 = p →
      padCheck d u.val p [1] = 0 →
      mgrArg d u.val 1 ≤ 1 →
      exec (.quiesce who u) s = .next (s.on fun _ =>
        modUp u.val (fun x => { x with cmd := some (0x2, 0) })
          (sg (.padg u.val) Reg.Mgr.MGR_RESULT (BitVec.ofNat 32 (0x80000000 + 0x2 * 65536))
            (startQuiesce p (mgrArg d u.val 1) d)))) ∧
  (∀ (who : Party) (u : Fin 2) (s : State),
      Granted s.dev who (.padg u.val) Reg.Mgr.MGR_CMD true →
      exec (.resumePaddock who u) s = .next (s.on fun d => mgrCmd u.val 0x03 (gpIntervene (.padg u.val) d))) ∧
  (∀ (who : Party) (u : Fin 2) (p : Nat) (d : Dev) (s : State),
      Granted s.dev who (.padg u.val) Reg.Mgr.MGR_CMD true →
      gpIntervene (.padg u.val) s.dev = d →
      isoOf d (.padg u.val) = false →
      (upOf d u.val).cmd = none →
      mgrArg d u.val 0 = p →
      padCheck d u.val p [3] = 0 →
      vfLive d p = true →
      (fnOf d (2 + p)).bme = true →
      exec (.resumePaddock who u) s = .next (s.on fun _ =>
        modUp u.val (fun x => { x with cmd := some (0x3, 0) })
          (sg (.padg u.val) Reg.Mgr.MGR_RESULT (BitVec.ofNat 32 (0x80000000 + 0x3 * 65536))
            (padTo p 1 (asResume p (leavePenned p d)))))) ∧
  (∀ (who : Party) (u : Fin 2) (s : State),
      Granted s.dev who (.padg u.val) Reg.Mgr.MGR_CMD true →
      exec (.reset who u) s = .next (s.on fun d => mgrCmd u.val 0x04 (gpIntervene (.padg u.val) d))) ∧
  (∀ (who : Party) (u : Fin 2) (p : Nat) (d : Dev) (s : State),
      Granted s.dev who (.padg u.val) Reg.Mgr.MGR_CMD true →
      gpIntervene (.padg u.val) s.dev = d →
      isoOf d (.padg u.val) = false →
      (upOf d u.val).cmd = none →
      mgrArg d u.val 0 = p →
      padCheck d u.val p [3] = 0 →
      vfLive d p = true →
      exec (.reset who u) s = .next (s.on fun _ =>
        modUp u.val (fun x => { x with cmd := some (0x4, 0) })
          (sg (.padg u.val) Reg.Mgr.MGR_RESULT (BitVec.ofNat 32 (0x80000000 + 0x4 * 65536))
            (startClearing p u.val false d)))) ∧
  (∀ (who : Party) (u : Fin 2) (s : State),
      Granted s.dev who (.padg u.val) Reg.Mgr.MGR_CMD true →
      exec (.remove who u) s = .next (s.on fun d => mgrCmd u.val 0x05 (gpIntervene (.padg u.val) d))) ∧
  (∀ (who : Party) (u : Fin 2) (p : Nat) (d : Dev) (s : State),
      Granted s.dev who (.padg u.val) Reg.Mgr.MGR_CMD true →
      gpIntervene (.padg u.val) s.dev = d →
      isoOf d (.padg u.val) = false →
      (upOf d u.val).cmd = none →
      mgrArg d u.val 0 = p →
      padCheck d u.val p [3] = 0 →
      exec (.remove who u) s = .next (s.on fun _ =>
        modUp u.val (fun x => { x with cmd := some (0x5, 0) })
          (sg (.padg u.val) Reg.Mgr.MGR_RESULT (BitVec.ofNat 32 (0x80000000 + 0x5 * 65536))
            (startClearing p u.val true d)))) ∧
  (∀ (who : Party) (u : Fin 2) (s : State),
      Granted s.dev who (.padg u.val) Reg.Mgr.MGR_CMD true →
      exec (.claim who u) s = .next (s.on fun d => mgrCmd u.val 0x10 (gpIntervene (.padg u.val) d))) ∧
  (∀ (who : Party) (u : Fin 2) (f n : Nat) (d : Dev) (s : State),
      Granted s.dev who (.padg u.val) Reg.Mgr.MGR_CMD true →
      gpIntervene (.padg u.val) s.dev = d →
      isoOf d (.padg u.val) = false →
      (upOf d u.val).cmd = none →
      mgrArg d u.val 0 = f →
      mgrArg d u.val 1 = n →
      d.pad.full = true →
      spanOk f n 16384 = true →
      (span f n).any (fun k => fotKind d k != fkFree) = false →
      heldFrames d u.val + n ≤ d.pad.quota →
      exec (.claim who u) s = .next (s.on fun _ =>
        modUp u.val (fun x => { x with cmd := some (0x10, 0) })
          (sg (.padg u.val) Reg.Mgr.MGR_RESULT (BitVec.ofNat 32 (0x80000000 + 0x10 * 65536))
            ((span f n).foldl (fun d k => fotSet k (fotWord fkManager u.val 0) d) d)))) ∧
  (∀ (who : Party) (u : Fin 2) (s : State),
      Granted s.dev who (.padg u.val) Reg.Mgr.MGR_CMD true →
      exec (.release who u) s = .next (s.on fun d => mgrCmd u.val 0x11 (gpIntervene (.padg u.val) d))) ∧
  (∀ (who : Party) (u : Fin 2) (f n : Nat) (d : Dev) (s : State),
      Granted s.dev who (.padg u.val) Reg.Mgr.MGR_CMD true →
      gpIntervene (.padg u.val) s.dev = d →
      isoOf d (.padg u.val) = false →
      (upOf d u.val).cmd = none →
      mgrArg d u.val 0 = f →
      mgrArg d u.val 1 = n →
      d.pad.full = true →
      spanOk f n 16384 = true →
      (span f n).any (fun k => !ownFrame d u.val k) = false →
      exec (.release who u) s = .next (s.on fun _ =>
        modUp u.val (fun x => { x with cmd := some (0x11, 0) })
          (sg (.padg u.val) Reg.Mgr.MGR_RESULT (BitVec.ofNat 32 (0x80000000 + 0x11 * 65536))
            (modUp u.val (fun x => { x with scrubbing := span f n }) (toScrub 0 (span f n) d))))) ∧
  (∀ (who : Party) (u : Fin 2) (s : State),
      Granted s.dev who (.padg u.val) Reg.Mgr.MGR_CMD true →
      exec (.grant who u) s = .next (s.on fun d => mgrCmd u.val 0x12 (gpIntervene (.padg u.val) d))) ∧
  (∀ (who : Party) (u : Fin 2) (p f i n : Nat) (d : Dev) (s : State),
      Granted s.dev who (.padg u.val) Reg.Mgr.MGR_CMD true →
      gpIntervene (.padg u.val) s.dev = d →
      isoOf d (.padg u.val) = false →
      (upOf d u.val).cmd = none →
      mgrArg d u.val 0 = p →
      mgrArg d u.val 1 = f →
      mgrArg d u.val 2 = i →
      mgrArg d u.val 3 = n →
      d.pad.full = true →
      portOf d p = some u.val →
      spanOk f n 16384 = true →
      spanOk i n 8192 = true →
      padCheck d u.val p [1, 2, 3, 4] = 0 →
      (List.range n).any (fun k => !ownFrame d u.val (f + k) || bitOf (pmapGet d p (i + k)) 31) = false →
      exec (.grant who u) s = .next (s.on fun _ =>
        modUp u.val (fun x => { x with cmd := some (0x12, 0) })
          (sg (.padg u.val) Reg.Mgr.MGR_RESULT (BitVec.ofNat 32 (0x80000000 + 0x12 * 65536))
            ((List.range n).foldl (fun d k =>
              pmapSet p (i + k) (BitVec.ofNat 32 (0x80000000 + f + k)) (fotSet (f + k) (fotWord fkPaddock p (i + k)) d)) d)))) ∧
  (∀ (who : Party) (u : Fin 2) (s : State),
      Granted s.dev who (.padg u.val) Reg.Mgr.MGR_CMD true →
      exec (.revoke who u) s = .next (s.on fun d => mgrCmd u.val 0x13 (gpIntervene (.padg u.val) d))) ∧
  (∀ (who : Party) (u : Fin 2) (p i n : Nat) (d : Dev) (s : State),
      Granted s.dev who (.padg u.val) Reg.Mgr.MGR_CMD true →
      gpIntervene (.padg u.val) s.dev = d →
      isoOf d (.padg u.val) = false →
      (upOf d u.val).cmd = none →
      mgrArg d u.val 0 = p →
      mgrArg d u.val 1 = i →
      mgrArg d u.val 2 = n →
      d.pad.full = true →
      portOf d p = some u.val →
      spanOk i n 8192 = true →
      padCheck d u.val p [1, 2, 3, 4] = 0 →
      (span i n).any (fun k => !bitOf (pmapGet d p k) 31) = false →
      exec (.revoke who u) s = .next (s.on fun _ =>
        modUp u.val (fun x => { x with cmd := some (0x13, 0) })
          (sg (.padg u.val) Reg.Mgr.MGR_RESULT (BitVec.ofNat 32 (0x80000000 + 0x13 * 65536))
            (modUp u.val (fun x => { x with scrubbing := (span i n).map (fun k => fld (pmapGet d p k) 13 0) })
              (toScrub (fotWord fkManager u.val 0) ((span i n).map (fun k => fld (pmapGet d p k) 13 0))
                ((span i n).foldl (fun d k => pmapSet p k 0 d) d)))))) ∧
  (∀ (who : Party) (u : Fin 2) (s : State),
      Granted s.dev who (.padg u.val) Reg.Mgr.MGR_CMD true →
      exec (.lease who u) s = .next (s.on fun d => mgrCmd u.val 0x20 (gpIntervene (.padg u.val) d))) ∧
  (∀ (who : Party) (u : Fin 2) (p kind n : Nat) (d : Dev) (s : State),
      Granted s.dev who (.padg u.val) Reg.Mgr.MGR_CMD true →
      gpIntervene (.padg u.val) s.dev = d →
      isoOf d (.padg u.val) = false →
      (upOf d u.val).cmd = none →
      mgrArg d u.val 0 = p →
      argRes d u.val = (kind, n) →
      portOf d p = some u.val →
      n < resCount kind →
      kind ≠ 2 ∨ mgrArg d u.val 2 / 16 % 4 ≠ 0 →
      padCheck d u.val p [1, 3] = 0 →
      inPool d u.val kind n = true →
      leasable d kind n = true →
      windowFull d p kind (mgrArg d u.val 2 % 4) = false →
      exec (.lease who u) s = .next (s.on fun _ =>
        modUp u.val (fun x => { x with cmd := some (0x20, 0) })
          (sg (.padg u.val) Reg.Mgr.MGR_RESULT (BitVec.ofNat 32 (0x80000000 + 0x20 * 65536))
            (leaseNow p kind n (mgrArg d u.val 2 % 4) (mgrArg d u.val 2 / 16 % 4) d)))) ∧
  (∀ (who : Party) (u : Fin 2) (s : State),
      Granted s.dev who (.padg u.val) Reg.Mgr.MGR_CMD true →
      exec (.unlease who u) s = .next (s.on fun d => mgrCmd u.val 0x21 (gpIntervene (.padg u.val) d))) ∧
  (∀ (who : Party) (u : Fin 2) (p kind n : Nat) (e : Dev) (d : Dev) (s : State),
      Granted s.dev who (.padg u.val) Reg.Mgr.MGR_CMD true →
      gpIntervene (.padg u.val) s.dev = d →
      isoOf d (.padg u.val) = false →
      (upOf d u.val).cmd = none →
      mgrArg d u.val 0 = p →
      argRes d u.val = (kind, n) →
      portOf d p = some u.val →
      n < resCount kind →
      leasee d kind n = some p →
      padState d p ≠ 2 →
      padState d p ≠ 5 →
      kind ≠ 1 ∨ padState d p = 3 ∨ cEnable n (pipeOf d n).act = false →
      startUnlease kind n d = (false, e) →
      exec (.unlease who u) s = .next (s.on fun _ =>
        modUp u.val (fun x => { x with cmd := some (0x21, 0) })
          (sg (.padg u.val) Reg.Mgr.MGR_RESULT (BitVec.ofNat 32 (0x80000000 + 0x21 * 65536))
            (unleaseNow p kind n e)))) ∧
  (∀ (u : Fin 2) (op : Nat) (st : Nat) (s : State),
      (let d := s.dev; let s := upOf d u.val; s.cmd = some (op, st)) →
      (let d := s.dev; let s := upOf d u.val; isoOf d (.padg u.val) = false ∧ s.scrubbing = [] ∧ s.wait.any (fun k => k.1 == 1 || !unleaseReady d k.1 k.2) = false) →
      exec (.mgrCmdDone u) s = .next (s.on fun d =>
        let s := upOf d u.val
        let d := match s.wait with
          | some k => (match leasee d k.1 k.2 with | some p => unleaseNow p k.1 k.2 d | none => d)
          | none => d
        event (.padg u.val) Reg.Mgr.EV_CMD_DONE
        (sg (.padg u.val) Reg.Mgr.MGR_RESULT (BitVec.ofNat 32 (op % 256 * 65536 + st)) (modUp u.val (fun s => { s with cmd := none, wait := none }) d)))) ∧
  (∀ (i : Fin 64) (p : Nat) (s : State),
      leasee s.dev 1 i.val = some p →
      (let d := s.dev; cEnable i.val (pipeOf d i.val).act = false) →
      exec (.unleaseFrameStart i) s = .next (s.on fun d =>
        let mine := fun u => (upOf d u).wait == some (1, i.val)
        if mine 0 ∨ mine 1 then
          unleaseNow p 1 i.val (modUp (if mine 0 then 0 else 1) (fun s => { s with wait := none }) d)
        else if (padOf d p).waits.contains (1, i.val) then
          let d := modPad p (fun s => { s with waits := s.waits.filter (· != (1, i.val)) }) d
          if (padOf d p).removing then unleaseNow p 1 i.val d else d
        else d)) ∧
  (∀ (p : Fin 512) (s : State),
      padState s.dev p.val = 2 →
      quiesceOver s.dev p.val = true →
      exec (.quiesceDone p) s = .next (s.on fun d => padTo p.val 3 d)) ∧
  (∀ (p : Fin 512) (s : State),
      padState s.dev p.val = 2 →
      exec (.quiesceTimeout p) s = .next (s.on fun d => forceQuiesce p.val 5 d)) ∧
  (∀ (p : Fin 512) (s : State),
      padState s.dev p.val = 4 →
      padAudioOff s.dev p.val = true →
      exec (.forcedQuiesceDone p) s = .next (s.on fun d => padTo p.val 3 d)) ∧
  (∀ (p : Fin 512) (s : State),
      (let d := s.dev; let s := padOf d p.val; padState d p.val = 5 ∧ s.scrubs = [] ∧ s.waits.any (fun e => e.1 == 1 || !unleaseReady d e.1 e.2) = false) →
      exec (.clearingDone p) s = .next (s.on fun d =>
        let s := padOf d p.val
        let late := s.waits.filter (fun e => e.1 != 1)
        let d := if s.removing then late.foldl (fun d e => unleaseNow p.val e.1 e.2 d) d else d
        padTo p.val (if s.removing then 0 else 1) (modPad p.val (fun s => { s with waits := [], removing := false }) d)))

/-- The host ports: functions, resets, the aperture and MSI-X: what each command answers when nothing turns it away
(R432, R459, R467, R434, R647, R465, R444). -/
def Obligations.HostPortCommandsAnswer : Prop :=
  (∀ (u : Fin 2) (numVfs : BitVec 16) (vfEnable : Bool) (s : State),
      (let d := s.dev; let ps := padsOf d u.val; ¬ (d.boot.stage < 8) ∧ ¬ (ps.length < numVfs.toNat)) →
      exec (.sriovConfig u numVfs vfEnable) s = .next (s.on fun d =>
        let ps := padsOf d u.val
        let d' := modUp u.val (fun s => { s with numVfs := numVfs.toNat, vfEnable := vfEnable && ps.length != 0 }) d
        (ps.filter (fun p => vfLive d p && !vfLive d' p)).foldl (fun d p => fnReset (2 + p) (padCause p 2 d)) d')) ∧
  (∀ (p : Fin 512) (s : State),
      vfLive s.dev p.val = true →
      exec (.vfFlr p) s = .next (s.on fun d => fnReset (2 + p.val) (padCause p.val 1 d))) ∧
  (∀ (fn : Fin 514) (s : State),
      (fnOf s.dev fn.val).bme = true →
      exec (.busMasterClear fn) s = .next (s.on fun d =>
        let d := modFn fn.val (fun s => { s with bme := false }) d
        if fn.val < 2 then d else padCause (fn.val - 2) 3 d)) ∧
  (∀ (u : Fin 2) (s : State),
      exec (.pfFlr u) s = .next (s.on fun d => pfCause u.val d)) ∧
  (∀ (u : Fin 2) (s : State),
      exec (.pfD3hot u) s = .next (s.on fun d => pfCause u.val d)) ∧
  (∀ (u : Fin 2) (s : State),
      exec (.hotReset u) s = .next (s.on fun d => modUp u.val (fun s => { s with linkUp := false }) (pfCause u.val d))) ∧
  (∀ (u : Fin 2) (s : State),
      exec (.linkDown u) s = .next (s.on fun d => modUp u.val (fun s => { s with linkUp := false }) (pfCause u.val d))) ∧
  (∀ (u : Fin 2) (s : State),
      exec (.perst u) s = .next (s.on fun d =>
        modUp u.val (fun s => { s with linkUp := false, perst := true }) (pfCause u.val d))) ∧
  (∀ (fn : Fin 514) (msixEn mask : Bool) (s : State),
      ¬ (2 ≤ fn.val ∧ vfLive s.dev (fn.val - 2) = false) →
      exec (.busMasterEnable fn msixEn mask) s = .next (s.on fun d =>
        let d := modFn fn.val (fun _ => { bme := true, msixEn := msixEn, msixMask := mask }) d
        forN (fun v d => if rb d (msixPage fn.val) Reg.PBA v && msixOpen d fn.val v then sendMsix fn.val v d else d) 32 d)) ∧
  (∀ (u : Fin 2) (s : State),
      exec (.pcieLinkUp u) s = .next (s.on fun d => modUp u.val (fun s => { s with linkUp := !s.perst }) d)) ∧
  (∀ (u : Fin 2) (s : State),
      exec (.perstRelease u) s = .next (s.on fun d => modUp u.val (fun s => { s with perst := false }) d)) ∧
  (∀ (who : Party) (fn : Fin 514) (k : Fin 32) (s : State),
      Granted s.dev who (msixPage fn.val) (Reg.MSIX_CTRL k.val) true →
      exec (.msixUnmask who fn k) s = .next (s.on fun d => msixCtrl fn.val k.val 0 (gpIntervene (msixPage fn.val) d))) ∧
  (∀ (p : Fin 512) (off : BitVec 28) (w : Width) (r : MemAns) (e : Dev) (s : State),
      vfLive s.dev p.val = true →
      isoOf s.dev (.pset p.val 0) = false →
      memRead (.party (.paddock (Fin.ofNat 512 p.val))) { tier := 1, port := 14 + (portOf s.dev p.val).getD 0 } (rf s.dev (.pset p.val 0) Reg.Pad.APERTURE 5 0 * 2 ^ 28 + off.toNat) (widthBytes w) s.dev = (r, e) →
      r.ok = true →
      exec (.apertureAccess p off w none) s = .next (s.on fun _ => { e with resp := BitVec.ofNat 64 (leNat r.bytes), poisoned := r.poison })) ∧
  (∀ (p : Fin 512) (off : BitVec 28) (w : Width) (x : BitVec 64) (e : Dev) (s : State),
      vfLive s.dev p.val = true →
      isoOf s.dev (.pset p.val 0) = false →
      memWrite (.party (.paddock (Fin.ofNat 512 p.val))) { tier := 1, port := 14 + (portOf s.dev p.val).getD 0 } (rf s.dev (.pset p.val 0) Reg.Pad.APERTURE 5 0 * 2 ^ 28 + off.toNat) (leBytes (widthBytes w) x.toNat) s.dev = (true, e) →
      exec (.apertureAccess p off w (some x)) s = .next (s.on fun _ => e)) ∧
  (∀ (who : Party) (p : Fin 512) (s : State),
      Granted s.dev who (.pset p.val 0) Reg.Pad.PAD_STAT false →
      exec (.padStatRead who p) s = .next (s.on fun d =>
        let d := gpIntervene (.pset p.val 0) d
        let x := padStatRead who p.val d
        { x.2 with resp := x.1.setWidth 64 }))

/-- The gates, the copy queues and the frames: what each command answers when nothing turns it away (R451, R452, R470,
R453, R455, R445, R468). -/
def Obligations.GateAndCopyCommandsAnswer : Prop :=
  (∀ (who : Party) (p : Fin 512) (v : Word) (s : State),
      Granted s.dev who (.pset p.val 1) gateUp.wptr true →
      exec (.upWptr who p v) s = .next (s.on fun d => gateBell p.val gateUp v (gpIntervene (.pset p.val 1) d))) ∧
  (∀ (who : Party) (p : Fin 512) (v : Word) (w k : Nat) (d : Dev) (s : State),
      Granted s.dev who (.pset p.val 1) gateUp.wptr true →
      gpIntervene (.pset p.val 1) s.dev = d →
      fld v 2 0 = w →
      gateWorks d p.val = true →
      (w + 8 - gateCtr d p.val gateUp.rptr) % 8 ≤ 4 →
      (w + 8 - gateCtr d p.val gateUp.vptr) % 8 = k →
      exec (.upWptr who p v) s = .next (s.on fun _ =>
        gatePend p.val (gateCheck p.val gateUp k (sf (.pset p.val 1) gateUp.wptr 2 0 w d)))) ∧
  (∀ (who : Party) (p : Fin 512) (v : Word) (s : State),
      Granted s.dev who (.pset p.val 1) gateDown.wptr true →
      exec (.downWptr who p v) s = .next (s.on fun d => gateBell p.val gateDown v (gpIntervene (.pset p.val 1) d))) ∧
  (∀ (who : Party) (p : Fin 512) (v : Word) (w k : Nat) (d : Dev) (s : State),
      Granted s.dev who (.pset p.val 1) gateDown.wptr true →
      gpIntervene (.pset p.val 1) s.dev = d →
      fld v 2 0 = w →
      gateWorks d p.val = true →
      (w + 8 - gateCtr d p.val gateDown.rptr) % 8 ≤ 4 →
      (w + 8 - gateCtr d p.val gateDown.vptr) % 8 = k →
      exec (.downWptr who p v) s = .next (s.on fun _ =>
        gateCheck p.val gateDown k (sf (.pset p.val 1) gateDown.wptr 2 0 w d))) ∧
  (∀ (who : Party) (p : Fin 512) (v : Word) (s : State),
      Granted s.dev who (.pset p.val 1) gateUp.rptr true →
      exec (.upRptr who p v) s = .next (s.on fun d => gateFree p.val gateUp v (gpIntervene (.pset p.val 1) d))) ∧
  (∀ (who : Party) (p : Fin 512) (v : Word) (d : Dev) (s : State),
      Granted s.dev who (.pset p.val 1) gateUp.rptr true →
      gpIntervene (.pset p.val 1) s.dev = d →
      isoOf d (.pset p.val 1) = false →
      (fld v 2 0 + 8 - gateCtr d p.val gateUp.rptr) % 8 ≤ (gateCtr d p.val gateUp.vptr + 8 - gateCtr d p.val gateUp.rptr) % 8 →
      exec (.upRptr who p v) s = .next (s.on fun _ =>
        gatePend p.val (sf (.pset p.val 1) gateUp.rptr 2 0 (fld v 2 0) d))) ∧
  (∀ (who : Party) (p : Fin 512) (v : Word) (s : State),
      Granted s.dev who (.pset p.val 1) gateDown.rptr true →
      exec (.downRptr who p v) s = .next (s.on fun d => gateFree p.val gateDown v (gpIntervene (.pset p.val 1) d))) ∧
  (∀ (who : Party) (p : Fin 512) (v : Word) (d : Dev) (s : State),
      Granted s.dev who (.pset p.val 1) gateDown.rptr true →
      gpIntervene (.pset p.val 1) s.dev = d →
      isoOf d (.pset p.val 1) = false →
      (fld v 2 0 + 8 - gateCtr d p.val gateDown.rptr) % 8 ≤ (gateCtr d p.val gateDown.vptr + 8 - gateCtr d p.val gateDown.rptr) % 8 →
      exec (.downRptr who p v) s = .next (s.on fun _ =>
        sf (.pset p.val 1) gateDown.rptr 2 0 (fld v 2 0) d)) ∧
  (∀ (who : Party) (q : Fin 514) (v : Word) (s : State),
      Granted s.dev who (cqPage q.val) (cqBase q.val + Reg.Cq.CQ_CFG) true →
      exec (.cqCfgWrite who q v) s = .next (s.on fun d => cqCfg q.val v (gpIntervene (cqPage q.val) d))) ∧
  (∀ (who : Party) (q : Fin 514) (v : Word) (d : Dev) (s : State),
      Granted s.dev who (cqPage q.val) (cqBase q.val + Reg.Cq.CQ_CFG) true →
      gpIntervene (cqPage q.val) s.dev = d →
      cqOn d q.val = false →
      4 ≤ fld v 3 0 →
      fld v 3 0 ≤ 12 →
      cqRing d q.val % (32 * 2 ^ fld v 3 0) = 0 →
      bitOf v 31 = true →
      exec (.cqCfgWrite who q v) s = .next (s.on fun _ =>
        sg (cqPage q.val) (cqBase q.val + Reg.Cq.CQ_WPTR) 0 (sg (cqPage q.val) (cqBase q.val + Reg.Cq.CQ_RPTR) 0
          (sf (cqPage q.val) (cqBase q.val + Reg.Cq.CQ_STAT) 31 24 0 (plainWrite (cqPage q.val) (cqBase q.val + Reg.Cq.CQ_CFG) v d))))) ∧
  (∀ (who : Party) (q : Fin 514) (v : Word) (s : State),
      Granted s.dev who (cqPage q.val) (cqBase q.val + Reg.Cq.CQ_WPTR) true →
      exec (.cqWptr who q v) s = .next (s.on fun d => cqBell who q.val v (gpIntervene (cqPage q.val) d))) ∧
  (∀ (who : Party) (q : Fin 514) (v : Word) (d : Dev) (s : State),
      Granted s.dev who (cqPage q.val) (cqBase q.val + Reg.Cq.CQ_WPTR) true →
      gpIntervene (cqPage q.val) s.dev = d →
      takesWork d who = true →
      exec (.cqWptr who q v) s = .next (s.on fun _ =>
        plainWrite (cqPage q.val) (cqBase q.val + Reg.Cq.CQ_WPTR) (BitVec.ofNat 32 (fld v 11 0 % cqSize d q.val)) d)) ∧
  (∀ (q : Fin 514) (host : List Byte) (r : MemAns) (e f : Dev) (s : State),
      cqRuns s.dev q.val = true →
      memRead (cqRingWho q.val) { tier := 1, port := 6 + Config.freeNat s.dev.free 0x453 % 8 } (cqRing s.dev q.val + 32 * cqRptr s.dev q.val) 32 (tick s.dev) = (r, e) →
      r.ok = true →
      r.poison = false →
      cqBad (cqDesc r.bytes) = false →
      cqMove q.val { tier := 1, port := 6 + Config.freeNat s.dev.free 0x453 % 8 } (cqDesc r.bytes) host 257 0 e = (0, f) →
      exec (.cqDescDone q host) s = .next (s.on fun _ =>
          let pg := cqPage q.val
          let b := cqBase q.val
          let c := cqDesc r.bytes
          let d := sf pg (b + Reg.Cq.CQ_RPTR) 11 0 ((cqRptr f q.val + 1) % cqSize f q.val) f
          let d := sf pg (b + Reg.Cq.CQ_STAT) 23 0 c.cookie (bump pg (b + Reg.Cq.CQ_DONE) 15 0 d)
          let d := if q.val < 2 then d else modPad (q.val - 2) (fun s => { s with cqLast := false }) d
          if c.flags.testBit 3 then event pg (if q.val < 2 then Reg.Mgr.EV_COPY_DONE else Reg.Pad.EV_COPY_DONE) d else d)) ∧
  (∀ (f : Fin 16384) (s : State),
      fotKind s.dev f.val = fkScrub →
      exec (.frameScrubDone f) s = .next (s.on fun d =>
        let d := dramZero (f.val * 0x200000) 0x200000 (fotSet f.val (tabGet (fun _ => 0) d.pad.scrubTo f.val) d)
        let d := if d.pad.giving = some f.val then sg (.padg 2) Reg.Pool.FOT_RESULT 0 d else d
        modMach (fun m => { m with
        scrubTo := tabSet (fun _ => 0) m.scrubTo f.val 0
        ups := m.ups.map (fun e => (e.1, { e.2 with scrubbing := e.2.scrubbing.filter (· != f.val) }))
        pads := m.pads.map (fun e => (e.1, { e.2 with scrubs := e.2.scrubs.filter (· != f.val) }))
        giving := if m.giving = some f.val then none else m.giving }) d)) ∧
  (∀ (who : Party) (s : State),
      Granted s.dev who (.padg 2) Reg.Pool.FOT_CMD true →
      exec (.take who) s = .next (s.on fun d => fotCmd 1 (gpIntervene (.padg 2) d))) ∧
  (∀ (who : Party) (f : Nat) (d : Dev) (s : State),
      Granted s.dev who (.padg 2) Reg.Pool.FOT_CMD true →
      gpIntervene (.padg 2) s.dev = d →
      isoOf d (.padg 2) = false →
      rf d (.padg 2) Reg.Pool.FOT_INDEX 13 0 = f →
      d.pad.giving = none →
      fotKind d f = fkFree →
      exec (.take who) s = .next (s.on fun _ =>
        sg (.padg 2) Reg.Pool.FOT_RESULT 0 (fotSet f (fotWord fkField 0 0) d))) ∧
  (∀ (who : Party) (s : State),
      Granted s.dev who (.padg 2) Reg.Pool.FOT_CMD true →
      exec (.give who) s = .next (s.on fun d => fotCmd 2 (gpIntervene (.padg 2) d))) ∧
  (∀ (who : Party) (f : Nat) (d : Dev) (s : State),
      Granted s.dev who (.padg 2) Reg.Pool.FOT_CMD true →
      gpIntervene (.padg 2) s.dev = d →
      isoOf d (.padg 2) = false →
      rf d (.padg 2) Reg.Pool.FOT_INDEX 13 0 = f →
      d.pad.giving = none →
      fotKind d f = fkField →
      exec (.give who) s = .next (s.on fun _ =>
        sg (.padg 2) Reg.Pool.FOT_RESULT 0x80000000 (modMach (fun m => { m with giving := some f }) (toScrub 0 [f] d))))

/-- The Fold and Field worlds, the cores and the life cycle: what each command answers when nothing turns it away
(R477, R478, R483, R484, R475, R488, R503, R495). -/
def Obligations.WorldCommandsAnswer : Prop :=
  (∀ (n : Fin 4) (file : CoreFile) (s : State),
      coreGoes s.dev n.val = true →
      (coreOf (modCore n.val (fun c => { c with regs := file }) s.dev) n.val).fold = false →
      file.mode ≠ 0 →
      isoOf (modCore n.val (fun c => { c with regs := file }) s.dev) (.wld 0) = false →
      exec (.foldCall n file) s = .next (s.on fun d =>
        let d := modCore n.val (fun c => { c with regs := file }) d
        let vec := (rg d (.wld 0) Reg.Wld0.CALL_VEC_HI) ++ (rg d (.wld 0) Reg.Wld0.CALL_VEC_LO)
        let d := bump (.wld 0) (Reg.Wld0.SWITCH_COUNT n.val) 31 16 d
        haltNow n.val (modCore n.val (fun c => { c with
          fold := true, entry := some (.call (file.pc + 4) file.mode), shadow := (List.range 4).map (regAt file.x)
          regs := { file with pc := vec, mode := 1 } }) d))) ∧
  (∀ (n : Fin 4) (file : CoreFile) (ret : BitVec 64) (mode : Fin 4) (s : State),
      coreGoes s.dev n.val = true →
      (let c := coreOf (modCore n.val (fun c => { c with regs := file }) s.dev) n.val; c.fold = true ∧ c.entry = some (.call ret mode)) →
      file.mode ≠ 0 →
      exec (.foldRet n file) s = .next (s.on fun d =>
        let d := modCore n.val (fun c => { c with regs := file }) d
        toField n.val (scrubbed file (coreOf d n.val).shadow ret mode) d)) ∧
  (∀ (a : BitVec 32) (en : BitVec 4) (file : CoreFile) (p : Page) (n : Nat) (s : State),
      pageOf a.toNat = some p →
      irqOn s.dev p = true →
      ownedByFold s.dev p = true →
      coreOfMask (rf s.dev (.wld 0) Reg.Wld0.FOLD_INT_MASK 3 0) (fun n => (coreOf s.dev n).fold && !(coreOf s.dev n).stopped && !(coreOf s.dev n).halted && en.toNat.testBit n) = some n →
      exec (.interruptDelivery a en file) s = .next (s.on fun d => coreTrap n (causeExt false) d)) ∧
  (∀ (a : BitVec 32) (en : BitVec 4) (file : CoreFile) (p : Page) (n : Nat) (s : State),
      pageOf a.toNat = some p →
      irqOn s.dev p = true →
      ownedByFold s.dev p = false →
      ownedByField s.dev p = true →
      coreOfMask (rf s.dev (.wld 1) Reg.Wld1.FIELD_INT_MASK 3 0) (fun n => !(coreOf s.dev n).fold && coreGoes s.dev n && en.toNat.testBit n) = some n →
      exec (.interruptDelivery a en file) s = .next (s.on fun d => coreTrap n (causeExt (file.mode == 3)) d)) ∧
  (∀ (n : Fin 4) (s : State),
      rf s.dev (.wld 0) Reg.Wld0.FOLD_BUDGET 15 0 ≠ 0 →
      (coreOf s.dev n.val).fold = true →
      (coreOf s.dev n.val).long = false →
      rf s.dev (.wld 1) Reg.Wld1.FIELD_INT_MASK 3 0 = 2 ^ n.val →
      asserted s.dev 1 ≠ [] →
      exec (.foldLong n) s = .next (s.on fun d =>
        raiseFault (.wld 0) Reg.Wld0.SRC_FOLD_LONG Reg.Wld0.EV_FOLD_LONG
        (bump (.wld 0) Reg.Wld0.LONG_COUNT 15 0 (modCore n.val (fun c => { c with long := true }) d)))) ∧
  (∀ (n : Fin 4) (kind : Fin 3) (a : BitVec 64) (bytes : Nat) (v : Option (List Byte)) (r : MemAns) (e : Dev) (s : State),
      coreGoes s.dev n.val = true →
      kind.val ≠ 2 →
      (!(coreOf s.dev n.val).fold && belowLine { s.dev with data := [], poisoned := false } a.toNat bytes) = false →
      rangeOk { s.dev with data := [], poisoned := false } (.party (if (coreOf s.dev n.val).fold then .fold else .field)) a.toNat bytes = true →
      memRead (.party (if (coreOf s.dev n.val).fold then .fold else .field)) { tier := 2, port := 0 } a.toNat bytes { s.dev with data := [], poisoned := false } = (r, e) →
      r.poison = false →
      exec (.coreMemoryAccess n kind a bytes v) s = .next (s.on fun _ => { e with data := r.bytes })) ∧
  (∀ (n : Fin 4) (a : BitVec 64) (bytes : Nat) (bs : List Byte) (s : State),
      coreGoes s.dev n.val = true →
      (!(coreOf s.dev n.val).fold && belowLine { s.dev with data := [], poisoned := false } a.toNat bs.length) = false →
      rangeOk { s.dev with data := [], poisoned := false } (.party (if (coreOf s.dev n.val).fold then .fold else .field)) a.toNat bs.length = true →
      exec (.coreMemoryAccess n 2 a bytes (some bs)) s = .next (s.on fun _ => (memWrite (.party (if (coreOf s.dev n.val).fold then .fold else .field)) { tier := 2, port := 0 } a.toNat bs { s.dev with data := [], poisoned := false }).2)) ∧
  (∀ (past : Bool) (lo : Nat) (hi : Nat) (s : State),
      s.dev.wld.raising = some (past, lo, hi) →
      exec .raiseDone s = .next (s.on fun d =>
        let d := if past then pastZero (lo * 0x10000) ((hi - lo) * 0x10000) d
          else forN (fun i d => fotSet (lo + i) (fotWord fkFold 0 0) d) (hi - lo) (dramZero (lo * 0x200000) ((hi - lo) * 0x200000) d)
        event (.wld 0) Reg.Wld0.EV_RAISE_DONE
        (sb (.wld 0) Reg.Wld0.FOLD_STAT 31 false (modWld (fun w => { w with raising := none }) d)))) ∧
  (∀ (who : Party) (s : State),
      Granted s.dev who (.wld 0) Reg.Wld0.WLD_CTRL true →
      exec (.wldRestart who) s = .next (s.on fun d => wldCtrl 0x80000000 (gpIntervene (.wld 0) d))) ∧
  (∀ (n : Fin 4) (s : State),
      (coreOf s.dev n.val).stopped = false →
      (invasive s.dev true || invasive s.dev false) = true →
      exec (.debugHalt n) s = .next (s.on fun d =>
        haltNow n.val (modCore n.val (fun c => { c with haltAsked := true }) d))) ∧
  (∀ (k : Fin 4) (s : State),
      exec (.jtagInstruction k) s = .next (s.on fun d =>
        modWld (fun w => { w with jtag := if k.val = 3 ∧ !(invasive d true && invasive d false) then 0 else k.val }) d))

/-- Tamper: what each command answers when nothing turns it away (R501, R505). -/
def Obligations.TamperCommandsAnswer : Prop :=
  (∀ (n : Fin 2) (s : State),
      rb s.dev .lcs Reg.Lcs.TAMPER_CFG (8 * n.val + 7) = true →
      exec (.tamper n) s = .next (s.on fun d =>
        let d := cairnPut (cairnNow d 0xF7 0xFF 0xFF 5 (chargeState d) (chargeState d) 0xFFFF n.val 0) d
        let d := bump .lcs Reg.Lcs.TAMPER_COUNT (16 * n.val + 15) (16 * n.val) d
        let d := sb .lcs Reg.Lcs.TAMPER_STAT n.val true (sb .lcs Reg.Lcs.TAMPER_STAT (4 + n.val) (!rb d .lcs Reg.Lcs.TAMPER_CFG (8 * n.val + 6)) d)
        if d.sdg.inReset then sb .lcs Reg.Lcs.TAMPER_STAT 9 true (wipeKeys d)
        else
          let d := raiseFault .lcs Reg.Lcs.SRC_TAMPER (Reg.Lcs.EV_TAMPER0 + n.val) d
          if wiping d then d else wipeBegin (1 + n.val) d)) ∧
  (∀ (s : State),
      rf s.dev .lcs Reg.Lcs.WIPE_STAT 3 0 = 2 →
      exec .pastureWiped s = .next (s.on fun d => sf .lcs Reg.Lcs.WIPE_STAT 3 0 3 (pastZero 0 (pastFold d) d))) ∧
  (∀ (s : State),
      rf s.dev .lcs Reg.Lcs.WIPE_STAT 3 0 = 3 →
      exec .wipeDone s = .next (s.on fun d =>
        let d := dramZero 0 (dramFold d) d
        let d := sf .lcs Reg.Lcs.WIPE_STAT 3 0 4 (sb .lcs Reg.Lcs.TAMPER_STAT 8 false d)
        let d := event .lcs Reg.Lcs.EV_WIPE_DONE d
        recompute 0xFFFF 0 1 false [] (restartDue (0x90 ||| dueCauses d) d))) ∧
  (∀ (who : Party) (v : Word) (s : State),
      Granted s.dev who .lcs Reg.Lcs.TAMPER_CLEAR true →
      exec (.tamperClear who v) s = .next (s.on fun d => tamperClearWrite v (gpIntervene .lcs d)))

/-- The Tether, Charge, gather and the Dale die: what each command answers when nothing turns it away (R510, R511,
R515, R516, R518, R517, R520). -/
def Obligations.TetherCommandsAnswer : Prop :=
  (∀ (toDale : Bool) (bytes : List Byte) (s : State),
      tetUp s.dev = true →
      s.dev.sdg.inReset = false →
      exec (.tetherFrame toDale bytes) s = .next (s.on fun d =>
        if frameGood bytes && (frameNext toDale d == none || frameNext toDale d == some (frameSeq bytes)) then
          let n := some ((frameSeq bytes + 1) % 65536)
          let d := frameFails toDale 0 (modTet (fun t => if toDale then { t with toDale := n } else { t with toFell := n }) d)
          let cls := leNat (bytes.take 1)
          let len := min 24 (leNat ((bytes.drop 1).take 1))
          if cls = 0 then d else emit (.tether toDale cls ((bytes.drop 4).take len)) d
        else frameBad toDale d)) ∧
  (∀ (s : State),
      tetUp s.dev = true →
      exec .tetherRetrain s = .next (s.on fun d =>
        bump .tet Reg.Tet.TET_ERR 15 0 (sb .tet Reg.Tet.TET_STAT 31 false (sf .tet Reg.Tet.TET_STAT 20 16 0
        (sf .tet Reg.Tet.TET_STAT 12 8 0 (sf .tet Reg.Tet.TET_STAT 1 0 3 (modTet (fun t => { t with fails := (0, 0) }) d))))))) ∧
  (∀ (s : State),
      tetState s.dev = 0 →
      s.dev.sdg.inReset = false →
      isoOf s.dev .tet = false →
      exec .tetherTrainRetry s = .next (s.on fun d => sf .tet Reg.Tet.TET_STAT 1 0 1 d)) ∧
  (∀ (s : State),
      s.dev.sdg.inReset = false →
      fellLive s.dev = true →
      s.dev.sdg.reload = 0 →
      exec .chargeWordSend s = .next (s.on fun d =>
        let d := doExchangeTimeout d
        let g := d.sdg
        let st := chargeState d
        let d := modSdg (fun g => { g with nextSeq := (g.nextSeq + 1) % 65536, lastSent := st,
                                           open_ := some { seq := g.nextSeq, st := st } }) d
        emit (.charge false (charge12 g.nextSeq st 0 (g.vaoEpoch % 2 ^ 32))) (sf .sdg Reg.Sdg.CHARGE_SEQ 15 0 g.nextSeq d))) ∧
  (∀ (bytes : List Byte) (s : State),
      fellLive s.dev = true →
      tetUp s.dev = true →
      s.dev.sdg.inReset = false →
      cwGood bytes = true →
      cwSource bytes = 0 →
      exec (.chargeAnswer bytes) s = .next (s.on fun d =>
        let a := answerState (cwState bytes) d
        let d := sg .tet Reg.Tet.CHARGE_REMOTE (BitVec.ofNat 32 (cwSeq bytes * 65536 + cwState bytes))
          (modTet (fun t => { t with runWord := decide (cwState bytes % 4 < 2) }) d)
        let d := sg .tet Reg.Tet.CHARGE_LOCAL (BitVec.ofNat 32 (cwSeq bytes * 65536 + a)) d
        emit (.charge true (charge12 (cwSeq bytes) a 1 (rg d .tet Reg.Tet.EPOCH).toNat)) d)) ∧
  (∀ (bytes : List Byte) (x : Exchange) (s : State),
      s.dev.sdg.open_ = some x →
      cwGood bytes = true →
      cwSource bytes = 1 →
      cwSeq bytes = x.seq →
      cwEpoch bytes = s.dev.sdg.vaoEpoch % 2 ^ 32 →
      exec (.chargeAnswerReceived bytes) s = .next (s.on fun d =>
        let d := modSdg (fun g => { g with open_ := none, suspended := false, lastAnswer := cwState bytes }) d
        let d := if cwState bytes % 4 = x.st then exchangeGood d else exchangeBad true d
        if cwState bytes / 4 % 4 = 3 ∧ fellLive d then decideRequest d else d)) ∧
  (∀ (x : Exchange) (s : State),
      s.dev.sdg.open_ = some x →
      exec .exchangeTimeout s = .next (s.on fun d =>
        exchangeBad false (modSdg (fun g => { g with open_ := none, lastAnswer := 0xFF }) d))) ∧
  (∀ (s : State),
      ¬ (s.dev.boot.stage < 7) →
      s.dev.sdg.fellHeld = false →
      ownGather s.dev = false →
      exec .ownGather s = .next (s.on fun d =>
        let d := event .tet Reg.Tet.EV_OWN_GATHER (sb .tet Reg.Tet.TET_STAT 30 true (modTet (fun t => { t with runWord := false }) d))
        if d.tet.gather then d else enterGather d)) ∧
  (∀ (s : State),
      gatherWire s.dev = true →
      exec .gatherWireAssert s = .next (s.on fun d =>
        let d := hapSettle d
        if d.tet.gather ∨ d.sdg.fellHeld = true then d else enterGather d)) ∧
  (∀ (s : State),
      gatherWire s.dev = false →
      exec .gatherRelease s = .next (s.on fun d =>
        let d := hapSettle d
        if !d.tet.gather ∨ d.sdg.fellHeld = true ∨ (ownGather d = true ∧ d.tet.runWord = false) then d
        else
          let d := sb .tet Reg.Tet.TET_STAT 30 false (modTet (fun t => { t with gather := false }) d)
          padGather false (gpuGather false d))) ∧
  (∀ (syndrome : Word) (s : State),
      s.dev.sdg.inReset = false →
      exec (.lockstep syndrome) s = .next (s.on fun d =>
        let d := cairnPut (cairnNow d 0xF0 0xFF 0xFF 7 (chargeState d) (chargeState d) 0xFFFF syndrome.toNat 0) d
        let d := bump .sdg Reg.Sdg.SDG_COUNT 7 0 d
        let l := recentLocks d
        holdDale (decide (3 ≤ l.length)) (modSdg (fun g => { g with vaoLocks := l }) d))) ∧
  (∀ (s : State),
      s.dev.sdg.inReset = true →
      s.dev.sdg.deadHeld = false →
      s.dev.pwr.held = false →
      railInvalid s.dev 9 = false →
      railInvalid s.dev 10 = false →
      exec .daleResetEnd s = .next (s.on fun d =>
        let d := when d.sdg.fellHeld (fun d => { d with boot := { d.boot with stage := 1 } }) d
        daleOut (readFuses s.fuses d))) ∧
  (∀ (nF : List (Fin 16 × Nat)) (s : State),
      s.dev.sdg.reload ≠ 0 →
      s.dev.sdg.inReset = false →
      exec (.daleReloaded nF) s = .next (s.on fun d =>
        match reloadSlot s.fuses d with
        | (some slot, _, _) => daleLoad (imageSects d slot) (nF.map (fun e => (e.1.val, e.2))) (modSdg (fun g => { g with reload := 0, nextSeq := 0 }) d)
        | (none, a, b) =>
          let d := holdFell 0 (modSdg (fun g => { g with reload := 0 }) d)
          let d := modBoot (fun s => { s with failA := a, failB := b }) d
          enterRecovery s.fuses (noteF0 8 (b * 16 + a) 0 d)))

/-- The Sheepdog: faults, entries, requests and restarts: what each command answers when nothing turns it away (R523,
R524, R525). -/
def Obligations.SheepdogCommandsAnswer : Prop :=
  (∀ (r : FaultRep × Nat) (rs : List (FaultRep × Nat)) (s : State),
      s.dev.sdg.inReset = false →
      s.dev.sdg.reports = r :: rs →
      exec .faultReport s = .next (s.on fun d =>
        cairnExportDue (takeReports (r :: rs.takeWhile (·.1.same))
          (modSdg (fun g => { g with reports := rs.dropWhile (·.1.same) }) d)))) ∧
  (∀ (pos : Nat) (a : ActiveEntry) (s : State),
      s.dev.sdg.active[pos]? = some a →
      exec (.entryHoldExpiry pos) s = .next (s.on fun d =>
        let d := modEntry pos (fun a => { a with heldDone := true }) d
        if d.sdg.active.any (·.mayGo) then releaseDue 2 d else settle a.key a.event 1 [] d)) ∧
  (∀ (pos : Nat) (a : ActiveEntry) (s : State),
      s.dev.sdg.active[pos]? = some a →
      mayClear s.dev a = true →
      exec (.causeClear pos) s = .next (s.on fun d =>
        let d := modEntry pos (fun a => { a with clear := true }) d
        if d.sdg.active.any (·.mayGo) then releaseDue 2 d else d)) ∧
  (∀ (who : Party) (code : BitVec 8) (s : State),
      Granted s.dev who .sdg Reg.Sdg.SDG_REQ true →
      exec (.foldRequest who code) s = .next (s.on fun d => foldRequest code.toNat (gpIntervene .sdg d))) ∧
  (∀ (who : Party) (code : BitVec 8) (v : SdgEvent) (d : Dev) (s : State),
      Granted s.dev who .sdg Reg.Sdg.SDG_REQ true →
      gpIntervene .sdg s.dev = d →
      isoOf d .sdg = false →
      v = { event := 4, block := 0xFF, source := code.toNat, cls := 0xFF, page := 0 } →
      d.sdg.tableOn = false ∨ (matchEvent d v).isSome = true →
      exec (.foldRequest who code) s = .next (s.on fun _ =>
        recordRequest code.toNat true (takeEvent v d))) ∧
  (∀ (who : Party) (entry : BitVec 16) (s : State),
      Granted s.dev who .sdg Reg.Sdg.SDG_REQ true →
      exec (.releaseRequest who entry) s = .next (s.on fun d => releaseRequest entry.toNat (gpIntervene .sdg d))) ∧
  (∀ (who : Party) (entry : BitVec 16) (d : Dev) (s : State),
      Granted s.dev who .sdg Reg.Sdg.SDG_REQ true →
      gpIntervene .sdg s.dev = d →
      isoOf d .sdg = false →
      d.sdg.active.any (fun a => a.key == releaseKey entry.toNat && (a.release == 2 || a.release == 3)) = true →
      exec (.releaseRequest who entry) s = .next (s.on fun _ =>
        let e := modSdg (fun g => { g with active := g.active.map (fun a =>
            if a.key == releaseKey entry.toNat && (a.release == 2 || a.release == 3) then { a with asked := true } else a) })
          (recordRequest (entry.toNat + 2 ^ 31) true d)
        if e.sdg.active.any (·.mayGo) then releaseDue 2 e else e)) ∧
  (∀ (fails : List (Fin 64 × Nat)) (s : State),
      s.dev.boot.stage = 0 →
      s.dev.sdg.fellHeld = true →
      s.dev.sdg.inReset = false →
      s.dev.pwr.held = false →
      railHold s.dev = false →
      s.dev.pwr.xtalLost = false →
      s.dev.sdg.waiting = false →
      s.dev.sdg.recovery = false →
      wiping s.dev = false →
      exec (.fellResetEnd fails) s = .next (s.on fun d =>
        if !d.sdg.counted && decide (3 ≤ recentRestarts d) then
          recompute 0xFFFF 0 1 false [] (modSdg (fun g => { g with waiting := true }) d)
        else
          let d := when (!d.sdg.counted) countRestart d
          let d := modBoot (fun b => { ({} : BootS) with stage := 3, t0 := b.t0, devStart := b.devStart }) d
          sf .tet Reg.Tet.TET_STAT 1 0 1 (pastStart (fails.map (fun f => (f.1.val, f.2))) d))) ∧
  (∀ (s : State),
      s.dev.sdg.waiting = true →
      exec .restartBudgetWaitEnd s = .next (s.on fun d =>
        let d := modSdg (fun g => { g with vaoRestarts := g.vaoRestarts.drop (g.vaoRestarts.length - 2) }) d
        let c := dueCauses d
        recompute 0xFFFF 0 1 false [] (countRestart (when (!d.sdg.fellHeld) (holdFell c) d))))

/-- The CAN controllers: what each command answers when nothing turns it away (R541, R530, R527, R529). -/
def Obligations.CanCommandsAnswer : Prop :=
  (∀ (who : Party) (n : Fin 4) (v : Word) (seen : Bool) (s : State),
      Granted s.dev who (.can n.val) Reg.Can.TX_CMD true →
      exec (.txCmd who n v seen) s = .next (s.on fun d => txCmd n.val v seen (gpIntervene (.can n.val) d))) ∧
  (∀ (who : Party) (n : Fin 4) (v : Word) (seen : Bool) (d : Dev) (s : State),
      Granted s.dev who (.can n.val) Reg.Can.TX_CMD true →
      gpIntervene (.can n.val) s.dev = d →
      bitOf v 0 = true →
      rb d (.can n.val) Reg.Can.TX_STAT 31 = false →
      txAllowed d n.val = true →
      seen = true →
      exec (.txCmd who n v seen) s = .next (s.on fun _ =>
        let f : CanFrame := { hdr := rg d (.can n.val) Reg.Can.TX_HDR, dlc := rf d (.can n.val) Reg.Can.TX_LEN 3 0
                              bytes := txBytes d n.val, report := false }
        modCan n.val (fun c => { c with txq := c.txq ++ [f] })
          (sb (.can n.val) Reg.Can.TX_STAT 31 true d))) ∧
  (∀ (n : Fin 4) (f : CanFrame) (fs : List CanFrame) (s : State),
      canRuns s.dev n.val = true →
      (canOf s.dev n.val).txq = f :: fs →
      exec (.canTxDone n 0) s = .next (s.on fun d =>
        emit (.can n.val f.hdr f.dlc f.bytes) (canTxEnd n.val f fs 0 (canTec n.val false (bump (.can n.val) Reg.Can.CAN_COUNT 31 16 d))))) ∧
  (∀ (n : Fin 4) (hdr : Word) (dlc : BitVec 4) (bytes : List Byte) (s : State),
      canRuns s.dev n.val = true →
      bitOf hdr 30 = false ∨ rb s.dev (.can n.val) Reg.Can.CAN_CTRL 1 = true →
      (List.range 8).any (fun k => canFilter s.dev n.val k hdr) = true →
      (canOf s.dev n.val).rx.length < 32 →
      exec (.canRx n hdr dlc bytes) s = .next (s.on fun d =>
        let f : CanFrame := ⟨hdr, dlc.toNat, bytes.take (dlcLen (bitOf hdr 30) dlc.toNat), false⟩
        event (.can n.val) Reg.Can.EV_RX
          (canShowRx n.val (modCan n.val (fun c => { c with rx := c.rx ++ [f] }) (bump (.can n.val) Reg.Can.CAN_COUNT 15 0 d))))) ∧
  (∀ (who : Party) (n : Fin 4) (v : Word) (s : State),
      Granted s.dev who (.can n.val) Reg.Can.RX_POP true →
      exec (.rxPop who n v) s = .next (s.on fun d => rxPopWrite n.val v (gpIntervene (.can n.val) d))) ∧
  (∀ (who : Party) (n : Fin 4) (v : Word) (d : Dev) (s : State),
      Granted s.dev who (.can n.val) Reg.Can.RX_POP true →
      gpIntervene (.can n.val) s.dev = d →
      bitOf v 0 = true →
      exec (.rxPop who n v) s = .next (s.on fun _ =>
        canShowRx n.val (modCan n.val (fun c => { c with rx := c.rx.drop 1 }) d))) ∧
  (∀ (n : Fin 4) (s : State),
      canRuns s.dev n.val = true →
      exec (.canBusOff n) s = .next (s.on fun d =>
        raiseFault (.can n.val) Reg.Can.SRC_CAN_BUS_OFF Reg.Can.EV_CAN_BUS_OFF
        (sf (.can n.val) Reg.Can.CAN_STAT 1 0 3 (canDrop n.val d)))) ∧
  (∀ (n : Fin 4) (s : State),
      rf s.dev (.can n.val) Reg.Can.CAN_STAT 1 0 = 3 →
      rb s.dev (.can n.val) Reg.Can.CAN_CTRL 4 = false →
      exec (.canBusRecovery n) s = .next (s.on fun d =>
        sf (.can n.val) Reg.Can.CAN_STAT 31 16 0 (sf (.can n.val) Reg.Can.CAN_STAT 1 0 1 d))) ∧
  (∀ (who : Party) (n : Fin 4) (v : Word) (s : State),
      Granted s.dev who (.can n.val) Reg.Can.CAN_CTRL true →
      exec (.canEnable who n v) s = .next (s.on fun d => canCtrl n.val v (gpIntervene (.can n.val) d))) ∧
  (∀ (who : Party) (n : Fin 4) (v : Word) (e : Dev) (d : Dev) (s : State),
      Granted s.dev who (.can n.val) Reg.Can.CAN_CTRL true →
      gpIntervene (.can n.val) s.dev = d →
      bitOf v 0 = true →
      bitOf v 31 = false →
      rb d (.can n.val) Reg.Can.CAN_CTRL 0 = false →
      plainWrite (.can n.val) Reg.Can.CAN_CTRL v d = e →
      canInLimits e n.val = true →
      exec (.canEnable who n v) s = .next (s.on fun _ =>
        sg (.can n.val) Reg.Can.CAN_STAT 1 (sb (.can n.val) Reg.Can.CAN_CTRL 0 true
          (modCan n.val (fun c => { c with swapped := false }) e)))) ∧
  (∀ (k : Fin 8) (r : ReportDef) (s : State),
      s.dev.sdg.defs[k.val]? = some r →
      r.periodMs ≠ 0 →
      (reportsOf s.dev.sdg.active).contains k.val = true →
      s.dev.sdg.inReset = false →
      exec (.reportPeriod k) s = .next (s.on fun d => sendReportDef k.val d))

/-- The Cairn recorder: what each command answers when nothing turns it away (R534, R535, R537). -/
def Obligations.CairnCommandsAnswer : Prop :=
  (∀ (who : Party) (s : State),
      Granted s.dev who (.crn 0) Reg.Crn0.CRN_CMD true →
      exec (.freeze who) s = .next (s.on fun d => crnTakes cairnFreeze (gpIntervene (.crn 0) d))) ∧
  (∀ (who : Party) (d : Dev) (s : State),
      Granted s.dev who (.crn 0) Reg.Crn0.CRN_CMD true →
      gpIntervene (.crn 0) s.dev = d →
      isoOf d (.crn 0) = false →
      d.cairn.post = none →
      exec (.freeze who) s = .next (s.on fun _ =>
        event (.crn 0) Reg.Crn0.EV_FROZEN (cairnShow (modCairn (fun c => { c with
          post := some (rf d (.crn 0) Reg.Crn0.CRN_CFG 10 0) }) d)))) ∧
  (∀ (who : Party) (s : State),
      Granted s.dev who (.crn 0) Reg.Crn0.CRN_CMD true →
      exec (.unfreeze who) s = .next (s.on fun d => crnTakes cairnUnfreeze (gpIntervene (.crn 0) d))) ∧
  (∀ (who : Party) (s : State),
      Granted s.dev who (.crn 0) Reg.Crn0.CRN_CMD true →
      exec (.exportC who) s = .next (s.on fun d => crnTakes cairnExport (gpIntervene (.crn 0) d))) ∧
  (∀ (who : Party) (d : Dev) (s : State),
      Granted s.dev who (.crn 0) Reg.Crn0.CRN_CMD true →
      gpIntervene (.crn 0) s.dev = d →
      isoOf d (.crn 0) = false →
      d.cairn.exporting = none →
      d.nvmc.cmd = none →
      7 ≤ d.boot.stage →
      exec (.exportC who) s = .next (s.on fun _ =>
        sb (.crn 0) Reg.Crn0.CRN_STAT 29 false (sb (.crn 0) Reg.Crn0.CRN_STAT 30 true (modCairn (fun c => { c with
          exporting := some (dumpSector d, c.ring), exportAgain := false }) d)))) ∧
  (∀ (who : Party) (s : State),
      Granted s.dev who (.crn 0) Reg.Crn0.CRN_CMD true →
      exec (.note who) s = .next (s.on fun d => crnTakes cairnNote (gpIntervene (.crn 0) d))) ∧
  (∀ (who : Party) (d : Dev) (s : State),
      Granted s.dev who (.crn 0) Reg.Crn0.CRN_CMD true →
      gpIntervene (.crn 0) s.dev = d →
      isoOf d (.crn 0) = false →
      d.cairn.noteTime = none →
      exec (.note who) s = .next (s.on fun _ =>
        cairnNote.write d)) ∧
  (∀ (failAt : Option Nat) (k : Nat) (rs : List CairnRec) (s : State),
      s.dev.cairn.exporting = some (k, rs) →
      exec (.exportDone failAt) s = .next (s.on fun d =>
        let d := exportWrites (dumpBase k) (recordBytes rs) failAt d
        let d := sb (.crn 0) Reg.Crn0.CRN_STAT 30 false (modCairn (fun c => { c with exporting := none }) d)
        let d := if failAt = none then event (.crn 0) Reg.Crn0.EV_EXPORT_DONE (cairnUnfreeze d)
          else fireSource (.crn 0) Reg.Crn0.SRC_EXPORT_FAIL (sb (.crn 0) Reg.Crn0.CRN_STAT 29 true d)
        cairnExportDue d))

/-- Pasture: accesses, errors, tests and banks: what each command answers when nothing turns it away (R549, R545,
R551, R555, R556, R563). -/
def Obligations.PastureCommandsAnswer : Prop :=
  (∀ (r : PastReq) (others : List PastReq) (flips : List (BitVec 22 × Bool)) (s : State),
      exec (.pastureAccess r.tier r.fold r.off r.bytes r.v flips ⟨r.num, r.waited, others⟩) s = .next (s.on fun d =>
        (pastOrder d (r :: others)).foldl pastServe (flipWords (flips.map (fun f => (f.1.toNat, f.2))) { d with data := [], poisoned := false }))) ∧
  (∀ (r : PastReq) (bs : List Byte) (s : State),
      r.v = some bs →
      r.off.toNat + bs.length ≤ 0x2000000 →
      r.fold = true ∨ pastFold s.dev ≤ r.off.toNat →
      exec (.pastureAccess r.tier r.fold r.off r.bytes r.v [] ⟨r.num, r.waited, []⟩) s = .next (s.on fun d =>
        pastWrite (bs.length / 64 + 2) r.tier.val r.off.toNat bs
          (arbWait r.tier.val r.waited { d with data := [], poisoned := false }))) ∧
  (∀ (r : PastReq) (x : List Byte × Bool × Dev) (s : State),
      r.v = none →
      r.off.toNat + r.bytes ≤ 0x2000000 →
      r.fold = true ∨ pastFold s.dev ≤ r.off.toNat →
      pastRead (r.bytes / 64 + 2) r.tier.val r.off.toNat r.bytes
        (arbWait r.tier.val r.waited { s.dev with data := [], poisoned := false }) = x →
      exec (.pastureAccess r.tier r.fold r.off r.bytes r.v [] ⟨r.num, r.waited, []⟩) s = .next (s.on fun _ => { x.2.2 with data := x.2.2.data ++ x.1, poisoned := x.2.2.poisoned || x.2.1 })) ∧
  (∀ (b : Fin 64) (w : Nat) (s : State),
      s.dev.pst.wb.find? (fun w => w * 8 / bankBytes == b.val) = some w →
      exec (.eccWriteback b) s = .next (s.on fun d =>
        let d := modPst (fun p => { p with wb := p.wb.filter (· != w) }) d
        if pastErr d w = 1 then setPastErr w 0 d else d)) ∧
  (∀ (fails : List (Fin 64)) (s : State),
      rb s.dev (.pst 0) Reg.Pst0.TEST_CFG 31 = true →
      isoOf s.dev (.pst 0) = false →
      exec (.testRow fails) s = .next (s.on fun d =>
        let d := forN (testBank (fails.map (·.val))) 64 d
        let on := (List.range 64).filter (fun b => bankState d b == 0)
        if on ≠ [] ∧ on.all (fun b => d.pst.done.contains b) = true then
          event (.pst 0) Reg.Pst0.EV_PASS_DONE (bump (.pst 0) Reg.Pst0.TEST_STAT 31 16 (modPst (fun p => { p with done := [] }) d))
        else d)) ∧
  (∀ (b : Fin 64) (s : State),
      bankState s.dev b.val = 0 →
      bankMode s.dev b.val = 0 →
      exec (.bankRetention b) s = .next (s.on fun d => setBankState b.val 1 d)) ∧
  (∀ (b : Fin 64) (s : State),
      bankState s.dev b.val = 3 →
      exec (.bankWake b) s = .next (s.on fun d =>
        if d.pst.offWake.contains b.val then
          let next := if d.pst.retain.contains b.val then 1 else 0
          let d := modPst (fun p => { p with offWake := p.offWake.filter (· != b.val), retain := p.retain.filter (· != b.val) }) d
          event (.pst 1) Reg.Pst1.EV_BANK_ON (setBankState b.val next (pastZero (b.val * bankBytes) bankBytes d))
        else setBankState b.val 0 d)) ∧
  (∀ (who : Party) (i : Fin 4) (v : Word) (s : State),
      Granted s.dev who (.pst 1) (Reg.Pst1.BANK_MODE i.val) true →
      exec (.bankModeWrite who i v) s = .next (s.on fun d => bankModes who i.val v (gpIntervene (.pst 1) d))) ∧
  (∀ (who : Party) (i : Fin 4) (v : Word) (d : Dev) (s : State),
      Granted s.dev who (.pst 1) (Reg.Pst1.BANK_MODE i.val) true →
      gpIntervene (.pst 1) s.dev = d →
      isoOf d (.pst 1) = false →
      exec (.bankModeWrite who i v) s = .next (s.on fun _ =>
        forN (bankField who v i.val) 16 d)) ∧
  (∀ (who : Party) (s : State),
      Granted s.dev who (.pst 0) Reg.Pst0.PST_CTRL true →
      exec (.pstRestart who) s = .next (s.on fun d => pstCtrl 0x80000000 (gpIntervene (.pst 0) d)))

/-- The DRAM controller and the Drover: what each command answers when nothing turns it away (R571, R573, R575, R594,
R577, R589, R583, R585, R591, R598). -/
def Obligations.DramCommandsAnswer : Prop :=
  (∀ (c : Fin 8) (gbit ranks : Nat) (s : State),
      drcState s.dev = 1 →
      tabGet (fun _ => 0) s.dev.drc.stage c.val = 0 →
      exec (.trainStageDone c true gbit ranks) s = .next (s.on fun d =>
        let d := modDrc (fun s => { s with stage := tabSet (fun _ => 0) s.stage c.val 1 }) d
        trainReads (modDrc (fun s => { s with reads := tabSet (fun _ => none) s.reads c.val (some (gbit, ranks)) }) d))) ∧
  (∀ (c : Fin 8) (gbit ranks : Nat) (s : State),
      drcState s.dev = 1 →
      tabGet (fun _ => 0) s.dev.drc.stage c.val < 8 →
      tabGet (fun _ => 0) s.dev.drc.attempt c.val < 2 →
      exec (.trainStageDone c false gbit ranks) s = .next (s.on fun d =>
        modDrc (fun s => { s with
          stage := tabSet (fun _ => 0) s.stage c.val 0
          attempt := tabSet (fun _ => 0) s.attempt c.val (tabGet (fun _ => 0) d.drc.attempt c.val + 1) }) d)) ∧
  (∀ (c : Fin 8) (_rank : Fin 2) (code : Fin 8) (drift hot : Bool) (s : State),
      drcState s.dev = 2 →
      exec (.dramTrack c _rank code drift hot) s = .next (s.on fun d =>
        let d := bump (.drc 0) Reg.Drc0.TRACK_COUNT 31 16 (sf (.drc 0) Reg.Drc0.TEMP_STAT (3 * c.val + 2) (3 * c.val) code.val d)
        let d := when drift (fun d => raiseFault (.drc 0) Reg.Drc0.SRC_TRACK_LIMIT Reg.Drc0.EV_TRACK_LIMIT
          (bump (.drc 0) Reg.Drc0.TRACK_COUNT 15 0 d)) d
        when hot (raiseFault (.drc 0) Reg.Drc0.SRC_DRAM_HOT Reg.Drc0.EV_DRAM_HOT) d)) ∧
  (∀ (c : Fin 8) (rank : Fin 2) (code : Byte) (s : State),
      drcState s.dev = 2 →
      exec (.zqCalibration c rank code) s = .next (s.on fun d =>
        modDrc (fun s => { s with zq := tabSet (fun _ => 0) s.zq (c.val * 2 + rank.val) code.toNat }) d)) ∧
  (∀ (c : Fin 8) (rank : Fin 2) (bank : Fin 16) (atLimit : Bool) (mr : Byte) (s : State),
      drcState s.dev = 2 →
      exec (.refresh c rank bank atLimit mr) s = .next (s.on fun d =>
        let d := modDrc (fun s => { s with refreshes := (s.refreshes + 1) % 1024,
                                           rows := tabSet (fun _ => none) s.rows (rowKey c.val rank.val bank.val) none }) d
        let d := if d.drc.refreshes = 0 then bump (.drc 0) Reg.Drc0.REFRESH_COUNT 15 0 d else d
        let d := when atLimit (bump (.drc 0) Reg.Drc0.REFRESH_COUNT 31 16) d
        if d.drc.mrWait = some (c.val * 2 + rank.val) then
          sg (.drc 0) Reg.Drc0.MR_DATA (BitVec.ofNat 32 (2 ^ 31 + mr.toNat)) (modDrc (fun s => { s with mrWait := none }) d)
        else d)) ∧
  (∀ (who : Party) (v : Word) (s : State),
      Granted s.dev who (.drc 0) Reg.Drc0.MR_CMD true →
      exec (.mrCmd who v) s = .next (s.on fun d => mrWrite v (gpIntervene (.drc 0) d))) ∧
  (∀ (who : Party) (v : Word) (d : Dev) (s : State),
      Granted s.dev who (.drc 0) Reg.Drc0.MR_CMD true →
      gpIntervene (.drc 0) s.dev = d →
      bitOf v 0 = true →
      exec (.mrCmd who v) s = .next (s.on fun _ =>
        sb (.drc 0) Reg.Drc0.MR_DATA 31 false (modDrc (fun x => { x with
          mrWait := some (rf d (.drc 0) Reg.Drc0.MR_SEL 10 8 * 2 + rf d (.drc 0) Reg.Drc0.MR_SEL 12 12) }) d))) ∧
  (∀ (who : Party) (src : Option IsoSrc) (port : Fin 20) (a : BitVec 35) (n len : Nat) (v : Option (List Byte)) (dt slots code x : Nat) (w : Who) (e : Dev) (s : State),
      modDrc (fun s => { s with now := s.now + dt }) { s.dev with data := [], poisoned := false } = e →
      dramWho who src.isSome port.val = w →
      (match v with | some bs => bs.length | none => n) = len →
      drcState e = 2 →
      len ≠ 0 →
      rangeOk e w a.toNat len = true →
      locOf e w a.toNat = some (.dram x) →
      x + len ≤ e.drc.capacity →
      exec (.dramRequest who src port a n v [] dt slots code) s = .next (s.on fun _ => showWaiting (forN (fun _ => dramSlot) slots (arrive
          { who := who, src := src, port := port.val, addr := a.toNat, x := x, len := n, v := v, stamp := e.drc.now
            code := if e.drc.inlineEcc then code else 0 } e)))) ∧
  (∀ (port : Fin 20) (c : Fin 8) (s : State),
      exec (.backoffEnd port c) s = .next (s.on fun d =>
        showWaiting (admitAll (modDrc (fun s => { s with backoffOn := tabSet (fun _ => false) s.backoffOn (port.val * 8 + c.val) false }) d)))) ∧
  (∀ (s : State),
      drcState s.dev = 2 →
      exec .isoWindow s = .next (s.on fun d =>
        let res := resNow d
        modDrc (fun s => { s with win := [] }) (forN (windowEnd res) 8 d))) ∧
  (∀ (s : State),
      drcState s.dev = 2 →
      exec .isoSizing s = .next (s.on fun d =>
        let m := d.drc.maxBursts
        let t := resTarget d m
        let dem := (List.range 8).any (fun h => (headOf d h).demoted2)
        let r := if isoOf d (.drc 2) then (resMax d, false)
          else if bitOf (isoCfg d) 31 then resNext (resNow d) t dem
          else (resNow d, false)
        let v := r.2.toNat * 2 ^ 31 + min 255 m * 2 ^ 16 + t * 2 ^ 8 + r.1
        sg (.drc 2) Reg.Drc2.ISO_RES (BitVec.ofNat 32 v) (modDrc (fun s => { s with maxBursts := 0, overMs := false }) d))) ∧
  (∀ (port : Fin 20) (age : Nat) (r : DramReq) (s : State),
      firstBy olderThan (s.dev.drc.waiting.filter (fun r => !r.iso && r.port == port.val && !r.told)) = some r →
      ¬ (age ≤ 1000 * max 1 (fld (if isoOf s.dev (.drv 0) then 0x64 else rg s.dev (.drv 0) Reg.Drv0.STARVE_CFG) 15 0)) →
      exec (.drvStarve port age) s = .next (s.on fun d =>
        let d := modDrc (fun s => { s with
          now := max s.now (r.stamp + age)
          waiting := s.waiting.map (fun x => if x = r then { x with told := true } else x) }) d
        raiseFault (.drv 0) Reg.Drv0.SRC_DRV_STARVE Reg.Drv0.EV_DRV_STARVE (showWaiting d))) ∧
  (∀ (who : Party) (s : State),
      Granted s.dev who (.drc 0) Reg.Drc0.DRC_CTRL true →
      exec (.drcRestart who) s = .next (s.on fun d => drcCtrl 0x80000000 (gpIntervene (.drc 0) d))) ∧
  (∀ (who : Party) (s : State),
      Granted s.dev who (.drv 0) Reg.Drv0.DRV_CTRL true →
      exec (.drvRestart who) s = .next (s.on fun d => drvCtrl 0x80000000 (gpIntervene (.drv 0) d)))

/-- Supplies, resets, crystals and PLLs: what each command answers when nothing turns it away (R602, R618, R613, R616,
R623, R605). -/
def Obligations.SupplyCommandsAnswer : Prop :=
  (∀ (i : Fin 15) (mv : Int) (s : State),
      exec (.railSample i mv) s = .next (s.on fun d =>
        let old := railOf d i.val
        let t := railTh d i.val
        let r := old.sample (railZone t mv) (railRun i.val t mv) (i.val == 1 && d.pwr.masked1) mv
        let d := modRail i.val (fun _ => r) d
        let d := when (i.val == 11 && decide (mv < 0) && decide (0 ≤ old.now)) (fun d =>
          doBoostFault 1 4 (doBoostFault 0 4 (when (!d.sdg.inReset) (event .pwr Reg.Pwr.EV_VMACH_REVERSED) d))) d
        if r.judge = old.judge then d else railChanged i.val r.judge d)) ∧
  (∀ (s : State),
      exec .vaoPowerUp s = .next (s.on fun d =>
        { ({} : Dev) with
        free := d.free, resp := d.resp, out := d.out, data := d.data, poisoned := d.poisoned, nvm := (nvmCut d).nvm
        pwr := { ({} : PwrS) with rstLow := d.pwr.rstLow, xtalLost := d.pwr.xtalLost }
        pad := { ({} : PadMach) with ups := d.pad.ups.map (fun e => (e.1, { ({} : UpS) with perst := e.2.perst })) } })) ∧
  (∀ (low : Bool) (s : State),
      exec (.rstN low) s = .next (s.on fun d =>
        let d := { d with pwr := { d.pwr with rstLow := low } }
        when low (holdDevice 2) d)) ∧
  (∀ (s : State),
      exec .xtalFell s = .next (s.on fun d =>
        let d := { d with pwr := { d.pwr with xtalLost := true } }
        if d.sdg.fellHeld then d
        else fireSource (.sys 2) Reg.Sys2.SRC_XTAL_FELL (bump (.sys 2) Reg.Sys2.PLL_COUNT 7 0 d))) ∧
  (∀ (s : State),
      s.dev.sdg.inReset = false →
      exec .xtalDale s = .next (s.on fun d =>
        raiseFault .pwr Reg.Pwr.SRC_XTAL_DALE Reg.Pwr.EV_XTAL_DALE (sb .pwr Reg.Pwr.PWR_FLAGS 1 true d))) ∧
  (∀ (fell : Bool) (s : State),
      exec (.xtalRestored fell) s = .next (s.on fun d =>
        if fell then { d with pwr := { d.pwr with xtalLost := false } } else sb .pwr Reg.Pwr.PWR_FLAGS 1 false d)) ∧
  (∀ (k : Fin 3) (s : State),
      exec (.pllCore k) s = .next (s.on fun d => pllUnlock k.val Reg.Sys2.SRC_PLL_CORE 31 isolate d)) ∧
  (∀ (s : State),
      exec .pllGpu s = .next (s.on fun d => pllUnlock 3 Reg.Sys2.SRC_PLL_GPU 23 (fun _ d => isolateBlock 0x14 d) d)) ∧
  (∀ (k : Fin 3) (s : State),
      exec (.pllAux k) s = .next (s.on fun d =>
        pllUnlock (4 + k.val) Reg.Sys2.SRC_PLL_AUX 15 (fun _ d => isolateBlock (if k.val = 0 then 0x15 else 0x16) d) d)) ∧
  (∀ (s : State),
      s.dev.sdg.inReset = false →
      exec .dalePllUnlock s = .next (s.on fun d => holdDale d.sdg.deadHeld d)) ∧
  (∀ (who : Party) (s : State),
      Granted s.dev who .pwr Reg.Pwr.RAIL_MEAS false →
      exec (.railMeasRead who) s = .next (s.on fun d =>
        let d := gpIntervene .pwr d
        let x := (fun d => (railMeas d, modRail (rf d .pwr Reg.Pwr.RAIL_SEL 3 0) (fun r => { r with low := r.now }) d)) d
        { x.2 with resp := x.1.setWidth 64 })) ∧
  (∀ (who : Party) (v : Word) (s : State),
      Granted s.dev who (.sys 2) Reg.Sys2.SUP_CFG true →
      exec (.supCfgWrite who v) s = .next (s.on fun d => supCfg v (gpIntervene (.sys 2) d))) ∧
  (∀ (who : Party) (v : Word) (d : Dev) (s : State),
      Granted s.dev who (.sys 2) Reg.Sys2.SUP_CFG true →
      gpIntervene (.sys 2) s.dev = d →
      rb d .gpu Reg.Gpu.GPU_CTRL 0 = false →
      exec (.supCfgWrite who v) s = .next (s.on fun _ =>
        driveCode (gLevel d) (plainWrite (.sys 2) Reg.Sys2.SUP_CFG v d)))

/-- The clock, power and reset requests of blocks: what each command answers when nothing turns it away (R611). -/
def Obligations.BlockCommandsAnswer : Prop :=
  (∀ (who : Party) (s : State),
      Granted s.dev who (.sys 1) Reg.Sys1.BLK_REQ true →
      exec (.clkStop who) s = .next (s.on fun d => blkReq who 0x01 (gpIntervene (.sys 1) d))) ∧
  (∀ (who : Party) (c : Nat) (d : Dev) (s : State),
      Granted s.dev who (.sys 1) Reg.Sys1.BLK_REQ true →
      gpIntervene (.sys 1) s.dev = d →
      isoOf d (.sys 1) = false →
      rf d (.sys 1) Reg.Sys1.BLK_SEL 7 0 = c →
      reqRefuse d (who == .fold) c 0 = 0 →
      who = .fold ∨ holdOn d c = false →
      exec (.clkStop who) s = .next (s.on fun _ =>
        reqDone (reqAct c 0 (reqWithdraw c 0 d)))) ∧
  (∀ (who : Party) (s : State),
      Granted s.dev who (.sys 1) Reg.Sys1.BLK_REQ true →
      exec (.clkRun who) s = .next (s.on fun d => blkReq who 0x02 (gpIntervene (.sys 1) d))) ∧
  (∀ (who : Party) (c : Nat) (d : Dev) (s : State),
      Granted s.dev who (.sys 1) Reg.Sys1.BLK_REQ true →
      gpIntervene (.sys 1) s.dev = d →
      isoOf d (.sys 1) = false →
      rf d (.sys 1) Reg.Sys1.BLK_SEL 7 0 = c →
      reqRefuse d (who == .fold) c 1 = 0 →
      exec (.clkRun who) s = .next (s.on fun _ =>
        reqDone (reqAct c 1 (reqWithdraw c 1 d)))) ∧
  (∀ (who : Party) (s : State),
      Granted s.dev who (.sys 1) Reg.Sys1.BLK_REQ true →
      exec (.pwrOff who) s = .next (s.on fun d => blkReq who 0x04 (gpIntervene (.sys 1) d))) ∧
  (∀ (who : Party) (c : Nat) (d : Dev) (s : State),
      Granted s.dev who (.sys 1) Reg.Sys1.BLK_REQ true →
      gpIntervene (.sys 1) s.dev = d →
      isoOf d (.sys 1) = false →
      rf d (.sys 1) Reg.Sys1.BLK_SEL 7 0 = c →
      reqRefuse d (who == .fold) c 2 = 0 →
      who = .fold ∨ holdOn d c = false →
      exec (.pwrOff who) s = .next (s.on fun _ =>
        reqDone (reqAct c 2 (reqWithdraw c 2 d)))) ∧
  (∀ (who : Party) (s : State),
      Granted s.dev who (.sys 1) Reg.Sys1.BLK_REQ true →
      exec (.pwrOn who) s = .next (s.on fun d => blkReq who 0x08 (gpIntervene (.sys 1) d))) ∧
  (∀ (who : Party) (c : Nat) (d : Dev) (s : State),
      Granted s.dev who (.sys 1) Reg.Sys1.BLK_REQ true →
      gpIntervene (.sys 1) s.dev = d →
      isoOf d (.sys 1) = false →
      rf d (.sys 1) Reg.Sys1.BLK_SEL 7 0 = c →
      reqRefuse d (who == .fold) c 3 = 0 →
      exec (.pwrOn who) s = .next (s.on fun _ =>
        reqDone (reqAct c 3 (reqWithdraw c 3 d)))) ∧
  (∀ (who : Party) (s : State),
      Granted s.dev who (.sys 1) Reg.Sys1.BLK_REQ true →
      exec (.rstAssert who) s = .next (s.on fun d => blkReq who 0x10 (gpIntervene (.sys 1) d))) ∧
  (∀ (who : Party) (c : Nat) (d : Dev) (s : State),
      Granted s.dev who (.sys 1) Reg.Sys1.BLK_REQ true →
      gpIntervene (.sys 1) s.dev = d →
      isoOf d (.sys 1) = false →
      rf d (.sys 1) Reg.Sys1.BLK_SEL 7 0 = c →
      reqRefuse d (who == .fold) c 4 = 0 →
      who = .fold ∨ holdOn d c = false →
      exec (.rstAssert who) s = .next (s.on fun _ =>
        reqDone (reqAct c 4 (reqWithdraw c 4 d)))) ∧
  (∀ (who : Party) (s : State),
      Granted s.dev who (.sys 1) Reg.Sys1.BLK_REQ true →
      exec (.rstRelease who) s = .next (s.on fun d => blkReq who 0x20 (gpIntervene (.sys 1) d))) ∧
  (∀ (who : Party) (c : Nat) (d : Dev) (s : State),
      Granted s.dev who (.sys 1) Reg.Sys1.BLK_REQ true →
      gpIntervene (.sys 1) s.dev = d →
      isoOf d (.sys 1) = false →
      rf d (.sys 1) Reg.Sys1.BLK_SEL 7 0 = c →
      reqRefuse d (who == .fold) c 5 = 0 →
      exec (.rstRelease who) s = .next (s.on fun _ =>
        reqDone (reqAct c 5 (reqWithdraw c 5 d)))) ∧
  (∀ (s : State),
      s.dev.pwr.acted ≠ 0 →
      exec .blkDone s = .next (s.on fun d =>
        event (.sys 1) Reg.Sys1.EV_BLK_DONE { d with pwr := { d.pwr with acted := d.pwr.acted - 1 } }))

/-- Tally: what each command answers when nothing turns it away (R629, R636, R626, R632, R638). -/
def Obligations.TallyCommandsAnswer : Prop :=
  (∀ (who : Party) (on : Bool) (s : State),
      Granted s.dev who (.tly 0) Reg.Tly0.GLB_CTRL true →
      exec (.run who on) s = .next (s.on fun d => glbCtrl (if on then 1 else 0) (gpIntervene (.tly 0) d))) ∧
  (∀ (who : Party) (s : State),
      Granted s.dev who (.tly 0) Reg.Tly0.GLB_CTRL true →
      exec (.clear who) s = .next (s.on fun d =>
        let d := gpIntervene (.tly 0) d
        glbCtrl (glbWith d 2) d)) ∧
  (∀ (who : Party) (s : State),
      Granted s.dev who (.tly 0) Reg.Tly0.GLB_CTRL true →
      exec (.tlyRestart who) s = .next (s.on fun d =>
        let d := gpIntervene (.tly 0) d
        glbCtrl (glbWith d 0x80000000) d)) ∧
  (∀ (k : Fin 128) (x foldX : Nat) (d1 d2 : Word) (s : State),
      exec (.tallyCount k x foldX d1 d2) s = .next (s.on fun d =>
        let c := rg d (.tly 0) (Reg.Tly0.CFG k.val)
        let v := if tlyListed c then tlyValue d c x foldX else 0
        let prev := tabGet (fun _ => 0) d.tly.prev k.val
        let d := modTly (fun t => { t with prev := tabSet (fun _ => 0) t.prev k.val v }) d
        if !tlyRuns d || !bitOf c 31 || !tlyListed c || (tlyWorld c && fld c 30 29 == 3) then d
        else
          let n := tlyCount d k.val + tlyAdd (fld c 28 27) (rf d (.tly 3) (Reg.Tly3.THR (fld c 26 24)) 15 0) v prev
          let d := setTly k.val (n % 2 ^ 48) d
          if 2 ^ 48 ≤ n then tlyOverflow k.val c (tlyWorld c && decide (0 < foldX) && nonInvasive d true) d1 d2 d else d)) ∧
  (∀ (who : Party) (k : Fin 128) (s : State),
      Granted s.dev who (tlyPage k.val) (Reg.Tly1.COUNT_LO (k.val % 64)) false →
      exec (.countLoRead who k) s = .next (s.on fun d =>
        let d := gpIntervene (tlyPage k.val) d
        let x := countLo k.val d
        { x.2 with resp := x.1.setWidth 64 })) ∧
  (∀ (who : Party) (k : Fin 128) (v : Word) (s : State),
      Granted s.dev who (tlyPage k.val) (Reg.Tly1.COUNT_LO (k.val % 64)) true →
      exec (.countLoWrite who k v) s = .next (s.on fun d => countLoHold k.val v (gpIntervene (tlyPage k.val) d))) ∧
  (∀ (who : Party) (k : Fin 128) (v : Word) (s : State),
      Granted s.dev who (tlyPage k.val) (Reg.Tly1.COUNT_HI (k.val % 64)) true →
      exec (.countHiWrite who k v) s = .next (s.on fun d => countHiLoad k.val v (gpIntervene (tlyPage k.val) d))) ∧
  (∀ (who : Party) (s : State),
      Granted s.dev who (.tly 3) Reg.Tly3.SMP_POP true →
      exec (.smpPop who) s = .next (s.on fun d => smpPopWrite 1 (gpIntervene (.tly 3) d)))

/-- The GPIO balls: what each command answers when nothing turns it away (R653). -/
def Obligations.GpioCommandsAnswer : Prop :=
  (∀ (n : Fin 32) (level : Bool) (s : State),
      exec (.gpioEdge n level) s = .next (s.on fun d =>
        gpioLatch (gpioIn d) (sb (.sys 3) Reg.Sys3.GPIO_IN n.val level d))) ∧
  (∀ (who : Party) (v : Word) (s : State),
      Granted s.dev who (.sys 3) Reg.Sys3.GPIO_EDGE_CLR true →
      exec (.gpioEdgeClr who v) s = .next (s.on fun d => gpioClr v (gpIntervene (.sys 3) d)))
end

