-- ==== Sys2Proof/Laws/Flags.lean ====
section
/-! SUPPORT. Bit fields: what a field reads after it or another field was set. -/
namespace Sys2Proof.Machine

theorem bitOf_eq_testBit (v : Word) (k : Nat) : bitOf v k = v.toNat.testBit k := rfl

/-- The bits of a field. -/
theorem fld_testBit (v : Word) (hi lo k : Nat) : (fld v hi lo).testBit k = (decide (k < hi + 1 - lo) && bitOf v (k + lo)) := by
  unfold fld
  rw [Nat.testBit_mod_two_pow, Nat.testBit_div_two_pow]
  rfl

/-- The bits of a word whose field was set. -/
theorem bitOf_setFld (v : Word) {hi lo : Nat} (x k : Nat) (h : hi < 32) (hl : lo ≤ hi) :
    bitOf (setFld v hi lo x) k = if lo ≤ k ∧ k ≤ hi then x.testBit (k - lo) else bitOf v k := by
  unfold setFld bitOf fldMask
  by_cases hk : k < 32
  · simp only [BitVec.getLsbD_or, BitVec.getLsbD_and, BitVec.getLsbD_not, BitVec.getLsbD_ofNat, hk, decide_true, Bool.true_and,
      Nat.testBit_mul_two_pow, Nat.testBit_two_pow_sub_one, Nat.testBit_mod_two_pow]
    by_cases h1 : lo ≤ k
    · by_cases h2 : k ≤ hi
      · have : k - lo < hi + 1 - lo := by omega
        simp [h1, h2, this]
      · have : ¬ k - lo < hi + 1 - lo := by omega
        simp [h1, h2, this]
    · simp [h1]
  · have hk' : ¬ (lo ≤ k ∧ k ≤ hi) := by omega
    rw [if_neg hk', BitVec.getLsbD_of_ge _ _ (by omega), BitVec.getLsbD_of_ge _ _ (by omega)]

/-- A field reads the value it was set to, cut to its width. -/
theorem fld_setFld_same (v : Word) {hi lo : Nat} (x : Nat) (h : hi < 32) (hl : lo ≤ hi) :
    fld (setFld v hi lo x) hi lo = x % 2 ^ (hi + 1 - lo) := by
  apply Nat.eq_of_testBit_eq
  intro k
  rw [fld_testBit, bitOf_setFld _ _ _ h hl, Nat.testBit_mod_two_pow]
  by_cases hk : k < hi + 1 - lo
  · rw [if_pos (by omega), Nat.add_sub_cancel]
  · simp [hk]

/-- A field that shares no bit with the one set reads as before. -/
theorem fld_setFld_ne (v : Word) {hi lo hi' lo' : Nat} (x : Nat) (h : hi < 32) (hl : lo ≤ hi) (hd : hi' < lo ∨ hi < lo') :
    fld (setFld v hi lo x) hi' lo' = fld v hi' lo' := by
  apply Nat.eq_of_testBit_eq
  intro k
  rw [fld_testBit, fld_testBit, bitOf_setFld _ _ _ h hl]
  by_cases hk : k < hi' + 1 - lo'
  · rw [if_neg (by omega)]
  · simp [hk]

/-- A bit reads what it was set to, and every other bit as before. -/
theorem bitOf_putBit (v : Word) {k : Nat} (j : Nat) (b : Bool) (h : k < 32) :
    bitOf (putBit v k b) j = if j = k then b else bitOf v j := by
  unfold putBit
  rw [bitOf_setFld _ _ _ h (Nat.le_refl k)]
  by_cases hj : j = k
  · subst hj; rw [if_pos (by omega), if_pos rfl, Nat.sub_self]; cases b <;> rfl
  · rw [if_neg (by omega), if_neg hj]

/-- A field that does not hold the bit set reads as before. -/
theorem fld_putBit_ne (v : Word) {k hi lo : Nat} (b : Bool) (h : k < 32) (hd : hi < k ∨ k < lo) :
    fld (putBit v k b) hi lo = fld v hi lo := fld_setFld_ne _ _ h (Nat.le_refl k) hd

/-- An event sets its bit and raises SEQ; the other bits stay. -/
theorem sqEvent_bits (w : Word) {k : Nat} (h : k < 24) :
    bitOf (sqEvent w k) k = true ∧ (∀ j, j < 24 → j ≠ k → bitOf (sqEvent w k) j = bitOf w j) ∧
    fld (sqEvent w k) 31 24 = (fld w 31 24 + 1) % 256 := by
  unfold sqEvent
  refine ⟨?_, fun j hj hn => ?_, fld_setFld_same _ _ (by decide) (by decide)⟩
  · rw [bitOf_setFld _ _ _ (by decide) (by decide), if_neg (by omega), bitOf_setFld _ _ _ (by omega) (Nat.le_refl k),
      if_pos (by omega), Nat.sub_self]
    rfl
  · rw [bitOf_setFld _ _ _ (by decide) (by decide), if_neg (by omega), bitOf_setFld _ _ _ (by omega) (Nat.le_refl k),
      if_neg (by omega)]

/-- Two words are equal if their 32 bits are. -/
theorem word_ext {v w : Word} (h : ∀ k, k < 32 → bitOf v k = bitOf w k) : v = w := BitVec.eq_of_getLsbD_eq h

end Sys2Proof.Machine
end

