-- ==== Sys2Proof/Laws/Tab.lean ====
section
/-! SUPPORT. Tables: a read after a write, and the canonical form that every table operation keeps. -/
namespace Sys2Proof.Machine

theorem tabFind_erase {α : Type} (t : Tab α) (k key : Nat) :
    tabFind (tabErase t k) key = if key = k then none else tabFind t key := by
  induction t with
  | nil => simp [tabErase, tabFind]
  | cons e t ih =>
    obtain ⟨j, w⟩ := e
    simp only [tabErase]
    split
    · subst_vars
      rw [ih]
      by_cases h : key = j <;> simp [h, tabFind, eq_comm]
    · rename_i hj
      simp only [tabFind, ih]
      by_cases h : j = key
      · subst h; simp [hj]
      · simp [h]

theorem tabFind_insert {α : Type} (t : Tab α) (k : Nat) (v : α) (key : Nat) (h : tabFind t k = none) :
    tabFind (tabInsert t k v) key = if key = k then some v else tabFind t key := by
  induction t with
  | nil => simp [tabInsert, tabFind, eq_comm]
  | cons e t ih =>
    obtain ⟨j, w⟩ := e
    simp only [tabFind] at h
    split at h
    · simp at h
    rename_i hj
    simp only [tabInsert]
    split
    · simp only [tabFind, eq_comm]
    · simp only [tabFind, ih h]
      by_cases h' : j = key
      · subst h'; simp [hj]
      · simp [h']

/-- A table reads the value written at its key, and what it read before at every other. -/
theorem tabGet_set {α : Type} [DecidableEq α] (d : Nat → α) (t : Tab α) (k : Nat) (v : α) (key : Nat) :
    tabGet d (tabSet d t k v) key = if key = k then v else tabGet d t key := by
  unfold tabSet tabGet
  split
  · rename_i h
    rw [tabFind_erase]
    by_cases hk : key = k <;> simp [hk, h]
  · rw [tabFind_insert _ _ _ _ (by rw [tabFind_erase]; simp), tabFind_erase]
    by_cases hk : key = k <;> simp [hk]

@[simp] theorem tabGet_set_same {α : Type} [DecidableEq α] (d : Nat → α) (t : Tab α) (k : Nat) (v : α) :
    tabGet d (tabSet d t k v) k = v := by simp [tabGet_set]

theorem tabGet_set_ne {α : Type} [DecidableEq α] {d : Nat → α} {t : Tab α} {k key : Nat} {v : α} (h : key ≠ k) :
    tabGet d (tabSet d t k v) key = tabGet d t key := by simp [tabGet_set, h]

/-- An empty table reads as nothing listed. -/
@[simp] theorem tabGet_nil {α : Type} (d : Nat → α) (k : Nat) : tabGet d [] k = d k := rfl

theorem tabFind_clear {α : Type} (t : Tab α) (a n key : Nat) :
    tabFind (tabClear t a n) key = if key < a ∨ a + n ≤ key then tabFind t key else none := by
  unfold tabClear
  induction t with
  | nil => simp [tabFind]
  | cons e t ih =>
    obtain ⟨j, w⟩ := e
    simp only [List.filter_cons]
    by_cases hj : j < a ∨ a + n ≤ j <;> by_cases hk : j = key
    · subst hk; simp only [decide_eq_true_eq, if_pos hj, tabFind, if_true]
    · simp only [decide_eq_true_eq, if_pos hj, tabFind, if_neg hk, ih]
    · subst hk; simp only [decide_eq_true_eq, if_neg hj, ih]
    · simp only [decide_eq_true_eq, if_neg hj, tabFind, if_neg hk, ih]

/-- Cleared keys read as unlisted ones, and the others as before. -/
theorem tabGet_clear {α : Type} (d : Nat → α) (t : Tab α) (a n key : Nat) :
    tabGet d (tabClear t a n) key = if key < a ∨ a + n ≤ key then tabGet d t key else d key := by
  unfold tabGet
  rw [tabFind_clear]
  split <;> rfl

theorem tabAbove_iff {α : Type} (k : Nat) (t : Tab α) : tabAbove k t = true ↔ ∀ e ∈ t, k < e.1 := by
  induction t with
  | nil => simp [tabAbove]
  | cons e t ih => simp [tabAbove, ih]

theorem mem_tabErase {α : Type} {t : Tab α} {k : Nat} {e : Nat × α} (h : e ∈ tabErase t k) : e ∈ t := by
  induction t with
  | nil => simp [tabErase] at h
  | cons x t ih =>
    obtain ⟨j, w⟩ := x
    simp only [tabErase] at h
    split at h
    · exact List.mem_cons_of_mem _ (ih h)
    · rcases List.mem_cons.mp h with h | h
      · exact h ▸ List.mem_cons_self
      · exact List.mem_cons_of_mem _ (ih h)

theorem mem_tabInsert {α : Type} {t : Tab α} {k : Nat} {v : α} {e : Nat × α} (h : e ∈ tabInsert t k v) :
    e = (k, v) ∨ e ∈ t := by
  induction t with
  | nil => simpa [tabInsert] using h
  | cons x t ih =>
    obtain ⟨j, w⟩ := x
    simp only [tabInsert] at h
    split at h
    · simpa using h
    · rcases List.mem_cons.mp h with h | h
      · exact .inr (h ▸ List.mem_cons_self)
      · rcases ih h with h | h
        · exact .inl h
        · exact .inr (List.mem_cons_of_mem _ h)

theorem tabWf_erase {α : Type} [DecidableEq α] {d : Nat → α} {t : Tab α} (k : Nat) (h : tabWf d t = true) :
    tabWf d (tabErase t k) = true := by
  induction t with
  | nil => rfl
  | cons x t ih =>
    obtain ⟨j, w⟩ := x
    simp only [tabWf, Bool.and_eq_true, decide_eq_true_eq] at h
    simp only [tabErase]
    split
    · exact ih h.2
    · simp only [tabWf, Bool.and_eq_true, decide_eq_true_eq]
      exact ⟨⟨(tabAbove_iff _ _).mpr fun e he => (tabAbove_iff _ _).mp h.1.1 e (mem_tabErase he), h.1.2⟩, ih h.2⟩

theorem tabWf_insert {α : Type} [DecidableEq α] {d : Nat → α} {t : Tab α} {k : Nat} {v : α} (h : tabWf d t = true)
    (hk : tabFind t k = none) (hv : v ≠ d k) : tabWf d (tabInsert t k v) = true := by
  induction t with
  | nil => simp [tabInsert, tabWf, tabAbove, hv]
  | cons x t ih =>
    obtain ⟨j, w⟩ := x
    simp only [tabFind] at hk
    split at hk
    · simp at hk
    rename_i hj
    have h' := h
    simp only [tabWf, Bool.and_eq_true, decide_eq_true_eq] at h
    simp only [tabInsert]
    split
    · rename_i hlt
      simp only [tabWf, Bool.and_eq_true, decide_eq_true_eq]
      refine ⟨⟨(tabAbove_iff _ _).mpr fun e he => ?_, hv⟩, h⟩
      rcases List.mem_cons.mp he with he | he
      · exact he ▸ hlt
      · exact Nat.lt_trans hlt ((tabAbove_iff _ _).mp h.1.1 e he)
    · simp only [tabWf, Bool.and_eq_true, decide_eq_true_eq]
      refine ⟨⟨(tabAbove_iff _ _).mpr fun e he => ?_, h.1.2⟩, ih h.2 hk⟩
      rcases mem_tabInsert he with he | he
      · subst he; simp only; omega
      · exact (tabAbove_iff _ _).mp h.1.1 e he

/-- A write keeps the canonical form. -/
theorem tabWf_set {α : Type} [DecidableEq α] {d : Nat → α} {t : Tab α} (k : Nat) (v : α) (h : tabWf d t = true) :
    tabWf d (tabSet d t k v) = true := by
  unfold tabSet
  split
  · exact tabWf_erase k h
  · exact tabWf_insert (tabWf_erase k h) (by rw [tabFind_erase]; simp) ‹_›

/-- Clearing keys keeps the canonical form. -/
theorem tabWf_clear {α : Type} [DecidableEq α] {d : Nat → α} {t : Tab α} (a n : Nat) (h : tabWf d t = true) :
    tabWf d (tabClear t a n) = true := by
  unfold tabClear
  induction t with
  | nil => rfl
  | cons x t ih =>
    obtain ⟨j, w⟩ := x
    simp only [tabWf, Bool.and_eq_true, decide_eq_true_eq] at h
    simp only [List.filter_cons]
    split
    · simp only [tabWf, Bool.and_eq_true, decide_eq_true_eq]
      refine ⟨⟨(tabAbove_iff _ _).mpr fun e he => ?_, h.1.2⟩, ih h.2⟩
      exact (tabAbove_iff _ _).mp h.1.1 e (List.mem_of_mem_filter he)
    · exact ih h.2

end Sys2Proof.Machine
end

