-- ==== Sys2Proof/Laws/State.lean ====
section
/-! SUPPORT. What each named update of the device leaves alone, field by field, and what a register, a byte and a record read
after a write of it. -/
namespace Sys2Proof.Machine

@[simp] theorem sg_keeps (p : Page) (o : Nat) (v : Word) (d : Dev) :
    (sg p o v d).us = d.us ∧ (sg p o v d).free = d.free ∧ (sg p o v d).resp = d.resp ∧ (sg p o v d).out = d.out ∧
    (sg p o v d).firing = d.firing ∧ (sg p o v d).gp = d.gp ∧ (sg p o v d).upset = d.upset ∧ (sg p o v d).iso = d.iso ∧
    (sg p o v d).classDefer = d.classDefer ∧ (sg p o v d).blk = d.blk ∧ (sg p o v d).sdg = d.sdg ∧
    (sg p o v d).cairn = d.cairn ∧ (sg p o v d).tet = d.tet ∧ (sg p o v d).can = d.can ∧ (sg p o v d).wld = d.wld ∧
    (sg p o v d).pwr = d.pwr ∧ (sg p o v d).pad = d.pad ∧ (sg p o v d).pipes = d.pipes ∧ (sg p o v d).luts = d.luts ∧
    (sg p o v d).lutHalf = d.lutHalf ∧ (sg p o v d).wbs = d.wbs ∧ (sg p o v d).heads = d.heads ∧ (sg p o v d).ports = d.ports ∧
    (sg p o v d).profiles = d.profiles ∧ (sg p o v d).cam = d.cam ∧ (sg p o v d).wins = d.wins ∧ (sg p o v d).ctxs = d.ctxs ∧
    (sg p o v d).gpu = d.gpu ∧ (sg p o v d).tch = d.tch ∧ (sg p o v d).keys = d.keys ∧ (sg p o v d).hap = d.hap ∧
    (sg p o v d).aud = d.aud ∧ (sg p o v d).afe = d.afe ∧ (sg p o v d).pst = d.pst ∧ (sg p o v d).drc = d.drc ∧
    (sg p o v d).tly = d.tly ∧ (sg p o v d).data = d.data ∧ (sg p o v d).poisoned = d.poisoned ∧
    (sg p o v d).pasture = d.pasture ∧ (sg p o v d).dram = d.dram ∧ (sg p o v d).nvm = d.nvm ∧ (sg p o v d).boot = d.boot ∧
    (sg p o v d).nvmc = d.nvmc ∧ (sg p o v d).xspi = d.xspi :=
  ⟨rfl, rfl, rfl, rfl, rfl, rfl, rfl, rfl, rfl, rfl, rfl, rfl, rfl, rfl, rfl, rfl, rfl, rfl, rfl, rfl, rfl, rfl, rfl,
  rfl, rfl, rfl, rfl, rfl, rfl, rfl, rfl, rfl, rfl, rfl, rfl, rfl, rfl, rfl, rfl, rfl, rfl, rfl, rfl, rfl⟩

@[simp] theorem sf_keeps (p : Page) (o hi lo x : Nat) (d : Dev) :
    (sf p o hi lo x d).us = d.us ∧ (sf p o hi lo x d).free = d.free ∧ (sf p o hi lo x d).resp = d.resp ∧
    (sf p o hi lo x d).out = d.out ∧ (sf p o hi lo x d).firing = d.firing ∧ (sf p o hi lo x d).gp = d.gp ∧
    (sf p o hi lo x d).upset = d.upset ∧ (sf p o hi lo x d).iso = d.iso ∧ (sf p o hi lo x d).classDefer = d.classDefer ∧
    (sf p o hi lo x d).blk = d.blk ∧ (sf p o hi lo x d).sdg = d.sdg ∧ (sf p o hi lo x d).cairn = d.cairn ∧
    (sf p o hi lo x d).tet = d.tet ∧ (sf p o hi lo x d).can = d.can ∧ (sf p o hi lo x d).wld = d.wld ∧
    (sf p o hi lo x d).pwr = d.pwr ∧ (sf p o hi lo x d).pad = d.pad ∧ (sf p o hi lo x d).pipes = d.pipes ∧
    (sf p o hi lo x d).luts = d.luts ∧ (sf p o hi lo x d).lutHalf = d.lutHalf ∧ (sf p o hi lo x d).wbs = d.wbs ∧
    (sf p o hi lo x d).heads = d.heads ∧ (sf p o hi lo x d).ports = d.ports ∧ (sf p o hi lo x d).profiles = d.profiles ∧
    (sf p o hi lo x d).cam = d.cam ∧ (sf p o hi lo x d).wins = d.wins ∧ (sf p o hi lo x d).ctxs = d.ctxs ∧
    (sf p o hi lo x d).gpu = d.gpu ∧ (sf p o hi lo x d).tch = d.tch ∧ (sf p o hi lo x d).keys = d.keys ∧
    (sf p o hi lo x d).hap = d.hap ∧ (sf p o hi lo x d).aud = d.aud ∧ (sf p o hi lo x d).afe = d.afe ∧
    (sf p o hi lo x d).pst = d.pst ∧ (sf p o hi lo x d).drc = d.drc ∧ (sf p o hi lo x d).tly = d.tly ∧
    (sf p o hi lo x d).data = d.data ∧ (sf p o hi lo x d).poisoned = d.poisoned ∧ (sf p o hi lo x d).pasture = d.pasture ∧
    (sf p o hi lo x d).dram = d.dram ∧ (sf p o hi lo x d).nvm = d.nvm ∧ (sf p o hi lo x d).boot = d.boot ∧
    (sf p o hi lo x d).nvmc = d.nvmc ∧ (sf p o hi lo x d).xspi = d.xspi :=
  ⟨rfl, rfl, rfl, rfl, rfl, rfl, rfl, rfl, rfl, rfl, rfl, rfl, rfl, rfl, rfl, rfl, rfl, rfl, rfl, rfl, rfl, rfl, rfl,
  rfl, rfl, rfl, rfl, rfl, rfl, rfl, rfl, rfl, rfl, rfl, rfl, rfl, rfl, rfl, rfl, rfl, rfl, rfl, rfl, rfl⟩

@[simp] theorem sb_keeps (p : Page) (o k : Nat) (b : Bool) (d : Dev) :
    (sb p o k b d).us = d.us ∧ (sb p o k b d).free = d.free ∧ (sb p o k b d).resp = d.resp ∧ (sb p o k b d).out = d.out ∧
    (sb p o k b d).firing = d.firing ∧ (sb p o k b d).gp = d.gp ∧ (sb p o k b d).upset = d.upset ∧ (sb p o k b d).iso = d.iso ∧
    (sb p o k b d).classDefer = d.classDefer ∧ (sb p o k b d).blk = d.blk ∧ (sb p o k b d).sdg = d.sdg ∧
    (sb p o k b d).cairn = d.cairn ∧ (sb p o k b d).tet = d.tet ∧ (sb p o k b d).can = d.can ∧ (sb p o k b d).wld = d.wld ∧
    (sb p o k b d).pwr = d.pwr ∧ (sb p o k b d).pad = d.pad ∧ (sb p o k b d).pipes = d.pipes ∧ (sb p o k b d).luts = d.luts ∧
    (sb p o k b d).lutHalf = d.lutHalf ∧ (sb p o k b d).wbs = d.wbs ∧ (sb p o k b d).heads = d.heads ∧
    (sb p o k b d).ports = d.ports ∧ (sb p o k b d).profiles = d.profiles ∧ (sb p o k b d).cam = d.cam ∧
    (sb p o k b d).wins = d.wins ∧ (sb p o k b d).ctxs = d.ctxs ∧ (sb p o k b d).gpu = d.gpu ∧ (sb p o k b d).tch = d.tch ∧
    (sb p o k b d).keys = d.keys ∧ (sb p o k b d).hap = d.hap ∧ (sb p o k b d).aud = d.aud ∧ (sb p o k b d).afe = d.afe ∧
    (sb p o k b d).pst = d.pst ∧ (sb p o k b d).drc = d.drc ∧ (sb p o k b d).tly = d.tly ∧ (sb p o k b d).data = d.data ∧
    (sb p o k b d).poisoned = d.poisoned ∧ (sb p o k b d).pasture = d.pasture ∧ (sb p o k b d).dram = d.dram ∧
    (sb p o k b d).nvm = d.nvm ∧ (sb p o k b d).boot = d.boot ∧ (sb p o k b d).nvmc = d.nvmc ∧ (sb p o k b d).xspi = d.xspi :=
  ⟨rfl, rfl, rfl, rfl, rfl, rfl, rfl, rfl, rfl, rfl, rfl, rfl, rfl, rfl, rfl, rfl, rfl, rfl, rfl, rfl, rfl, rfl, rfl,
  rfl, rfl, rfl, rfl, rfl, rfl, rfl, rfl, rfl, rfl, rfl, rfl, rfl, rfl, rfl, rfl, rfl, rfl, rfl, rfl, rfl⟩

@[simp] theorem addTo_keeps (p : Page) (o hi lo n : Nat) (d : Dev) :
    (addTo p o hi lo n d).us = d.us ∧ (addTo p o hi lo n d).free = d.free ∧ (addTo p o hi lo n d).resp = d.resp ∧
    (addTo p o hi lo n d).out = d.out ∧ (addTo p o hi lo n d).firing = d.firing ∧ (addTo p o hi lo n d).gp = d.gp ∧
    (addTo p o hi lo n d).upset = d.upset ∧ (addTo p o hi lo n d).iso = d.iso ∧
    (addTo p o hi lo n d).classDefer = d.classDefer ∧ (addTo p o hi lo n d).blk = d.blk ∧ (addTo p o hi lo n d).sdg = d.sdg ∧
    (addTo p o hi lo n d).cairn = d.cairn ∧ (addTo p o hi lo n d).tet = d.tet ∧ (addTo p o hi lo n d).can = d.can ∧
    (addTo p o hi lo n d).wld = d.wld ∧ (addTo p o hi lo n d).pwr = d.pwr ∧ (addTo p o hi lo n d).pad = d.pad ∧
    (addTo p o hi lo n d).pipes = d.pipes ∧ (addTo p o hi lo n d).luts = d.luts ∧ (addTo p o hi lo n d).lutHalf = d.lutHalf ∧
    (addTo p o hi lo n d).wbs = d.wbs ∧ (addTo p o hi lo n d).heads = d.heads ∧ (addTo p o hi lo n d).ports = d.ports ∧
    (addTo p o hi lo n d).profiles = d.profiles ∧ (addTo p o hi lo n d).cam = d.cam ∧ (addTo p o hi lo n d).wins = d.wins ∧
    (addTo p o hi lo n d).ctxs = d.ctxs ∧ (addTo p o hi lo n d).gpu = d.gpu ∧ (addTo p o hi lo n d).tch = d.tch ∧
    (addTo p o hi lo n d).keys = d.keys ∧ (addTo p o hi lo n d).hap = d.hap ∧ (addTo p o hi lo n d).aud = d.aud ∧
    (addTo p o hi lo n d).afe = d.afe ∧ (addTo p o hi lo n d).pst = d.pst ∧ (addTo p o hi lo n d).drc = d.drc ∧
    (addTo p o hi lo n d).tly = d.tly ∧ (addTo p o hi lo n d).data = d.data ∧ (addTo p o hi lo n d).poisoned = d.poisoned ∧
    (addTo p o hi lo n d).pasture = d.pasture ∧ (addTo p o hi lo n d).dram = d.dram ∧ (addTo p o hi lo n d).nvm = d.nvm ∧
    (addTo p o hi lo n d).boot = d.boot ∧ (addTo p o hi lo n d).nvmc = d.nvmc ∧ (addTo p o hi lo n d).xspi = d.xspi :=
  ⟨rfl, rfl, rfl, rfl, rfl, rfl, rfl, rfl, rfl, rfl, rfl, rfl, rfl, rfl, rfl, rfl, rfl, rfl, rfl, rfl, rfl, rfl, rfl,
  rfl, rfl, rfl, rfl, rfl, rfl, rfl, rfl, rfl, rfl, rfl, rfl, rfl, rfl, rfl, rfl, rfl, rfl, rfl, rfl, rfl⟩

@[simp] theorem bump_keeps (p : Page) (o hi lo : Nat) (d : Dev) :
    (bump p o hi lo d).us = d.us ∧ (bump p o hi lo d).free = d.free ∧ (bump p o hi lo d).resp = d.resp ∧
    (bump p o hi lo d).out = d.out ∧ (bump p o hi lo d).firing = d.firing ∧ (bump p o hi lo d).gp = d.gp ∧
    (bump p o hi lo d).upset = d.upset ∧ (bump p o hi lo d).iso = d.iso ∧ (bump p o hi lo d).classDefer = d.classDefer ∧
    (bump p o hi lo d).blk = d.blk ∧ (bump p o hi lo d).sdg = d.sdg ∧ (bump p o hi lo d).cairn = d.cairn ∧
    (bump p o hi lo d).tet = d.tet ∧ (bump p o hi lo d).can = d.can ∧ (bump p o hi lo d).wld = d.wld ∧
    (bump p o hi lo d).pwr = d.pwr ∧ (bump p o hi lo d).pad = d.pad ∧ (bump p o hi lo d).pipes = d.pipes ∧
    (bump p o hi lo d).luts = d.luts ∧ (bump p o hi lo d).lutHalf = d.lutHalf ∧ (bump p o hi lo d).wbs = d.wbs ∧
    (bump p o hi lo d).heads = d.heads ∧ (bump p o hi lo d).ports = d.ports ∧ (bump p o hi lo d).profiles = d.profiles ∧
    (bump p o hi lo d).cam = d.cam ∧ (bump p o hi lo d).wins = d.wins ∧ (bump p o hi lo d).ctxs = d.ctxs ∧
    (bump p o hi lo d).gpu = d.gpu ∧ (bump p o hi lo d).tch = d.tch ∧ (bump p o hi lo d).keys = d.keys ∧
    (bump p o hi lo d).hap = d.hap ∧ (bump p o hi lo d).aud = d.aud ∧ (bump p o hi lo d).afe = d.afe ∧
    (bump p o hi lo d).pst = d.pst ∧ (bump p o hi lo d).drc = d.drc ∧ (bump p o hi lo d).tly = d.tly ∧
    (bump p o hi lo d).data = d.data ∧ (bump p o hi lo d).poisoned = d.poisoned ∧ (bump p o hi lo d).pasture = d.pasture ∧
    (bump p o hi lo d).dram = d.dram ∧ (bump p o hi lo d).nvm = d.nvm ∧ (bump p o hi lo d).boot = d.boot ∧
    (bump p o hi lo d).nvmc = d.nvmc ∧ (bump p o hi lo d).xspi = d.xspi :=
  ⟨rfl, rfl, rfl, rfl, rfl, rfl, rfl, rfl, rfl, rfl, rfl, rfl, rfl, rfl, rfl, rfl, rfl, rfl, rfl, rfl, rfl, rfl, rfl,
  rfl, rfl, rfl, rfl, rfl, rfl, rfl, rfl, rfl, rfl, rfl, rfl, rfl, rfl, rfl, rfl, rfl, rfl, rfl, rfl, rfl⟩

@[simp] theorem sg64_keeps (p : Page) (lo x : Nat) (d : Dev) :
    (sg64 p lo x d).us = d.us ∧ (sg64 p lo x d).free = d.free ∧ (sg64 p lo x d).resp = d.resp ∧ (sg64 p lo x d).out = d.out ∧
    (sg64 p lo x d).firing = d.firing ∧ (sg64 p lo x d).gp = d.gp ∧ (sg64 p lo x d).upset = d.upset ∧
    (sg64 p lo x d).iso = d.iso ∧ (sg64 p lo x d).classDefer = d.classDefer ∧ (sg64 p lo x d).blk = d.blk ∧
    (sg64 p lo x d).sdg = d.sdg ∧ (sg64 p lo x d).cairn = d.cairn ∧ (sg64 p lo x d).tet = d.tet ∧ (sg64 p lo x d).can = d.can ∧
    (sg64 p lo x d).wld = d.wld ∧ (sg64 p lo x d).pwr = d.pwr ∧ (sg64 p lo x d).pad = d.pad ∧ (sg64 p lo x d).pipes = d.pipes ∧
    (sg64 p lo x d).luts = d.luts ∧ (sg64 p lo x d).lutHalf = d.lutHalf ∧ (sg64 p lo x d).wbs = d.wbs ∧
    (sg64 p lo x d).heads = d.heads ∧ (sg64 p lo x d).ports = d.ports ∧ (sg64 p lo x d).profiles = d.profiles ∧
    (sg64 p lo x d).cam = d.cam ∧ (sg64 p lo x d).wins = d.wins ∧ (sg64 p lo x d).ctxs = d.ctxs ∧ (sg64 p lo x d).gpu = d.gpu ∧
    (sg64 p lo x d).tch = d.tch ∧ (sg64 p lo x d).keys = d.keys ∧ (sg64 p lo x d).hap = d.hap ∧ (sg64 p lo x d).aud = d.aud ∧
    (sg64 p lo x d).afe = d.afe ∧ (sg64 p lo x d).pst = d.pst ∧ (sg64 p lo x d).drc = d.drc ∧ (sg64 p lo x d).tly = d.tly ∧
    (sg64 p lo x d).data = d.data ∧ (sg64 p lo x d).poisoned = d.poisoned ∧ (sg64 p lo x d).pasture = d.pasture ∧
    (sg64 p lo x d).dram = d.dram ∧ (sg64 p lo x d).nvm = d.nvm ∧ (sg64 p lo x d).boot = d.boot ∧
    (sg64 p lo x d).nvmc = d.nvmc ∧ (sg64 p lo x d).xspi = d.xspi :=
  ⟨rfl, rfl, rfl, rfl, rfl, rfl, rfl, rfl, rfl, rfl, rfl, rfl, rfl, rfl, rfl, rfl, rfl, rfl, rfl, rfl, rfl, rfl, rfl,
  rfl, rfl, rfl, rfl, rfl, rfl, rfl, rfl, rfl, rfl, rfl, rfl, rfl, rfl, rfl, rfl, rfl, rfl, rfl, rfl, rfl⟩

@[simp] theorem clearRegs_keeps (a n : Nat) (d : Dev) :
    (clearRegs a n d).us = d.us ∧ (clearRegs a n d).free = d.free ∧ (clearRegs a n d).resp = d.resp ∧
    (clearRegs a n d).out = d.out ∧ (clearRegs a n d).firing = d.firing ∧ (clearRegs a n d).gp = d.gp ∧
    (clearRegs a n d).iso = d.iso ∧ (clearRegs a n d).classDefer = d.classDefer ∧ (clearRegs a n d).blk = d.blk ∧
    (clearRegs a n d).sdg = d.sdg ∧ (clearRegs a n d).cairn = d.cairn ∧ (clearRegs a n d).tet = d.tet ∧
    (clearRegs a n d).can = d.can ∧ (clearRegs a n d).wld = d.wld ∧ (clearRegs a n d).pwr = d.pwr ∧
    (clearRegs a n d).pad = d.pad ∧ (clearRegs a n d).pipes = d.pipes ∧ (clearRegs a n d).luts = d.luts ∧
    (clearRegs a n d).lutHalf = d.lutHalf ∧ (clearRegs a n d).wbs = d.wbs ∧ (clearRegs a n d).heads = d.heads ∧
    (clearRegs a n d).ports = d.ports ∧ (clearRegs a n d).profiles = d.profiles ∧ (clearRegs a n d).cam = d.cam ∧
    (clearRegs a n d).wins = d.wins ∧ (clearRegs a n d).ctxs = d.ctxs ∧ (clearRegs a n d).gpu = d.gpu ∧
    (clearRegs a n d).tch = d.tch ∧ (clearRegs a n d).keys = d.keys ∧ (clearRegs a n d).hap = d.hap ∧
    (clearRegs a n d).aud = d.aud ∧ (clearRegs a n d).afe = d.afe ∧ (clearRegs a n d).pst = d.pst ∧
    (clearRegs a n d).drc = d.drc ∧ (clearRegs a n d).tly = d.tly ∧ (clearRegs a n d).data = d.data ∧
    (clearRegs a n d).poisoned = d.poisoned ∧ (clearRegs a n d).pasture = d.pasture ∧ (clearRegs a n d).dram = d.dram ∧
    (clearRegs a n d).nvm = d.nvm ∧ (clearRegs a n d).boot = d.boot ∧ (clearRegs a n d).nvmc = d.nvmc ∧
    (clearRegs a n d).xspi = d.xspi :=
  ⟨rfl, rfl, rfl, rfl, rfl, rfl, rfl, rfl, rfl, rfl, rfl, rfl, rfl, rfl, rfl, rfl, rfl, rfl, rfl, rfl, rfl, rfl, rfl,
  rfl, rfl, rfl, rfl, rfl, rfl, rfl, rfl, rfl, rfl, rfl, rfl, rfl, rfl, rfl, rfl, rfl, rfl, rfl, rfl⟩

@[simp] theorem resetPage_keeps (p : Page) (d : Dev) :
    (resetPage p d).us = d.us ∧ (resetPage p d).free = d.free ∧ (resetPage p d).resp = d.resp ∧ (resetPage p d).out = d.out ∧
    (resetPage p d).firing = d.firing ∧ (resetPage p d).gp = d.gp ∧ (resetPage p d).iso = d.iso ∧
    (resetPage p d).classDefer = d.classDefer ∧ (resetPage p d).blk = d.blk ∧ (resetPage p d).sdg = d.sdg ∧
    (resetPage p d).cairn = d.cairn ∧ (resetPage p d).tet = d.tet ∧ (resetPage p d).can = d.can ∧ (resetPage p d).wld = d.wld ∧
    (resetPage p d).pwr = d.pwr ∧ (resetPage p d).pad = d.pad ∧ (resetPage p d).pipes = d.pipes ∧
    (resetPage p d).luts = d.luts ∧ (resetPage p d).lutHalf = d.lutHalf ∧ (resetPage p d).wbs = d.wbs ∧
    (resetPage p d).heads = d.heads ∧ (resetPage p d).ports = d.ports ∧ (resetPage p d).profiles = d.profiles ∧
    (resetPage p d).cam = d.cam ∧ (resetPage p d).wins = d.wins ∧ (resetPage p d).ctxs = d.ctxs ∧ (resetPage p d).gpu = d.gpu ∧
    (resetPage p d).tch = d.tch ∧ (resetPage p d).keys = d.keys ∧ (resetPage p d).hap = d.hap ∧ (resetPage p d).aud = d.aud ∧
    (resetPage p d).afe = d.afe ∧ (resetPage p d).pst = d.pst ∧ (resetPage p d).drc = d.drc ∧ (resetPage p d).tly = d.tly ∧
    (resetPage p d).data = d.data ∧ (resetPage p d).poisoned = d.poisoned ∧ (resetPage p d).pasture = d.pasture ∧
    (resetPage p d).dram = d.dram ∧ (resetPage p d).nvm = d.nvm ∧ (resetPage p d).boot = d.boot ∧
    (resetPage p d).nvmc = d.nvmc ∧ (resetPage p d).xspi = d.xspi :=
  ⟨rfl, rfl, rfl, rfl, rfl, rfl, rfl, rfl, rfl, rfl, rfl, rfl, rfl, rfl, rfl, rfl, rfl, rfl, rfl, rfl, rfl, rfl, rfl,
  rfl, rfl, rfl, rfl, rfl, rfl, rfl, rfl, rfl, rfl, rfl, rfl, rfl, rfl, rfl, rfl, rfl, rfl, rfl, rfl⟩

@[simp] theorem resetPageBody_keeps (p : Page) (d : Dev) :
    (resetPageBody p d).us = d.us ∧ (resetPageBody p d).free = d.free ∧ (resetPageBody p d).resp = d.resp ∧
    (resetPageBody p d).out = d.out ∧ (resetPageBody p d).firing = d.firing ∧ (resetPageBody p d).gp = d.gp ∧
    (resetPageBody p d).iso = d.iso ∧ (resetPageBody p d).classDefer = d.classDefer ∧ (resetPageBody p d).blk = d.blk ∧
    (resetPageBody p d).sdg = d.sdg ∧ (resetPageBody p d).cairn = d.cairn ∧ (resetPageBody p d).tet = d.tet ∧
    (resetPageBody p d).can = d.can ∧ (resetPageBody p d).wld = d.wld ∧ (resetPageBody p d).pwr = d.pwr ∧
    (resetPageBody p d).pad = d.pad ∧ (resetPageBody p d).pipes = d.pipes ∧ (resetPageBody p d).luts = d.luts ∧
    (resetPageBody p d).lutHalf = d.lutHalf ∧ (resetPageBody p d).wbs = d.wbs ∧ (resetPageBody p d).heads = d.heads ∧
    (resetPageBody p d).ports = d.ports ∧ (resetPageBody p d).profiles = d.profiles ∧ (resetPageBody p d).cam = d.cam ∧
    (resetPageBody p d).wins = d.wins ∧ (resetPageBody p d).ctxs = d.ctxs ∧ (resetPageBody p d).gpu = d.gpu ∧
    (resetPageBody p d).tch = d.tch ∧ (resetPageBody p d).keys = d.keys ∧ (resetPageBody p d).hap = d.hap ∧
    (resetPageBody p d).aud = d.aud ∧ (resetPageBody p d).afe = d.afe ∧ (resetPageBody p d).pst = d.pst ∧
    (resetPageBody p d).drc = d.drc ∧ (resetPageBody p d).tly = d.tly ∧ (resetPageBody p d).data = d.data ∧
    (resetPageBody p d).poisoned = d.poisoned ∧ (resetPageBody p d).pasture = d.pasture ∧ (resetPageBody p d).dram = d.dram ∧
    (resetPageBody p d).nvm = d.nvm ∧ (resetPageBody p d).boot = d.boot ∧ (resetPageBody p d).nvmc = d.nvmc ∧
    (resetPageBody p d).xspi = d.xspi :=
  ⟨rfl, rfl, rfl, rfl, rfl, rfl, rfl, rfl, rfl, rfl, rfl, rfl, rfl, rfl, rfl, rfl, rfl, rfl, rfl, rfl, rfl, rfl, rfl,
  rfl, rfl, rfl, rfl, rfl, rfl, rfl, rfl, rfl, rfl, rfl, rfl, rfl, rfl, rfl, rfl, rfl, rfl, rfl, rfl⟩

@[simp] theorem tick_keeps (d : Dev) :
    (tick d).regs = d.regs ∧ (tick d).us = d.us ∧ (tick d).resp = d.resp ∧ (tick d).out = d.out ∧ (tick d).firing = d.firing ∧
    (tick d).gp = d.gp ∧ (tick d).upset = d.upset ∧ (tick d).iso = d.iso ∧ (tick d).classDefer = d.classDefer ∧
    (tick d).blk = d.blk ∧ (tick d).sdg = d.sdg ∧ (tick d).cairn = d.cairn ∧ (tick d).tet = d.tet ∧ (tick d).can = d.can ∧
    (tick d).wld = d.wld ∧ (tick d).pwr = d.pwr ∧ (tick d).pad = d.pad ∧ (tick d).pipes = d.pipes ∧ (tick d).luts = d.luts ∧
    (tick d).lutHalf = d.lutHalf ∧ (tick d).wbs = d.wbs ∧ (tick d).heads = d.heads ∧ (tick d).ports = d.ports ∧
    (tick d).profiles = d.profiles ∧ (tick d).cam = d.cam ∧ (tick d).wins = d.wins ∧ (tick d).ctxs = d.ctxs ∧
    (tick d).gpu = d.gpu ∧ (tick d).tch = d.tch ∧ (tick d).keys = d.keys ∧ (tick d).hap = d.hap ∧ (tick d).aud = d.aud ∧
    (tick d).afe = d.afe ∧ (tick d).pst = d.pst ∧ (tick d).drc = d.drc ∧ (tick d).tly = d.tly ∧ (tick d).data = d.data ∧
    (tick d).poisoned = d.poisoned ∧ (tick d).pasture = d.pasture ∧ (tick d).dram = d.dram ∧ (tick d).nvm = d.nvm ∧
    (tick d).boot = d.boot ∧ (tick d).nvmc = d.nvmc ∧ (tick d).xspi = d.xspi ∧ (∀ q o, rg (tick d) q o = rg d q o) :=
  ⟨rfl, rfl, rfl, rfl, rfl, rfl, rfl, rfl, rfl, rfl, rfl, rfl, rfl, rfl, rfl, rfl, rfl, rfl, rfl, rfl, rfl, rfl, rfl,
  rfl, rfl, rfl, rfl, rfl, rfl, rfl, rfl, rfl, rfl, rfl, rfl, rfl, rfl, rfl, rfl, rfl, rfl, rfl, rfl, rfl,
  fun _ _ => rfl⟩

@[simp] theorem emit_keeps (m : Out) (d : Dev) :
    (emit m d).regs = d.regs ∧ (emit m d).us = d.us ∧ (emit m d).free = d.free ∧ (emit m d).resp = d.resp ∧
    (emit m d).firing = d.firing ∧ (emit m d).gp = d.gp ∧ (emit m d).upset = d.upset ∧ (emit m d).iso = d.iso ∧
    (emit m d).classDefer = d.classDefer ∧ (emit m d).blk = d.blk ∧ (emit m d).sdg = d.sdg ∧ (emit m d).cairn = d.cairn ∧
    (emit m d).tet = d.tet ∧ (emit m d).can = d.can ∧ (emit m d).wld = d.wld ∧ (emit m d).pwr = d.pwr ∧ (emit m d).pad = d.pad ∧
    (emit m d).pipes = d.pipes ∧ (emit m d).luts = d.luts ∧ (emit m d).lutHalf = d.lutHalf ∧ (emit m d).wbs = d.wbs ∧
    (emit m d).heads = d.heads ∧ (emit m d).ports = d.ports ∧ (emit m d).profiles = d.profiles ∧ (emit m d).cam = d.cam ∧
    (emit m d).wins = d.wins ∧ (emit m d).ctxs = d.ctxs ∧ (emit m d).gpu = d.gpu ∧ (emit m d).tch = d.tch ∧
    (emit m d).keys = d.keys ∧ (emit m d).hap = d.hap ∧ (emit m d).aud = d.aud ∧ (emit m d).afe = d.afe ∧
    (emit m d).pst = d.pst ∧ (emit m d).drc = d.drc ∧ (emit m d).tly = d.tly ∧ (emit m d).data = d.data ∧
    (emit m d).poisoned = d.poisoned ∧ (emit m d).pasture = d.pasture ∧ (emit m d).dram = d.dram ∧ (emit m d).nvm = d.nvm ∧
    (emit m d).boot = d.boot ∧ (emit m d).nvmc = d.nvmc ∧ (emit m d).xspi = d.xspi ∧ (∀ q o, rg (emit m d) q o = rg d q o) :=
  ⟨rfl, rfl, rfl, rfl, rfl, rfl, rfl, rfl, rfl, rfl, rfl, rfl, rfl, rfl, rfl, rfl, rfl, rfl, rfl, rfl, rfl, rfl, rfl,
  rfl, rfl, rfl, rfl, rfl, rfl, rfl, rfl, rfl, rfl, rfl, rfl, rfl, rfl, rfl, rfl, rfl, rfl, rfl, rfl, rfl,
  fun _ _ => rfl⟩

@[simp] theorem setIso_keeps (p : Page) (b : Bool) (d : Dev) :
    (setIso p b d).regs = d.regs ∧ (setIso p b d).us = d.us ∧ (setIso p b d).free = d.free ∧ (setIso p b d).resp = d.resp ∧
    (setIso p b d).out = d.out ∧ (setIso p b d).firing = d.firing ∧ (setIso p b d).gp = d.gp ∧ (setIso p b d).upset = d.upset ∧
    (setIso p b d).classDefer = d.classDefer ∧ (setIso p b d).blk = d.blk ∧ (setIso p b d).sdg = d.sdg ∧
    (setIso p b d).cairn = d.cairn ∧ (setIso p b d).tet = d.tet ∧ (setIso p b d).can = d.can ∧ (setIso p b d).wld = d.wld ∧
    (setIso p b d).pwr = d.pwr ∧ (setIso p b d).pad = d.pad ∧ (setIso p b d).pipes = d.pipes ∧ (setIso p b d).luts = d.luts ∧
    (setIso p b d).lutHalf = d.lutHalf ∧ (setIso p b d).wbs = d.wbs ∧ (setIso p b d).heads = d.heads ∧
    (setIso p b d).ports = d.ports ∧ (setIso p b d).profiles = d.profiles ∧ (setIso p b d).cam = d.cam ∧
    (setIso p b d).wins = d.wins ∧ (setIso p b d).ctxs = d.ctxs ∧ (setIso p b d).gpu = d.gpu ∧ (setIso p b d).tch = d.tch ∧
    (setIso p b d).keys = d.keys ∧ (setIso p b d).hap = d.hap ∧ (setIso p b d).aud = d.aud ∧ (setIso p b d).afe = d.afe ∧
    (setIso p b d).pst = d.pst ∧ (setIso p b d).drc = d.drc ∧ (setIso p b d).tly = d.tly ∧ (setIso p b d).data = d.data ∧
    (setIso p b d).poisoned = d.poisoned ∧ (setIso p b d).pasture = d.pasture ∧ (setIso p b d).dram = d.dram ∧
    (setIso p b d).nvm = d.nvm ∧ (setIso p b d).boot = d.boot ∧ (setIso p b d).nvmc = d.nvmc ∧ (setIso p b d).xspi = d.xspi ∧
    (∀ q o, rg (setIso p b d) q o = rg d q o) :=
  ⟨rfl, rfl, rfl, rfl, rfl, rfl, rfl, rfl, rfl, rfl, rfl, rfl, rfl, rfl, rfl, rfl, rfl, rfl, rfl, rfl, rfl, rfl, rfl,
  rfl, rfl, rfl, rfl, rfl, rfl, rfl, rfl, rfl, rfl, rfl, rfl, rfl, rfl, rfl, rfl, rfl, rfl, rfl, rfl, rfl,
  fun _ _ => rfl⟩

@[simp] theorem setBlk_keeps (c : Nat) (b : BlkS) (d : Dev) :
    (setBlk c b d).regs = d.regs ∧ (setBlk c b d).us = d.us ∧ (setBlk c b d).free = d.free ∧ (setBlk c b d).resp = d.resp ∧
    (setBlk c b d).out = d.out ∧ (setBlk c b d).firing = d.firing ∧ (setBlk c b d).gp = d.gp ∧ (setBlk c b d).upset = d.upset ∧
    (setBlk c b d).iso = d.iso ∧ (setBlk c b d).classDefer = d.classDefer ∧ (setBlk c b d).sdg = d.sdg ∧
    (setBlk c b d).cairn = d.cairn ∧ (setBlk c b d).tet = d.tet ∧ (setBlk c b d).can = d.can ∧ (setBlk c b d).wld = d.wld ∧
    (setBlk c b d).pwr = d.pwr ∧ (setBlk c b d).pad = d.pad ∧ (setBlk c b d).pipes = d.pipes ∧ (setBlk c b d).luts = d.luts ∧
    (setBlk c b d).lutHalf = d.lutHalf ∧ (setBlk c b d).wbs = d.wbs ∧ (setBlk c b d).heads = d.heads ∧
    (setBlk c b d).ports = d.ports ∧ (setBlk c b d).profiles = d.profiles ∧ (setBlk c b d).cam = d.cam ∧
    (setBlk c b d).wins = d.wins ∧ (setBlk c b d).ctxs = d.ctxs ∧ (setBlk c b d).gpu = d.gpu ∧ (setBlk c b d).tch = d.tch ∧
    (setBlk c b d).keys = d.keys ∧ (setBlk c b d).hap = d.hap ∧ (setBlk c b d).aud = d.aud ∧ (setBlk c b d).afe = d.afe ∧
    (setBlk c b d).pst = d.pst ∧ (setBlk c b d).drc = d.drc ∧ (setBlk c b d).tly = d.tly ∧ (setBlk c b d).data = d.data ∧
    (setBlk c b d).poisoned = d.poisoned ∧ (setBlk c b d).pasture = d.pasture ∧ (setBlk c b d).dram = d.dram ∧
    (setBlk c b d).nvm = d.nvm ∧ (setBlk c b d).boot = d.boot ∧ (setBlk c b d).nvmc = d.nvmc ∧ (setBlk c b d).xspi = d.xspi ∧
    (∀ q o, rg (setBlk c b d) q o = rg d q o) :=
  ⟨rfl, rfl, rfl, rfl, rfl, rfl, rfl, rfl, rfl, rfl, rfl, rfl, rfl, rfl, rfl, rfl, rfl, rfl, rfl, rfl, rfl, rfl, rfl,
  rfl, rfl, rfl, rfl, rfl, rfl, rfl, rfl, rfl, rfl, rfl, rfl, rfl, rfl, rfl, rfl, rfl, rfl, rfl, rfl, rfl,
  fun _ _ => rfl⟩

@[simp] theorem modBlk_keeps (c : Nat) (f : BlkS → BlkS) (d : Dev) :
    (modBlk c f d).regs = d.regs ∧ (modBlk c f d).us = d.us ∧ (modBlk c f d).free = d.free ∧ (modBlk c f d).resp = d.resp ∧
    (modBlk c f d).out = d.out ∧ (modBlk c f d).firing = d.firing ∧ (modBlk c f d).gp = d.gp ∧ (modBlk c f d).upset = d.upset ∧
    (modBlk c f d).iso = d.iso ∧ (modBlk c f d).classDefer = d.classDefer ∧ (modBlk c f d).sdg = d.sdg ∧
    (modBlk c f d).cairn = d.cairn ∧ (modBlk c f d).tet = d.tet ∧ (modBlk c f d).can = d.can ∧ (modBlk c f d).wld = d.wld ∧
    (modBlk c f d).pwr = d.pwr ∧ (modBlk c f d).pad = d.pad ∧ (modBlk c f d).pipes = d.pipes ∧ (modBlk c f d).luts = d.luts ∧
    (modBlk c f d).lutHalf = d.lutHalf ∧ (modBlk c f d).wbs = d.wbs ∧ (modBlk c f d).heads = d.heads ∧
    (modBlk c f d).ports = d.ports ∧ (modBlk c f d).profiles = d.profiles ∧ (modBlk c f d).cam = d.cam ∧
    (modBlk c f d).wins = d.wins ∧ (modBlk c f d).ctxs = d.ctxs ∧ (modBlk c f d).gpu = d.gpu ∧ (modBlk c f d).tch = d.tch ∧
    (modBlk c f d).keys = d.keys ∧ (modBlk c f d).hap = d.hap ∧ (modBlk c f d).aud = d.aud ∧ (modBlk c f d).afe = d.afe ∧
    (modBlk c f d).pst = d.pst ∧ (modBlk c f d).drc = d.drc ∧ (modBlk c f d).tly = d.tly ∧ (modBlk c f d).data = d.data ∧
    (modBlk c f d).poisoned = d.poisoned ∧ (modBlk c f d).pasture = d.pasture ∧ (modBlk c f d).dram = d.dram ∧
    (modBlk c f d).nvm = d.nvm ∧ (modBlk c f d).boot = d.boot ∧ (modBlk c f d).nvmc = d.nvmc ∧ (modBlk c f d).xspi = d.xspi ∧
    (∀ q o, rg (modBlk c f d) q o = rg d q o) :=
  ⟨rfl, rfl, rfl, rfl, rfl, rfl, rfl, rfl, rfl, rfl, rfl, rfl, rfl, rfl, rfl, rfl, rfl, rfl, rfl, rfl, rfl, rfl, rfl,
  rfl, rfl, rfl, rfl, rfl, rfl, rfl, rfl, rfl, rfl, rfl, rfl, rfl, rfl, rfl, rfl, rfl, rfl, rfl, rfl, rfl,
  fun _ _ => rfl⟩

@[simp] theorem modUp_keeps (k : Nat) (f : UpS → UpS) (d : Dev) :
    (modUp k f d).regs = d.regs ∧ (modUp k f d).us = d.us ∧ (modUp k f d).free = d.free ∧ (modUp k f d).resp = d.resp ∧
    (modUp k f d).out = d.out ∧ (modUp k f d).firing = d.firing ∧ (modUp k f d).gp = d.gp ∧ (modUp k f d).upset = d.upset ∧
    (modUp k f d).iso = d.iso ∧ (modUp k f d).classDefer = d.classDefer ∧ (modUp k f d).blk = d.blk ∧
    (modUp k f d).sdg = d.sdg ∧ (modUp k f d).cairn = d.cairn ∧ (modUp k f d).tet = d.tet ∧ (modUp k f d).can = d.can ∧
    (modUp k f d).wld = d.wld ∧ (modUp k f d).pwr = d.pwr ∧ (modUp k f d).pipes = d.pipes ∧ (modUp k f d).luts = d.luts ∧
    (modUp k f d).lutHalf = d.lutHalf ∧ (modUp k f d).wbs = d.wbs ∧ (modUp k f d).heads = d.heads ∧
    (modUp k f d).ports = d.ports ∧ (modUp k f d).profiles = d.profiles ∧ (modUp k f d).cam = d.cam ∧
    (modUp k f d).wins = d.wins ∧ (modUp k f d).ctxs = d.ctxs ∧ (modUp k f d).gpu = d.gpu ∧ (modUp k f d).tch = d.tch ∧
    (modUp k f d).keys = d.keys ∧ (modUp k f d).hap = d.hap ∧ (modUp k f d).aud = d.aud ∧ (modUp k f d).afe = d.afe ∧
    (modUp k f d).pst = d.pst ∧ (modUp k f d).drc = d.drc ∧ (modUp k f d).tly = d.tly ∧ (modUp k f d).data = d.data ∧
    (modUp k f d).poisoned = d.poisoned ∧ (modUp k f d).pasture = d.pasture ∧ (modUp k f d).dram = d.dram ∧
    (modUp k f d).nvm = d.nvm ∧ (modUp k f d).boot = d.boot ∧ (modUp k f d).nvmc = d.nvmc ∧ (modUp k f d).xspi = d.xspi ∧
    (∀ q o, rg (modUp k f d) q o = rg d q o) :=
  ⟨rfl, rfl, rfl, rfl, rfl, rfl, rfl, rfl, rfl, rfl, rfl, rfl, rfl, rfl, rfl, rfl, rfl, rfl, rfl, rfl, rfl, rfl, rfl,
  rfl, rfl, rfl, rfl, rfl, rfl, rfl, rfl, rfl, rfl, rfl, rfl, rfl, rfl, rfl, rfl, rfl, rfl, rfl, rfl, rfl,
  fun _ _ => rfl⟩

@[simp] theorem modFn_keeps (k : Nat) (f : FnS → FnS) (d : Dev) :
    (modFn k f d).regs = d.regs ∧ (modFn k f d).us = d.us ∧ (modFn k f d).free = d.free ∧ (modFn k f d).resp = d.resp ∧
    (modFn k f d).out = d.out ∧ (modFn k f d).firing = d.firing ∧ (modFn k f d).gp = d.gp ∧ (modFn k f d).upset = d.upset ∧
    (modFn k f d).iso = d.iso ∧ (modFn k f d).classDefer = d.classDefer ∧ (modFn k f d).blk = d.blk ∧
    (modFn k f d).sdg = d.sdg ∧ (modFn k f d).cairn = d.cairn ∧ (modFn k f d).tet = d.tet ∧ (modFn k f d).can = d.can ∧
    (modFn k f d).wld = d.wld ∧ (modFn k f d).pwr = d.pwr ∧ (modFn k f d).pipes = d.pipes ∧ (modFn k f d).luts = d.luts ∧
    (modFn k f d).lutHalf = d.lutHalf ∧ (modFn k f d).wbs = d.wbs ∧ (modFn k f d).heads = d.heads ∧
    (modFn k f d).ports = d.ports ∧ (modFn k f d).profiles = d.profiles ∧ (modFn k f d).cam = d.cam ∧
    (modFn k f d).wins = d.wins ∧ (modFn k f d).ctxs = d.ctxs ∧ (modFn k f d).gpu = d.gpu ∧ (modFn k f d).tch = d.tch ∧
    (modFn k f d).keys = d.keys ∧ (modFn k f d).hap = d.hap ∧ (modFn k f d).aud = d.aud ∧ (modFn k f d).afe = d.afe ∧
    (modFn k f d).pst = d.pst ∧ (modFn k f d).drc = d.drc ∧ (modFn k f d).tly = d.tly ∧ (modFn k f d).data = d.data ∧
    (modFn k f d).poisoned = d.poisoned ∧ (modFn k f d).pasture = d.pasture ∧ (modFn k f d).dram = d.dram ∧
    (modFn k f d).nvm = d.nvm ∧ (modFn k f d).boot = d.boot ∧ (modFn k f d).nvmc = d.nvmc ∧ (modFn k f d).xspi = d.xspi ∧
    (∀ q o, rg (modFn k f d) q o = rg d q o) :=
  ⟨rfl, rfl, rfl, rfl, rfl, rfl, rfl, rfl, rfl, rfl, rfl, rfl, rfl, rfl, rfl, rfl, rfl, rfl, rfl, rfl, rfl, rfl, rfl,
  rfl, rfl, rfl, rfl, rfl, rfl, rfl, rfl, rfl, rfl, rfl, rfl, rfl, rfl, rfl, rfl, rfl, rfl, rfl, rfl, rfl,
  fun _ _ => rfl⟩

@[simp] theorem modPad_keeps (k : Nat) (f : PadS → PadS) (d : Dev) :
    (modPad k f d).regs = d.regs ∧ (modPad k f d).us = d.us ∧ (modPad k f d).free = d.free ∧ (modPad k f d).resp = d.resp ∧
    (modPad k f d).out = d.out ∧ (modPad k f d).firing = d.firing ∧ (modPad k f d).gp = d.gp ∧ (modPad k f d).upset = d.upset ∧
    (modPad k f d).iso = d.iso ∧ (modPad k f d).classDefer = d.classDefer ∧ (modPad k f d).blk = d.blk ∧
    (modPad k f d).sdg = d.sdg ∧ (modPad k f d).cairn = d.cairn ∧ (modPad k f d).tet = d.tet ∧ (modPad k f d).can = d.can ∧
    (modPad k f d).wld = d.wld ∧ (modPad k f d).pwr = d.pwr ∧ (modPad k f d).pipes = d.pipes ∧ (modPad k f d).luts = d.luts ∧
    (modPad k f d).lutHalf = d.lutHalf ∧ (modPad k f d).wbs = d.wbs ∧ (modPad k f d).heads = d.heads ∧
    (modPad k f d).ports = d.ports ∧ (modPad k f d).profiles = d.profiles ∧ (modPad k f d).cam = d.cam ∧
    (modPad k f d).wins = d.wins ∧ (modPad k f d).ctxs = d.ctxs ∧ (modPad k f d).gpu = d.gpu ∧ (modPad k f d).tch = d.tch ∧
    (modPad k f d).keys = d.keys ∧ (modPad k f d).hap = d.hap ∧ (modPad k f d).aud = d.aud ∧ (modPad k f d).afe = d.afe ∧
    (modPad k f d).pst = d.pst ∧ (modPad k f d).drc = d.drc ∧ (modPad k f d).tly = d.tly ∧ (modPad k f d).data = d.data ∧
    (modPad k f d).poisoned = d.poisoned ∧ (modPad k f d).pasture = d.pasture ∧ (modPad k f d).dram = d.dram ∧
    (modPad k f d).nvm = d.nvm ∧ (modPad k f d).boot = d.boot ∧ (modPad k f d).nvmc = d.nvmc ∧ (modPad k f d).xspi = d.xspi ∧
    (∀ q o, rg (modPad k f d) q o = rg d q o) :=
  ⟨rfl, rfl, rfl, rfl, rfl, rfl, rfl, rfl, rfl, rfl, rfl, rfl, rfl, rfl, rfl, rfl, rfl, rfl, rfl, rfl, rfl, rfl, rfl,
  rfl, rfl, rfl, rfl, rfl, rfl, rfl, rfl, rfl, rfl, rfl, rfl, rfl, rfl, rfl, rfl, rfl, rfl, rfl, rfl, rfl,
  fun _ _ => rfl⟩

@[simp] theorem modCan_keeps (k : Nat) (f : CanS → CanS) (d : Dev) :
    (modCan k f d).regs = d.regs ∧ (modCan k f d).us = d.us ∧ (modCan k f d).free = d.free ∧ (modCan k f d).resp = d.resp ∧
    (modCan k f d).out = d.out ∧ (modCan k f d).firing = d.firing ∧ (modCan k f d).gp = d.gp ∧ (modCan k f d).upset = d.upset ∧
    (modCan k f d).iso = d.iso ∧ (modCan k f d).classDefer = d.classDefer ∧ (modCan k f d).blk = d.blk ∧
    (modCan k f d).sdg = d.sdg ∧ (modCan k f d).cairn = d.cairn ∧ (modCan k f d).tet = d.tet ∧ (modCan k f d).wld = d.wld ∧
    (modCan k f d).pwr = d.pwr ∧ (modCan k f d).pad = d.pad ∧ (modCan k f d).pipes = d.pipes ∧ (modCan k f d).luts = d.luts ∧
    (modCan k f d).lutHalf = d.lutHalf ∧ (modCan k f d).wbs = d.wbs ∧ (modCan k f d).heads = d.heads ∧
    (modCan k f d).ports = d.ports ∧ (modCan k f d).profiles = d.profiles ∧ (modCan k f d).cam = d.cam ∧
    (modCan k f d).wins = d.wins ∧ (modCan k f d).ctxs = d.ctxs ∧ (modCan k f d).gpu = d.gpu ∧ (modCan k f d).tch = d.tch ∧
    (modCan k f d).keys = d.keys ∧ (modCan k f d).hap = d.hap ∧ (modCan k f d).aud = d.aud ∧ (modCan k f d).afe = d.afe ∧
    (modCan k f d).pst = d.pst ∧ (modCan k f d).drc = d.drc ∧ (modCan k f d).tly = d.tly ∧ (modCan k f d).data = d.data ∧
    (modCan k f d).poisoned = d.poisoned ∧ (modCan k f d).pasture = d.pasture ∧ (modCan k f d).dram = d.dram ∧
    (modCan k f d).nvm = d.nvm ∧ (modCan k f d).boot = d.boot ∧ (modCan k f d).nvmc = d.nvmc ∧ (modCan k f d).xspi = d.xspi ∧
    (∀ q o, rg (modCan k f d) q o = rg d q o) :=
  ⟨rfl, rfl, rfl, rfl, rfl, rfl, rfl, rfl, rfl, rfl, rfl, rfl, rfl, rfl, rfl, rfl, rfl, rfl, rfl, rfl, rfl, rfl, rfl,
  rfl, rfl, rfl, rfl, rfl, rfl, rfl, rfl, rfl, rfl, rfl, rfl, rfl, rfl, rfl, rfl, rfl, rfl, rfl, rfl, rfl,
  fun _ _ => rfl⟩

@[simp] theorem modCore_keeps (k : Nat) (f : CoreS → CoreS) (d : Dev) :
    (modCore k f d).regs = d.regs ∧ (modCore k f d).us = d.us ∧ (modCore k f d).free = d.free ∧ (modCore k f d).resp = d.resp ∧
    (modCore k f d).out = d.out ∧ (modCore k f d).firing = d.firing ∧ (modCore k f d).gp = d.gp ∧
    (modCore k f d).upset = d.upset ∧ (modCore k f d).iso = d.iso ∧ (modCore k f d).classDefer = d.classDefer ∧
    (modCore k f d).blk = d.blk ∧ (modCore k f d).sdg = d.sdg ∧ (modCore k f d).cairn = d.cairn ∧ (modCore k f d).tet = d.tet ∧
    (modCore k f d).can = d.can ∧ (modCore k f d).pwr = d.pwr ∧ (modCore k f d).pad = d.pad ∧ (modCore k f d).pipes = d.pipes ∧
    (modCore k f d).luts = d.luts ∧ (modCore k f d).lutHalf = d.lutHalf ∧ (modCore k f d).wbs = d.wbs ∧
    (modCore k f d).heads = d.heads ∧ (modCore k f d).ports = d.ports ∧ (modCore k f d).profiles = d.profiles ∧
    (modCore k f d).cam = d.cam ∧ (modCore k f d).wins = d.wins ∧ (modCore k f d).ctxs = d.ctxs ∧ (modCore k f d).gpu = d.gpu ∧
    (modCore k f d).tch = d.tch ∧ (modCore k f d).keys = d.keys ∧ (modCore k f d).hap = d.hap ∧ (modCore k f d).aud = d.aud ∧
    (modCore k f d).afe = d.afe ∧ (modCore k f d).pst = d.pst ∧ (modCore k f d).drc = d.drc ∧ (modCore k f d).tly = d.tly ∧
    (modCore k f d).data = d.data ∧ (modCore k f d).poisoned = d.poisoned ∧ (modCore k f d).pasture = d.pasture ∧
    (modCore k f d).dram = d.dram ∧ (modCore k f d).nvm = d.nvm ∧ (modCore k f d).boot = d.boot ∧
    (modCore k f d).nvmc = d.nvmc ∧ (modCore k f d).xspi = d.xspi ∧ (∀ q o, rg (modCore k f d) q o = rg d q o) :=
  ⟨rfl, rfl, rfl, rfl, rfl, rfl, rfl, rfl, rfl, rfl, rfl, rfl, rfl, rfl, rfl, rfl, rfl, rfl, rfl, rfl, rfl, rfl, rfl,
  rfl, rfl, rfl, rfl, rfl, rfl, rfl, rfl, rfl, rfl, rfl, rfl, rfl, rfl, rfl, rfl, rfl, rfl, rfl, rfl, rfl,
  fun _ _ => rfl⟩

@[simp] theorem modRail_keeps (k : Nat) (f : RailS → RailS) (d : Dev) :
    (modRail k f d).regs = d.regs ∧ (modRail k f d).us = d.us ∧ (modRail k f d).free = d.free ∧ (modRail k f d).resp = d.resp ∧
    (modRail k f d).out = d.out ∧ (modRail k f d).firing = d.firing ∧ (modRail k f d).gp = d.gp ∧
    (modRail k f d).upset = d.upset ∧ (modRail k f d).iso = d.iso ∧ (modRail k f d).classDefer = d.classDefer ∧
    (modRail k f d).blk = d.blk ∧ (modRail k f d).sdg = d.sdg ∧ (modRail k f d).cairn = d.cairn ∧ (modRail k f d).tet = d.tet ∧
    (modRail k f d).can = d.can ∧ (modRail k f d).wld = d.wld ∧ (modRail k f d).pad = d.pad ∧ (modRail k f d).pipes = d.pipes ∧
    (modRail k f d).luts = d.luts ∧ (modRail k f d).lutHalf = d.lutHalf ∧ (modRail k f d).wbs = d.wbs ∧
    (modRail k f d).heads = d.heads ∧ (modRail k f d).ports = d.ports ∧ (modRail k f d).profiles = d.profiles ∧
    (modRail k f d).cam = d.cam ∧ (modRail k f d).wins = d.wins ∧ (modRail k f d).ctxs = d.ctxs ∧ (modRail k f d).gpu = d.gpu ∧
    (modRail k f d).tch = d.tch ∧ (modRail k f d).keys = d.keys ∧ (modRail k f d).hap = d.hap ∧ (modRail k f d).aud = d.aud ∧
    (modRail k f d).afe = d.afe ∧ (modRail k f d).pst = d.pst ∧ (modRail k f d).drc = d.drc ∧ (modRail k f d).tly = d.tly ∧
    (modRail k f d).data = d.data ∧ (modRail k f d).poisoned = d.poisoned ∧ (modRail k f d).pasture = d.pasture ∧
    (modRail k f d).dram = d.dram ∧ (modRail k f d).nvm = d.nvm ∧ (modRail k f d).boot = d.boot ∧
    (modRail k f d).nvmc = d.nvmc ∧ (modRail k f d).xspi = d.xspi ∧ (∀ q o, rg (modRail k f d) q o = rg d q o) :=
  ⟨rfl, rfl, rfl, rfl, rfl, rfl, rfl, rfl, rfl, rfl, rfl, rfl, rfl, rfl, rfl, rfl, rfl, rfl, rfl, rfl, rfl, rfl, rfl,
  rfl, rfl, rfl, rfl, rfl, rfl, rfl, rfl, rfl, rfl, rfl, rfl, rfl, rfl, rfl, rfl, rfl, rfl, rfl, rfl, rfl,
  fun _ _ => rfl⟩

@[simp] theorem modPipe_keeps (k : Nat) (f : PipeS → PipeS) (d : Dev) :
    (modPipe k f d).regs = d.regs ∧ (modPipe k f d).us = d.us ∧ (modPipe k f d).free = d.free ∧ (modPipe k f d).resp = d.resp ∧
    (modPipe k f d).out = d.out ∧ (modPipe k f d).firing = d.firing ∧ (modPipe k f d).gp = d.gp ∧
    (modPipe k f d).upset = d.upset ∧ (modPipe k f d).iso = d.iso ∧ (modPipe k f d).classDefer = d.classDefer ∧
    (modPipe k f d).blk = d.blk ∧ (modPipe k f d).sdg = d.sdg ∧ (modPipe k f d).cairn = d.cairn ∧ (modPipe k f d).tet = d.tet ∧
    (modPipe k f d).can = d.can ∧ (modPipe k f d).wld = d.wld ∧ (modPipe k f d).pwr = d.pwr ∧ (modPipe k f d).pad = d.pad ∧
    (modPipe k f d).luts = d.luts ∧ (modPipe k f d).lutHalf = d.lutHalf ∧ (modPipe k f d).wbs = d.wbs ∧
    (modPipe k f d).heads = d.heads ∧ (modPipe k f d).ports = d.ports ∧ (modPipe k f d).profiles = d.profiles ∧
    (modPipe k f d).cam = d.cam ∧ (modPipe k f d).wins = d.wins ∧ (modPipe k f d).ctxs = d.ctxs ∧ (modPipe k f d).gpu = d.gpu ∧
    (modPipe k f d).tch = d.tch ∧ (modPipe k f d).keys = d.keys ∧ (modPipe k f d).hap = d.hap ∧ (modPipe k f d).aud = d.aud ∧
    (modPipe k f d).afe = d.afe ∧ (modPipe k f d).pst = d.pst ∧ (modPipe k f d).drc = d.drc ∧ (modPipe k f d).tly = d.tly ∧
    (modPipe k f d).data = d.data ∧ (modPipe k f d).poisoned = d.poisoned ∧ (modPipe k f d).pasture = d.pasture ∧
    (modPipe k f d).dram = d.dram ∧ (modPipe k f d).nvm = d.nvm ∧ (modPipe k f d).boot = d.boot ∧
    (modPipe k f d).nvmc = d.nvmc ∧ (modPipe k f d).xspi = d.xspi ∧ (∀ q o, rg (modPipe k f d) q o = rg d q o) :=
  ⟨rfl, rfl, rfl, rfl, rfl, rfl, rfl, rfl, rfl, rfl, rfl, rfl, rfl, rfl, rfl, rfl, rfl, rfl, rfl, rfl, rfl, rfl, rfl,
  rfl, rfl, rfl, rfl, rfl, rfl, rfl, rfl, rfl, rfl, rfl, rfl, rfl, rfl, rfl, rfl, rfl, rfl, rfl, rfl, rfl,
  fun _ _ => rfl⟩

@[simp] theorem modHead_keeps (k : Nat) (f : HeadS → HeadS) (d : Dev) :
    (modHead k f d).regs = d.regs ∧ (modHead k f d).us = d.us ∧ (modHead k f d).free = d.free ∧ (modHead k f d).resp = d.resp ∧
    (modHead k f d).out = d.out ∧ (modHead k f d).firing = d.firing ∧ (modHead k f d).gp = d.gp ∧
    (modHead k f d).upset = d.upset ∧ (modHead k f d).iso = d.iso ∧ (modHead k f d).classDefer = d.classDefer ∧
    (modHead k f d).blk = d.blk ∧ (modHead k f d).sdg = d.sdg ∧ (modHead k f d).cairn = d.cairn ∧ (modHead k f d).tet = d.tet ∧
    (modHead k f d).can = d.can ∧ (modHead k f d).wld = d.wld ∧ (modHead k f d).pwr = d.pwr ∧ (modHead k f d).pad = d.pad ∧
    (modHead k f d).pipes = d.pipes ∧ (modHead k f d).luts = d.luts ∧ (modHead k f d).lutHalf = d.lutHalf ∧
    (modHead k f d).wbs = d.wbs ∧ (modHead k f d).ports = d.ports ∧ (modHead k f d).profiles = d.profiles ∧
    (modHead k f d).cam = d.cam ∧ (modHead k f d).wins = d.wins ∧ (modHead k f d).ctxs = d.ctxs ∧ (modHead k f d).gpu = d.gpu ∧
    (modHead k f d).tch = d.tch ∧ (modHead k f d).keys = d.keys ∧ (modHead k f d).hap = d.hap ∧ (modHead k f d).aud = d.aud ∧
    (modHead k f d).afe = d.afe ∧ (modHead k f d).pst = d.pst ∧ (modHead k f d).drc = d.drc ∧ (modHead k f d).tly = d.tly ∧
    (modHead k f d).data = d.data ∧ (modHead k f d).poisoned = d.poisoned ∧ (modHead k f d).pasture = d.pasture ∧
    (modHead k f d).dram = d.dram ∧ (modHead k f d).nvm = d.nvm ∧ (modHead k f d).boot = d.boot ∧
    (modHead k f d).nvmc = d.nvmc ∧ (modHead k f d).xspi = d.xspi ∧ (∀ q o, rg (modHead k f d) q o = rg d q o) :=
  ⟨rfl, rfl, rfl, rfl, rfl, rfl, rfl, rfl, rfl, rfl, rfl, rfl, rfl, rfl, rfl, rfl, rfl, rfl, rfl, rfl, rfl, rfl, rfl,
  rfl, rfl, rfl, rfl, rfl, rfl, rfl, rfl, rfl, rfl, rfl, rfl, rfl, rfl, rfl, rfl, rfl, rfl, rfl, rfl, rfl,
  fun _ _ => rfl⟩

@[simp] theorem modWb_keeps (k : Nat) (f : WbS → WbS) (d : Dev) :
    (modWb k f d).regs = d.regs ∧ (modWb k f d).us = d.us ∧ (modWb k f d).free = d.free ∧ (modWb k f d).resp = d.resp ∧
    (modWb k f d).out = d.out ∧ (modWb k f d).firing = d.firing ∧ (modWb k f d).gp = d.gp ∧ (modWb k f d).upset = d.upset ∧
    (modWb k f d).iso = d.iso ∧ (modWb k f d).classDefer = d.classDefer ∧ (modWb k f d).blk = d.blk ∧
    (modWb k f d).sdg = d.sdg ∧ (modWb k f d).cairn = d.cairn ∧ (modWb k f d).tet = d.tet ∧ (modWb k f d).can = d.can ∧
    (modWb k f d).wld = d.wld ∧ (modWb k f d).pwr = d.pwr ∧ (modWb k f d).pad = d.pad ∧ (modWb k f d).pipes = d.pipes ∧
    (modWb k f d).luts = d.luts ∧ (modWb k f d).lutHalf = d.lutHalf ∧ (modWb k f d).heads = d.heads ∧
    (modWb k f d).ports = d.ports ∧ (modWb k f d).profiles = d.profiles ∧ (modWb k f d).cam = d.cam ∧
    (modWb k f d).wins = d.wins ∧ (modWb k f d).ctxs = d.ctxs ∧ (modWb k f d).gpu = d.gpu ∧ (modWb k f d).tch = d.tch ∧
    (modWb k f d).keys = d.keys ∧ (modWb k f d).hap = d.hap ∧ (modWb k f d).aud = d.aud ∧ (modWb k f d).afe = d.afe ∧
    (modWb k f d).pst = d.pst ∧ (modWb k f d).drc = d.drc ∧ (modWb k f d).tly = d.tly ∧ (modWb k f d).data = d.data ∧
    (modWb k f d).poisoned = d.poisoned ∧ (modWb k f d).pasture = d.pasture ∧ (modWb k f d).dram = d.dram ∧
    (modWb k f d).nvm = d.nvm ∧ (modWb k f d).boot = d.boot ∧ (modWb k f d).nvmc = d.nvmc ∧ (modWb k f d).xspi = d.xspi ∧
    (∀ q o, rg (modWb k f d) q o = rg d q o) :=
  ⟨rfl, rfl, rfl, rfl, rfl, rfl, rfl, rfl, rfl, rfl, rfl, rfl, rfl, rfl, rfl, rfl, rfl, rfl, rfl, rfl, rfl, rfl, rfl,
  rfl, rfl, rfl, rfl, rfl, rfl, rfl, rfl, rfl, rfl, rfl, rfl, rfl, rfl, rfl, rfl, rfl, rfl, rfl, rfl, rfl,
  fun _ _ => rfl⟩

@[simp] theorem modPort_keeps (k : Nat) (f : PortS → PortS) (d : Dev) :
    (modPort k f d).regs = d.regs ∧ (modPort k f d).us = d.us ∧ (modPort k f d).free = d.free ∧ (modPort k f d).resp = d.resp ∧
    (modPort k f d).out = d.out ∧ (modPort k f d).firing = d.firing ∧ (modPort k f d).gp = d.gp ∧
    (modPort k f d).upset = d.upset ∧ (modPort k f d).iso = d.iso ∧ (modPort k f d).classDefer = d.classDefer ∧
    (modPort k f d).blk = d.blk ∧ (modPort k f d).sdg = d.sdg ∧ (modPort k f d).cairn = d.cairn ∧ (modPort k f d).tet = d.tet ∧
    (modPort k f d).can = d.can ∧ (modPort k f d).wld = d.wld ∧ (modPort k f d).pwr = d.pwr ∧ (modPort k f d).pad = d.pad ∧
    (modPort k f d).pipes = d.pipes ∧ (modPort k f d).luts = d.luts ∧ (modPort k f d).lutHalf = d.lutHalf ∧
    (modPort k f d).wbs = d.wbs ∧ (modPort k f d).heads = d.heads ∧ (modPort k f d).profiles = d.profiles ∧
    (modPort k f d).cam = d.cam ∧ (modPort k f d).wins = d.wins ∧ (modPort k f d).ctxs = d.ctxs ∧ (modPort k f d).gpu = d.gpu ∧
    (modPort k f d).tch = d.tch ∧ (modPort k f d).keys = d.keys ∧ (modPort k f d).hap = d.hap ∧ (modPort k f d).aud = d.aud ∧
    (modPort k f d).afe = d.afe ∧ (modPort k f d).pst = d.pst ∧ (modPort k f d).drc = d.drc ∧ (modPort k f d).tly = d.tly ∧
    (modPort k f d).data = d.data ∧ (modPort k f d).poisoned = d.poisoned ∧ (modPort k f d).pasture = d.pasture ∧
    (modPort k f d).dram = d.dram ∧ (modPort k f d).nvm = d.nvm ∧ (modPort k f d).boot = d.boot ∧
    (modPort k f d).nvmc = d.nvmc ∧ (modPort k f d).xspi = d.xspi ∧ (∀ q o, rg (modPort k f d) q o = rg d q o) :=
  ⟨rfl, rfl, rfl, rfl, rfl, rfl, rfl, rfl, rfl, rfl, rfl, rfl, rfl, rfl, rfl, rfl, rfl, rfl, rfl, rfl, rfl, rfl, rfl,
  rfl, rfl, rfl, rfl, rfl, rfl, rfl, rfl, rfl, rfl, rfl, rfl, rfl, rfl, rfl, rfl, rfl, rfl, rfl, rfl, rfl,
  fun _ _ => rfl⟩

@[simp] theorem modWin_keeps (k : Nat) (f : WinS → WinS) (d : Dev) :
    (modWin k f d).regs = d.regs ∧ (modWin k f d).us = d.us ∧ (modWin k f d).free = d.free ∧ (modWin k f d).resp = d.resp ∧
    (modWin k f d).out = d.out ∧ (modWin k f d).firing = d.firing ∧ (modWin k f d).gp = d.gp ∧ (modWin k f d).upset = d.upset ∧
    (modWin k f d).iso = d.iso ∧ (modWin k f d).classDefer = d.classDefer ∧ (modWin k f d).blk = d.blk ∧
    (modWin k f d).sdg = d.sdg ∧ (modWin k f d).cairn = d.cairn ∧ (modWin k f d).tet = d.tet ∧ (modWin k f d).can = d.can ∧
    (modWin k f d).wld = d.wld ∧ (modWin k f d).pwr = d.pwr ∧ (modWin k f d).pad = d.pad ∧ (modWin k f d).pipes = d.pipes ∧
    (modWin k f d).luts = d.luts ∧ (modWin k f d).lutHalf = d.lutHalf ∧ (modWin k f d).wbs = d.wbs ∧
    (modWin k f d).heads = d.heads ∧ (modWin k f d).ports = d.ports ∧ (modWin k f d).profiles = d.profiles ∧
    (modWin k f d).cam = d.cam ∧ (modWin k f d).ctxs = d.ctxs ∧ (modWin k f d).gpu = d.gpu ∧ (modWin k f d).tch = d.tch ∧
    (modWin k f d).keys = d.keys ∧ (modWin k f d).hap = d.hap ∧ (modWin k f d).aud = d.aud ∧ (modWin k f d).afe = d.afe ∧
    (modWin k f d).pst = d.pst ∧ (modWin k f d).drc = d.drc ∧ (modWin k f d).tly = d.tly ∧ (modWin k f d).data = d.data ∧
    (modWin k f d).poisoned = d.poisoned ∧ (modWin k f d).pasture = d.pasture ∧ (modWin k f d).dram = d.dram ∧
    (modWin k f d).nvm = d.nvm ∧ (modWin k f d).boot = d.boot ∧ (modWin k f d).nvmc = d.nvmc ∧ (modWin k f d).xspi = d.xspi ∧
    (∀ q o, rg (modWin k f d) q o = rg d q o) :=
  ⟨rfl, rfl, rfl, rfl, rfl, rfl, rfl, rfl, rfl, rfl, rfl, rfl, rfl, rfl, rfl, rfl, rfl, rfl, rfl, rfl, rfl, rfl, rfl,
  rfl, rfl, rfl, rfl, rfl, rfl, rfl, rfl, rfl, rfl, rfl, rfl, rfl, rfl, rfl, rfl, rfl, rfl, rfl, rfl, rfl,
  fun _ _ => rfl⟩

@[simp] theorem modCtx_keeps (k : Nat) (f : CtxS → CtxS) (d : Dev) :
    (modCtx k f d).regs = d.regs ∧ (modCtx k f d).us = d.us ∧ (modCtx k f d).free = d.free ∧ (modCtx k f d).resp = d.resp ∧
    (modCtx k f d).out = d.out ∧ (modCtx k f d).firing = d.firing ∧ (modCtx k f d).gp = d.gp ∧ (modCtx k f d).upset = d.upset ∧
    (modCtx k f d).iso = d.iso ∧ (modCtx k f d).classDefer = d.classDefer ∧ (modCtx k f d).blk = d.blk ∧
    (modCtx k f d).sdg = d.sdg ∧ (modCtx k f d).cairn = d.cairn ∧ (modCtx k f d).tet = d.tet ∧ (modCtx k f d).can = d.can ∧
    (modCtx k f d).wld = d.wld ∧ (modCtx k f d).pwr = d.pwr ∧ (modCtx k f d).pad = d.pad ∧ (modCtx k f d).pipes = d.pipes ∧
    (modCtx k f d).luts = d.luts ∧ (modCtx k f d).lutHalf = d.lutHalf ∧ (modCtx k f d).wbs = d.wbs ∧
    (modCtx k f d).heads = d.heads ∧ (modCtx k f d).ports = d.ports ∧ (modCtx k f d).profiles = d.profiles ∧
    (modCtx k f d).cam = d.cam ∧ (modCtx k f d).wins = d.wins ∧ (modCtx k f d).gpu = d.gpu ∧ (modCtx k f d).tch = d.tch ∧
    (modCtx k f d).keys = d.keys ∧ (modCtx k f d).hap = d.hap ∧ (modCtx k f d).aud = d.aud ∧ (modCtx k f d).afe = d.afe ∧
    (modCtx k f d).pst = d.pst ∧ (modCtx k f d).drc = d.drc ∧ (modCtx k f d).tly = d.tly ∧ (modCtx k f d).data = d.data ∧
    (modCtx k f d).poisoned = d.poisoned ∧ (modCtx k f d).pasture = d.pasture ∧ (modCtx k f d).dram = d.dram ∧
    (modCtx k f d).nvm = d.nvm ∧ (modCtx k f d).boot = d.boot ∧ (modCtx k f d).nvmc = d.nvmc ∧ (modCtx k f d).xspi = d.xspi ∧
    (∀ q o, rg (modCtx k f d) q o = rg d q o) :=
  ⟨rfl, rfl, rfl, rfl, rfl, rfl, rfl, rfl, rfl, rfl, rfl, rfl, rfl, rfl, rfl, rfl, rfl, rfl, rfl, rfl, rfl, rfl, rfl,
  rfl, rfl, rfl, rfl, rfl, rfl, rfl, rfl, rfl, rfl, rfl, rfl, rfl, rfl, rfl, rfl, rfl, rfl, rfl, rfl, rfl,
  fun _ _ => rfl⟩

@[simp] theorem modTp_keeps (k : Nat) (f : TpS → TpS) (d : Dev) :
    (modTp k f d).regs = d.regs ∧ (modTp k f d).us = d.us ∧ (modTp k f d).free = d.free ∧ (modTp k f d).resp = d.resp ∧
    (modTp k f d).out = d.out ∧ (modTp k f d).firing = d.firing ∧ (modTp k f d).gp = d.gp ∧ (modTp k f d).upset = d.upset ∧
    (modTp k f d).iso = d.iso ∧ (modTp k f d).classDefer = d.classDefer ∧ (modTp k f d).blk = d.blk ∧
    (modTp k f d).sdg = d.sdg ∧ (modTp k f d).cairn = d.cairn ∧ (modTp k f d).tet = d.tet ∧ (modTp k f d).can = d.can ∧
    (modTp k f d).wld = d.wld ∧ (modTp k f d).pwr = d.pwr ∧ (modTp k f d).pad = d.pad ∧ (modTp k f d).pipes = d.pipes ∧
    (modTp k f d).luts = d.luts ∧ (modTp k f d).lutHalf = d.lutHalf ∧ (modTp k f d).wbs = d.wbs ∧
    (modTp k f d).heads = d.heads ∧ (modTp k f d).ports = d.ports ∧ (modTp k f d).profiles = d.profiles ∧
    (modTp k f d).cam = d.cam ∧ (modTp k f d).wins = d.wins ∧ (modTp k f d).ctxs = d.ctxs ∧ (modTp k f d).gpu = d.gpu ∧
    (modTp k f d).keys = d.keys ∧ (modTp k f d).hap = d.hap ∧ (modTp k f d).aud = d.aud ∧ (modTp k f d).afe = d.afe ∧
    (modTp k f d).pst = d.pst ∧ (modTp k f d).drc = d.drc ∧ (modTp k f d).tly = d.tly ∧ (modTp k f d).data = d.data ∧
    (modTp k f d).poisoned = d.poisoned ∧ (modTp k f d).pasture = d.pasture ∧ (modTp k f d).dram = d.dram ∧
    (modTp k f d).nvm = d.nvm ∧ (modTp k f d).boot = d.boot ∧ (modTp k f d).nvmc = d.nvmc ∧ (modTp k f d).xspi = d.xspi ∧
    (∀ q o, rg (modTp k f d) q o = rg d q o) :=
  ⟨rfl, rfl, rfl, rfl, rfl, rfl, rfl, rfl, rfl, rfl, rfl, rfl, rfl, rfl, rfl, rfl, rfl, rfl, rfl, rfl, rfl, rfl, rfl,
  rfl, rfl, rfl, rfl, rfl, rfl, rfl, rfl, rfl, rfl, rfl, rfl, rfl, rfl, rfl, rfl, rfl, rfl, rfl, rfl, rfl,
  fun _ _ => rfl⟩

@[simp] theorem modRing_keeps (k : Nat) (f : RingS → RingS) (d : Dev) :
    (modRing k f d).regs = d.regs ∧ (modRing k f d).us = d.us ∧ (modRing k f d).free = d.free ∧ (modRing k f d).resp = d.resp ∧
    (modRing k f d).out = d.out ∧ (modRing k f d).firing = d.firing ∧ (modRing k f d).gp = d.gp ∧
    (modRing k f d).upset = d.upset ∧ (modRing k f d).iso = d.iso ∧ (modRing k f d).classDefer = d.classDefer ∧
    (modRing k f d).blk = d.blk ∧ (modRing k f d).sdg = d.sdg ∧ (modRing k f d).cairn = d.cairn ∧ (modRing k f d).tet = d.tet ∧
    (modRing k f d).can = d.can ∧ (modRing k f d).wld = d.wld ∧ (modRing k f d).pwr = d.pwr ∧ (modRing k f d).pad = d.pad ∧
    (modRing k f d).pipes = d.pipes ∧ (modRing k f d).luts = d.luts ∧ (modRing k f d).lutHalf = d.lutHalf ∧
    (modRing k f d).wbs = d.wbs ∧ (modRing k f d).heads = d.heads ∧ (modRing k f d).ports = d.ports ∧
    (modRing k f d).profiles = d.profiles ∧ (modRing k f d).cam = d.cam ∧ (modRing k f d).wins = d.wins ∧
    (modRing k f d).ctxs = d.ctxs ∧ (modRing k f d).gpu = d.gpu ∧ (modRing k f d).keys = d.keys ∧ (modRing k f d).hap = d.hap ∧
    (modRing k f d).aud = d.aud ∧ (modRing k f d).afe = d.afe ∧ (modRing k f d).pst = d.pst ∧ (modRing k f d).drc = d.drc ∧
    (modRing k f d).tly = d.tly ∧ (modRing k f d).data = d.data ∧ (modRing k f d).poisoned = d.poisoned ∧
    (modRing k f d).pasture = d.pasture ∧ (modRing k f d).dram = d.dram ∧ (modRing k f d).nvm = d.nvm ∧
    (modRing k f d).boot = d.boot ∧ (modRing k f d).nvmc = d.nvmc ∧ (modRing k f d).xspi = d.xspi ∧
    (∀ q o, rg (modRing k f d) q o = rg d q o) :=
  ⟨rfl, rfl, rfl, rfl, rfl, rfl, rfl, rfl, rfl, rfl, rfl, rfl, rfl, rfl, rfl, rfl, rfl, rfl, rfl, rfl, rfl, rfl, rfl,
  rfl, rfl, rfl, rfl, rfl, rfl, rfl, rfl, rfl, rfl, rfl, rfl, rfl, rfl, rfl, rfl, rfl, rfl, rfl, rfl, rfl,
  fun _ _ => rfl⟩

@[simp] theorem modKey_keeps (k : Nat) (f : KeyS → KeyS) (d : Dev) :
    (modKey k f d).regs = d.regs ∧ (modKey k f d).us = d.us ∧ (modKey k f d).free = d.free ∧ (modKey k f d).resp = d.resp ∧
    (modKey k f d).out = d.out ∧ (modKey k f d).firing = d.firing ∧ (modKey k f d).gp = d.gp ∧ (modKey k f d).upset = d.upset ∧
    (modKey k f d).iso = d.iso ∧ (modKey k f d).classDefer = d.classDefer ∧ (modKey k f d).blk = d.blk ∧
    (modKey k f d).sdg = d.sdg ∧ (modKey k f d).cairn = d.cairn ∧ (modKey k f d).tet = d.tet ∧ (modKey k f d).can = d.can ∧
    (modKey k f d).wld = d.wld ∧ (modKey k f d).pwr = d.pwr ∧ (modKey k f d).pad = d.pad ∧ (modKey k f d).pipes = d.pipes ∧
    (modKey k f d).luts = d.luts ∧ (modKey k f d).lutHalf = d.lutHalf ∧ (modKey k f d).wbs = d.wbs ∧
    (modKey k f d).heads = d.heads ∧ (modKey k f d).ports = d.ports ∧ (modKey k f d).profiles = d.profiles ∧
    (modKey k f d).cam = d.cam ∧ (modKey k f d).wins = d.wins ∧ (modKey k f d).ctxs = d.ctxs ∧ (modKey k f d).gpu = d.gpu ∧
    (modKey k f d).tch = d.tch ∧ (modKey k f d).hap = d.hap ∧ (modKey k f d).aud = d.aud ∧ (modKey k f d).afe = d.afe ∧
    (modKey k f d).pst = d.pst ∧ (modKey k f d).drc = d.drc ∧ (modKey k f d).tly = d.tly ∧ (modKey k f d).data = d.data ∧
    (modKey k f d).poisoned = d.poisoned ∧ (modKey k f d).pasture = d.pasture ∧ (modKey k f d).dram = d.dram ∧
    (modKey k f d).nvm = d.nvm ∧ (modKey k f d).boot = d.boot ∧ (modKey k f d).nvmc = d.nvmc ∧ (modKey k f d).xspi = d.xspi ∧
    (∀ q o, rg (modKey k f d) q o = rg d q o) :=
  ⟨rfl, rfl, rfl, rfl, rfl, rfl, rfl, rfl, rfl, rfl, rfl, rfl, rfl, rfl, rfl, rfl, rfl, rfl, rfl, rfl, rfl, rfl, rfl,
  rfl, rfl, rfl, rfl, rfl, rfl, rfl, rfl, rfl, rfl, rfl, rfl, rfl, rfl, rfl, rfl, rfl, rfl, rfl, rfl, rfl,
  fun _ _ => rfl⟩

@[simp] theorem modHapCh_keeps (k : Nat) (f : HapChS → HapChS) (d : Dev) :
    (modHapCh k f d).regs = d.regs ∧ (modHapCh k f d).us = d.us ∧ (modHapCh k f d).free = d.free ∧
    (modHapCh k f d).resp = d.resp ∧ (modHapCh k f d).out = d.out ∧ (modHapCh k f d).firing = d.firing ∧
    (modHapCh k f d).gp = d.gp ∧ (modHapCh k f d).upset = d.upset ∧ (modHapCh k f d).iso = d.iso ∧
    (modHapCh k f d).classDefer = d.classDefer ∧ (modHapCh k f d).blk = d.blk ∧ (modHapCh k f d).sdg = d.sdg ∧
    (modHapCh k f d).cairn = d.cairn ∧ (modHapCh k f d).tet = d.tet ∧ (modHapCh k f d).can = d.can ∧
    (modHapCh k f d).wld = d.wld ∧ (modHapCh k f d).pwr = d.pwr ∧ (modHapCh k f d).pad = d.pad ∧
    (modHapCh k f d).pipes = d.pipes ∧ (modHapCh k f d).luts = d.luts ∧ (modHapCh k f d).lutHalf = d.lutHalf ∧
    (modHapCh k f d).wbs = d.wbs ∧ (modHapCh k f d).heads = d.heads ∧ (modHapCh k f d).ports = d.ports ∧
    (modHapCh k f d).profiles = d.profiles ∧ (modHapCh k f d).cam = d.cam ∧ (modHapCh k f d).wins = d.wins ∧
    (modHapCh k f d).ctxs = d.ctxs ∧ (modHapCh k f d).gpu = d.gpu ∧ (modHapCh k f d).tch = d.tch ∧
    (modHapCh k f d).keys = d.keys ∧ (modHapCh k f d).aud = d.aud ∧ (modHapCh k f d).afe = d.afe ∧
    (modHapCh k f d).pst = d.pst ∧ (modHapCh k f d).drc = d.drc ∧ (modHapCh k f d).tly = d.tly ∧
    (modHapCh k f d).data = d.data ∧ (modHapCh k f d).poisoned = d.poisoned ∧ (modHapCh k f d).pasture = d.pasture ∧
    (modHapCh k f d).dram = d.dram ∧ (modHapCh k f d).nvm = d.nvm ∧ (modHapCh k f d).boot = d.boot ∧
    (modHapCh k f d).nvmc = d.nvmc ∧ (modHapCh k f d).xspi = d.xspi ∧ (∀ q o, rg (modHapCh k f d) q o = rg d q o) :=
  ⟨rfl, rfl, rfl, rfl, rfl, rfl, rfl, rfl, rfl, rfl, rfl, rfl, rfl, rfl, rfl, rfl, rfl, rfl, rfl, rfl, rfl, rfl, rfl,
  rfl, rfl, rfl, rfl, rfl, rfl, rfl, rfl, rfl, rfl, rfl, rfl, rfl, rfl, rfl, rfl, rfl, rfl, rfl, rfl, rfl,
  fun _ _ => rfl⟩

@[simp] theorem modRoute_keeps (k : Nat) (f : RouteS → RouteS) (d : Dev) :
    (modRoute k f d).regs = d.regs ∧ (modRoute k f d).us = d.us ∧ (modRoute k f d).free = d.free ∧
    (modRoute k f d).resp = d.resp ∧ (modRoute k f d).out = d.out ∧ (modRoute k f d).firing = d.firing ∧
    (modRoute k f d).gp = d.gp ∧ (modRoute k f d).upset = d.upset ∧ (modRoute k f d).iso = d.iso ∧
    (modRoute k f d).classDefer = d.classDefer ∧ (modRoute k f d).blk = d.blk ∧ (modRoute k f d).sdg = d.sdg ∧
    (modRoute k f d).cairn = d.cairn ∧ (modRoute k f d).tet = d.tet ∧ (modRoute k f d).can = d.can ∧
    (modRoute k f d).wld = d.wld ∧ (modRoute k f d).pwr = d.pwr ∧ (modRoute k f d).pad = d.pad ∧
    (modRoute k f d).pipes = d.pipes ∧ (modRoute k f d).luts = d.luts ∧ (modRoute k f d).lutHalf = d.lutHalf ∧
    (modRoute k f d).wbs = d.wbs ∧ (modRoute k f d).heads = d.heads ∧ (modRoute k f d).ports = d.ports ∧
    (modRoute k f d).profiles = d.profiles ∧ (modRoute k f d).cam = d.cam ∧ (modRoute k f d).wins = d.wins ∧
    (modRoute k f d).ctxs = d.ctxs ∧ (modRoute k f d).gpu = d.gpu ∧ (modRoute k f d).tch = d.tch ∧
    (modRoute k f d).keys = d.keys ∧ (modRoute k f d).hap = d.hap ∧ (modRoute k f d).afe = d.afe ∧
    (modRoute k f d).pst = d.pst ∧ (modRoute k f d).drc = d.drc ∧ (modRoute k f d).tly = d.tly ∧
    (modRoute k f d).data = d.data ∧ (modRoute k f d).poisoned = d.poisoned ∧ (modRoute k f d).pasture = d.pasture ∧
    (modRoute k f d).dram = d.dram ∧ (modRoute k f d).nvm = d.nvm ∧ (modRoute k f d).boot = d.boot ∧
    (modRoute k f d).nvmc = d.nvmc ∧ (modRoute k f d).xspi = d.xspi ∧ (∀ q o, rg (modRoute k f d) q o = rg d q o) :=
  ⟨rfl, rfl, rfl, rfl, rfl, rfl, rfl, rfl, rfl, rfl, rfl, rfl, rfl, rfl, rfl, rfl, rfl, rfl, rfl, rfl, rfl, rfl, rfl,
  rfl, rfl, rfl, rfl, rfl, rfl, rfl, rfl, rfl, rfl, rfl, rfl, rfl, rfl, rfl, rfl, rfl, rfl, rfl, rfl, rfl,
  fun _ _ => rfl⟩

@[simp] theorem modAs_keeps (k : Nat) (f : AsS → AsS) (d : Dev) :
    (modAs k f d).regs = d.regs ∧ (modAs k f d).us = d.us ∧ (modAs k f d).free = d.free ∧ (modAs k f d).resp = d.resp ∧
    (modAs k f d).out = d.out ∧ (modAs k f d).firing = d.firing ∧ (modAs k f d).gp = d.gp ∧ (modAs k f d).upset = d.upset ∧
    (modAs k f d).iso = d.iso ∧ (modAs k f d).classDefer = d.classDefer ∧ (modAs k f d).blk = d.blk ∧
    (modAs k f d).sdg = d.sdg ∧ (modAs k f d).cairn = d.cairn ∧ (modAs k f d).tet = d.tet ∧ (modAs k f d).can = d.can ∧
    (modAs k f d).wld = d.wld ∧ (modAs k f d).pwr = d.pwr ∧ (modAs k f d).pad = d.pad ∧ (modAs k f d).pipes = d.pipes ∧
    (modAs k f d).luts = d.luts ∧ (modAs k f d).lutHalf = d.lutHalf ∧ (modAs k f d).wbs = d.wbs ∧
    (modAs k f d).heads = d.heads ∧ (modAs k f d).ports = d.ports ∧ (modAs k f d).profiles = d.profiles ∧
    (modAs k f d).cam = d.cam ∧ (modAs k f d).wins = d.wins ∧ (modAs k f d).ctxs = d.ctxs ∧ (modAs k f d).gpu = d.gpu ∧
    (modAs k f d).tch = d.tch ∧ (modAs k f d).keys = d.keys ∧ (modAs k f d).hap = d.hap ∧ (modAs k f d).afe = d.afe ∧
    (modAs k f d).pst = d.pst ∧ (modAs k f d).drc = d.drc ∧ (modAs k f d).tly = d.tly ∧ (modAs k f d).data = d.data ∧
    (modAs k f d).poisoned = d.poisoned ∧ (modAs k f d).pasture = d.pasture ∧ (modAs k f d).dram = d.dram ∧
    (modAs k f d).nvm = d.nvm ∧ (modAs k f d).boot = d.boot ∧ (modAs k f d).nvmc = d.nvmc ∧ (modAs k f d).xspi = d.xspi ∧
    (∀ q o, rg (modAs k f d) q o = rg d q o) :=
  ⟨rfl, rfl, rfl, rfl, rfl, rfl, rfl, rfl, rfl, rfl, rfl, rfl, rfl, rfl, rfl, rfl, rfl, rfl, rfl, rfl, rfl, rfl, rfl,
  rfl, rfl, rfl, rfl, rfl, rfl, rfl, rfl, rfl, rfl, rfl, rfl, rfl, rfl, rfl, rfl, rfl, rfl, rfl, rfl, rfl,
  fun _ _ => rfl⟩

@[simp] theorem modDom_keeps (k : Nat) (f : DomS → DomS) (d : Dev) :
    (modDom k f d).regs = d.regs ∧ (modDom k f d).us = d.us ∧ (modDom k f d).free = d.free ∧ (modDom k f d).resp = d.resp ∧
    (modDom k f d).out = d.out ∧ (modDom k f d).firing = d.firing ∧ (modDom k f d).gp = d.gp ∧ (modDom k f d).upset = d.upset ∧
    (modDom k f d).iso = d.iso ∧ (modDom k f d).classDefer = d.classDefer ∧ (modDom k f d).blk = d.blk ∧
    (modDom k f d).sdg = d.sdg ∧ (modDom k f d).cairn = d.cairn ∧ (modDom k f d).tet = d.tet ∧ (modDom k f d).can = d.can ∧
    (modDom k f d).wld = d.wld ∧ (modDom k f d).pwr = d.pwr ∧ (modDom k f d).pad = d.pad ∧ (modDom k f d).pipes = d.pipes ∧
    (modDom k f d).luts = d.luts ∧ (modDom k f d).lutHalf = d.lutHalf ∧ (modDom k f d).wbs = d.wbs ∧
    (modDom k f d).heads = d.heads ∧ (modDom k f d).ports = d.ports ∧ (modDom k f d).profiles = d.profiles ∧
    (modDom k f d).cam = d.cam ∧ (modDom k f d).wins = d.wins ∧ (modDom k f d).ctxs = d.ctxs ∧ (modDom k f d).gpu = d.gpu ∧
    (modDom k f d).tch = d.tch ∧ (modDom k f d).keys = d.keys ∧ (modDom k f d).hap = d.hap ∧ (modDom k f d).afe = d.afe ∧
    (modDom k f d).pst = d.pst ∧ (modDom k f d).drc = d.drc ∧ (modDom k f d).tly = d.tly ∧ (modDom k f d).data = d.data ∧
    (modDom k f d).poisoned = d.poisoned ∧ (modDom k f d).pasture = d.pasture ∧ (modDom k f d).dram = d.dram ∧
    (modDom k f d).nvm = d.nvm ∧ (modDom k f d).boot = d.boot ∧ (modDom k f d).nvmc = d.nvmc ∧ (modDom k f d).xspi = d.xspi ∧
    (∀ q o, rg (modDom k f d) q o = rg d q o) :=
  ⟨rfl, rfl, rfl, rfl, rfl, rfl, rfl, rfl, rfl, rfl, rfl, rfl, rfl, rfl, rfl, rfl, rfl, rfl, rfl, rfl, rfl, rfl, rfl,
  rfl, rfl, rfl, rfl, rfl, rfl, rfl, rfl, rfl, rfl, rfl, rfl, rfl, rfl, rfl, rfl, rfl, rfl, rfl, rfl, rfl,
  fun _ _ => rfl⟩

@[simp] theorem modSt_keeps (k : Nat) (f : StS → StS) (d : Dev) :
    (modSt k f d).regs = d.regs ∧ (modSt k f d).us = d.us ∧ (modSt k f d).free = d.free ∧ (modSt k f d).resp = d.resp ∧
    (modSt k f d).out = d.out ∧ (modSt k f d).firing = d.firing ∧ (modSt k f d).gp = d.gp ∧ (modSt k f d).upset = d.upset ∧
    (modSt k f d).iso = d.iso ∧ (modSt k f d).classDefer = d.classDefer ∧ (modSt k f d).blk = d.blk ∧
    (modSt k f d).sdg = d.sdg ∧ (modSt k f d).cairn = d.cairn ∧ (modSt k f d).tet = d.tet ∧ (modSt k f d).can = d.can ∧
    (modSt k f d).wld = d.wld ∧ (modSt k f d).pwr = d.pwr ∧ (modSt k f d).pad = d.pad ∧ (modSt k f d).pipes = d.pipes ∧
    (modSt k f d).luts = d.luts ∧ (modSt k f d).lutHalf = d.lutHalf ∧ (modSt k f d).wbs = d.wbs ∧
    (modSt k f d).heads = d.heads ∧ (modSt k f d).ports = d.ports ∧ (modSt k f d).profiles = d.profiles ∧
    (modSt k f d).cam = d.cam ∧ (modSt k f d).wins = d.wins ∧ (modSt k f d).ctxs = d.ctxs ∧ (modSt k f d).gpu = d.gpu ∧
    (modSt k f d).tch = d.tch ∧ (modSt k f d).keys = d.keys ∧ (modSt k f d).hap = d.hap ∧ (modSt k f d).aud = d.aud ∧
    (modSt k f d).pst = d.pst ∧ (modSt k f d).drc = d.drc ∧ (modSt k f d).tly = d.tly ∧ (modSt k f d).data = d.data ∧
    (modSt k f d).poisoned = d.poisoned ∧ (modSt k f d).pasture = d.pasture ∧ (modSt k f d).dram = d.dram ∧
    (modSt k f d).nvm = d.nvm ∧ (modSt k f d).boot = d.boot ∧ (modSt k f d).nvmc = d.nvmc ∧ (modSt k f d).xspi = d.xspi ∧
    (∀ q o, rg (modSt k f d) q o = rg d q o) :=
  ⟨rfl, rfl, rfl, rfl, rfl, rfl, rfl, rfl, rfl, rfl, rfl, rfl, rfl, rfl, rfl, rfl, rfl, rfl, rfl, rfl, rfl, rfl, rfl,
  rfl, rfl, rfl, rfl, rfl, rfl, rfl, rfl, rfl, rfl, rfl, rfl, rfl, rfl, rfl, rfl, rfl, rfl, rfl, rfl, rfl,
  fun _ _ => rfl⟩

@[simp] theorem modSpk_keeps (k : Nat) (f : SpkS → SpkS) (d : Dev) :
    (modSpk k f d).regs = d.regs ∧ (modSpk k f d).us = d.us ∧ (modSpk k f d).free = d.free ∧ (modSpk k f d).resp = d.resp ∧
    (modSpk k f d).out = d.out ∧ (modSpk k f d).firing = d.firing ∧ (modSpk k f d).gp = d.gp ∧ (modSpk k f d).upset = d.upset ∧
    (modSpk k f d).iso = d.iso ∧ (modSpk k f d).classDefer = d.classDefer ∧ (modSpk k f d).blk = d.blk ∧
    (modSpk k f d).sdg = d.sdg ∧ (modSpk k f d).cairn = d.cairn ∧ (modSpk k f d).tet = d.tet ∧ (modSpk k f d).can = d.can ∧
    (modSpk k f d).wld = d.wld ∧ (modSpk k f d).pwr = d.pwr ∧ (modSpk k f d).pad = d.pad ∧ (modSpk k f d).pipes = d.pipes ∧
    (modSpk k f d).luts = d.luts ∧ (modSpk k f d).lutHalf = d.lutHalf ∧ (modSpk k f d).wbs = d.wbs ∧
    (modSpk k f d).heads = d.heads ∧ (modSpk k f d).ports = d.ports ∧ (modSpk k f d).profiles = d.profiles ∧
    (modSpk k f d).cam = d.cam ∧ (modSpk k f d).wins = d.wins ∧ (modSpk k f d).ctxs = d.ctxs ∧ (modSpk k f d).gpu = d.gpu ∧
    (modSpk k f d).tch = d.tch ∧ (modSpk k f d).keys = d.keys ∧ (modSpk k f d).hap = d.hap ∧ (modSpk k f d).aud = d.aud ∧
    (modSpk k f d).pst = d.pst ∧ (modSpk k f d).drc = d.drc ∧ (modSpk k f d).tly = d.tly ∧ (modSpk k f d).data = d.data ∧
    (modSpk k f d).poisoned = d.poisoned ∧ (modSpk k f d).pasture = d.pasture ∧ (modSpk k f d).dram = d.dram ∧
    (modSpk k f d).nvm = d.nvm ∧ (modSpk k f d).boot = d.boot ∧ (modSpk k f d).nvmc = d.nvmc ∧ (modSpk k f d).xspi = d.xspi ∧
    (∀ q o, rg (modSpk k f d) q o = rg d q o) :=
  ⟨rfl, rfl, rfl, rfl, rfl, rfl, rfl, rfl, rfl, rfl, rfl, rfl, rfl, rfl, rfl, rfl, rfl, rfl, rfl, rfl, rfl, rfl, rfl,
  rfl, rfl, rfl, rfl, rfl, rfl, rfl, rfl, rfl, rfl, rfl, rfl, rfl, rfl, rfl, rfl, rfl, rfl, rfl, rfl, rfl,
  fun _ _ => rfl⟩

@[simp] theorem modStream_keeps (k : Nat) (f : StreamS → StreamS) (d : Dev) :
    (modStream k f d).regs = d.regs ∧ (modStream k f d).us = d.us ∧ (modStream k f d).free = d.free ∧
    (modStream k f d).resp = d.resp ∧ (modStream k f d).out = d.out ∧ (modStream k f d).firing = d.firing ∧
    (modStream k f d).gp = d.gp ∧ (modStream k f d).upset = d.upset ∧ (modStream k f d).iso = d.iso ∧
    (modStream k f d).classDefer = d.classDefer ∧ (modStream k f d).blk = d.blk ∧ (modStream k f d).sdg = d.sdg ∧
    (modStream k f d).cairn = d.cairn ∧ (modStream k f d).tet = d.tet ∧ (modStream k f d).can = d.can ∧
    (modStream k f d).wld = d.wld ∧ (modStream k f d).pwr = d.pwr ∧ (modStream k f d).pad = d.pad ∧
    (modStream k f d).pipes = d.pipes ∧ (modStream k f d).luts = d.luts ∧ (modStream k f d).lutHalf = d.lutHalf ∧
    (modStream k f d).wbs = d.wbs ∧ (modStream k f d).heads = d.heads ∧ (modStream k f d).ports = d.ports ∧
    (modStream k f d).profiles = d.profiles ∧ (modStream k f d).wins = d.wins ∧ (modStream k f d).ctxs = d.ctxs ∧
    (modStream k f d).gpu = d.gpu ∧ (modStream k f d).tch = d.tch ∧ (modStream k f d).keys = d.keys ∧
    (modStream k f d).hap = d.hap ∧ (modStream k f d).aud = d.aud ∧ (modStream k f d).afe = d.afe ∧
    (modStream k f d).pst = d.pst ∧ (modStream k f d).drc = d.drc ∧ (modStream k f d).tly = d.tly ∧
    (modStream k f d).data = d.data ∧ (modStream k f d).poisoned = d.poisoned ∧ (modStream k f d).pasture = d.pasture ∧
    (modStream k f d).dram = d.dram ∧ (modStream k f d).nvm = d.nvm ∧ (modStream k f d).boot = d.boot ∧
    (modStream k f d).nvmc = d.nvmc ∧ (modStream k f d).xspi = d.xspi ∧ (∀ q o, rg (modStream k f d) q o = rg d q o) :=
  ⟨rfl, rfl, rfl, rfl, rfl, rfl, rfl, rfl, rfl, rfl, rfl, rfl, rfl, rfl, rfl, rfl, rfl, rfl, rfl, rfl, rfl, rfl, rfl,
  rfl, rfl, rfl, rfl, rfl, rfl, rfl, rfl, rfl, rfl, rfl, rfl, rfl, rfl, rfl, rfl, rfl, rfl, rfl, rfl, rfl,
  fun _ _ => rfl⟩

@[simp] theorem modDw_keeps (k : Nat) (f : DwS → DwS) (d : Dev) :
    (modDw k f d).regs = d.regs ∧ (modDw k f d).us = d.us ∧ (modDw k f d).free = d.free ∧ (modDw k f d).resp = d.resp ∧
    (modDw k f d).out = d.out ∧ (modDw k f d).firing = d.firing ∧ (modDw k f d).gp = d.gp ∧ (modDw k f d).upset = d.upset ∧
    (modDw k f d).iso = d.iso ∧ (modDw k f d).classDefer = d.classDefer ∧ (modDw k f d).blk = d.blk ∧
    (modDw k f d).sdg = d.sdg ∧ (modDw k f d).cairn = d.cairn ∧ (modDw k f d).tet = d.tet ∧ (modDw k f d).can = d.can ∧
    (modDw k f d).wld = d.wld ∧ (modDw k f d).pwr = d.pwr ∧ (modDw k f d).pad = d.pad ∧ (modDw k f d).pipes = d.pipes ∧
    (modDw k f d).luts = d.luts ∧ (modDw k f d).lutHalf = d.lutHalf ∧ (modDw k f d).wbs = d.wbs ∧
    (modDw k f d).heads = d.heads ∧ (modDw k f d).ports = d.ports ∧ (modDw k f d).profiles = d.profiles ∧
    (modDw k f d).wins = d.wins ∧ (modDw k f d).ctxs = d.ctxs ∧ (modDw k f d).gpu = d.gpu ∧ (modDw k f d).tch = d.tch ∧
    (modDw k f d).keys = d.keys ∧ (modDw k f d).hap = d.hap ∧ (modDw k f d).aud = d.aud ∧ (modDw k f d).afe = d.afe ∧
    (modDw k f d).pst = d.pst ∧ (modDw k f d).drc = d.drc ∧ (modDw k f d).tly = d.tly ∧ (modDw k f d).data = d.data ∧
    (modDw k f d).poisoned = d.poisoned ∧ (modDw k f d).pasture = d.pasture ∧ (modDw k f d).dram = d.dram ∧
    (modDw k f d).nvm = d.nvm ∧ (modDw k f d).boot = d.boot ∧ (modDw k f d).nvmc = d.nvmc ∧ (modDw k f d).xspi = d.xspi ∧
    (∀ q o, rg (modDw k f d) q o = rg d q o) :=
  ⟨rfl, rfl, rfl, rfl, rfl, rfl, rfl, rfl, rfl, rfl, rfl, rfl, rfl, rfl, rfl, rfl, rfl, rfl, rfl, rfl, rfl, rfl, rfl,
  rfl, rfl, rfl, rfl, rfl, rfl, rfl, rfl, rfl, rfl, rfl, rfl, rfl, rfl, rfl, rfl, rfl, rfl, rfl, rfl, rfl,
  fun _ _ => rfl⟩

@[simp] theorem modGpu_keeps (f : GpuS → GpuS) (d : Dev) :
    (modGpu f d).regs = d.regs ∧ (modGpu f d).us = d.us ∧ (modGpu f d).free = d.free ∧ (modGpu f d).resp = d.resp ∧
    (modGpu f d).out = d.out ∧ (modGpu f d).firing = d.firing ∧ (modGpu f d).gp = d.gp ∧ (modGpu f d).upset = d.upset ∧
    (modGpu f d).iso = d.iso ∧ (modGpu f d).classDefer = d.classDefer ∧ (modGpu f d).blk = d.blk ∧ (modGpu f d).sdg = d.sdg ∧
    (modGpu f d).cairn = d.cairn ∧ (modGpu f d).tet = d.tet ∧ (modGpu f d).can = d.can ∧ (modGpu f d).wld = d.wld ∧
    (modGpu f d).pwr = d.pwr ∧ (modGpu f d).pad = d.pad ∧ (modGpu f d).pipes = d.pipes ∧ (modGpu f d).luts = d.luts ∧
    (modGpu f d).lutHalf = d.lutHalf ∧ (modGpu f d).wbs = d.wbs ∧ (modGpu f d).heads = d.heads ∧ (modGpu f d).ports = d.ports ∧
    (modGpu f d).profiles = d.profiles ∧ (modGpu f d).cam = d.cam ∧ (modGpu f d).wins = d.wins ∧ (modGpu f d).ctxs = d.ctxs ∧
    (modGpu f d).tch = d.tch ∧ (modGpu f d).keys = d.keys ∧ (modGpu f d).hap = d.hap ∧ (modGpu f d).aud = d.aud ∧
    (modGpu f d).afe = d.afe ∧ (modGpu f d).pst = d.pst ∧ (modGpu f d).drc = d.drc ∧ (modGpu f d).tly = d.tly ∧
    (modGpu f d).data = d.data ∧ (modGpu f d).poisoned = d.poisoned ∧ (modGpu f d).pasture = d.pasture ∧
    (modGpu f d).dram = d.dram ∧ (modGpu f d).nvm = d.nvm ∧ (modGpu f d).boot = d.boot ∧ (modGpu f d).nvmc = d.nvmc ∧
    (modGpu f d).xspi = d.xspi ∧ (∀ q o, rg (modGpu f d) q o = rg d q o) :=
  ⟨rfl, rfl, rfl, rfl, rfl, rfl, rfl, rfl, rfl, rfl, rfl, rfl, rfl, rfl, rfl, rfl, rfl, rfl, rfl, rfl, rfl, rfl, rfl,
  rfl, rfl, rfl, rfl, rfl, rfl, rfl, rfl, rfl, rfl, rfl, rfl, rfl, rfl, rfl, rfl, rfl, rfl, rfl, rfl, rfl,
  fun _ _ => rfl⟩

@[simp] theorem modTch_keeps (f : TchS → TchS) (d : Dev) :
    (modTch f d).regs = d.regs ∧ (modTch f d).us = d.us ∧ (modTch f d).free = d.free ∧ (modTch f d).resp = d.resp ∧
    (modTch f d).out = d.out ∧ (modTch f d).firing = d.firing ∧ (modTch f d).gp = d.gp ∧ (modTch f d).upset = d.upset ∧
    (modTch f d).iso = d.iso ∧ (modTch f d).classDefer = d.classDefer ∧ (modTch f d).blk = d.blk ∧ (modTch f d).sdg = d.sdg ∧
    (modTch f d).cairn = d.cairn ∧ (modTch f d).tet = d.tet ∧ (modTch f d).can = d.can ∧ (modTch f d).wld = d.wld ∧
    (modTch f d).pwr = d.pwr ∧ (modTch f d).pad = d.pad ∧ (modTch f d).pipes = d.pipes ∧ (modTch f d).luts = d.luts ∧
    (modTch f d).lutHalf = d.lutHalf ∧ (modTch f d).wbs = d.wbs ∧ (modTch f d).heads = d.heads ∧ (modTch f d).ports = d.ports ∧
    (modTch f d).profiles = d.profiles ∧ (modTch f d).cam = d.cam ∧ (modTch f d).wins = d.wins ∧ (modTch f d).ctxs = d.ctxs ∧
    (modTch f d).gpu = d.gpu ∧ (modTch f d).keys = d.keys ∧ (modTch f d).hap = d.hap ∧ (modTch f d).aud = d.aud ∧
    (modTch f d).afe = d.afe ∧ (modTch f d).pst = d.pst ∧ (modTch f d).drc = d.drc ∧ (modTch f d).tly = d.tly ∧
    (modTch f d).data = d.data ∧ (modTch f d).poisoned = d.poisoned ∧ (modTch f d).pasture = d.pasture ∧
    (modTch f d).dram = d.dram ∧ (modTch f d).nvm = d.nvm ∧ (modTch f d).boot = d.boot ∧ (modTch f d).nvmc = d.nvmc ∧
    (modTch f d).xspi = d.xspi ∧ (∀ q o, rg (modTch f d) q o = rg d q o) :=
  ⟨rfl, rfl, rfl, rfl, rfl, rfl, rfl, rfl, rfl, rfl, rfl, rfl, rfl, rfl, rfl, rfl, rfl, rfl, rfl, rfl, rfl, rfl, rfl,
  rfl, rfl, rfl, rfl, rfl, rfl, rfl, rfl, rfl, rfl, rfl, rfl, rfl, rfl, rfl, rfl, rfl, rfl, rfl, rfl, rfl,
  fun _ _ => rfl⟩

@[simp] theorem modKeys_keeps (f : KeysS → KeysS) (d : Dev) :
    (modKeys f d).regs = d.regs ∧ (modKeys f d).us = d.us ∧ (modKeys f d).free = d.free ∧ (modKeys f d).resp = d.resp ∧
    (modKeys f d).out = d.out ∧ (modKeys f d).firing = d.firing ∧ (modKeys f d).gp = d.gp ∧ (modKeys f d).upset = d.upset ∧
    (modKeys f d).iso = d.iso ∧ (modKeys f d).classDefer = d.classDefer ∧ (modKeys f d).blk = d.blk ∧
    (modKeys f d).sdg = d.sdg ∧ (modKeys f d).cairn = d.cairn ∧ (modKeys f d).tet = d.tet ∧ (modKeys f d).can = d.can ∧
    (modKeys f d).wld = d.wld ∧ (modKeys f d).pwr = d.pwr ∧ (modKeys f d).pad = d.pad ∧ (modKeys f d).pipes = d.pipes ∧
    (modKeys f d).luts = d.luts ∧ (modKeys f d).lutHalf = d.lutHalf ∧ (modKeys f d).wbs = d.wbs ∧
    (modKeys f d).heads = d.heads ∧ (modKeys f d).ports = d.ports ∧ (modKeys f d).profiles = d.profiles ∧
    (modKeys f d).cam = d.cam ∧ (modKeys f d).wins = d.wins ∧ (modKeys f d).ctxs = d.ctxs ∧ (modKeys f d).gpu = d.gpu ∧
    (modKeys f d).tch = d.tch ∧ (modKeys f d).hap = d.hap ∧ (modKeys f d).aud = d.aud ∧ (modKeys f d).afe = d.afe ∧
    (modKeys f d).pst = d.pst ∧ (modKeys f d).drc = d.drc ∧ (modKeys f d).tly = d.tly ∧ (modKeys f d).data = d.data ∧
    (modKeys f d).poisoned = d.poisoned ∧ (modKeys f d).pasture = d.pasture ∧ (modKeys f d).dram = d.dram ∧
    (modKeys f d).nvm = d.nvm ∧ (modKeys f d).boot = d.boot ∧ (modKeys f d).nvmc = d.nvmc ∧ (modKeys f d).xspi = d.xspi ∧
    (∀ q o, rg (modKeys f d) q o = rg d q o) :=
  ⟨rfl, rfl, rfl, rfl, rfl, rfl, rfl, rfl, rfl, rfl, rfl, rfl, rfl, rfl, rfl, rfl, rfl, rfl, rfl, rfl, rfl, rfl, rfl,
  rfl, rfl, rfl, rfl, rfl, rfl, rfl, rfl, rfl, rfl, rfl, rfl, rfl, rfl, rfl, rfl, rfl, rfl, rfl, rfl, rfl,
  fun _ _ => rfl⟩

@[simp] theorem modHap_keeps (f : HapS → HapS) (d : Dev) :
    (modHap f d).regs = d.regs ∧ (modHap f d).us = d.us ∧ (modHap f d).free = d.free ∧ (modHap f d).resp = d.resp ∧
    (modHap f d).out = d.out ∧ (modHap f d).firing = d.firing ∧ (modHap f d).gp = d.gp ∧ (modHap f d).upset = d.upset ∧
    (modHap f d).iso = d.iso ∧ (modHap f d).classDefer = d.classDefer ∧ (modHap f d).blk = d.blk ∧ (modHap f d).sdg = d.sdg ∧
    (modHap f d).cairn = d.cairn ∧ (modHap f d).tet = d.tet ∧ (modHap f d).can = d.can ∧ (modHap f d).wld = d.wld ∧
    (modHap f d).pwr = d.pwr ∧ (modHap f d).pad = d.pad ∧ (modHap f d).pipes = d.pipes ∧ (modHap f d).luts = d.luts ∧
    (modHap f d).lutHalf = d.lutHalf ∧ (modHap f d).wbs = d.wbs ∧ (modHap f d).heads = d.heads ∧ (modHap f d).ports = d.ports ∧
    (modHap f d).profiles = d.profiles ∧ (modHap f d).cam = d.cam ∧ (modHap f d).wins = d.wins ∧ (modHap f d).ctxs = d.ctxs ∧
    (modHap f d).gpu = d.gpu ∧ (modHap f d).tch = d.tch ∧ (modHap f d).keys = d.keys ∧ (modHap f d).aud = d.aud ∧
    (modHap f d).afe = d.afe ∧ (modHap f d).pst = d.pst ∧ (modHap f d).drc = d.drc ∧ (modHap f d).tly = d.tly ∧
    (modHap f d).data = d.data ∧ (modHap f d).poisoned = d.poisoned ∧ (modHap f d).pasture = d.pasture ∧
    (modHap f d).dram = d.dram ∧ (modHap f d).nvm = d.nvm ∧ (modHap f d).boot = d.boot ∧ (modHap f d).nvmc = d.nvmc ∧
    (modHap f d).xspi = d.xspi ∧ (∀ q o, rg (modHap f d) q o = rg d q o) :=
  ⟨rfl, rfl, rfl, rfl, rfl, rfl, rfl, rfl, rfl, rfl, rfl, rfl, rfl, rfl, rfl, rfl, rfl, rfl, rfl, rfl, rfl, rfl, rfl,
  rfl, rfl, rfl, rfl, rfl, rfl, rfl, rfl, rfl, rfl, rfl, rfl, rfl, rfl, rfl, rfl, rfl, rfl, rfl, rfl, rfl,
  fun _ _ => rfl⟩

@[simp] theorem modAud_keeps (f : AudS → AudS) (d : Dev) :
    (modAud f d).regs = d.regs ∧ (modAud f d).us = d.us ∧ (modAud f d).free = d.free ∧ (modAud f d).resp = d.resp ∧
    (modAud f d).out = d.out ∧ (modAud f d).firing = d.firing ∧ (modAud f d).gp = d.gp ∧ (modAud f d).upset = d.upset ∧
    (modAud f d).iso = d.iso ∧ (modAud f d).classDefer = d.classDefer ∧ (modAud f d).blk = d.blk ∧ (modAud f d).sdg = d.sdg ∧
    (modAud f d).cairn = d.cairn ∧ (modAud f d).tet = d.tet ∧ (modAud f d).can = d.can ∧ (modAud f d).wld = d.wld ∧
    (modAud f d).pwr = d.pwr ∧ (modAud f d).pad = d.pad ∧ (modAud f d).pipes = d.pipes ∧ (modAud f d).luts = d.luts ∧
    (modAud f d).lutHalf = d.lutHalf ∧ (modAud f d).wbs = d.wbs ∧ (modAud f d).heads = d.heads ∧ (modAud f d).ports = d.ports ∧
    (modAud f d).profiles = d.profiles ∧ (modAud f d).cam = d.cam ∧ (modAud f d).wins = d.wins ∧ (modAud f d).ctxs = d.ctxs ∧
    (modAud f d).gpu = d.gpu ∧ (modAud f d).tch = d.tch ∧ (modAud f d).keys = d.keys ∧ (modAud f d).hap = d.hap ∧
    (modAud f d).afe = d.afe ∧ (modAud f d).pst = d.pst ∧ (modAud f d).drc = d.drc ∧ (modAud f d).tly = d.tly ∧
    (modAud f d).data = d.data ∧ (modAud f d).poisoned = d.poisoned ∧ (modAud f d).pasture = d.pasture ∧
    (modAud f d).dram = d.dram ∧ (modAud f d).nvm = d.nvm ∧ (modAud f d).boot = d.boot ∧ (modAud f d).nvmc = d.nvmc ∧
    (modAud f d).xspi = d.xspi ∧ (∀ q o, rg (modAud f d) q o = rg d q o) :=
  ⟨rfl, rfl, rfl, rfl, rfl, rfl, rfl, rfl, rfl, rfl, rfl, rfl, rfl, rfl, rfl, rfl, rfl, rfl, rfl, rfl, rfl, rfl, rfl,
  rfl, rfl, rfl, rfl, rfl, rfl, rfl, rfl, rfl, rfl, rfl, rfl, rfl, rfl, rfl, rfl, rfl, rfl, rfl, rfl, rfl,
  fun _ _ => rfl⟩

@[simp] theorem modAfe_keeps (f : AfeS → AfeS) (d : Dev) :
    (modAfe f d).regs = d.regs ∧ (modAfe f d).us = d.us ∧ (modAfe f d).free = d.free ∧ (modAfe f d).resp = d.resp ∧
    (modAfe f d).out = d.out ∧ (modAfe f d).firing = d.firing ∧ (modAfe f d).gp = d.gp ∧ (modAfe f d).upset = d.upset ∧
    (modAfe f d).iso = d.iso ∧ (modAfe f d).classDefer = d.classDefer ∧ (modAfe f d).blk = d.blk ∧ (modAfe f d).sdg = d.sdg ∧
    (modAfe f d).cairn = d.cairn ∧ (modAfe f d).tet = d.tet ∧ (modAfe f d).can = d.can ∧ (modAfe f d).wld = d.wld ∧
    (modAfe f d).pwr = d.pwr ∧ (modAfe f d).pad = d.pad ∧ (modAfe f d).pipes = d.pipes ∧ (modAfe f d).luts = d.luts ∧
    (modAfe f d).lutHalf = d.lutHalf ∧ (modAfe f d).wbs = d.wbs ∧ (modAfe f d).heads = d.heads ∧ (modAfe f d).ports = d.ports ∧
    (modAfe f d).profiles = d.profiles ∧ (modAfe f d).cam = d.cam ∧ (modAfe f d).wins = d.wins ∧ (modAfe f d).ctxs = d.ctxs ∧
    (modAfe f d).gpu = d.gpu ∧ (modAfe f d).tch = d.tch ∧ (modAfe f d).keys = d.keys ∧ (modAfe f d).hap = d.hap ∧
    (modAfe f d).aud = d.aud ∧ (modAfe f d).pst = d.pst ∧ (modAfe f d).drc = d.drc ∧ (modAfe f d).tly = d.tly ∧
    (modAfe f d).data = d.data ∧ (modAfe f d).poisoned = d.poisoned ∧ (modAfe f d).pasture = d.pasture ∧
    (modAfe f d).dram = d.dram ∧ (modAfe f d).nvm = d.nvm ∧ (modAfe f d).boot = d.boot ∧ (modAfe f d).nvmc = d.nvmc ∧
    (modAfe f d).xspi = d.xspi ∧ (∀ q o, rg (modAfe f d) q o = rg d q o) :=
  ⟨rfl, rfl, rfl, rfl, rfl, rfl, rfl, rfl, rfl, rfl, rfl, rfl, rfl, rfl, rfl, rfl, rfl, rfl, rfl, rfl, rfl, rfl, rfl,
  rfl, rfl, rfl, rfl, rfl, rfl, rfl, rfl, rfl, rfl, rfl, rfl, rfl, rfl, rfl, rfl, rfl, rfl, rfl, rfl, rfl,
  fun _ _ => rfl⟩

@[simp] theorem modCam_keeps (f : CamS → CamS) (d : Dev) :
    (modCam f d).regs = d.regs ∧ (modCam f d).us = d.us ∧ (modCam f d).free = d.free ∧ (modCam f d).resp = d.resp ∧
    (modCam f d).out = d.out ∧ (modCam f d).firing = d.firing ∧ (modCam f d).gp = d.gp ∧ (modCam f d).upset = d.upset ∧
    (modCam f d).iso = d.iso ∧ (modCam f d).classDefer = d.classDefer ∧ (modCam f d).blk = d.blk ∧ (modCam f d).sdg = d.sdg ∧
    (modCam f d).cairn = d.cairn ∧ (modCam f d).tet = d.tet ∧ (modCam f d).can = d.can ∧ (modCam f d).wld = d.wld ∧
    (modCam f d).pwr = d.pwr ∧ (modCam f d).pad = d.pad ∧ (modCam f d).pipes = d.pipes ∧ (modCam f d).luts = d.luts ∧
    (modCam f d).lutHalf = d.lutHalf ∧ (modCam f d).wbs = d.wbs ∧ (modCam f d).heads = d.heads ∧ (modCam f d).ports = d.ports ∧
    (modCam f d).profiles = d.profiles ∧ (modCam f d).wins = d.wins ∧ (modCam f d).ctxs = d.ctxs ∧ (modCam f d).gpu = d.gpu ∧
    (modCam f d).tch = d.tch ∧ (modCam f d).keys = d.keys ∧ (modCam f d).hap = d.hap ∧ (modCam f d).aud = d.aud ∧
    (modCam f d).afe = d.afe ∧ (modCam f d).pst = d.pst ∧ (modCam f d).drc = d.drc ∧ (modCam f d).tly = d.tly ∧
    (modCam f d).data = d.data ∧ (modCam f d).poisoned = d.poisoned ∧ (modCam f d).pasture = d.pasture ∧
    (modCam f d).dram = d.dram ∧ (modCam f d).nvm = d.nvm ∧ (modCam f d).boot = d.boot ∧ (modCam f d).nvmc = d.nvmc ∧
    (modCam f d).xspi = d.xspi ∧ (∀ q o, rg (modCam f d) q o = rg d q o) :=
  ⟨rfl, rfl, rfl, rfl, rfl, rfl, rfl, rfl, rfl, rfl, rfl, rfl, rfl, rfl, rfl, rfl, rfl, rfl, rfl, rfl, rfl, rfl, rfl,
  rfl, rfl, rfl, rfl, rfl, rfl, rfl, rfl, rfl, rfl, rfl, rfl, rfl, rfl, rfl, rfl, rfl, rfl, rfl, rfl, rfl,
  fun _ _ => rfl⟩

@[simp] theorem modSdg_keeps (f : SdgS → SdgS) (d : Dev) :
    (modSdg f d).regs = d.regs ∧ (modSdg f d).us = d.us ∧ (modSdg f d).free = d.free ∧ (modSdg f d).resp = d.resp ∧
    (modSdg f d).out = d.out ∧ (modSdg f d).firing = d.firing ∧ (modSdg f d).gp = d.gp ∧ (modSdg f d).upset = d.upset ∧
    (modSdg f d).iso = d.iso ∧ (modSdg f d).classDefer = d.classDefer ∧ (modSdg f d).blk = d.blk ∧
    (modSdg f d).cairn = d.cairn ∧ (modSdg f d).tet = d.tet ∧ (modSdg f d).can = d.can ∧ (modSdg f d).wld = d.wld ∧
    (modSdg f d).pwr = d.pwr ∧ (modSdg f d).pad = d.pad ∧ (modSdg f d).pipes = d.pipes ∧ (modSdg f d).luts = d.luts ∧
    (modSdg f d).lutHalf = d.lutHalf ∧ (modSdg f d).wbs = d.wbs ∧ (modSdg f d).heads = d.heads ∧ (modSdg f d).ports = d.ports ∧
    (modSdg f d).profiles = d.profiles ∧ (modSdg f d).cam = d.cam ∧ (modSdg f d).wins = d.wins ∧ (modSdg f d).ctxs = d.ctxs ∧
    (modSdg f d).gpu = d.gpu ∧ (modSdg f d).tch = d.tch ∧ (modSdg f d).keys = d.keys ∧ (modSdg f d).hap = d.hap ∧
    (modSdg f d).aud = d.aud ∧ (modSdg f d).afe = d.afe ∧ (modSdg f d).pst = d.pst ∧ (modSdg f d).drc = d.drc ∧
    (modSdg f d).tly = d.tly ∧ (modSdg f d).data = d.data ∧ (modSdg f d).poisoned = d.poisoned ∧
    (modSdg f d).pasture = d.pasture ∧ (modSdg f d).dram = d.dram ∧ (modSdg f d).nvm = d.nvm ∧ (modSdg f d).boot = d.boot ∧
    (modSdg f d).nvmc = d.nvmc ∧ (modSdg f d).xspi = d.xspi ∧ (∀ q o, rg (modSdg f d) q o = rg d q o) :=
  ⟨rfl, rfl, rfl, rfl, rfl, rfl, rfl, rfl, rfl, rfl, rfl, rfl, rfl, rfl, rfl, rfl, rfl, rfl, rfl, rfl, rfl, rfl, rfl,
  rfl, rfl, rfl, rfl, rfl, rfl, rfl, rfl, rfl, rfl, rfl, rfl, rfl, rfl, rfl, rfl, rfl, rfl, rfl, rfl, rfl,
  fun _ _ => rfl⟩

@[simp] theorem modCairn_keeps (f : CairnS → CairnS) (d : Dev) :
    (modCairn f d).regs = d.regs ∧ (modCairn f d).us = d.us ∧ (modCairn f d).free = d.free ∧ (modCairn f d).resp = d.resp ∧
    (modCairn f d).out = d.out ∧ (modCairn f d).firing = d.firing ∧ (modCairn f d).gp = d.gp ∧ (modCairn f d).upset = d.upset ∧
    (modCairn f d).iso = d.iso ∧ (modCairn f d).classDefer = d.classDefer ∧ (modCairn f d).blk = d.blk ∧
    (modCairn f d).sdg = d.sdg ∧ (modCairn f d).tet = d.tet ∧ (modCairn f d).can = d.can ∧ (modCairn f d).wld = d.wld ∧
    (modCairn f d).pwr = d.pwr ∧ (modCairn f d).pad = d.pad ∧ (modCairn f d).pipes = d.pipes ∧ (modCairn f d).luts = d.luts ∧
    (modCairn f d).lutHalf = d.lutHalf ∧ (modCairn f d).wbs = d.wbs ∧ (modCairn f d).heads = d.heads ∧
    (modCairn f d).ports = d.ports ∧ (modCairn f d).profiles = d.profiles ∧ (modCairn f d).cam = d.cam ∧
    (modCairn f d).wins = d.wins ∧ (modCairn f d).ctxs = d.ctxs ∧ (modCairn f d).gpu = d.gpu ∧ (modCairn f d).tch = d.tch ∧
    (modCairn f d).keys = d.keys ∧ (modCairn f d).hap = d.hap ∧ (modCairn f d).aud = d.aud ∧ (modCairn f d).afe = d.afe ∧
    (modCairn f d).pst = d.pst ∧ (modCairn f d).drc = d.drc ∧ (modCairn f d).tly = d.tly ∧ (modCairn f d).data = d.data ∧
    (modCairn f d).poisoned = d.poisoned ∧ (modCairn f d).pasture = d.pasture ∧ (modCairn f d).dram = d.dram ∧
    (modCairn f d).nvm = d.nvm ∧ (modCairn f d).boot = d.boot ∧ (modCairn f d).nvmc = d.nvmc ∧ (modCairn f d).xspi = d.xspi ∧
    (∀ q o, rg (modCairn f d) q o = rg d q o) :=
  ⟨rfl, rfl, rfl, rfl, rfl, rfl, rfl, rfl, rfl, rfl, rfl, rfl, rfl, rfl, rfl, rfl, rfl, rfl, rfl, rfl, rfl, rfl, rfl,
  rfl, rfl, rfl, rfl, rfl, rfl, rfl, rfl, rfl, rfl, rfl, rfl, rfl, rfl, rfl, rfl, rfl, rfl, rfl, rfl, rfl,
  fun _ _ => rfl⟩

@[simp] theorem modTet_keeps (f : TetS → TetS) (d : Dev) :
    (modTet f d).regs = d.regs ∧ (modTet f d).us = d.us ∧ (modTet f d).free = d.free ∧ (modTet f d).resp = d.resp ∧
    (modTet f d).out = d.out ∧ (modTet f d).firing = d.firing ∧ (modTet f d).gp = d.gp ∧ (modTet f d).upset = d.upset ∧
    (modTet f d).iso = d.iso ∧ (modTet f d).classDefer = d.classDefer ∧ (modTet f d).blk = d.blk ∧ (modTet f d).sdg = d.sdg ∧
    (modTet f d).cairn = d.cairn ∧ (modTet f d).can = d.can ∧ (modTet f d).wld = d.wld ∧ (modTet f d).pwr = d.pwr ∧
    (modTet f d).pad = d.pad ∧ (modTet f d).pipes = d.pipes ∧ (modTet f d).luts = d.luts ∧ (modTet f d).lutHalf = d.lutHalf ∧
    (modTet f d).wbs = d.wbs ∧ (modTet f d).heads = d.heads ∧ (modTet f d).ports = d.ports ∧
    (modTet f d).profiles = d.profiles ∧ (modTet f d).cam = d.cam ∧ (modTet f d).wins = d.wins ∧ (modTet f d).ctxs = d.ctxs ∧
    (modTet f d).gpu = d.gpu ∧ (modTet f d).tch = d.tch ∧ (modTet f d).keys = d.keys ∧ (modTet f d).hap = d.hap ∧
    (modTet f d).aud = d.aud ∧ (modTet f d).afe = d.afe ∧ (modTet f d).pst = d.pst ∧ (modTet f d).drc = d.drc ∧
    (modTet f d).tly = d.tly ∧ (modTet f d).data = d.data ∧ (modTet f d).poisoned = d.poisoned ∧
    (modTet f d).pasture = d.pasture ∧ (modTet f d).dram = d.dram ∧ (modTet f d).nvm = d.nvm ∧ (modTet f d).boot = d.boot ∧
    (modTet f d).nvmc = d.nvmc ∧ (modTet f d).xspi = d.xspi ∧ (∀ q o, rg (modTet f d) q o = rg d q o) :=
  ⟨rfl, rfl, rfl, rfl, rfl, rfl, rfl, rfl, rfl, rfl, rfl, rfl, rfl, rfl, rfl, rfl, rfl, rfl, rfl, rfl, rfl, rfl, rfl,
  rfl, rfl, rfl, rfl, rfl, rfl, rfl, rfl, rfl, rfl, rfl, rfl, rfl, rfl, rfl, rfl, rfl, rfl, rfl, rfl, rfl,
  fun _ _ => rfl⟩

@[simp] theorem modMach_keeps (f : PadMach → PadMach) (d : Dev) :
    (modMach f d).regs = d.regs ∧ (modMach f d).us = d.us ∧ (modMach f d).free = d.free ∧ (modMach f d).resp = d.resp ∧
    (modMach f d).out = d.out ∧ (modMach f d).firing = d.firing ∧ (modMach f d).gp = d.gp ∧ (modMach f d).upset = d.upset ∧
    (modMach f d).iso = d.iso ∧ (modMach f d).classDefer = d.classDefer ∧ (modMach f d).blk = d.blk ∧
    (modMach f d).sdg = d.sdg ∧ (modMach f d).cairn = d.cairn ∧ (modMach f d).tet = d.tet ∧ (modMach f d).can = d.can ∧
    (modMach f d).wld = d.wld ∧ (modMach f d).pwr = d.pwr ∧ (modMach f d).pipes = d.pipes ∧ (modMach f d).luts = d.luts ∧
    (modMach f d).lutHalf = d.lutHalf ∧ (modMach f d).wbs = d.wbs ∧ (modMach f d).heads = d.heads ∧
    (modMach f d).ports = d.ports ∧ (modMach f d).profiles = d.profiles ∧ (modMach f d).cam = d.cam ∧
    (modMach f d).wins = d.wins ∧ (modMach f d).ctxs = d.ctxs ∧ (modMach f d).gpu = d.gpu ∧ (modMach f d).tch = d.tch ∧
    (modMach f d).keys = d.keys ∧ (modMach f d).hap = d.hap ∧ (modMach f d).aud = d.aud ∧ (modMach f d).afe = d.afe ∧
    (modMach f d).pst = d.pst ∧ (modMach f d).drc = d.drc ∧ (modMach f d).tly = d.tly ∧ (modMach f d).data = d.data ∧
    (modMach f d).poisoned = d.poisoned ∧ (modMach f d).pasture = d.pasture ∧ (modMach f d).dram = d.dram ∧
    (modMach f d).nvm = d.nvm ∧ (modMach f d).boot = d.boot ∧ (modMach f d).nvmc = d.nvmc ∧ (modMach f d).xspi = d.xspi ∧
    (∀ q o, rg (modMach f d) q o = rg d q o) :=
  ⟨rfl, rfl, rfl, rfl, rfl, rfl, rfl, rfl, rfl, rfl, rfl, rfl, rfl, rfl, rfl, rfl, rfl, rfl, rfl, rfl, rfl, rfl, rfl,
  rfl, rfl, rfl, rfl, rfl, rfl, rfl, rfl, rfl, rfl, rfl, rfl, rfl, rfl, rfl, rfl, rfl, rfl, rfl, rfl, rfl,
  fun _ _ => rfl⟩

@[simp] theorem modWld_keeps (f : WldS → WldS) (d : Dev) :
    (modWld f d).regs = d.regs ∧ (modWld f d).us = d.us ∧ (modWld f d).free = d.free ∧ (modWld f d).resp = d.resp ∧
    (modWld f d).out = d.out ∧ (modWld f d).firing = d.firing ∧ (modWld f d).gp = d.gp ∧ (modWld f d).upset = d.upset ∧
    (modWld f d).iso = d.iso ∧ (modWld f d).classDefer = d.classDefer ∧ (modWld f d).blk = d.blk ∧ (modWld f d).sdg = d.sdg ∧
    (modWld f d).cairn = d.cairn ∧ (modWld f d).tet = d.tet ∧ (modWld f d).can = d.can ∧ (modWld f d).pwr = d.pwr ∧
    (modWld f d).pad = d.pad ∧ (modWld f d).pipes = d.pipes ∧ (modWld f d).luts = d.luts ∧ (modWld f d).lutHalf = d.lutHalf ∧
    (modWld f d).wbs = d.wbs ∧ (modWld f d).heads = d.heads ∧ (modWld f d).ports = d.ports ∧
    (modWld f d).profiles = d.profiles ∧ (modWld f d).cam = d.cam ∧ (modWld f d).wins = d.wins ∧ (modWld f d).ctxs = d.ctxs ∧
    (modWld f d).gpu = d.gpu ∧ (modWld f d).tch = d.tch ∧ (modWld f d).keys = d.keys ∧ (modWld f d).hap = d.hap ∧
    (modWld f d).aud = d.aud ∧ (modWld f d).afe = d.afe ∧ (modWld f d).pst = d.pst ∧ (modWld f d).drc = d.drc ∧
    (modWld f d).tly = d.tly ∧ (modWld f d).data = d.data ∧ (modWld f d).poisoned = d.poisoned ∧
    (modWld f d).pasture = d.pasture ∧ (modWld f d).dram = d.dram ∧ (modWld f d).nvm = d.nvm ∧ (modWld f d).boot = d.boot ∧
    (modWld f d).nvmc = d.nvmc ∧ (modWld f d).xspi = d.xspi ∧ (∀ q o, rg (modWld f d) q o = rg d q o) :=
  ⟨rfl, rfl, rfl, rfl, rfl, rfl, rfl, rfl, rfl, rfl, rfl, rfl, rfl, rfl, rfl, rfl, rfl, rfl, rfl, rfl, rfl, rfl, rfl,
  rfl, rfl, rfl, rfl, rfl, rfl, rfl, rfl, rfl, rfl, rfl, rfl, rfl, rfl, rfl, rfl, rfl, rfl, rfl, rfl, rfl,
  fun _ _ => rfl⟩

@[simp] theorem setPast_keeps (a : Nat) (b : Byte) (d : Dev) :
    (setPast a b d).regs = d.regs ∧ (setPast a b d).us = d.us ∧ (setPast a b d).free = d.free ∧ (setPast a b d).resp = d.resp ∧
    (setPast a b d).out = d.out ∧ (setPast a b d).firing = d.firing ∧ (setPast a b d).gp = d.gp ∧
    (setPast a b d).upset = d.upset ∧ (setPast a b d).iso = d.iso ∧ (setPast a b d).classDefer = d.classDefer ∧
    (setPast a b d).blk = d.blk ∧ (setPast a b d).sdg = d.sdg ∧ (setPast a b d).cairn = d.cairn ∧ (setPast a b d).tet = d.tet ∧
    (setPast a b d).can = d.can ∧ (setPast a b d).wld = d.wld ∧ (setPast a b d).pwr = d.pwr ∧ (setPast a b d).pad = d.pad ∧
    (setPast a b d).pipes = d.pipes ∧ (setPast a b d).luts = d.luts ∧ (setPast a b d).lutHalf = d.lutHalf ∧
    (setPast a b d).wbs = d.wbs ∧ (setPast a b d).heads = d.heads ∧ (setPast a b d).ports = d.ports ∧
    (setPast a b d).profiles = d.profiles ∧ (setPast a b d).cam = d.cam ∧ (setPast a b d).wins = d.wins ∧
    (setPast a b d).ctxs = d.ctxs ∧ (setPast a b d).gpu = d.gpu ∧ (setPast a b d).tch = d.tch ∧ (setPast a b d).keys = d.keys ∧
    (setPast a b d).hap = d.hap ∧ (setPast a b d).aud = d.aud ∧ (setPast a b d).afe = d.afe ∧ (setPast a b d).pst = d.pst ∧
    (setPast a b d).drc = d.drc ∧ (setPast a b d).tly = d.tly ∧ (setPast a b d).data = d.data ∧
    (setPast a b d).poisoned = d.poisoned ∧ (setPast a b d).dram = d.dram ∧ (setPast a b d).nvm = d.nvm ∧
    (setPast a b d).boot = d.boot ∧ (setPast a b d).nvmc = d.nvmc ∧ (setPast a b d).xspi = d.xspi ∧
    (∀ q o, rg (setPast a b d) q o = rg d q o) :=
  ⟨rfl, rfl, rfl, rfl, rfl, rfl, rfl, rfl, rfl, rfl, rfl, rfl, rfl, rfl, rfl, rfl, rfl, rfl, rfl, rfl, rfl, rfl, rfl,
  rfl, rfl, rfl, rfl, rfl, rfl, rfl, rfl, rfl, rfl, rfl, rfl, rfl, rfl, rfl, rfl, rfl, rfl, rfl, rfl, rfl,
  fun _ _ => rfl⟩

@[simp] theorem setDram_keeps (a : Nat) (b : Byte) (d : Dev) :
    (setDram a b d).regs = d.regs ∧ (setDram a b d).us = d.us ∧ (setDram a b d).free = d.free ∧ (setDram a b d).resp = d.resp ∧
    (setDram a b d).out = d.out ∧ (setDram a b d).firing = d.firing ∧ (setDram a b d).gp = d.gp ∧
    (setDram a b d).upset = d.upset ∧ (setDram a b d).iso = d.iso ∧ (setDram a b d).classDefer = d.classDefer ∧
    (setDram a b d).blk = d.blk ∧ (setDram a b d).sdg = d.sdg ∧ (setDram a b d).cairn = d.cairn ∧ (setDram a b d).tet = d.tet ∧
    (setDram a b d).can = d.can ∧ (setDram a b d).wld = d.wld ∧ (setDram a b d).pwr = d.pwr ∧ (setDram a b d).pad = d.pad ∧
    (setDram a b d).pipes = d.pipes ∧ (setDram a b d).luts = d.luts ∧ (setDram a b d).lutHalf = d.lutHalf ∧
    (setDram a b d).wbs = d.wbs ∧ (setDram a b d).heads = d.heads ∧ (setDram a b d).ports = d.ports ∧
    (setDram a b d).profiles = d.profiles ∧ (setDram a b d).cam = d.cam ∧ (setDram a b d).wins = d.wins ∧
    (setDram a b d).ctxs = d.ctxs ∧ (setDram a b d).gpu = d.gpu ∧ (setDram a b d).tch = d.tch ∧ (setDram a b d).keys = d.keys ∧
    (setDram a b d).hap = d.hap ∧ (setDram a b d).aud = d.aud ∧ (setDram a b d).afe = d.afe ∧ (setDram a b d).pst = d.pst ∧
    (setDram a b d).drc = d.drc ∧ (setDram a b d).tly = d.tly ∧ (setDram a b d).data = d.data ∧
    (setDram a b d).poisoned = d.poisoned ∧ (setDram a b d).pasture = d.pasture ∧ (setDram a b d).nvm = d.nvm ∧
    (setDram a b d).boot = d.boot ∧ (setDram a b d).nvmc = d.nvmc ∧ (setDram a b d).xspi = d.xspi ∧
    (∀ q o, rg (setDram a b d) q o = rg d q o) :=
  ⟨rfl, rfl, rfl, rfl, rfl, rfl, rfl, rfl, rfl, rfl, rfl, rfl, rfl, rfl, rfl, rfl, rfl, rfl, rfl, rfl, rfl, rfl, rfl,
  rfl, rfl, rfl, rfl, rfl, rfl, rfl, rfl, rfl, rfl, rfl, rfl, rfl, rfl, rfl, rfl, rfl, rfl, rfl, rfl, rfl,
  fun _ _ => rfl⟩

@[simp] theorem setNvm_keeps (a : Nat) (b : Byte) (d : Dev) :
    (setNvm a b d).regs = d.regs ∧ (setNvm a b d).us = d.us ∧ (setNvm a b d).free = d.free ∧ (setNvm a b d).resp = d.resp ∧
    (setNvm a b d).out = d.out ∧ (setNvm a b d).firing = d.firing ∧ (setNvm a b d).gp = d.gp ∧ (setNvm a b d).upset = d.upset ∧
    (setNvm a b d).iso = d.iso ∧ (setNvm a b d).classDefer = d.classDefer ∧ (setNvm a b d).blk = d.blk ∧
    (setNvm a b d).sdg = d.sdg ∧ (setNvm a b d).cairn = d.cairn ∧ (setNvm a b d).tet = d.tet ∧ (setNvm a b d).can = d.can ∧
    (setNvm a b d).wld = d.wld ∧ (setNvm a b d).pwr = d.pwr ∧ (setNvm a b d).pad = d.pad ∧ (setNvm a b d).pipes = d.pipes ∧
    (setNvm a b d).luts = d.luts ∧ (setNvm a b d).lutHalf = d.lutHalf ∧ (setNvm a b d).wbs = d.wbs ∧
    (setNvm a b d).heads = d.heads ∧ (setNvm a b d).ports = d.ports ∧ (setNvm a b d).profiles = d.profiles ∧
    (setNvm a b d).cam = d.cam ∧ (setNvm a b d).wins = d.wins ∧ (setNvm a b d).ctxs = d.ctxs ∧ (setNvm a b d).gpu = d.gpu ∧
    (setNvm a b d).tch = d.tch ∧ (setNvm a b d).keys = d.keys ∧ (setNvm a b d).hap = d.hap ∧ (setNvm a b d).aud = d.aud ∧
    (setNvm a b d).afe = d.afe ∧ (setNvm a b d).pst = d.pst ∧ (setNvm a b d).drc = d.drc ∧ (setNvm a b d).tly = d.tly ∧
    (setNvm a b d).data = d.data ∧ (setNvm a b d).poisoned = d.poisoned ∧ (setNvm a b d).pasture = d.pasture ∧
    (setNvm a b d).dram = d.dram ∧ (setNvm a b d).boot = d.boot ∧ (setNvm a b d).nvmc = d.nvmc ∧ (setNvm a b d).xspi = d.xspi ∧
    (∀ q o, rg (setNvm a b d) q o = rg d q o) :=
  ⟨rfl, rfl, rfl, rfl, rfl, rfl, rfl, rfl, rfl, rfl, rfl, rfl, rfl, rfl, rfl, rfl, rfl, rfl, rfl, rfl, rfl, rfl, rfl,
  rfl, rfl, rfl, rfl, rfl, rfl, rfl, rfl, rfl, rfl, rfl, rfl, rfl, rfl, rfl, rfl, rfl, rfl, rfl, rfl, rfl,
  fun _ _ => rfl⟩

/-- The end of a cycle moves the reports of the command that has run, and nothing else. -/
@[simp] theorem cycleEnd_keeps (d : Dev) :
    (cycleEnd d).regs = d.regs ∧ (cycleEnd d).us = d.us ∧ (cycleEnd d).free = d.free ∧ (cycleEnd d).resp = d.resp ∧
    (cycleEnd d).out = d.out ∧ (cycleEnd d).gp = d.gp ∧ (cycleEnd d).upset = d.upset ∧ (cycleEnd d).iso = d.iso ∧
    (cycleEnd d).classDefer = d.classDefer ∧ (cycleEnd d).blk = d.blk ∧ (cycleEnd d).cairn = d.cairn ∧
    (cycleEnd d).can = d.can ∧ (cycleEnd d).wld = d.wld ∧ (cycleEnd d).pwr = d.pwr ∧ (cycleEnd d).pad = d.pad ∧
    (cycleEnd d).pipes = d.pipes ∧ (cycleEnd d).luts = d.luts ∧ (cycleEnd d).lutHalf = d.lutHalf ∧ (cycleEnd d).wbs = d.wbs ∧
    (cycleEnd d).heads = d.heads ∧ (cycleEnd d).ports = d.ports ∧ (cycleEnd d).profiles = d.profiles ∧
    (cycleEnd d).cam = d.cam ∧ (cycleEnd d).wins = d.wins ∧ (cycleEnd d).ctxs = d.ctxs ∧ (cycleEnd d).gpu = d.gpu ∧
    (cycleEnd d).tch = d.tch ∧ (cycleEnd d).keys = d.keys ∧ (cycleEnd d).hap = d.hap ∧ (cycleEnd d).aud = d.aud ∧
    (cycleEnd d).afe = d.afe ∧ (cycleEnd d).pst = d.pst ∧ (cycleEnd d).drc = d.drc ∧ (cycleEnd d).tly = d.tly ∧
    (cycleEnd d).data = d.data ∧ (cycleEnd d).poisoned = d.poisoned ∧ (cycleEnd d).pasture = d.pasture ∧
    (cycleEnd d).dram = d.dram ∧ (cycleEnd d).nvm = d.nvm ∧ (cycleEnd d).boot = d.boot ∧ (cycleEnd d).nvmc = d.nvmc ∧
    (cycleEnd d).xspi = d.xspi ∧ (cycleEnd d).sdg.inReset = d.sdg.inReset ∧ (cycleEnd d).sdg.deadHeld = d.sdg.deadHeld ∧
    (cycleEnd d).sdg.reload = d.sdg.reload ∧ (cycleEnd d).sdg.table = d.sdg.table ∧ (cycleEnd d).sdg.defs = d.sdg.defs ∧
    (cycleEnd d).sdg.tableOn = d.sdg.tableOn ∧ (cycleEnd d).sdg.active = d.sdg.active ∧
    (cycleEnd d).sdg.heldEvents = d.sdg.heldEvents ∧ (cycleEnd d).sdg.starting = d.sdg.starting ∧
    (cycleEnd d).sdg.fellHeld = d.sdg.fellHeld ∧ (cycleEnd d).sdg.waiting = d.sdg.waiting ∧
    (cycleEnd d).sdg.counted = d.sdg.counted ∧ (cycleEnd d).sdg.recovery = d.sdg.recovery ∧
    (cycleEnd d).sdg.agreeLeft = d.sdg.agreeLeft ∧ (cycleEnd d).sdg.nextSeq = d.sdg.nextSeq ∧
    (cycleEnd d).sdg.open_ = d.sdg.open_ ∧ (cycleEnd d).sdg.lastSent = d.sdg.lastSent ∧
    (cycleEnd d).sdg.lastAnswer = d.sdg.lastAnswer ∧ (cycleEnd d).sdg.differ = d.sdg.differ ∧
    (cycleEnd d).sdg.missed = d.sdg.missed ∧ (cycleEnd d).sdg.declared = d.sdg.declared ∧
    (cycleEnd d).sdg.suspended = d.sdg.suspended ∧ (cycleEnd d).sdg.alive = d.sdg.alive ∧
    (cycleEnd d).sdg.causeBlock = d.sdg.causeBlock ∧ (cycleEnd d).sdg.causeSource = d.sdg.causeSource ∧
    (cycleEnd d).sdg.vaoEpoch = d.sdg.vaoEpoch ∧ (cycleEnd d).sdg.vaoRestarts = d.sdg.vaoRestarts ∧
    (cycleEnd d).sdg.vaoLocks = d.sdg.vaoLocks ∧ (cycleEnd d).sdg.rstCause = d.sdg.rstCause ∧
    (cycleEnd d).sdg.pinWindows = d.sdg.pinWindows ∧ (cycleEnd d).tet.toDale = d.tet.toDale ∧
    (cycleEnd d).tet.toFell = d.tet.toFell ∧ (cycleEnd d).tet.gather = d.tet.gather ∧ (cycleEnd d).tet.fails = d.tet.fails ∧
    (cycleEnd d).tet.runWord = d.tet.runWord ∧ (∀ q o, rg (cycleEnd d) q o = rg d q o) ∧ (cycleEnd d).firing = [] := by
  unfold cycleEnd
  split
  all_goals repeat' apply And.intro
  all_goals first | rfl | exact fun _ _ => rfl | assumption

@[simp] theorem rf_cycleEnd (d : Dev) (p : Page) (o hi lo : Nat) : rf (cycleEnd d) p o hi lo = rf d p o hi lo := by simp [rf]

@[simp] theorem rb_cycleEnd (d : Dev) (p : Page) (o k : Nat) : rb (cycleEnd d) p o k = rb d p o k := by simp [rb]

/-- With no fault source fired, the end of the cycle changes nothing. -/
theorem cycleEnd_quiet {d : Dev} (h : d.firing = []) : cycleEnd d = d := if_pos h

/-! ## Reads after writes -/

/-- A register reads what was written to it, and every other address as before. -/
theorem rg_sg (p q : Page) (o o' : Nat) (v : Word) (d : Dev) :
    rg (sg p o v d) q o' = if q.base + o' = p.base + o then v else rg d q o' := tabGet_set _ _ _ _ _

@[simp] theorem rg_sg_same (p : Page) (o : Nat) (v : Word) (d : Dev) : rg (sg p o v d) p o = v := by simp [rg_sg]

theorem rg_sg_ne {p q : Page} {o o' : Nat} {v : Word} {d : Dev} (h : q.base + o' ≠ p.base + o) :
    rg (sg p o v d) q o' = rg d q o' := by simp [rg_sg, h]

@[simp] theorem rf_eq_fld (d : Dev) (p : Page) (o hi lo : Nat) : rf d p o hi lo = fld (rg d p o) hi lo := rfl

@[simp] theorem rb_eq_bitOf (d : Dev) (p : Page) (o k : Nat) : rb d p o k = bitOf (rg d p o) k := rfl

@[simp] theorem when_true (f : Dev → Dev) (d : Dev) : when true f d = f d := rfl

@[simp] theorem when_false (f : Dev → Dev) (d : Dev) : when false f d = d := rfl

/-- A mark of isolation reads as set, and every other page's as before. -/
theorem isoOf_setIso (p q : Page) (b : Bool) (d : Dev) : isoOf (setIso p b d) q = if q.base = p.base then b else isoOf d q :=
  tabGet_set _ _ _ _ _

/-- The records of the instances read what was put there, and every other instance's as before. -/
theorem records_mod (d : Dev) (k j : Nat) :
    (∀ f, pipeOf (modPipe k f d) j = if j = k then f (pipeOf d k) else pipeOf d j) ∧
    (∀ f, headOf (modHead k f d) j = if j = k then f (headOf d k) else headOf d j) ∧
    (∀ f, wbOf (modWb k f d) j = if j = k then f (wbOf d k) else wbOf d j) ∧
    (∀ f, portS (modPort k f d) j = if j = k then f (portS d k) else portS d j) ∧
    (∀ f, winOf (modWin k f d) j = if j = k then f (winOf d k) else winOf d j) ∧
    (∀ f, ctxOf (modCtx k f d) j = if j = k then f (ctxOf d k) else ctxOf d j) ∧
    (∀ f, tpOf (modTp k f d) j = if j = k then f (tpOf d k) else tpOf d j) ∧
    (∀ f, ringOf (modRing k f d) j = if j = k then f (ringOf d k) else ringOf d j) ∧
    (∀ f, keyOf (modKey k f d) j = if j = k then f (keyOf d k) else keyOf d j) ∧
    (∀ f, hapChOf (modHapCh k f d) j = if j = k then f (hapChOf d k) else hapChOf d j) ∧
    (∀ f, routeS (modRoute k f d) j = if j = k then f (routeS d k) else routeS d j) ∧
    (∀ f, asOf (modAs k f d) j = if j = k then f (asOf d k) else asOf d j) ∧
    (∀ f, domOf (modDom k f d) j = if j = k then f (domOf d k) else domOf d j) ∧
    (∀ f, stOf (modSt k f d) j = if j = k then f (stOf d k) else stOf d j) ∧
    (∀ f, spkOf (modSpk k f d) j = if j = k then f (spkOf d k) else spkOf d j) ∧
    (∀ f, streamOf (modStream k f d) j = if j = k then f (streamOf d k) else streamOf d j) ∧
    (∀ f, dwOf (modDw k f d) j = if j = k then f (dwOf d k) else dwOf d j) ∧
    (∀ f, upOf (modUp k f d) j = if j = k then f (upOf d k) else upOf d j) ∧
    (∀ f, fnOf (modFn k f d) j = if j = k then f (fnOf d k) else fnOf d j) ∧
    (∀ f, padOf (modPad k f d) j = if j = k then f (padOf d k) else padOf d j) ∧
    (∀ f, canOf (modCan k f d) j = if j = k then f (canOf d k) else canOf d j) ∧
    (∀ f, coreOf (modCore k f d) j = if j = k then f (coreOf d k) else coreOf d j) ∧
    (∀ f, railOf (modRail k f d) j = if j = k then f (railOf d k) else railOf d j) ∧
    (∀ f, blkOf (modBlk k f d) j = if j = k then f (blkOf d k) else blkOf d j) := by
  refine ⟨?_, ?_, ?_, ?_, ?_, ?_, ?_, ?_, ?_, ?_, ?_, ?_, ?_, ?_, ?_, ?_, ?_, ?_, ?_, ?_, ?_, ?_, ?_, ?_⟩ <;>
    exact fun f => tabGet_set _ _ _ _ _

/-- The memories read what was written, and every other byte as before. -/
theorem bytes_set (d : Dev) (a c : Nat) (b : Byte) :
    pastByte (setPast a b d) c = (if c = a then b else pastByte d c) ∧
    dramByte (setDram a b d) c = (if c = a then b else dramByte d c) ∧
    nvmByte (setNvm a b d) c = (if c = a then b else nvmByte d c) :=
  ⟨tabGet_set _ _ _ _ _, tabGet_set _ _ _ _ _, tabGet_set _ _ _ _ _⟩

end Sys2Proof.Machine
end

