-- ==== Sys2Proof/Laws/Ops.lean ====
section
/-! SUPPORT. What each shared operation can do, said once: events and faults, the checks of an access, the front of a packet
queue. -/
namespace Sys2Proof.Machine

/-! ## Events, faults and their reactions change nothing but what `FaultsOnly` lists -/

theorem FaultsOnly.refl (d : Dev) : FaultsOnly d d := rfl

theorem FaultsOnly.trans {a b c : Dev} (h : FaultsOnly a b) (k : FaultsOnly b c) : FaultsOnly a c := by
  unfold FaultsOnly at *
  rw [h] at k
  exact k

theorem FaultsOnly.regs (d : Dev) (r : Tab Word) : FaultsOnly d { d with regs := r } := rfl

theorem FaultsOnly.sg (p : Page) (o : Nat) (v : Word) (d : Dev) : FaultsOnly d (sg p o v d) := rfl
theorem FaultsOnly.sf (p : Page) (o hi lo x : Nat) (d : Dev) : FaultsOnly d (sf p o hi lo x d) := rfl
theorem FaultsOnly.sb (p : Page) (o k : Nat) (b : Bool) (d : Dev) : FaultsOnly d (sb p o k b d) := rfl
theorem FaultsOnly.bump (p : Page) (o hi lo : Nat) (d : Dev) : FaultsOnly d (bump p o hi lo d) := rfl
theorem FaultsOnly.sg64 (p : Page) (lo x : Nat) (d : Dev) : FaultsOnly d (sg64 p lo x d) :=
  (FaultsOnly.sg _ _ _ _).trans (.sg _ _ _ _)
theorem FaultsOnly.emit (m : Out) (d : Dev) : FaultsOnly d (emit m d) := rfl
theorem FaultsOnly.setIso (p : Page) (b : Bool) (d : Dev) : FaultsOnly d (setIso p b d) := rfl
theorem FaultsOnly.modCtx (k : Nat) (f : CtxS → CtxS) (d : Dev) : FaultsOnly d (modCtx k f d) := rfl

theorem FaultsOnly.forN {f : Nat → Dev → Dev} (h : ∀ k d, FaultsOnly d (f k d)) (n : Nat) (d : Dev) :
    FaultsOnly d (forN f n d) := by
  unfold Machine.forN
  generalize List.range n = l
  induction l generalizing d with
  | nil => exact .refl d
  | cons k l ih => exact (h k d).trans (ih _)

theorem FaultsOnly.ite {c : Prop} [Decidable c] {d a b : Dev} (ha : FaultsOnly d a) (hb : FaultsOnly d b) :
    FaultsOnly d (if c then a else b) := by split <;> assumption

theorem FaultsOnly.sendMsix (fn v : Nat) (d : Dev) : FaultsOnly d (sendMsix fn v d) := by
  unfold Machine.sendMsix
  exact .ite (.refl d) (.ite rfl rfl)

theorem FaultsOnly.withIrq (p : Page) {f : Dev → Dev} {d : Dev} (h : FaultsOnly d (f d)) : FaultsOnly d (withIrq p f d) := by
  unfold Machine.withIrq
  refine .ite h (.ite ?_ ?_)
  · unfold irqRise
    split
    · exact h.trans (.sendMsix _ _ _)
    · exact h
  · split
    · exact h.trans (.sb _ _ _ _ _)
    · exact h

/-- An event. -/
theorem FaultsOnly.event (p : Page) (k : Nat) (d : Dev) : FaultsOnly d (event p k d) := .withIrq p (.sg _ _ _ _)

theorem FaultsOnly.sendReport (b : Bool) (n : Nat) (r : FaultRep) (d : Dev) : FaultsOnly d (sendReport b n r d) := rfl

theorem FaultsOnly.ctxState (n st c : Nat) (d : Dev) : FaultsOnly d (ctxState n st c d) :=
  (FaultsOnly.sf _ _ _ _ _ _).trans (.sf _ _ _ _ _ _)
theorem FaultsOnly.ctxHalt (n : Nat) (d : Dev) : FaultsOnly d (ctxHalt n d) :=
  (FaultsOnly.modCtx n _ d).trans rfl

theorem FaultsOnly.auxSend (n : Nat) (d : Dev) : FaultsOnly d (auxSend n d) := by
  unfold Machine.auxSend
  split
  · exact .ite (.refl d) (.ite rfl rfl)
  · exact .refl d

theorem FaultsOnly.setPort (n st : Nat) (t : Bool) (d : Dev) : FaultsOnly d (setPort n st t d) :=
  (((FaultsOnly.sf _ _ _ _ _ _).trans (.sb _ _ _ _ _)).trans (.sb _ _ _ _ _)).trans (.auxSend _ _)

theorem FaultsOnly.isoStatus (b : Bool) (p : Page) (d : Dev) : FaultsOnly d (isoStatus b p d) := by
  unfold Machine.isoStatus
  split
  · exact .sb _ _ _ _ _
  · exact .sb _ _ _ _ _
  · exact .sb _ _ _ _ _
  · exact .sb _ _ _ _ _
  · exact .ite (FaultsOnly.setPort _ _ _ _) (.refl d)
  · exact .ite ((FaultsOnly.ctxHalt _ _).trans (.ctxState _ _ _ _)) (.ctxState _ _ _ _)
  · exact .sf _ _ _ _ _ _
  · exact (FaultsOnly.sf _ _ _ _ _ _).trans (.sb _ _ _ _ _)
  · exact .forN (fun k e => .ite (.sf _ _ _ _ _ _) (.refl e)) _ _
  · exact .forN (fun k e => .sb _ _ _ _ _) _ _
  · exact .refl d

theorem FaultsOnly.isolateOne (p : Page) (d : Dev) : FaultsOnly d (isolateOne p d) := by
  unfold Machine.isolateOne
  have h : FaultsOnly d (Machine.isoStatus true p (Machine.setIso p true d)) := (FaultsOnly.setIso p true d).trans (.isoStatus _ _ _)
  split
  · exact h.trans (.event _ _ _)
  · exact h

theorem FaultsOnly.fireWith {iso : Page → Dev → Dev} (h : ∀ p d, FaultsOnly d (iso p d)) (p : Page) (src : Nat) (d : Dev) :
    FaultsOnly d (fireWith iso p src d) := by
  unfold Machine.fireWith
  exact .ite ((FaultsOnly.sendReport _ _ _ _).trans (h _ _)) (.sendReport _ _ _ _)

/-- A context fault. -/
theorem FaultsOnly.ctxFault (n r x a : Nat) (d : Dev) : FaultsOnly d (ctxFault n r x a d) := by
  unfold Machine.ctxFault
  refine .ite (.refl d) (FaultsOnly.trans ?_ (.fireWith .isolateOne _ _ _))
  exact ((((FaultsOnly.sg _ _ _ _).trans (.sg64 _ _ _ _)).trans (.ctxHalt _ _)).trans (.ctxState _ _ _ _)).trans (.event _ _ _)

theorem FaultsOnly.ctxFaultAll (r : Nat) (d : Dev) : FaultsOnly d (ctxFaultAll r d) := .forN (fun _ _ => .ctxFault _ _ _ _ _) _ _

theorem FaultsOnly.isolate (p : Page) (d : Dev) : FaultsOnly d (isolate p d) := by
  unfold Machine.isolate
  split
  · exact (FaultsOnly.isolateOne _ _).trans (.ctxFaultAll _ _)
  · exact .isolateOne _ _

/-- A fault source fires. -/
theorem FaultsOnly.fireSource (p : Page) (src : Nat) (d : Dev) : FaultsOnly d (fireSource p src d) := .fireWith .isolate _ _ _

/-- A fault source with an event fires. -/
theorem FaultsOnly.raiseFault (p : Page) (src k : Nat) (d : Dev) : FaultsOnly d (raiseFault p src k d) :=
  (FaultsOnly.event p k d).trans (.fireSource _ _ _)

theorem FaultsOnly.accessRefused (p : Page) (d : Dev) : FaultsOnly d (accessRefused p d) := .raiseFault _ _ _ _

theorem FaultsOnly.guardFail (p : Page) (d : Dev) : FaultsOnly d (guardFail p d) :=
  (FaultsOnly.bump _ _ _ _ _).trans (.raiseFault _ _ _ _)

/-! ## Interrupts -/

/-- Every page starts at a multiple of 4 KiB (R34). -/
theorem base_mod (p : Page) : p.base % 0x1000 = 0 := by cases p <;> simp only [Page.base] <;> omega

/-- Different offsets below 4 KiB are different addresses, in whatever pages. -/
theorem base_ne {p q : Page} {o o' : Nat} (h : o < 0x1000) (h' : o' < 0x1000) (hne : o ≠ o') : p.base + o ≠ q.base + o' := by
  have := base_mod p; have := base_mod q; omega

/-- A register other than at the offset of PBA is no PBA. -/
theorem not_pba {p : Page} {o : Nat} (h : o < 0x1000) (hne : o ≠ Reg.PBA) : ¬ pbaAt (p.base + o) := by
  rintro ⟨fn, e⟩; exact base_ne h (by decide) hne e

/-- A message changes one bit of a PBA or the messages out. -/
theorem sendMsix_eq (fn v : Nat) (d : Dev) : ∃ R O, sendMsix fn v d = { d with regs := R, out := O } ∧
    ∀ a, ¬ pbaAt a → tabGet regReset R a = tabGet regReset d.regs a := by
  unfold sendMsix
  have k : ∀ (b : Bool) a, ¬ pbaAt a → tabGet regReset (sb (msixPage fn) Reg.PBA v b d).regs a = tabGet regReset d.regs a := by
    intro b a h
    exact tabGet_set_ne (fun e => h ⟨fn, e⟩)
  split
  · exact ⟨d.regs, d.out, rfl, fun _ _ => rfl⟩
  · split
    · exact ⟨_, _, rfl, k false⟩
    · exact ⟨_, _, rfl, k true⟩

/-- A change of an EVENT or EVENT_EN word changes nothing else than it does itself, pending bits of a PBA and messages out. -/
theorem withIrq_eq (p : Page) (f : Dev → Dev) (d : Dev) : ∃ R O, withIrq p f d = { f d with regs := R, out := O } ∧
    ∀ a, ¬ pbaAt a → tabGet regReset R a = tabGet regReset (f d).regs a := by
  unfold withIrq
  split
  · exact ⟨_, _, rfl, fun _ _ => rfl⟩
  · split
    · unfold irqRise
      split
      · exact sendMsix_eq _ _ _
      · exact ⟨_, _, rfl, fun _ _ => rfl⟩
    · split
      · exact ⟨_, _, rfl, fun a h => tabGet_set_ne (fun e => h ⟨_, e⟩)⟩
      · exact ⟨_, _, rfl, fun _ _ => rfl⟩

/-- A register that is no PBA reads as the change left it. -/
theorem rg_withIrq {q : Page} {o : Nat} (h : ¬ pbaAt (q.base + o)) (p : Page) (f : Dev → Dev) (d : Dev) :
    rg (withIrq p f d) q o = rg (f d) q o := by
  obtain ⟨R, O, e, k⟩ := withIrq_eq p f d
  rw [e]; exact k _ h

/-! ## Reports -/

/-- Fault sources are only added to those that have fired in the command that runs, and none has reached the Sheepdog or TET. -/
def Grows (d e : Dev) : Prop := (∃ l, e.firing = d.firing ++ l) ∧ e.sdg = d.sdg ∧ e.tet = d.tet

theorem Grows.same {d e : Dev} (h : e.firing = d.firing) (h' : e.sdg = d.sdg) (h'' : e.tet = d.tet) : Grows d e :=
  ⟨⟨[], by rw [h, List.append_nil]⟩, h', h''⟩

theorem Grows.refl (d : Dev) : Grows d d := .same rfl rfl rfl

theorem Grows.sg (p : Page) (o : Nat) (v : Word) (d : Dev) : Grows d (sg p o v d) := .same rfl rfl rfl
theorem Grows.sf (p : Page) (o hi lo x : Nat) (d : Dev) : Grows d (sf p o hi lo x d) := .same rfl rfl rfl
theorem Grows.sb (p : Page) (o k : Nat) (b : Bool) (d : Dev) : Grows d (sb p o k b d) := .same rfl rfl rfl
theorem Grows.modCtx (k : Nat) (f : CtxS → CtxS) (d : Dev) : Grows d (modCtx k f d) := .same rfl rfl rfl

theorem Grows.trans {a b c : Dev} (h : Grows a b) (k : Grows b c) : Grows a c := by
  obtain ⟨⟨l, e⟩, f, g⟩ := h
  obtain ⟨⟨l', e'⟩, f', g'⟩ := k
  exact ⟨⟨l ++ l', by rw [e', e, List.append_assoc]⟩, f'.trans f, g'.trans g⟩

theorem Grows.ite {c : Prop} [Decidable c] {d a b : Dev} (ha : Grows d a) (hb : Grows d b) : Grows d (if c then a else b) := by
  split <;> assumption

theorem Grows.forN {f : Nat → Dev → Dev} (h : ∀ k d, Grows d (f k d)) (n : Nat) (d : Dev) : Grows d (forN f n d) := by
  unfold Machine.forN
  generalize List.range n = l
  induction l generalizing d with
  | nil => exact .refl d
  | cons k l ih => exact (h k d).trans (ih _)

theorem Grows.withIrq (p : Page) {f : Dev → Dev} {d : Dev} (h : Grows d (f d)) : Grows d (withIrq p f d) := by
  obtain ⟨R, O, e, -⟩ := withIrq_eq p f d
  rw [e]; exact h

theorem Grows.event (p : Page) (k : Nat) (d : Dev) : Grows d (event p k d) := .withIrq p (.same rfl rfl rfl)

theorem Grows.sendReport (b : Bool) (n : Nat) (r : FaultRep) (d : Dev) : Grows d (sendReport b n r d) := ⟨⟨_, rfl⟩, rfl, rfl⟩

theorem Grows.ctxState (n st c : Nat) (d : Dev) : Grows d (ctxState n st c d) := (Grows.sf _ _ _ _ _ _).trans (.sf _ _ _ _ _ _)
theorem Grows.ctxHalt (n : Nat) (d : Dev) : Grows d (ctxHalt n d) := .same rfl rfl rfl

theorem Grows.auxSend (n : Nat) (d : Dev) : Grows d (auxSend n d) := by
  unfold Machine.auxSend
  split
  · exact .ite (.refl d) (.ite (.same rfl rfl rfl) (.same rfl rfl rfl))
  · exact .refl d

theorem Grows.setPort (n st : Nat) (t : Bool) (d : Dev) : Grows d (setPort n st t d) :=
  (((Grows.sf _ _ _ _ _ _).trans (.sb _ _ _ _ _)).trans (.sb _ _ _ _ _)).trans (.auxSend _ _)

theorem Grows.isoStatus (b : Bool) (p : Page) (d : Dev) : Grows d (isoStatus b p d) := by
  unfold Machine.isoStatus
  split
  · exact .sb _ _ _ _ _
  · exact .sb _ _ _ _ _
  · exact .sb _ _ _ _ _
  · exact .sb _ _ _ _ _
  · exact .ite (.setPort _ _ _ _) (.refl d)
  · exact .ite ((Grows.ctxHalt _ _).trans (.ctxState _ _ _ _)) (.ctxState _ _ _ _)
  · exact .sf _ _ _ _ _ _
  · exact (Grows.sf _ _ _ _ _ _).trans (.sb _ _ _ _ _)
  · exact .forN (fun k e => .ite (.sf _ _ _ _ _ _) (.refl e)) _ _
  · exact .forN (fun k e => .sb _ _ _ _ _) _ _
  · exact .refl d

theorem Grows.isolateOne (p : Page) (d : Dev) : Grows d (isolateOne p d) := by
  unfold Machine.isolateOne
  have h : Grows d (Machine.isoStatus true p (Machine.setIso p true d)) := Grows.trans (.same rfl rfl rfl) (.isoStatus _ _ _)
  split
  · exact h.trans (.event _ _ _)
  · exact h

theorem Grows.fireWith {iso : Page → Dev → Dev} (h : ∀ p d, Grows d (iso p d)) (p : Page) (src : Nat) (d : Dev) :
    Grows d (fireWith iso p src d) := by
  unfold Machine.fireWith
  exact .ite ((Grows.sendReport _ _ _ _).trans (h _ _)) (.sendReport _ _ _ _)

theorem Grows.ctxFault (n r x a : Nat) (d : Dev) : Grows d (ctxFault n r x a d) := by
  unfold Machine.ctxFault
  refine .ite (.refl d) (Grows.trans ?_ (.fireWith .isolateOne _ _ _))
  exact ((((Grows.sg _ _ _ _).trans ((Grows.sg _ _ _ _).trans (.sg _ _ _ _))).trans (.ctxHalt _ _)).trans
    (.ctxState _ _ _ _)).trans (.event _ _ _)

theorem Grows.isolate (p : Page) (d : Dev) : Grows d (isolate p d) := by
  unfold Machine.isolate
  split
  · exact (Grows.isolateOne _ _).trans (.forN (fun _ _ => .ctxFault _ _ _ _ _) _ _)
  · exact .isolateOne _ _

/-- A fault source `src` of page `p` has fired after those of `d`, and nothing has yet reached the Sheepdog or TET. -/
def Fires (p : Page) (src : Nat) (d e : Dev) : Prop :=
  ∃ (r : FaultRep) (b : Bool) (l : List (FaultRep × Nat × Bool)), r.block = p.code ∧ r.src = src ∧ r.cls = classOf d p src ∧
    e.firing = d.firing ++ (r, p.base, b) :: l ∧ e.sdg = d.sdg ∧ e.tet = d.tet

/-- A source that fires is on its way, whatever its class. -/
theorem fires_fireSource (p : Page) (src : Nat) (d : Dev) : Fires p src d (fireSource p src d) := by
  unfold fireSource fireWith
  have key : ∀ (r : FaultRep) (e : Dev), Grows (sendReport p.onDale p.base r d) e → r.block = p.code → r.src = src →
      r.cls = classOf d p src → Fires p src d e := by
    rintro r e ⟨⟨l, g⟩, g', g''⟩ h1 h2 h3
    exact ⟨r, _, l, h1, h2, h3, by rw [g]; exact List.append_assoc _ _ _, g', g''⟩
  dsimp only
  split
  · exact key _ _ (.isolate _ _) rfl rfl rfl
  · exact key _ _ (.refl _) rfl rfl rfl

/-- A report that has its place in a cycle keeps it. -/
theorem putFired_keeps {x : FaultRep × Nat × Bool} (y : FaultRep × Nat × Bool) {l : List (FaultRep × Nat × Bool)} (h : x ∈ l) :
    x ∈ putFired y l := by
  induction l with
  | nil => cases h
  | cons z l ih =>
    unfold putFired
    split
    · exact h
    · split
      · exact List.mem_cons_of_mem _ h
      · rcases List.mem_cons.mp h with rfl | h
        · exact List.mem_cons_self ..
        · exact List.mem_cons_of_mem _ (ih h)

/-- A report of a cycle is one of those that fired. -/
theorem putFired_mem {x y : FaultRep × Nat × Bool} {l : List (FaultRep × Nat × Bool)} (h : x ∈ putFired y l) : x = y ∨ x ∈ l := by
  induction l with
  | nil => exact .inl (List.mem_singleton.mp h)
  | cons z l ih =>
    unfold putFired at h
    split at h
    · exact .inr h
    · split at h
      · exact List.mem_cons.mp h
      · rcases List.mem_cons.mp h with rfl | h
        · exact .inr (List.mem_cons_self ..)
        · exact (ih h).imp id (List.mem_cons_of_mem _)

/-- A source that has not fired in a cycle takes a place of its own in it. -/
theorem putFired_new {x : FaultRep × Nat × Bool} {l : List (FaultRep × Nat × Bool)}
    (h : ∀ y ∈ l, ¬ (y.2.1 = x.2.1 ∧ y.1.src = x.1.src)) : x ∈ putFired x l := by
  induction l with
  | nil => exact List.mem_singleton.mpr rfl
  | cons z l ih =>
    unfold putFired
    rw [if_neg (h z (List.mem_cons_self ..))]
    split
    · exact List.mem_cons_self ..
    · exact List.mem_cons_of_mem _ (ih (fun y hy => h y (List.mem_cons_of_mem _ hy)))

/-- What fires stands in its cycle, if the same source of the same page has not fired before in it. -/
theorem fired_stands (a : List (FaultRep × Nat × Bool)) (x : FaultRep × Nat × Bool) (l : List (FaultRep × Nat × Bool))
    (h : ∀ y ∈ a, ¬ (y.2.1 = x.2.1 ∧ y.1.src = x.1.src)) : x ∈ (a ++ x :: l).foldl (fun l x => putFired x l) [] := by
  have keep : ∀ (l m : List (FaultRep × Nat × Bool)), x ∈ m → x ∈ l.foldl (fun l x => putFired x l) m := by
    intro l
    induction l with
    | nil => exact fun _ h => h
    | cons y l ih => exact fun _ h => ih _ (putFired_keeps y h)
  have only : ∀ (a m : List (FaultRep × Nat × Bool)) (y), y ∈ a.foldl (fun l x => putFired x l) m → y ∈ a ∨ y ∈ m := by
    intro a
    induction a with
    | nil => exact fun _ _ h => .inr h
    | cons z a ih =>
      intro m y hy
      rcases ih _ _ hy with hy | hy
      · exact .inl (List.mem_cons_of_mem _ hy)
      · rcases putFired_mem hy with rfl | hy
        · exact .inl (List.mem_cons_self ..)
        · exact .inr hy
  rw [List.foldl_append]
  exact keep l _ (putFired_new (fun y hy => h y ((only a [] y hy).resolve_right (by simp))))

/-- A report among those of a cycle that go one way leaves with the same block, source and class. -/
theorem oneCycle_mem {r : FaultRep} {n : Nat} {b : Bool} {l : List (FaultRep × Nat × Bool)} (h : (r, n, b) ∈ l) :
    ∃ q : FaultRep, (q, n) ∈ oneCycle b l ∧ q.block = r.block ∧ q.src = r.src ∧ q.cls = r.cls := by
  have hm : (r, n) ∈ (l.filter (fun x => x.2.2 == b)).map (fun x => (x.1, x.2.1)) :=
    List.mem_map.mpr ⟨_, List.mem_filter.mpr ⟨h, by simp⟩, rfl⟩
  unfold oneCycle
  split
  · rename_i e; rw [e] at hm; cases hm
  · rename_i y t e
    rw [e] at hm
    rcases List.mem_cons.mp hm with e' | h'
    · exact ⟨r, e' ▸ List.mem_cons_self .., rfl, rfl, rfl⟩
    · exact ⟨{ r with same := true }, List.mem_cons_of_mem _ (List.mem_map.mpr ⟨_, h', rfl⟩), rfl, rfl, rfl⟩

/-- What fires in a command is reported at its end. -/
theorem reported_cycleEnd {p : Page} {src : Nat} {d e : Dev} (h0 : ∀ y ∈ d.firing, ¬ (y.2.1 = p.base ∧ y.1.src = src))
    (h : Fires p src d e) : Reported p src d (cycleEnd e) := by
  obtain ⟨r, b, l, h1, h2, h3, h4, h5, h6⟩ := h
  obtain ⟨q, hq, q1, q2, q3⟩ := oneCycle_mem (fired_stands d.firing (r, p.base, b) l (by rw [h2]; exact h0))
  have hc : cycleEnd e = { e with
      firing := []
      sdg := { e.sdg with reports := e.sdg.reports ++ oneCycle true (e.firing.foldl (fun l x => putFired x l) []) }
      tet := { e.tet with
        queue := (e.tet.queue ++ oneCycle false (e.firing.foldl (fun l x => putFired x l) [])).take 256
        dropped := e.tet.dropped + ((e.tet.queue ++ oneCycle false (e.firing.foldl (fun l x => putFired x l) [])).length - 256) } } := by
    unfold cycleEnd
    rw [if_neg (by rw [h4]; simp)]
  rw [hc, h4]
  refine ⟨q, oneCycle b ((d.firing ++ (r, p.base, b) :: l).foldl (fun l x => putFired x l) []), q1.trans h1, q2.trans h2,
    q3.trans h3, hq, ?_⟩
  cases b
  · exact .inr ⟨by rw [h6], by rw [h6]⟩
  · exact .inl (by rw [h5])

/-- What fires first in a command is reported at its end. -/
theorem reported_first {p : Page} {src : Nat} {d e : Dev} (h0 : d.firing = []) (h : Fires p src d e) : Reported p src d (cycleEnd e) :=
  reported_cycleEnd (by rw [h0]; simp) h

/-- The end of a cycle reads and moves only what has fired and the two ways of the reports: of devices that agree in these it
makes the same. -/
theorem cycleEnd_form (d : Dev) : ∃ S T, cycleEnd d = { d with firing := [], sdg := S, tet := T } ∧
    ∀ e : Dev, e.firing = d.firing → e.sdg = d.sdg → e.tet = d.tet → cycleEnd e = { e with firing := [], sdg := S, tet := T } := by
  have key : ∀ e : Dev, e.firing = d.firing → e.sdg = d.sdg → e.tet = d.tet →
      cycleEnd e = { e with firing := [], sdg := (cycleEnd d).sdg, tet := (cycleEnd d).tet } := by
    intro e h h1 h2
    unfold cycleEnd
    rw [h, h1, h2]
    split
    · rename_i h0; rw [← h1, ← h2, ← h0, ← h]
    · rfl
  exact ⟨_, _, key d rfl rfl rfl, key⟩

theorem cycleEnd_resp (d : Dev) (x : BitVec 64) : cycleEnd { d with resp := x } = { cycleEnd d with resp := x } := by
  obtain ⟨S, T, hc, hs⟩ := cycleEnd_form d
  rw [hs { d with resp := x } rfl rfl rfl, hc]

/-- The end of a cycle moves reports and nothing else. -/
theorem FaultsOnly.cycleEnd (d : Dev) : FaultsOnly d (cycleEnd d) := by
  unfold Machine.cycleEnd
  exact .ite (.refl d) rfl

/-! ## What an isolation leaves of the page header -/

/-- Header registers stay but for EVENT, whose event bits only rise. -/
def HdrKeeps (d e : Dev) : Prop :=
  (∀ p k, k < 24 → bitOf (rg d p Reg.EVENT) k = true → bitOf (rg e p Reg.EVENT) k = true) ∧
  ∀ (p : Page) (o : Nat), o < 0x24 → o ≠ Reg.EVENT → rg e p o = rg d p o

theorem HdrKeeps.same {d e : Dev} (h : e.regs = d.regs) : HdrKeeps d e := by
  have (p : Page) (o : Nat) : rg e p o = rg d p o := by simp only [rg, h]
  exact ⟨fun p k _ hb => by rw [this]; exact hb, fun p o _ _ => this p o⟩

theorem HdrKeeps.refl (d : Dev) : HdrKeeps d d := .same rfl

theorem HdrKeeps.trans {a b c : Dev} (h : HdrKeeps a b) (k : HdrKeeps b c) : HdrKeeps a c :=
  ⟨fun p j hj hb => k.1 p j hj (h.1 p j hj hb), fun p o ho hn => (k.2 p o ho hn).trans (h.2 p o ho hn)⟩

theorem HdrKeeps.ite {c : Prop} [Decidable c] {d a b : Dev} (ha : HdrKeeps d a) (hb : HdrKeeps d b) :
    HdrKeeps d (if c then a else b) := by split <;> assumption

theorem HdrKeeps.sg {p : Page} {o : Nat} (v : Word) (d : Dev) (h : 0x24 ≤ o) (h' : o < 0x1000) : HdrKeeps d (sg p o v d) := by
  have (q : Page) (o' : Nat) (ho : o' < 0x24) : rg (Machine.sg p o v d) q o' = rg d q o' :=
    rg_sg_ne (base_ne (by omega) h' (by omega))
  exact ⟨fun q k _ hb => by rw [this q _ (by decide)]; exact hb, fun q o' ho _ => this q o' ho⟩

theorem HdrKeeps.forN {f : Nat → Dev → Dev} {n : Nat} (h : ∀ k d, k < n → HdrKeeps d (f k d)) (d : Dev) :
    HdrKeeps d (forN f n d) := by
  unfold Machine.forN
  have : ∀ k ∈ List.range n, k < n := fun k => List.mem_range.mp
  generalize List.range n = l at this
  induction l generalizing d with
  | nil => exact .refl d
  | cons k l ih =>
    exact (h k d (this k (List.mem_cons_self ..))).trans (ih _ fun j hj => this j (List.mem_cons_of_mem _ hj))

theorem HdrKeeps.event (p : Page) {k : Nat} (hk : k < 24) (d : Dev) : HdrKeeps d (event p k d) := by
  unfold Machine.event
  have e {q : Page} {o : Nat} (ho : o < 0x24) := rg_withIrq (not_pba (p := q) (o := o) (by omega) (by unfold Reg.PBA; omega)) p
    (fun d => Machine.sg p Reg.EVENT (sqEvent (rg d p Reg.EVENT) k) d) d
  refine ⟨fun q j hj hb => ?_, fun q o ho hn => ?_⟩
  · rw [e (by decide), rg_sg]
    split
    · rename_i hq
      have hq' : rg d q Reg.EVENT = rg d p Reg.EVENT := by simp only [rg, hq]
      rw [hq'] at hb
      by_cases hjk : j = k
      · subst hjk; exact (sqEvent_bits _ hk).1
      · rw [(sqEvent_bits _ hk).2.1 j hj hjk]; exact hb
    · exact hb
  · rw [e ho, rg_sg_ne (base_ne (by omega) (by decide) hn)]

theorem HdrKeeps.sendReport (b : Bool) (n : Nat) (r : FaultRep) (d : Dev) : HdrKeeps d (sendReport b n r d) := .same rfl

theorem HdrKeeps.sg64 {p : Page} {lo : Nat} (x : Nat) (d : Dev) (h : 0x24 ≤ lo) (h' : lo + 4 < 0x1000) :
    HdrKeeps d (sg64 p lo x d) := (HdrKeeps.sg _ _ h (by omega)).trans (.sg _ _ (by omega) h')

theorem HdrKeeps.ctxState (n st c : Nat) (d : Dev) : HdrKeeps d (ctxState n st c d) :=
  (HdrKeeps.sg _ _ (by decide) (by decide)).trans (.sg _ _ (by decide) (by decide))

theorem HdrKeeps.ctxHalt (n : Nat) (d : Dev) : HdrKeeps d (ctxHalt n d) := .same rfl

theorem HdrKeeps.auxSend (n : Nat) (d : Dev) : HdrKeeps d (auxSend n d) := by
  unfold Machine.auxSend
  split
  · exact .ite (.refl d) (.ite (.same rfl) (.same rfl))
  · exact .refl d

theorem HdrKeeps.setPort (n st : Nat) (t : Bool) (d : Dev) : HdrKeeps d (setPort n st t d) :=
  (((HdrKeeps.sg _ _ (by decide) (by decide)).trans (.sg _ _ (by decide) (by decide))).trans
    (.sg _ _ (by decide) (by decide))).trans (.auxSend _ _)

theorem HdrKeeps.isoStatus (b : Bool) (p : Page) (d : Dev) : HdrKeeps d (isoStatus b p d) := by
  unfold Machine.isoStatus
  split
  · exact .sg _ _ (by decide) (by decide)
  · exact .sg _ _ (by decide) (by decide)
  · exact .sg _ _ (by decide) (by decide)
  · exact .sg _ _ (by decide) (by decide)
  · exact .ite (.setPort _ _ _ _) (.refl d)
  · exact .ite ((HdrKeeps.ctxHalt _ _).trans (.ctxState _ _ _ _)) (.ctxState _ _ _ _)
  · exact .sg _ _ (by decide) (by decide)
  · exact (HdrKeeps.sg _ _ (by decide) (by decide)).trans (.sg _ _ (by decide) (by decide))
  · exact .forN (fun k e hk => .ite (.sg _ _ (by simp only [Reg.Afe0.SPK_STAT]; omega) (by simp only [Reg.Afe0.SPK_STAT]; omega)) (.refl e)) _
  · exact .forN (fun k e hk => .sg _ _ (by simp only [Reg.Cam.CSI_STAT]; omega) (by simp only [Reg.Cam.CSI_STAT]; omega)) _
  · exact .refl d

theorem HdrKeeps.isolateOne (p : Page) (d : Dev) : HdrKeeps d (isolateOne p d) := by
  unfold Machine.isolateOne
  have h : HdrKeeps d (Machine.isoStatus true p (Machine.setIso p true d)) :=
    HdrKeeps.trans (b := Machine.setIso p true d) (.same rfl) (.isoStatus _ _ _)
  split
  · exact h.trans (.event _ (by decide) _)
  · exact h

theorem HdrKeeps.fireWith {iso : Page → Dev → Dev} (h : ∀ p d, HdrKeeps d (iso p d)) (p : Page) (src : Nat) (d : Dev) :
    HdrKeeps d (fireWith iso p src d) := by
  unfold Machine.fireWith
  exact .ite ((HdrKeeps.sendReport _ _ _ _).trans (h _ _)) (.sendReport _ _ _ _)

theorem HdrKeeps.ctxFault (n r x a : Nat) (d : Dev) : HdrKeeps d (ctxFault n r x a d) := by
  unfold Machine.ctxFault
  refine .ite (.refl d) (HdrKeeps.trans ?_ (.fireWith .isolateOne _ _ _))
  exact ((((HdrKeeps.sg _ _ (by decide) (by decide)).trans (.sg64 _ _ (by decide) (by decide))).trans (.ctxHalt _ _)).trans
    (.ctxState _ _ _ _)).trans (.event _ (by decide) _)

theorem HdrKeeps.isolate (p : Page) (d : Dev) : HdrKeeps d (isolate p d) := by
  unfold Machine.isolate
  split
  · exact (HdrKeeps.isolateOne _ _).trans (.forN (fun _ _ _ => .ctxFault _ _ _ _ _) _)
  · exact .isolateOne _ _

theorem HdrKeeps.fireSource (p : Page) (src : Nat) (d : Dev) : HdrKeeps d (fireSource p src d) := .fireWith .isolate _ _ _

/-- A fault of a page sets its EVENT bit, its report is on its way in its class, and the header stays but for EVENT. -/
theorem raiseFault_facts (p : Page) (src : Nat) {k : Nat} (hk : k < 24) (d : Dev) :
    bitOf (rg (raiseFault p src k d) p Reg.EVENT) k = true ∧ Fires p src d (raiseFault p src k d) ∧
    HdrKeeps d (raiseFault p src k d) ∧ FaultsOnly d (raiseFault p src k d) := by
  have hf := HdrKeeps.fireSource p src (Machine.event p k d)
  have he := HdrKeeps.event p hk d
  have hb : bitOf (rg (Machine.event p k d) p Reg.EVENT) k = true := by
    unfold Machine.event
    rw [rg_withIrq (not_pba (by decide) (by decide)), rg_sg_same]
    exact (sqEvent_bits _ hk).1
  refine ⟨hf.1 _ _ hk hb, ?_, he.trans hf, .raiseFault _ _ _ _⟩
  obtain ⟨r, b, l, r1, r2, r3, r4, r5, r6⟩ := fires_fireSource p src (Machine.event p k d)
  have hs : (Machine.event p k d).firing = d.firing ∧ (Machine.event p k d).sdg = d.sdg ∧ (Machine.event p k d).tet = d.tet := by
    unfold Machine.event
    obtain ⟨R, O, e, -⟩ := withIrq_eq p (fun d => Machine.sg p Reg.EVENT (sqEvent (rg d p Reg.EVENT) k) d) d
    rw [e]; exact ⟨rfl, rfl, rfl⟩
  refine ⟨r, b, l, r1, r2, ?_, r4.trans (by rw [hs.1]), r5.trans hs.2.1, r6.trans hs.2.2⟩
  rw [r3]; unfold classOf; rw [rf_eq_fld, rf_eq_fld, he.2 p _ (by decide) (by decide)]

/-! ## The checks of an access -/

/-- Everything an access can be answered: granted, with the pair of its page broken off if one was pending; or refused. -/
theorem access_cases (who : Party) (p : Page) (o : Nat) (wr : Bool) (d : Dev) :
    (access who p o wr d = (true, gpIntervene p d) ∧ routeOf d who p = .direct ∧ (p.onDale && daleAbsent d) = false ∧
      blkDead d p wr = false ∧ mayAccess (gpIntervene p d) p who o wr = true) ∨
    ((access who p o wr d).1 = false ∧
      ((access who p o wr d).2 = d ∨ (access who p o wr d).2 = daleAbsentEvent d ∨
       (∃ q, (access who p o wr d).2 = accessRefused q d) ∨ (access who p o wr d).2 = accessRefused p (gpIntervene p d))) := by
  unfold access
  split
  · exact .inr ⟨rfl, .inl rfl⟩
  · exact .inr ⟨rfl, .inl rfl⟩
  · exact .inr ⟨rfl, .inr (.inr (.inl ⟨_, rfl⟩))⟩
  · exact .inr ⟨rfl, .inr (.inr (.inl ⟨_, rfl⟩))⟩
  · split
    · exact .inr ⟨rfl, .inr (.inl rfl)⟩
    · split
      · exact .inr ⟨rfl, .inl rfl⟩
      · dsimp only
        split
        · exact .inl ⟨rfl, by assumption, by simp_all, by simp_all, by assumption⟩
        · exact .inr ⟨rfl, .inr (.inr (.inr rfl))⟩

/-- A granted access leaves the device that has broken off the pair pending in the page. -/
theorem granted_snd {who : Party} {p : Page} {o : Nat} {wr : Bool} {d : Dev} (h : Granted d who p o wr) :
    (access who p o wr d).2 = gpIntervene p d := by
  rcases access_cases who p o wr d with ⟨e, -⟩ | ⟨e, -⟩
  · rw [e]
  · exact absurd h (by simp [Granted, e])

/-- A write that is granted has its effect, and one that is not has none. -/
theorem onWrite_cases (who : Party) (p : Page) (o : Nat) (act : Dev → Dev) (d : Dev) :
    (Granted d who p o true ∧ onWrite who p o act d = act (gpIntervene p d)) ∨
    (¬ Granted d who p o true ∧ onWrite who p o act d = (access who p o true d).2) := by
  by_cases h : Granted d who p o true
  · exact .inl ⟨h, by simp only [onWrite, if_pos h, granted_snd h]⟩
  · exact .inr ⟨h, by simp only [onWrite, if_neg h]⟩

theorem onWrite_granted {who : Party} {p : Page} {o : Nat} {act : Dev → Dev} {d : Dev} (h : Granted d who p o true) :
    onWrite who p o act d = act (gpIntervene p d) := by simp only [onWrite, if_pos h, granted_snd h]

/-- A read that is granted answers what the register gives. -/
theorem onRead_granted {who : Party} {p : Page} {o : Nat} {act : Dev → Word × Dev} {d : Dev} (h : Granted d who p o false) :
    onRead who p o act d = { (act (gpIntervene p d)).2 with resp := (act (gpIntervene p d)).1.setWidth 64 } := by
  simp only [onRead, if_pos h, granted_snd h]

/-- No pair is pending in the page: an access breaks nothing off. -/
theorem gpIntervene_none {p : Page} {d : Dev} (h : tabGet (fun _ => none) d.gp p.base = none) : gpIntervene p d = d := by
  simp only [gpIntervene, h]

/-! ## Packets -/

/-- A packet whole at the read pointer takes effect, and the context settles. -/
theorem doPkt_front {n op : Nat} {act : Pkt → Dev → Dev} {d : Dev} {k : Pkt} {e : Dev} (h : PktFront n op d k e) :
    doPkt n op act d = cxSettle n (act k e) := by
  obtain ⟨h0, hb, d1, bs, d2, h1, h2, h3, h4, rfl, rfl⟩ := h
  subst h3
  simp only [doPkt, h0, h1, h2, h4, Bool.not_true, Bool.false_eq_true, if_false, ne_eq, not_true_eq_false]

/-! ## The step -/

/-- With a command in front, a step is that command's meaning on the state with the queue's rest. -/
theorem step_cons (c : Instr) (rest : List Instr) (s : State) (h : s.pending = c :: rest) :
    step s = exec c { s with pending := rest } := by simp only [step, h]

@[simp] theorem on_dev (s : State) (f : Dev → Dev) : (s.on f).dev = cycleEnd (f s.dev) := rfl
@[simp] theorem on_fuses (s : State) (f : Dev → Dev) : (s.on f).fuses = s.fuses := rfl
@[simp] theorem on_pending (s : State) (f : Dev → Dev) : (s.on f).pending = s.pending := rfl
theorem onDev_eq (f : Dev → Dev) (s : State) : onDev f s = .next (s.on f) := rfl

end Sys2Proof.Machine
end

