-- ==== Sys2Proof/Laws/Memory.lean ====
section
/-! SUPPORT. The memories: every operation on them keeps their canonical form, and what a byte reads after a run of bytes was
written. -/
namespace Sys2Proof.Machine

theorem memWf_iff (d : Dev) : d.memWf = true ↔
    tabWf (fun _ => (0 : Byte)) d.pasture = true ∧ tabWf (fun _ => (0 : Byte)) d.dram = true ∧
    tabWf (fun _ => (0xFF : Byte)) d.nvm = true := by
  simp only [Dev.memWf, Bool.and_eq_true, and_assoc]

/-- The form speaks of the three memories alone. -/
theorem memWf_congr {d e : Dev} (h : e.pasture = d.pasture) (h' : e.dram = d.dram) (h'' : e.nvm = d.nvm) :
    e.memWf = d.memWf := by simp only [Dev.memWf, h, h', h'']

theorem FaultsOnly.memWf {d e : Dev} (h : FaultsOnly d e) : e.memWf = d.memWf := by
  rw [h]; rfl

theorem memWf_setPast (a : Nat) (b : Byte) {d : Dev} (h : d.memWf = true) : (setPast a b d).memWf = true := by
  rw [memWf_iff] at *; exact ⟨tabWf_set _ _ h.1, h.2⟩

theorem memWf_setDram (a : Nat) (b : Byte) {d : Dev} (h : d.memWf = true) : (setDram a b d).memWf = true := by
  rw [memWf_iff] at *; exact ⟨h.1, tabWf_set _ _ h.2.1, h.2.2⟩

theorem memWf_setNvm (a : Nat) (b : Byte) {d : Dev} (h : d.memWf = true) : (setNvm a b d).memWf = true := by
  rw [memWf_iff] at *; exact ⟨h.1, h.2.1, tabWf_set _ _ h.2.2⟩

/-- A run of bytes written through a byte write that keeps the form keeps it. -/
theorem memWf_writeBytes {wr : Nat → Byte → Dev → Dev} (hw : ∀ a b d, d.memWf = true → (wr a b d).memWf = true)
    (bs : List Byte) : ∀ (a : Nat) (d : Dev), d.memWf = true → (writeBytes wr a bs d).memWf = true := by
  induction bs with
  | nil => exact fun a d h => h
  | cons b bs ih => exact fun a d h => ih _ _ (hw _ _ _ h)

theorem memWf_pastZero (o n : Nat) {d : Dev} (h : d.memWf = true) : (pastZero o n d).memWf = true := by
  rw [memWf_iff] at *; exact ⟨tabWf_clear _ _ h.1, h.2⟩

theorem memWf_dramZero (o n : Nat) {d : Dev} (h : d.memWf = true) : (dramZero o n d).memWf = true := by
  rw [memWf_iff] at *; exact ⟨h.1, tabWf_clear _ _ h.2.1, h.2.2⟩

theorem memWf_nvmErase (a : Nat) {d : Dev} (h : d.memWf = true) : (nvmErase a d).memWf = true := by
  rw [memWf_iff] at *; exact ⟨h.1, h.2.1, tabWf_clear _ _ h.2.2⟩

theorem memWf_pastUe (t w : Nat) (d : Dev) : (pastUe t w d).memWf = d.memWf :=
  (((FaultsOnly.bump _ _ _ _ _).trans (.sg _ _ _ _)).trans (.raiseFault _ _ _ _)).memWf

theorem memWf_pastCe (t w : Nat) (d : Dev) : (pastCe t w d).memWf = d.memWf :=
  (((FaultsOnly.bump _ _ _ _ (modPst _ d)).trans (.sg _ _ _ _)).trans (.raiseFault _ _ _ _)).memWf

theorem memWf_offAccess (d : Dev) : (offAccess d).memWf = d.memWf := (FaultsOnly.raiseFault _ _ _ _).memWf

theorem memWf_bankTouch (b : Nat) (d : Dev) : (bankTouch b d).memWf = d.memWf := by
  unfold bankTouch
  split <;> rfl

theorem memWf_pastReadWord (t w : Nat) (r : Bool × Dev) : (pastReadWord t w r).2.memWf = r.2.memWf := by
  unfold pastReadWord
  split
  · rfl
  · exact memWf_pastCe _ _ _
  · exact memWf_pastUe _ _ _

theorem memWf_foldl {α β : Type} {f : β × Dev → α → β × Dev} (h : ∀ r w, (f r w).2.memWf = r.2.memWf) (l : List α) :
    ∀ r, (l.foldl f r).2.memWf = r.2.memWf := by
  induction l with
  | nil => exact fun _ => rfl
  | cons w l ih => exact fun r => (ih _).trans (h _ _)

theorem memWf_pastReadRow (t o n : Nat) (d : Dev) : (pastReadRow t o n d).2.2.memWf = d.memWf := by
  unfold pastReadRow
  split
  · exact memWf_offAccess d
  · exact (memWf_foldl (fun r w => memWf_pastReadWord t w r) _ _).trans (memWf_bankTouch _ _)

/-- A Pasture read changes no byte's form. -/
theorem memWf_pastRead (t : Nat) : ∀ (k o n : Nat) (d : Dev), (pastRead k t o n d).2.2.memWf = d.memWf := by
  intro k
  induction k with
  | zero => exact fun _ _ _ => rfl
  | succ k ih =>
    intro o n d
    unfold pastRead
    split
    · rfl
    · exact (ih _ _ _).trans (memWf_pastReadRow _ _ _ _)

theorem memWf_pastWriteWord (t w o : Nat) (bs : List Byte) {d : Dev} (h : d.memWf = true) :
    (pastWriteWord t w o bs d).memWf = true := by
  have wr : ∀ e : Dev, e.memWf = true → (setPastErr w 0 (writeBytes setPast o bs e)).memWf = true := fun e he =>
    memWf_writeBytes (fun a b d => memWf_setPast a b) bs o e he
  unfold pastWriteWord
  split
  · exact h
  · split
    · exact (memWf_pastUe _ _ _).trans h
    · split
      · exact wr _ h
      · split
        · exact (memWf_pastUe _ _ _).trans h
        · refine wr _ ?_
          split
          · exact (memWf_pastCe _ _ _).trans h
          · exact h

theorem memWf_pastWriteWords (t : Nat) :
    ∀ (k o : Nat) (bs : List Byte) (d : Dev), d.memWf = true → (pastWriteWords k t o bs d).memWf = true := by
  intro k
  induction k with
  | zero => exact fun _ _ _ h => h
  | succ k ih =>
    intro o bs d h
    cases bs with
    | nil => exact h
    | cons b bs => exact ih _ _ _ (memWf_pastWriteWord _ _ _ _ h)

theorem memWf_pastWriteRow (t o : Nat) (bs : List Byte) {d : Dev} (h : d.memWf = true) :
    (pastWriteRow t o bs d).memWf = true := by
  unfold pastWriteRow
  split
  · exact (memWf_offAccess d).trans h
  · exact memWf_pastWriteWords t 9 o bs _ ((memWf_bankTouch _ _).trans h)

/-- A Pasture write keeps the form. -/
theorem memWf_pastWrite (t : Nat) :
    ∀ (k o : Nat) (bs : List Byte) (d : Dev), d.memWf = true → (pastWrite k t o bs d).memWf = true := by
  intro k
  induction k with
  | zero => exact fun _ _ _ h => h
  | succ k ih =>
    intro o bs d h
    unfold pastWrite
    split
    · exact h
    · exact ih _ _ _ (memWf_pastWriteRow _ _ _ h)

theorem memWf_dramReadWord (iso : Bool) (port w : Nat) (r : Bool × Dev) : (dramReadWord iso port w r).2.memWf = r.2.memWf := by
  have ad : ∀ (ue : Bool) (e : Dev), FaultsOnly e (dramEccAddr ue iso port w e) := fun ue e =>
    (FaultsOnly.sg _ _ _ _).trans (.sg _ _ _ _)
  unfold dramReadWord
  split
  · rfl
  · exact (((FaultsOnly.bump _ _ _ _ (setDramErr w 0 r.2)).trans (ad _ _)).trans (.raiseFault _ _ _ _)).memWf
  · exact ((((FaultsOnly.bump _ _ _ _ _).trans (ad _ _)).trans (.bump _ _ _ _ _)).trans (.raiseFault _ _ _ _)).memWf

/-- A DRAM read changes no byte's form. -/
theorem memWf_dramRead (iso : Bool) (port a n : Nat) (d : Dev) : (dramRead iso port a n d).2.2.memWf = d.memWf := by
  unfold dramRead
  split
  · rfl
  · exact memWf_foldl (fun r w => memWf_dramReadWord iso port w r) _ _

theorem memWf_dramWriteWord (w a : Nat) (bs : List Byte) {d : Dev} (h : d.memWf = true) :
    (dramWriteWord w a bs d).memWf = true := by
  unfold dramWriteWord
  split
  · exact h
  · refine memWf_writeBytes (fun a b d => memWf_setDram a b) bs a _ ?_
    split <;> exact h

/-- A DRAM write keeps the form. -/
theorem memWf_dramWrite :
    ∀ (k a : Nat) (bs : List Byte) (d : Dev), d.memWf = true → (dramWrite k a bs d).memWf = true := by
  intro k
  induction k with
  | zero => exact fun _ _ _ h => h
  | succ k ih =>
    intro a bs d h
    unfold dramWrite
    split
    · exact h
    · exact ih _ _ _ (memWf_dramWriteWord _ _ _ h)

theorem memWf_memReadRun (w : Who) (l : Lane) (a n : Nat) (d : Dev) : (memReadRun w l a n d).2.memWf = d.memWf := by
  unfold memReadRun
  split
  · rfl
  · exact memWf_pastRead _ _ _ _ _
  · exact memWf_dramRead _ _ _ _ _

theorem memWf_memReadRuns : ∀ (k : Nat) (w : Who) (l : Lane) (a n : Nat) (d : Dev),
    (memReadRuns k w l a n d).2.memWf = d.memWf := by
  intro k
  induction k with
  | zero => exact fun _ _ _ _ _ => rfl
  | succ k ih =>
    intro w l a n d
    unfold memReadRuns
    split
    · rfl
    · exact (ih _ _ _ _ _).trans (memWf_memReadRun _ _ _ _ _)

/-- A memory read changes no byte's form. -/
theorem memWf_memRead (w : Who) (l : Lane) (a n : Nat) (d : Dev) : (memRead w l a n d).2.memWf = d.memWf := by
  unfold memRead
  split
  · exact memWf_memReadRuns _ _ _ _ _ _
  · rfl

theorem memWf_memWriteRun (w : Who) (l : Lane) (a : Nat) (bs : List Byte) {d : Dev} (h : d.memWf = true) :
    (memWriteRun w l a bs d).memWf = true := by
  unfold memWriteRun
  split
  · exact h
  · exact memWf_pastWrite _ _ _ _ _ h
  · exact memWf_dramWrite _ _ _ _ h

theorem memWf_memWriteRuns : ∀ (k : Nat) (w : Who) (l : Lane) (a : Nat) (bs : List Byte) (d : Dev), d.memWf = true →
    (memWriteRuns k w l a bs d).memWf = true := by
  intro k
  induction k with
  | zero => exact fun _ _ _ _ _ h => h
  | succ k ih =>
    intro w l a bs d h
    unfold memWriteRuns
    split
    · exact h
    · exact ih _ _ _ _ _ (memWf_memWriteRun _ _ _ _ h)

/-- A memory write keeps the form. -/
theorem memWf_memWrite (w : Who) (l : Lane) (a : Nat) (bs : List Byte) {d : Dev} (h : d.memWf = true) :
    (memWrite w l a bs d).2.memWf = true := by
  unfold memWrite
  split
  · exact memWf_memWriteRuns _ _ _ _ _ _ h
  · exact h

/-- The memories have the form after reset. -/
theorem memWf_reset : State.reset.dev.memWf = true := rfl

/-- A byte reads what a run of bytes has written there, and as before outside the run. -/
theorem pastByte_writeBytes (bs : List Byte) : ∀ (a c : Nat) (d : Dev),
    pastByte (writeBytes setPast a bs d) c = if c < a ∨ a + bs.length ≤ c then pastByte d c else bs.getD (c - a) 0 := by
  induction bs with
  | nil => intro a c d; simp only [writeBytes, List.length_nil]; rw [if_pos (by omega)]
  | cons b bs ih =>
    intro a c d
    simp only [writeBytes, ih, (bytes_set d a c b).1, List.length_cons]
    by_cases h : c = a
    · subst h
      rw [if_pos (by omega), if_pos rfl, if_neg (by omega)]
      simp
    · by_cases h' : c < a + 1 ∨ a + 1 + bs.length ≤ c
      · rw [if_pos h', if_neg h, if_pos (by omega)]
      · rw [if_neg h', if_neg (by omega), show c - a = (c - (a + 1)) + 1 by omega]
        simp

theorem dramByte_writeBytes (bs : List Byte) : ∀ (a c : Nat) (d : Dev),
    dramByte (writeBytes setDram a bs d) c = if c < a ∨ a + bs.length ≤ c then dramByte d c else bs.getD (c - a) 0 := by
  induction bs with
  | nil => intro a c d; simp only [writeBytes, List.length_nil]; rw [if_pos (by omega)]
  | cons b bs ih =>
    intro a c d
    simp only [writeBytes, ih, (bytes_set d a c b).2.1, List.length_cons]
    by_cases h : c = a
    · subst h
      rw [if_pos (by omega), if_pos rfl, if_neg (by omega)]
      simp
    · by_cases h' : c < a + 1 ∨ a + 1 + bs.length ≤ c
      · rw [if_pos h', if_neg h, if_pos (by omega)]
      · rw [if_neg h', if_neg (by omega), show c - a = (c - (a + 1)) + 1 by omega]
        simp

end Sys2Proof.Machine
end

