-- ==== Sys2Proof/Laws/Step.lean ====
section
/-! SUPPORT. Everything a command and a step can do, said once: but for the two commands that write fuses, a command changes
the device alone. -/
namespace Sys2Proof.Machine

/-- Every command but two changes the device alone. -/
theorem exec_on (c : Instr) (s : State) (h : c ≠ .fellReleased) (h' : c ≠ .fullComposition) : ∃ f, exec c s = .next (s.on f) := by
  cases c
  case fellReleased => exact absurd rfl h
  case fullComposition => exact absurd rfl h'
  all_goals exact ⟨_, rfl⟩

/-- FELL_RELEASED acts in stage 6 of the start-up and writes the fuses that `fusesAfter` gives. -/
theorem exec_fellReleased (s : State) : exec .fellReleased s = .next s ∨
    ∃ e, exec .fellReleased s = .next { s with fuses := fusesAfter s.fuses s.dev, dev := cycleEnd e } := by
  show execFellReleased s = _ ∨ ∃ e, execFellReleased s = _
  unfold execFellReleased
  dsimp only
  split
  · exact .inl rfl
  · exact .inr ⟨_, rfl⟩

/-- FULL_COMPOSITION writes the fuses that `svnAfter` gives. -/
theorem exec_fullComposition (s : State) : exec .fullComposition s = .next s ∨
    ∃ e, exec .fullComposition s = .next { s with fuses := svnAfter s.fuses s.dev, dev := cycleEnd e } := by
  show execFullComposition s = _ ∨ ∃ e, execFullComposition s = _
  unfold execFullComposition
  split
  · exact .inl rfl
  · exact .inr ⟨_, rfl⟩

/-- Everything a command can do to a state: it always answers a next one, leaves the queue, and leaves no fault waiting. -/
theorem exec_cases (c : Instr) (s : State) :
    ∃ t, exec c s = .next t ∧ t.pending = s.pending ∧ (s.dev.firing = [] → t.dev.firing = []) ∧
      (t.fuses = s.fuses ∨ t.fuses = fusesAfter s.fuses s.dev ∨ t.fuses = svnAfter s.fuses s.dev) := by
  by_cases h : c = .fellReleased
  · subst h
    rcases exec_fellReleased s with e | ⟨d, e⟩
    · exact ⟨s, e, rfl, id, .inl rfl⟩
    · exact ⟨_, e, rfl, fun _ => by simp, .inr (.inl rfl)⟩
  · by_cases h' : c = .fullComposition
    · subst h'
      rcases exec_fullComposition s with e | ⟨d, e⟩
      · exact ⟨s, e, rfl, id, .inl rfl⟩
      · exact ⟨_, e, rfl, fun _ => by simp, .inr (.inr rfl)⟩
    · obtain ⟨f, e⟩ := exec_on c s h h'
      exact ⟨_, e, rfl, fun _ => by simp, .inl rfl⟩

end Sys2Proof.Machine
end

