-- ==== Sys2Proof/Laws/Events.lean ====
section
/-! SUPPORT. What an event, a fault and the isolation it brings change, and the small facts about registers that follow. -/
namespace Sys2Proof.Machine

theorem rg_sf_same (p : Page) (o h l v : Nat) (d : Dev) : rg (sf p o h l v d) p o = setFld (rg d p o) h l v := rg_sg_same _ _ _ _

theorem event_eq (p : Page) (bit : Nat) (d : Dev) : ∃ R O, event p bit d = { d with regs := R, out := O } := by
  unfold event
  obtain ⟨R, O, h, _⟩ := withIrq_eq p (fun d => sg p Reg.EVENT (sqEvent (rg d p Reg.EVENT) bit) d) d
  refine ⟨R, O, h.trans ?_⟩
  have e (v : Word) : ∃ T, sg p Reg.EVENT v d = { d with regs := T } := ⟨_, rfl⟩
  obtain ⟨T, hT⟩ := e (sqEvent (rg d p Reg.EVENT) bit)
  rw [hT]

theorem sf_keep (p : Page) (o h l v : Nat) (d : Dev) (R : Tab Word) (O : List Out) :
    (let e := { sf p o h l v d with regs := R, out := O }
     e.pad.fot = d.pad.fot ∧ e.pad.maps = d.pad.maps ∧ e.pasture = d.pasture ∧ e.dram = d.dram ∧ e.nvm = d.nvm) := ⟨rfl, rfl, rfl, rfl, rfl⟩

theorem rg_event {p x : Page} {k y : Nat} {d : Dev} (h : x.base + y ≠ p.base + Reg.EVENT) (hp : ¬ pbaAt (x.base + y)) :
    rg (event p k d) x y = rg d x y := by
  unfold event; rw [rg_withIrq hp, rg_sg_ne h]

theorem rg_fire {p : Page} (h : ∀ e, (isolate p e).regs = e.regs) (src : Nat) (d : Dev) : (fireSource p src d).regs = d.regs := by
  have k (b n r) (d : Dev) : (sendReport b n r d).regs = d.regs := rfl
  unfold fireSource fireWith
  dsimp only
  split
  · rw [h, k]
  · rw [k]

theorem rg_raise {p : Page} (h : ∀ e, (isolate p e).regs = e.regs) (src k : Nat) (d : Dev) (x : Page) (y : Nat) :
    rg (raiseFault p src k d) x y = rg (event p k d) x y := by
  show tabGet _ (fireSource _ _ _).regs _ = _
  rw [rg_fire h]; rfl

theorem forN_hit {f : Nat → Dev → Dev} {P : Dev → Prop} {n k : Nat} (hk : k < n) (h1 : ∀ d, P (f k d)) (h2 : ∀ j d, j < n → P d → P (f j d)) (d : Dev) :
    P (forN f n d) := by
  unfold forN
  have : k ∈ List.range n := List.mem_range.mpr hk
  have hl : ∀ j ∈ List.range n, j < n := fun j => List.mem_range.mp
  generalize List.range n = l at this hl
  have go : ∀ (l : List Nat), (∀ j ∈ l, j < n) → ∀ d, P d → P (l.foldl (fun d k => f k d) d) := by
    intro l
    induction l with
    | nil => exact fun _ d h => h
    | cons j l ih => exact fun hj d h => ih (fun i hi => hj i (List.mem_cons_of_mem _ hi)) _ (h2 j d (hj j (List.mem_cons_self ..)) h)
  induction l generalizing d with
  | nil => cases this
  | cons j l ih =>
    rcases List.mem_cons.mp this with rfl | h
    · exact go l (fun i hi => hl i (List.mem_cons_of_mem _ hi)) _ (h1 d)
    · exact ih _ h (fun i hi => hl i (List.mem_cons_of_mem _ hi))

abbrev tLo (k : Nat) : Nat := (tlyPage k).base + Reg.Tly1.COUNT_LO (k % 64)
abbrev tHi (k : Nat) : Nat := (tlyPage k).base + Reg.Tly1.COUNT_HI (k % 64)

theorem forN_same {α : Type} {f : Nat → Dev → Dev} (g : Dev → α) (h : ∀ k d, g (f k d) = g d) (n : Nat) (d : Dev) : g (forN f n d) = g d := by
  unfold forN
  generalize List.range n = l
  induction l generalizing d with
  | nil => rfl
  | cons k l ih => exact (ih _).trans (h k d)

theorem forN_id {f : Nat → Dev → Dev} (n : Nat) (d : Dev) (h : ∀ k d, k < n → f k d = d) : forN f n d = d := by
  unfold forN
  have : ∀ k ∈ List.range n, k < n := fun k => List.mem_range.mp
  generalize List.range n = l at this
  induction l generalizing d with
  | nil => rfl
  | cons k l ih =>
    show l.foldl _ (f k d) = d
    rw [h k d (this k (List.mem_cons_self ..))]
    exact ih d fun j hj => this j (List.mem_cons_of_mem _ hj)

theorem rg_plainWrite (p : Page) (o : Nat) (v : Word) (d : Dev) : rg (plainWrite p o v d) p o = maskIn (rg d p o) v (maskOf p o) := rg_sg_same _ _ _ _

theorem iso_event (p : Page) (k : Nat) (d : Dev) : (event p k d).iso = d.iso := by
  unfold event
  obtain ⟨R, O, e, -⟩ := withIrq_eq p (fun d => sg p Reg.EVENT (sqEvent (rg d p Reg.EVENT) k) d) d
  rw [e]; rfl

theorem iso_forN {f : Nat → Dev → Dev} (p : Page) (h : ∀ k d, isoOf d p = true → isoOf (f k d) p = true) (n : Nat) (d : Dev) (hd : isoOf d p = true) : isoOf (forN f n d) p = true := by
  unfold forN
  generalize List.range n = l
  induction l generalizing d with
  | nil => exact hd
  | cons k l ih => exact ih _ (h k d hd)

theorem iso_sendReport (b n r) (d : Dev) : (sendReport b n r d).iso = d.iso := rfl

theorem iso_auxSend (n : Nat) (d : Dev) : (auxSend n d).iso = d.iso := by
  unfold auxSend
  split
  · split
    · rfl
    · split <;> rfl
  · rfl

theorem iso_setPort (n st : Nat) (t : Bool) (d : Dev) : (setPort n st t d).iso = d.iso := iso_auxSend _ _

theorem isoStatus_keeps (b : Bool) (q p : Page) (d : Dev) (h : isoOf d p = true) : isoOf (isoStatus b q d) p = true := by
  unfold isoStatus
  split
  · exact h
  · exact h
  · exact h
  · exact h
  · split
    · unfold isoOf; rw [iso_setPort]; exact h
    · exact h
  · split <;> exact h
  · exact h
  · exact h
  · exact iso_forN p (fun k e he => by split <;> exact he) _ _ h
  · exact iso_forN (f := fun k => sb .cam (Reg.Cam.CSI_STAT k) 28 b) p (fun k e he => he) _ _ h
  · exact h

theorem isolateOne_keeps (q p : Page) (d : Dev) (h : isoOf d p = true) : isoOf (isolateOne q d) p = true := by
  have k : isoOf (setIso q true d) p = true := by rw [isoOf_setIso]; split <;> first | rfl | exact h
  have := isoStatus_keeps true q p _ k
  unfold isolateOne
  dsimp only
  split
  · unfold isoOf; rw [iso_event]; exact this
  · exact this

theorem isolateOne_iso (p : Page) (d : Dev) : isoOf (isolateOne p d) p = true := by
  have k : isoOf (setIso p true d) p = true := by rw [isoOf_setIso, if_pos rfl]
  have := isoStatus_keeps true p p _ k
  unfold isolateOne
  dsimp only
  split
  · unfold isoOf; rw [iso_event]; exact this
  · exact this

theorem iso_ctxFault (n r x a : Nat) (p : Page) (d : Dev) (h : isoOf d p = true) : isoOf (ctxFault n r x a d) p = true := by
  unfold ctxFault
  split
  · exact h
  · dsimp only
    unfold fireWith
    dsimp only
    split
    · apply isolateOne_keeps
      unfold isoOf; rw [iso_sendReport, iso_event]; exact h
    · unfold isoOf; rw [iso_sendReport, iso_event]; exact h

theorem isolate_iso (p : Page) (d : Dev) : isoOf (isolate p d) p = true := by
  unfold isolate
  split
  · exact iso_forN _ (fun k e he => iso_ctxFault _ _ _ _ _ _ he) _ _ (isolateOne_iso _ _)
  · exact isolateOne_iso _ _

theorem fusesAfter_svn (f : Fuses) (d : Dev) : (fusesAfter f d).svn = f.svn := by unfold fusesAfter; split <;> rfl

theorem sequence_write {who addr v q r o row} {s : State} (h1 : landOf who addr.toNat = .page q)
    (h2 : aimAt s.dev who q (addr.toNat % 0x1000) = .at_ r o) (h3 : o = Reg.EVENT ∨ o = Reg.PARITY_STAT)
    (h4 : r.row? o = some row) (h5 : row.acc = .sq) (h6 : Granted s.dev who r o true) :
    exec (.sequenceClear who addr v) s = .next (s.on fun d => sqWrite r o v (gpIntervene r d)) := by
  have h8 : o ≠ Reg.GUARD := by (rcases h3 with h | h <;> subst h <;> decide)
  have h9 : (o == Reg.EVENT || o == Reg.PARITY_STAT) = true := by simpa using h3
  simp only [exec, execSequenceClear, onDev, State.on, writeWord, h1, h2, h8, h9, onWrite, if_pos h6, granted_snd h6, Bool.not_true, Bool.false_eq_true, if_false, regWrite, h4, h5]

theorem bitOf_fldMask (k : Nat) (h : k < 32) : bitOf (fldMask 23 0) k = decide (k < 24) := by
  unfold fldMask bitOf
  rw [BitVec.getLsbD_ofNat, Nat.testBit_mul_two_pow, Nat.testBit_two_pow_sub_one]; simp [h]

theorem bitOf_cleared (w v : Word) (k : Nat) (h : k < 32) : bitOf (w &&& ~~~ (v &&& fldMask 23 0)) k = (bitOf w k && !(bitOf v k && decide (k < 24))) := by
  rw [← bitOf_fldMask k h]
  simp only [bitOf, BitVec.getLsbD_and, BitVec.getLsbD_not, h, decide_true, Bool.true_and]

theorem slots_find (f : Nat → Bool) (s : Nat) : ((List.range 9).map (fun i => s % 2 ^ (8 - i))).find? f =
    [s % 256, s % 128, s % 64, s % 32, s % 16, s % 8, s % 4, s % 2, 0].find? f := by
  have : (List.range 9) = [0,1,2,3,4,5,6,7,8] := rfl
  rw [this]; simp only [List.map, Nat.sub_zero]; norm_num [Nat.mod_one]

theorem slots_find_first (f : Nat → Bool) (s k : Nat) (h : f s = false) (hk : k < 8) (h1 : 2 ^ k ≤ s) (h2 : s < 2 ^ (k + 1)) :
    [s % 256, s % 128, s % 64, s % 32, s % 16, s % 8, s % 4, s % 2, 0].find? f =
    [(s - 2 ^ k) % 256, (s - 2 ^ k) % 128, (s - 2 ^ k) % 64, (s - 2 ^ k) % 32, (s - 2 ^ k) % 16, (s - 2 ^ k) % 8, (s - 2 ^ k) % 4, (s - 2 ^ k) % 2, 0].find? f := by
  have big (x j : Nat) (hx : x < j) : x % j = x := Nat.mod_eq_of_lt hx
  have cut (j : Nat) (hj : 2 ^ k % j = 0) : (s - 2 ^ k) % j = s % j := by
    conv_rhs => rw [show s = (s - 2 ^ k) + 2 ^ k by omega]
    rw [Nat.add_mod, hj, Nat.add_zero, Nat.mod_mod]
  have dup (a : Nat) (l : List Nat) : (a :: a :: l).find? f = (a :: l).find? f := by
    simp only [List.find?]; cases f a <;> rfl
  have skip (l : List Nat) : (s :: l).find? f = l.find? f := by simp only [List.find?, h]
  have m : s % 2 ^ k = s - 2 ^ k := by rw [Nat.mod_eq_sub_mod h1, Nat.mod_eq_of_lt (by rw [Nat.pow_succ] at h2; omega)]
  interval_cases k <;> simp only [Nat.reducePow, Nat.reduceAdd] at * <;>
    simp (disch := omega) only [big, cut, skip, dup, m]
  rw [show s - 1 = 0 by omega, dup]

theorem rg_freshParity (p q : Page) (o y : Nat) (v : Word) (d : Dev) : rg (freshParity p o v d) q y = rg d q y := by
  unfold freshParity; split <;> rfl

end Sys2Proof.Machine
end

