-- ==== Sys2Proof/Laws/Locks.lean ====
section
/-! SUPPORT. The registers a lock makes read-only. -/
namespace Sys2Proof.Machine

theorem rwl_page {r : Page} {o : Nat} {row : Row} (h : r.row? o = some row) (h' : row.acc = .rwl) : (r = .gpu ∨ r = .wld 0 ∨ r = .lcs) ∧ 0x40 ≤ o := by
  have hm : row ∈ Reg.headerRows ∨ row ∈ r.rows := by
    unfold Page.row? at h
    split at h
    · exact .inl (List.mem_of_find?_eq_some h)
    · exact .inr (List.mem_of_find?_eq_some h)
  have hh : ∀ x ∈ Reg.headerRows, x.acc ≠ .rwl := by decide
  have hm2 : row ∈ r.rows := hm.resolve_left (fun k => hh _ k h')
  have bad : ∀ l : List Row, (l.all (fun x => x.acc != .rwl)) = true → row ∉ l := by
    intro l hl hr
    have := List.all_eq_true.mp hl row hr
    simp [h'] at this
  have mp : ∀ (l : List Row) (f : Row → Row), (∀ x, (f x).acc = .rwl → x.acc = .rwl) → (l.all (fun x => x.acc != .rwl)) = true → row ∉ l.map f := by
    intro l f hf hl hr
    obtain ⟨x, hx, rfl⟩ := List.mem_map.mp hr
    have := List.all_eq_true.mp hl x hx
    simp [hf x h'] at this
  have page : r = .gpu ∨ r = .wld 0 ∨ r = .lcs := by
    unfold Page.rows at hm2
    split at hm2
    all_goals first
      | exact absurd hm2 (bad _ (by decide))
      | exact .inl rfl
      | exact .inr (.inl rfl)
      | exact .inr (.inr rfl)
      | skip
    all_goals (try unfold headRows at hm2)
    all_goals (first
      | (split at hm2 <;> first
          | exact absurd hm2 (bad _ (by decide))
          | exact absurd hm2 (mp _ _ (fun x => by (try split) <;> simp) (by decide))
          | (split at hm2 <;> first
              | exact absurd hm2 (bad _ (by decide))
              | (split at hm2 <;> exact absurd hm2 (bad _ (by decide))))))
  have off : ∀ l : List Row, (l.all (fun x => decide (0x40 ≤ x.off))) = true → ∀ x ∈ l, 0x40 ≤ x.off := by
    intro l hl x hx
    simpa using List.all_eq_true.mp hl x hx
  have ho : row.off ≤ o ∧ row.hits o = true := by
    have hk : row.hits o = true := by
      unfold Page.row? at h
      split at h <;> simpa using List.find?_some h
    refine ⟨?_, hk⟩
    unfold Row.hits at hk
    simp at hk; exact hk.1
  refine ⟨page, Nat.le_trans ?_ ho.1⟩
  rcases page with rfl | rfl | rfl
  · obtain ⟨x, hx, rfl⟩ := List.mem_map.mp hm2
    have := off _ (by decide) x hx
    split <;> exact this
  · exact off _ (by decide) row hm2
  · exact off _ (by decide) row hm2

theorem gpu_row {o : Nat} {row : Row} (h : Page.gpu.row? o = some row) (h' : row.acc = .rwl)
    (hl : (Reg.Gpu.rows.all (fun x => x.acc != .rwl || !(x.hits o))) = true) : False := by
  have hh : ∀ x ∈ Reg.headerRows, x.acc ≠ .rwl := by decide
  unfold Page.row? at h
  split at h
  · exact hh _ (List.mem_of_find?_eq_some h) h'
  · have h1 := List.find?_some h
    obtain ⟨x, hx, rfl⟩ := List.mem_map.mp (List.mem_of_find?_eq_some h)
    have k := List.all_eq_true.mp hl x hx
    have e1 : x.acc = .rwl := by revert h'; split <;> exact id
    have e2 : x.hits o = true := by revert h1; split <;> exact id
    rw [e1, e2] at k
    revert k; decide

theorem locked_write {r : Page} {o : Nat} {row : Row} (h : r.row? o = some row) (h' : row.acc = .rwl) (who : Party) (sense : Nat) (v : Word) :
    regWrite who sense r o v = fun d => freshParity r o v (lockedWrite r o v d) := by
  obtain ⟨hp, ho⟩ := rwl_page h h'
  have e1 : o ≠ Reg.EVENT_EN := by unfold Reg.EVENT_EN; omega
  have e2 : o ≠ Reg.HOLD := by unfold Reg.HOLD; omega
  have ha : accIs r o .rwl = true := by unfold accIs; rw [h]; simp [h']
  have hpw : pageWrite who sense r o v = lockedWrite r o v := by
    rcases hp with rfl | rfl | rfl
    · show gpuRegWrite o v = _
      funext d
      unfold gpuRegWrite
      rw [if_neg, if_neg]
      · rintro rfl; exact gpu_row h h' (by decide)
      · rintro rfl; exact gpu_row h h' (by decide)
    · show (if o = Reg.Wld0.WLD_CTRL then wldCtrl v else typedWrite (.wld 0) o v) = _
      rw [if_neg]
      · funext d; unfold typedWrite; rw [if_pos ha]
      · rintro rfl; revert ha; decide
    · show (if o = Reg.Lcs.TAMPER_CLEAR then tamperClearWrite v else typedWrite .lcs o v) = _
      rw [if_neg]
      · funext d; unfold typedWrite; rw [if_pos ha]
      · rintro rfl; revert ha; decide
  unfold regWrite
  rw [h]
  simp only [h', if_neg e1, if_neg e2, hpw]

/-- A stream's engines take its owner; the stream's own OWNER stays (R254). -/
theorem rg_dwFollow {n : Nat} (h : n < 16) (d : Dev) : rg (dwFollow n d) (.stream n) Reg.OWNER = rg d (.stream n) Reg.OWNER := by
  unfold dwFollow
  have key : ∀ k, k ≤ 8 → rg (forN (fun e d => if (dwOf d e).serves = some n ∧ rb d (.dw e) Reg.OWNER 31 = false then
      sg (.dw e) Reg.OWNER (putBit (rg d (.stream n) Reg.OWNER) 31 false) d else d) k d) (.stream n) Reg.OWNER = rg d (.stream n) Reg.OWNER := by
    intro k
    induction k with
    | zero => exact fun _ => rfl
    | succ k ih =>
      intro hk
      rw [← ih (by omega)]
      unfold forN
      rw [List.range_succ, List.foldl_append]
      dsimp only [List.foldl]
      split
      · exact rg_sg_ne (by simp only [Page.base]; omega)
      · rfl
  exact key 8 (Nat.le_refl _)
/-- A locked OWNER, and one that the page's kind does not admit, keeps what it holds (R44, R112, R159). -/
theorem ownerTake_refused {who : Party} {r : Page} {v : Word} {d : Dev} (h : rb d r Reg.OWNER 31 = true ∨ ownerBad r v = true) :
    ownerTake who r v d = accessRefused r d := by
  unfold ownerTake
  rw [if_pos (by rcases h with h | h <;> rw [h] <;> simp)]

/-- The Fold part sets the fields of an unlocked OWNER (R44). -/
theorem ownerTake_fold {r : Page} {v : Word} {d : Dev} (h : rb d r Reg.OWNER 31 = false) (hb : ownerBad r v = false)
    (hn : ∀ n, r = .stream n → n < 16) :
    rg (ownerTake .fold r v d) r Reg.OWNER = (rg d r Reg.OWNER &&& ~~~ 0x800303FF) ||| (v &&& 0x800303FF) := by
  unfold ownerTake
  rw [if_neg (by rw [h, hb]; simp)]
  have e := rg_plainWrite r Reg.OWNER v d
  dsimp only
  split
  · exact (rg_dwFollow (hn _ rfl) _).trans e
  · exact e

end Sys2Proof.Machine
end

