-- ==== Sys2Proof/Laws/Nvm.lean ====
section
/-! SUPPORT. The NVM commands: the page buffer and the bytes they move. -/
namespace Sys2Proof.Machine

theorem readBytes_drop (rd : Nat → Byte) : ∀ (k a n : Nat), (readBytes rd a n).drop k = readBytes rd (a + k) (n - k) := by
  intro k
  induction k with
  | zero => intro a n; rfl
  | succ k ih =>
    intro a n
    cases n with
    | zero => simp [readBytes]
    | succ n => simp only [readBytes, List.drop_succ_cons, ih]; congr 1 <;> omega

theorem readBytes_take (rd : Nat → Byte) : ∀ (k a n : Nat), k ≤ n → (readBytes rd a n).take k = readBytes rd a k := by
  intro k
  induction k with
  | zero => intro a n _; rfl
  | succ k ih =>
    intro a n h
    cases n with
    | zero => omega
    | succ n => simp only [readBytes, List.take_succ_cons, ih _ _ (by omega : k ≤ n)]

theorem nvmByte_writeBytes (bs : List Byte) : ∀ (a c : Nat) (d : Dev),
    nvmByte (writeBytes setNvm a bs d) c = if c < a ∨ a + bs.length ≤ c then nvmByte d c else bs.getD (c - a) 0 := by
  induction bs with
  | nil => intro a c d; simp only [writeBytes, List.length_nil]; rw [if_pos (by omega)]
  | cons b bs ih =>
    intro a c d
    simp only [writeBytes, ih, (bytes_set d a c b).2.2, List.length_cons]
    by_cases h : c = a
    · subst h
      rw [if_pos (by omega), if_pos rfl, if_neg (by omega)]
      simp
    · by_cases h' : c < a + 1 ∨ a + 1 + bs.length ≤ c
      · rw [if_pos h', if_neg h, if_pos (by omega)]
      · rw [if_neg h', if_neg (by omega), show c - a = (c - (a + 1)) + 1 by omega]
        simp

theorem flat4 (f : Nat → List Byte) (hf : ∀ i, (f i).length = 4) : ∀ n, (((List.range n).map f).flatten).length = 4 * n ∧
    ∀ i, i < 4 * n → (((List.range n).map f).flatten)[i]? = (f (i / 4))[i % 4]? := by
  intro n
  induction n with
  | zero => exact ⟨rfl, fun i h => absurd h (by omega)⟩
  | succ n ih =>
    obtain ⟨h1, h2⟩ := ih
    rw [List.range_succ, List.map_append, List.flatten_append]
    have e : (List.map f [n]).flatten = f n := by simp
    rw [e]
    refine ⟨by rw [List.length_append, h1, hf]; omega, fun i hi => ?_⟩
    by_cases h : i < 4 * n
    · rw [List.getElem?_append_left (by omega)]; exact h2 i h
    · rw [List.getElem?_append_right (by omega), h1]
      have a : i / 4 = n := by omega
      have b : i - 4 * n = i % 4 := by omega
      rw [a, b]

theorem wordByte (w : Word) (j : Nat) (h : j < 4) : (wordBytes w)[j]? = some (BitVec.ofNat 8 (w.toNat / 256 ^ j)) := by
  have g (n : Nat) : BitVec.ofNat 8 (n % 256) = BitVec.ofNat 8 n := by apply BitVec.eq_of_toNat_eq; simp
  interval_cases j <;> simp [wordBytes, fld, g]

theorem nvmBuf_len (d : Dev) : (nvmBuf d).length = 256 := (flat4 (fun i => wordBytes (rg d .nvm (Reg.Nvm.NVM_BUF i))) (fun _ => rfl) 64).1

theorem nvmBuf_get (d : Dev) (i : Nat) (h : i < 256) : (nvmBuf d).getD i 0 = BitVec.ofNat 8 ((rg d .nvm (Reg.Nvm.NVM_BUF (i / 4))).toNat / 256 ^ (i % 4)) := by
  have := (flat4 (fun i => wordBytes (rg d .nvm (Reg.Nvm.NVM_BUF i))) (fun _ => rfl) 64).2 i (by omega)
  rw [List.getD_eq_getElem?_getD]
  unfold nvmBuf
  rw [this, wordByte _ _ (by omega)]; rfl

theorem rg_nvmBufSet (bs : List Byte) (d : Dev) (j : Nat) (h : j < 64) : rg (nvmBufSet bs d) .nvm (Reg.Nvm.NVM_BUF j) = BitVec.ofNat 32 (leNat ((bs.drop (4 * j)).take 4)) := by
  unfold nvmBufSet
  refine forN_hit (P := fun e => rg e .nvm (Reg.Nvm.NVM_BUF j) = BitVec.ofNat 32 (leNat ((bs.drop (4 * j)).take 4))) h (fun e => rg_sg_same _ _ _ _) (fun i e _ hp => ?_) d
  rw [rg_sg]
  split
  · rename_i hh
    have : i = j := by simp only [Reg.Nvm.NVM_BUF] at hh; omega
    subst this; rfl
  · exact hp

theorem writeBytes_setNvm_keep {α : Type} (g : Dev → α) (h : ∀ a b d, g (setNvm a b d) = g d) (bs : List Byte) : ∀ (a : Nat) (d : Dev), g (writeBytes setNvm a bs d) = g d := by
  induction bs with
  | nil => intro a d; rfl
  | cons b bs ih => intro a d; exact (ih _ _).trans (h a b d)

theorem nvmBufSet_frame (bs : List Byte) (d : Dev) : (nvmBufSet bs d).pasture = d.pasture ∧ (nvmBufSet bs d).dram = d.dram := by
  unfold nvmBufSet
  exact ⟨forN_same (fun e => e.pasture) (by intros; rfl) _ _, forN_same (fun e => e.dram) (by intros; rfl) _ _⟩

theorem nvmBufSet_nvm (bs : List Byte) (d : Dev) : (nvmBufSet bs d).nvm = d.nvm := by
  unfold nvmBufSet
  exact forN_same (fun e => e.nvm) (by intros; rfl) _ _

theorem nvmPerform_frame (f : Fuses) (code a : Nat) (d : Dev) (h1 : 1 ≤ code) (h2 : code ≤ 5) : (nvmPerform f code a false d).pasture = d.pasture ∧ (nvmPerform f code a false d).dram = d.dram := by
  have : code = 1 ∨ code = 2 ∨ code = 3 ∨ code = 4 ∨ code = 5 := by omega
  rcases this with rfl | rfl | rfl | rfl | rfl
  · exact nvmBufSet_frame _ _
  · exact ⟨writeBytes_setNvm_keep (·.pasture) (fun _ _ _ => rfl) _ _ _, writeBytes_setNvm_keep (·.dram) (fun _ _ _ => rfl) _ _ _⟩
  · exact ⟨rfl, rfl⟩
  · exact ⟨rfl, rfl⟩
  · exact ⟨rfl, rfl⟩

theorem cairnExportDue_eq (d : Dev) : ∃ R C, cairnExportDue d = { d with regs := R, cairn := C } ∧ ∀ (x : Page) (y : Nat), x.base + y ≠ (Page.crn 0).base + Reg.Crn0.CRN_STAT → tabGet regReset R (x.base + y) = tabGet regReset d.regs (x.base + y) := by
  unfold cairnExportDue
  split
  · unfold cairnExport
    split
    · exact ⟨_, _, rfl, fun _ _ _ => rfl⟩
    · refine ⟨_, _, rfl, fun x y h => ?_⟩
      exact (rg_sg_ne (p := .crn 0) h).trans (rg_sg_ne (p := .crn 0) h)
  · exact ⟨_, _, rfl, fun _ _ _ => rfl⟩

end Sys2Proof.Machine
end

