-- ==== Sys2Proof/Laws/Paddocks.lean ====
section
/-! SUPPORT. The commands of the paddock manager: where they write and what they keep. -/
namespace Sys2Proof.Machine

theorem pset_ne_padg {u : Nat} (hu : u < 2) {p : Nat} {o o' : Nat} (ho : o < 0x1000) : (Page.pset p 0).base + o' ≠ (Page.padg u).base + o := by
  simp only [Page.base]; omega

theorem upOf_modUp (u : Nat) (f : UpS → UpS) (d : Dev) : upOf (modUp u f d) u = f (upOf d u) := by
  simp only [upOf, modUp, tabGet_set_same]

theorem pendBit_eq (reg : Nat → Nat) (vec p : Nat) (b : Bool) (d : Dev) : ∃ R O, pendBit reg vec p b d = { d with regs := R, out := O } ∧
    ∀ a, ¬ pbaAt a → (∀ u, portOf d p = some u → a ≠ (Page.padg u).base + reg (p / 32)) → tabGet regReset R a = tabGet regReset d.regs a := by
  unfold pendBit
  split
  · exact ⟨_, _, rfl, fun _ _ _ => rfl⟩
  · rename_i u hu
    dsimp only
    have base : ∀ a, (∀ u, portOf d p = some u → a ≠ (Page.padg u).base + reg (p / 32)) → tabGet regReset (sb (.padg u) (reg (p / 32)) (p % 32) b d).regs a = tabGet regReset d.regs a :=
      fun a h => tabGet_set_ne (h u hu)
    split
    · obtain ⟨R, O, e, h⟩ := sendMsix_eq u vec (sb (.padg u) (reg (p / 32)) (p % 32) b d)
      exact ⟨R, O, by rw [e]; rfl, fun a h1 h2 => (h a h1).trans (base a h2)⟩
    · split
      · refine ⟨_, _, rfl, fun a h1 h2 => (tabGet_set_ne (fun e => h1 ⟨u, e⟩)).trans (base a h2)⟩
      · exact ⟨_, _, rfl, fun a h1 h2 => base a h2⟩

theorem padClasses_eq (p : Nat) (d : Dev) : ∃ R0, padClasses p d = { d with regs := R0 } ∧ ∀ (x : Page) (y : Nat), y < 0x1000 → y ≠ Reg.FAULT_CLASS → rg (padClasses p d) x y = rg d x y := by
  unfold padClasses
  generalize [0, 1, 11, 12, 13, 14, 15] = l
  have go : ∀ (l : List Nat) (e : Dev), ∃ R0, l.foldl (fun d k => sg (.pset p k) Reg.FAULT_CLASS (imageClass d (.pset p k)) d) e = { e with regs := R0 } ∧
      ∀ (x : Page) (y : Nat), y < 0x1000 → y ≠ Reg.FAULT_CLASS → rg (l.foldl (fun d k => sg (.pset p k) Reg.FAULT_CLASS (imageClass d (.pset p k)) d) e) x y = rg e x y := by
    intro l
    induction l with
    | nil => exact fun e => ⟨e.regs, rfl, fun _ _ _ _ => rfl⟩
    | cons k l ih =>
      intro e
      obtain ⟨R, h1, h2⟩ := ih (sg (.pset p k) Reg.FAULT_CLASS (imageClass e (.pset p k)) e)
      exact ⟨R, h1, fun x y hy hn => (h2 x y hy hn).trans (rg_sg_ne (base_ne hy (by decide) hn))⟩
  exact go l d

theorem rg_modPad (k : Nat) (f : PadS → PadS) (d : Dev) (p : Page) (o : Nat) : rg (modPad k f d) p o = rg d p o := rfl

theorem grantFrames_facts (p f i : Nat) : ∀ (n : Nat) (d : Dev), f + n ≤ 16384 → i + n ≤ 8192 →
    (let e := (List.range n).foldl (fun d k => pmapSet p (i + k) (BitVec.ofNat 32 (0x80000000 + f + k)) (fotSet (f + k) (fotWord fkPaddock p (i + k)) d)) d
     (∃ F M, e = { d with pad := { d.pad with fot := F, maps := M } }) ∧
     (∀ g, fotGet e g = if f ≤ g ∧ g < f + n then fotWord fkPaddock p (i + (g - f)) else fotGet d g) ∧
     (∀ q j, j < 8192 → pmapGet e q j = if q = p ∧ i ≤ j ∧ j < i + n then BitVec.ofNat 32 (0x80000000 + f + (j - i)) else pmapGet d q j)) := by
  intro n
  induction n with
  | zero =>
    intro d _ _
    exact ⟨⟨d.pad.fot, d.pad.maps, rfl⟩, fun g => by rw [if_neg (by omega)]; rfl, fun q j _ => by rw [if_neg (by omega)]; rfl⟩
  | succ n ih =>
    intro d hf hi
    obtain ⟨⟨F, M, e⟩, h1, h2⟩ := ih d (by omega) (by omega)
    simp only [List.range_succ, List.foldl_append, List.foldl_cons, List.foldl_nil]
    generalize (List.range n).foldl (fun d k => pmapSet p (i + k) (BitVec.ofNat 32 (0x80000000 + f + k)) (fotSet (f + k) (fotWord fkPaddock p (i + k)) d)) d = x at *
    refine ⟨⟨_, _, by rw [e]; rfl⟩, fun g => ?_, fun q j hj => ?_⟩
    · have e1 : fotGet (pmapSet p (i + n) (BitVec.ofNat 32 (0x80000000 + f + n)) (fotSet (f + n) (fotWord fkPaddock p (i + n)) x)) g = if g = f + n then fotWord fkPaddock p (i + n) else fotGet x g := by
        unfold fotGet
        by_cases hg : g < 16384
        · rw [if_pos hg, if_pos hg]
          exact tabGet_set _ _ _ _ _
        · rw [if_neg hg, if_neg hg, if_neg (by omega)]
      rw [e1, h1]
      by_cases hg : g = f + n
      · subst hg; rw [if_pos rfl, if_pos (by omega)]; congr 1; omega
      · rw [if_neg hg]
        by_cases hh : f ≤ g ∧ g < f + n
        · rw [if_pos hh, if_pos (by omega)]
        · rw [if_neg hh, if_neg (by omega)]
    · have e1 : pmapGet (pmapSet p (i + n) (BitVec.ofNat 32 (0x80000000 + f + n)) (fotSet (f + n) (fotWord fkPaddock p (i + n)) x)) q j = if q * 8192 + j = p * 8192 + (i + n) then BitVec.ofNat 32 (0x80000000 + f + n) else pmapGet x q j := tabGet_set _ _ _ _ _
      rw [e1, h2 q j hj]
      by_cases hg : q * 8192 + j = p * 8192 + (i + n)
      · have hq : q = p ∧ j = i + n := by omega
        obtain ⟨rfl, rfl⟩ := hq
        rw [if_pos rfl, if_pos (by omega)]; congr 2; omega
      · rw [if_neg hg]
        by_cases hh : q = p ∧ i ≤ j ∧ j < i + n
        · rw [if_pos hh, if_pos (by omega)]
        · rw [if_neg hh, if_neg (by omega)]

end Sys2Proof.Machine
end

