-- ==== Sys2Proof/Laws/Stores.lean ====
section
/-! SUPPORT. What a store leaves in Pasture and DRAM, byte for byte, and that the requests of the memories keep their form. -/
namespace Sys2Proof.Machine

theorem writeBytes_setDram_eq (bs : List Byte) : ∀ (a : Nat) (d : Dev), ∃ m, writeBytes setDram a bs d = { d with dram := m } := by
  induction bs with
  | nil => exact fun a d => ⟨d.dram, rfl⟩
  | cons b bs ih =>
    intro a d
    obtain ⟨m, h⟩ := ih (a + 1) (setDram a b d)
    exact ⟨m, h⟩

theorem dramWriteWord_stores (w a : Nat) (bs : List Byte) (d : Dev) : ∃ m e, dramWriteWord w a bs d = { d with dram := m, drc := { d.drc with err := e } } ∧
    ∀ c, dramByte (dramWriteWord w a bs d) c = if a ≤ c ∧ c < a + bs.length then bs.getD (c - a) 0 else dramByte d c := by
  unfold dramWriteWord
  split
  · rename_i h; subst h
    exact ⟨d.dram, d.drc.err, rfl, fun c => by rw [if_neg (by simp only [List.length_nil]; omega)]⟩
  · dsimp only
    obtain ⟨m, h⟩ := writeBytes_setDram_eq bs a (if bs.length = 8 ∨ dramErr d w = 1 then setDramErr w 0 d else d)
    have hx : ∃ e, (if bs.length = 8 ∨ dramErr d w = 1 then setDramErr w 0 d else d) = { d with drc := { d.drc with err := e } } := by
      split
      · exact ⟨_, rfl⟩
      · exact ⟨d.drc.err, rfl⟩
    obtain ⟨e, hx⟩ := hx
    refine ⟨m, e, by rw [h, hx], fun c => ?_⟩
    rw [dramByte_writeBytes]
    have : dramByte (if bs.length = 8 ∨ dramErr d w = 1 then setDramErr w 0 d else d) c = dramByte d c := by rw [hx]; rfl
    rw [this]
    by_cases hc : c < a ∨ a + bs.length ≤ c
    · rw [if_pos hc, if_neg (by omega)]
    · rw [if_neg hc, if_pos (by omega)]

theorem getD_take {bs : List Byte} {k i : Nat} (h : i < k) : (bs.take k).getD i 0 = bs.getD i 0 := by
  rw [List.getD_eq_getElem?_getD, List.getD_eq_getElem?_getD, List.getElem?_take_of_lt h]

theorem getD_drop (bs : List Byte) (k i : Nat) : (bs.drop k).getD i 0 = bs.getD (k + i) 0 := by
  rw [List.getD_eq_getElem?_getD, List.getD_eq_getElem?_getD, List.getElem?_drop]

/-- Cutting a write in two. -/
theorem cut_bytes (bs : List Byte) (a k c : Nat) (x : Byte) :
    (if a + k ≤ c ∧ c < a + k + (bs.drop k).length then (bs.drop k).getD (c - (a + k)) 0
     else if a ≤ c ∧ c < a + (bs.take k).length then (bs.take k).getD (c - a) 0 else x) =
    if a ≤ c ∧ c < a + bs.length then bs.getD (c - a) 0 else x := by
  rw [List.length_drop, List.length_take]
  by_cases h1 : a + k ≤ c ∧ c < a + k + (bs.length - k)
  · rw [if_pos h1, if_pos (by omega), getD_drop]; congr 1; omega
  · rw [if_neg h1]
    by_cases h2 : a ≤ c ∧ c < a + min k bs.length
    · rw [if_pos h2, if_pos (by omega), getD_take (by omega)]
    · rw [if_neg h2, if_neg (by omega)]

theorem dramWrite_stores : ∀ (k a : Nat) (bs : List Byte) (d : Dev), bs.length ≤ 8 * k - a % 8 ∨ bs = [] → ∃ m e, dramWrite k a bs d = { d with dram := m, drc := { d.drc with err := e } } ∧
    ∀ c, dramByte (dramWrite k a bs d) c = if a ≤ c ∧ c < a + bs.length then bs.getD (c - a) 0 else dramByte d c := by
  intro k
  induction k with
  | zero =>
    intro a bs d h
    have : bs = [] := by rcases h with h | h; exact List.length_eq_zero_iff.mp (by omega); exact h
    subst this
    exact ⟨d.dram, d.drc.err, rfl, fun c => by rw [if_neg (by simp only [List.length_nil]; omega)]; rfl⟩
  | succ k ih =>
    intro a bs d h
    unfold dramWrite
    split
    · rename_i h0; subst h0
      exact ⟨d.dram, d.drc.err, rfl, fun c => by rw [if_neg (by simp only [List.length_nil]; omega)]⟩
    · rename_i h0
      obtain ⟨m1, e1, h1, g1⟩ := dramWriteWord_stores (a / 8) a (bs.take (8 - a % 8)) d
      obtain ⟨m2, e2, h2, g2⟩ := ih (a + (8 - a % 8)) (bs.drop (8 - a % 8)) (dramWriteWord (a / 8) a (bs.take (8 - a % 8)) d) (by
        left; rw [List.length_drop]; rcases h with h | h
        · omega
        · exact absurd h h0)
      refine ⟨m2, e2, by rw [h2, h1], fun c => ?_⟩
      rw [g2, g1, cut_bytes]

theorem locOf_memory (d : Dev) (w : Who) (a : Nat) (m : Tab Byte) (e : Tab Nat) : locOf { d with dram := m, drc := { d.drc with err := e } } w a = locOf d w a := rfl

theorem memWriteRuns_stores (w : Who) (hw : ∀ p, w ≠ .party (.paddock p)) (l : Lane) : ∀ (k a : Nat) (bs : List Byte) (d : Dev), bs.length ≤ 0x200000 * k - a % 0x200000 ∨ bs = [] →
    (bs = [] ∨ a + bs.length ≤ pastBase) → (∀ c, a ≤ c → c < a + bs.length → c = a ∨ c % 0x200000 = 0 → (locOf d w c).isSome = true) →
    ∃ m e, memWriteRuns k w l a bs d = { d with dram := m, drc := { d.drc with err := e } } ∧
    ∀ c, dramByte (memWriteRuns k w l a bs d) c = if a ≤ c ∧ c < a + bs.length then bs.getD (c - a) 0 else dramByte d c := by
  intro k
  induction k with
  | zero =>
    intro a bs d h _ _
    have : bs = [] := by rcases h with h | h; exact List.length_eq_zero_iff.mp (by omega); exact h
    subst this
    exact ⟨d.dram, d.drc.err, rfl, fun c => by rw [if_neg (by simp only [List.length_nil]; omega)]; rfl⟩
  | succ k ih =>
    intro a bs d h hp hl
    unfold memWriteRuns
    split
    · rename_i h0; subst h0
      exact ⟨d.dram, d.drc.err, rfl, fun c => by rw [if_neg (by simp only [List.length_nil]; omega)]⟩
    · rename_i h0
      have hlen : 0 < bs.length := List.length_pos_iff.mpr h0
      have hloc : locOf d w a = some (.dram a) := by
        have := hl a (Nat.le_refl _) (by omega) (.inl rfl)
        unfold locOf at this ⊢
        split at this
        · exact absurd rfl (hw _)
        · have hp' : a + bs.length ≤ pastBase := hp.resolve_left h0
          rw [if_neg (by omega)] at this ⊢
          split at this
          · rename_i hx; rw [if_pos hx]
          · cases this
      have hrun : memWriteRun w l a (bs.take (0x200000 - a % 0x200000)) d = dramWrite ((bs.take (0x200000 - a % 0x200000)).length / 8 + 2) a (bs.take (0x200000 - a % 0x200000)) d := by
        simp only [memWriteRun, hloc]
      rw [hrun]
      obtain ⟨m1, e1, h1, g1⟩ := dramWrite_stores ((bs.take (0x200000 - a % 0x200000)).length / 8 + 2) a (bs.take (0x200000 - a % 0x200000)) d (by left; omega)
      obtain ⟨m2, e2, h2, g2⟩ := ih (a + (0x200000 - a % 0x200000)) (bs.drop (0x200000 - a % 0x200000)) (dramWrite ((bs.take (0x200000 - a % 0x200000)).length / 8 + 2) a (bs.take (0x200000 - a % 0x200000)) d)
        (by
          left; rw [List.length_drop]; rcases h with h | h
          · omega
          · exact absurd h h0)
        (by
          by_cases hh : bs.length ≤ 0x200000 - a % 0x200000
          · exact .inl (List.drop_eq_nil_of_le hh)
          · right; rw [List.length_drop]; rcases hp with hp | hp
            · exact absurd hp h0
            · omega)
        (by
          intro c c1 c2 c3
          rw [h1, locOf_memory]
          rw [List.length_drop] at c2
          exact hl c (by omega) (by omega) (.inr (by omega)))
      refine ⟨m2, e2, by rw [h2, h1], fun c => ?_⟩
      rw [g2, g1, cut_bytes]

theorem locOf_below (d : Dev) (w : Who) (hw : ∀ p, w ≠ .party (.paddock p)) (a b : Nat) (ha : a < pastBase) (hb : b < pastBase)
    (h : a / 0x200000 = b / 0x200000) : (locOf d w a).isSome = (locOf d w b).isSome := by
  unfold locOf
  split
  · exact absurd rfl (hw _)
  · rw [if_neg (show ¬ pastBase ≤ a by omega), if_neg (show ¬ pastBase ≤ b by omega)]
    unfold dramAdmits
    rw [h]
    have : decide (a < 0x800000000) = decide (b < 0x800000000) := by
      apply decide_eq_decide.mpr; omega
    rw [this]
    split <;> rfl

theorem rangeOk_locs (d : Dev) (w : Who) (hw : ∀ p, w ≠ .party (.paddock p)) (a n : Nat) (hn : a + n ≤ pastBase) (h : rangeOk d w a n = true) :
    ∀ c, a ≤ c → c < a + n → c = a ∨ c % 0x200000 = 0 → (locOf d w c).isSome = true := by
  intro c c1 c2 c3
  unfold rangeOk at h
  have n0 : (n == 0) = false := by simp; omega
  rw [n0, Bool.false_or, Bool.and_eq_true, Bool.and_eq_true, List.all_eq_true] at h
  obtain ⟨⟨h1, h2⟩, h3⟩ := h
  rcases c3 with rfl | c3
  · exact h1
  · by_cases hca : c = a
    · rw [hca]; exact h1
    · by_cases hi : c / 64 - a / 64 - 1 < n / 64
      · have := h3 _ (List.mem_range.mpr hi)
        have e : (a / 64 + (c / 64 - a / 64 - 1) + 1) * 64 = c := by omega
        rw [e] at this
        have nd : decide (a + n ≤ c) = false := by simp; omega
        rw [nd, Bool.or_false] at this; exact this
      · rw [locOf_below d w hw c (a + n - 1) (by omega) (by omega) (by omega)]; exact h2

theorem writeBytes_setPast_eq (bs : List Byte) : ∀ (a : Nat) (d : Dev), ∃ m, writeBytes setPast a bs d = { d with pasture := m } := by
  induction bs with
  | nil => exact fun a d => ⟨d.pasture, rfl⟩
  | cons b bs ih =>
    intro a d
    obtain ⟨m, h⟩ := ih (a + 1) (setPast a b d)
    exact ⟨m, h⟩

/-- What a write may change, with no word of it made bad and no bank turned off. -/
def StoresOnly (d e : Dev) : Prop :=
  { e with pasture := d.pasture, pst := d.pst, regs := d.regs } = d ∧ (∀ w, pastErr d w = 0 → pastErr e w = 0) ∧
  (∀ b, b < 64 → bankState d b ≠ 2 → bankState e b ≠ 2)

theorem StoresOnly.refl (d : Dev) : StoresOnly d d := ⟨rfl, fun _ h => h, fun _ _ h => h⟩

theorem StoresOnly.trans {a b c : Dev} (h : StoresOnly a b) (k : StoresOnly b c) : StoresOnly a c := by
  refine ⟨?_, fun w hw => k.2.1 w (h.2.1 w hw), fun x hb hx => k.2.2 x hb (h.2.2 x hb hx)⟩
  have h1 := h.1; have k1 := k.1
  rw [← k1] at h1
  exact h1

theorem pastWriteWord_stores (t w o : Nat) (bs : List Byte) (d : Dev) (h : pastErr d w = 0) : StoresOnly d (pastWriteWord t w o bs d) ∧
    ∀ c, pastByte (pastWriteWord t w o bs d) c = if o ≤ c ∧ c < o + bs.length then bs.getD (c - o) 0 else pastByte d c := by
  have key : StoresOnly d (setPastErr w 0 (writeBytes setPast o bs d)) ∧
    ∀ c, pastByte (setPastErr w 0 (writeBytes setPast o bs d)) c = if o ≤ c ∧ c < o + bs.length then bs.getD (c - o) 0 else pastByte d c := by
    refine ⟨?_, fun c => ?_⟩
    · obtain ⟨m, hm⟩ := writeBytes_setPast_eq bs o d
      rw [hm]
      refine ⟨rfl, fun x hx => ?_, fun _ _ hb => hb⟩
      simp only [pastErr, setPastErr, modPst] at hx ⊢
      rw [tabGet_set]; split
      · rfl
      · exact hx
    · refine (pastByte_writeBytes bs o c d).trans ?_
      by_cases hc : c < o ∨ o + bs.length ≤ c
      · rw [if_pos hc, if_neg (by omega)]
      · rw [if_neg hc, if_pos (by omega)]
  unfold pastWriteWord
  split
  · rename_i h0; subst h0
    exact ⟨.refl d, fun c => by rw [if_neg (by simp only [List.length_nil]; omega)]⟩
  · rw [if_neg (by rw [h]; decide)]
    split
    · exact key
    · rw [if_neg (by rw [h]; decide), if_neg (by rw [h]; decide)]; exact key

theorem pastWriteWords_stores (t : Nat) : ∀ (k o : Nat) (bs : List Byte) (d : Dev), bs.length ≤ 8 * k - o % 8 ∨ bs = [] →
    (∀ w, o / 8 ≤ w → 8 * w < o + bs.length → pastErr d w = 0) → StoresOnly d (pastWriteWords k t o bs d) ∧
    ∀ c, pastByte (pastWriteWords k t o bs d) c = if o ≤ c ∧ c < o + bs.length then bs.getD (c - o) 0 else pastByte d c := by
  intro k
  induction k with
  | zero =>
    intro o bs d h _
    have : bs = [] := by rcases h with h | h; exact List.length_eq_zero_iff.mp (by omega); exact h
    subst this
    exact ⟨.refl d, fun c => by rw [if_neg (by simp only [List.length_nil]; omega)]; rfl⟩
  | succ k ih =>
    intro o bs d h he
    cases bs with
    | nil => exact ⟨.refl d, fun c => by rw [if_neg (by simp only [List.length_nil]; omega)]; rfl⟩
    | cons b l =>
      generalize hbs : b :: l = bs at *
      have hne : bs ≠ [] := by rw [← hbs]; exact List.cons_ne_nil _ _
      have hpos : 0 < bs.length := List.length_pos_iff.mpr hne
      have e : pastWriteWords (k + 1) t o bs d = pastWriteWords k t (o + (8 - o % 8)) (bs.drop (8 - o % 8)) (pastWriteWord t (o / 8) o (bs.take (8 - o % 8)) d) := by
        rw [← hbs]; rfl
      rw [e]
      obtain ⟨h1, g1⟩ := pastWriteWord_stores t (o / 8) o (bs.take (8 - o % 8)) d (he _ (Nat.le_refl _) (by omega))
      obtain ⟨h2, g2⟩ := ih (o + (8 - o % 8)) (bs.drop (8 - o % 8)) (pastWriteWord t (o / 8) o (bs.take (8 - o % 8)) d)
        (by left; rw [List.length_drop]; rcases h with h | h
            · omega
            · exact absurd h hne)
        (fun w w1 w2 => by
          rw [List.length_drop] at w2
          exact h1.2.1 w (he w (by omega) (by omega)))
      refine ⟨h1.trans h2, fun c => ?_⟩
      rw [g2, g1, cut_bytes]

theorem bankTouch_stores (b : Nat) (d : Dev) : StoresOnly d (bankTouch b d) ∧ (bankTouch b d).pasture = d.pasture := by
  unfold bankTouch
  split
  · refine ⟨⟨rfl, fun _ h => h, fun x hx h => ?_⟩, rfl⟩
    unfold bankState bump addTo setBankState sf
    simp only [rf_eq_fld]
    rw [rg_sg_ne (by simp only [Page.base, Reg.Pst1.BANK_STATE, Reg.Pst1.POWER_COUNT]; omega), rg_sg]
    split
    · rename_i hh
      have hq : x / 16 = b / 16 := by simp only [Page.base, Reg.Pst1.BANK_STATE] at hh; omega
      by_cases hxb : x % 16 = b % 16
      · rw [hxb, fld_setFld_same _ _ (by omega) (by omega)]
        have : 2 * (b % 16) + 1 + 1 - 2 * (b % 16) = 2 := by omega
        rw [this]; decide
      · rw [fld_setFld_ne _ _ (by omega) (by omega) (by omega), ← hq]; exact h
    · exact h
  · exact ⟨.refl d, rfl⟩

theorem pastWriteRow_stores (t o : Nat) (bs : List Byte) (d : Dev) (hlen : bs.length ≤ 64 - o % 64) (ho : o < 0x2000000)
    (he : ∀ w, o / 8 ≤ w → 8 * w < o + bs.length → pastErr d w = 0) (hb : bankState d (bankOf o) ≠ 2) : StoresOnly d (pastWriteRow t o bs d) ∧
    ∀ c, pastByte (pastWriteRow t o bs d) c = if o ≤ c ∧ c < o + bs.length then bs.getD (c - o) 0 else pastByte d c := by
  unfold pastWriteRow
  rw [if_neg hb]
  dsimp only
  obtain ⟨h1, p1⟩ := bankTouch_stores (bankOf o) d
  obtain ⟨h2, g2⟩ := pastWriteWords_stores t 9 o bs (bankTouch (bankOf o) d) (by left; omega) (fun w w1 w2 => h1.2.1 w (he w w1 w2))
  refine ⟨(h1.trans h2).trans ⟨rfl, fun _ h => h, fun _ _ h => h⟩, fun c => ?_⟩
  refine (g2 c).trans ?_
  unfold pastByte; rw [p1]

theorem pastWrite_stores (t : Nat) : ∀ (k o : Nat) (bs : List Byte) (d : Dev), bs.length ≤ 64 * k - o % 64 ∨ bs = [] →
    (bs = [] ∨ o + bs.length ≤ 0x2000000) →
    (∀ w, o / 8 ≤ w → 8 * w < o + bs.length → pastErr d w = 0) →
    (∀ b, 0 < bs.length → bankOf o ≤ b → b * bankBytes < o + bs.length → bankState d b ≠ 2) → StoresOnly d (pastWrite k t o bs d) ∧
    ∀ c, pastByte (pastWrite k t o bs d) c = if o ≤ c ∧ c < o + bs.length then bs.getD (c - o) 0 else pastByte d c := by
  intro k
  induction k with
  | zero =>
    intro o bs d h _ _ _
    have : bs = [] := by rcases h with h | h; exact List.length_eq_zero_iff.mp (by omega); exact h
    subst this
    exact ⟨.refl d, fun c => by rw [if_neg (by simp only [List.length_nil]; omega)]; rfl⟩
  | succ k ih =>
    intro o bs d h hr he hb
    unfold pastWrite
    split
    · rename_i h0; subst h0
      exact ⟨.refl d, fun c => by rw [if_neg (by simp only [List.length_nil]; omega)]⟩
    · rename_i hne
      have hpos : 0 < bs.length := List.length_pos_iff.mpr hne
      have hr' := hr.resolve_left hne
      obtain ⟨h1, g1⟩ := pastWriteRow_stores t o (bs.take (64 - o % 64)) d (by rw [List.length_take]; omega) (by omega)
        (fun w w1 w2 => he w w1 (by rw [List.length_take] at w2; omega)) (hb _ hpos (Nat.le_refl _) (by simp only [bankOf, bankBytes]; omega))
      obtain ⟨h2, g2⟩ := ih (o + (64 - o % 64)) (bs.drop (64 - o % 64)) (pastWriteRow t o (bs.take (64 - o % 64)) d)
        (by left; rw [List.length_drop]; rcases h with h | h
            · omega
            · exact absurd h hne)
        (by
          by_cases hh : bs.length ≤ 64 - o % 64
          · exact .inl (List.drop_eq_nil_of_le hh)
          · right; rw [List.length_drop]; omega)
        (fun w w1 w2 => by
          rw [List.length_drop] at w2
          exact h1.2.1 w (he w (by omega) (by omega)))
        (fun b b0 b1 b2 => by
          rw [List.length_drop] at b0 b2
          simp only [bankOf, bankBytes] at b1 b2 hb
          exact h1.2.2 b (by omega) (hb b hpos (by omega) (by omega)))
      refine ⟨h1.trans h2, fun c => ?_⟩
      rw [g2, g1, cut_bytes]

theorem wf_foldl {α : Type} {f : Dev → α → Dev} (h : ∀ d x, (f d x).memWf = d.memWf) (l : List α) : ∀ d, (l.foldl f d).memWf = d.memWf := by
  induction l with
  | nil => exact fun _ => rfl
  | cons x l ih => exact fun d => (ih _).trans (h _ _)

theorem wf_ite {c : Prop} [Decidable c] {a b : Dev} (ha : a.memWf = true) (hb : b.memWf = true) : (if c then a else b).memWf = true := by
  split <;> assumption

theorem wf_when {b : Bool} {f : Dev → Dev} {d : Dev} (hf : (f d).memWf = d.memWf) (h : d.memWf = true) : (when b f d).memWf = true := by
  unfold when; split
  · rw [hf]; exact h
  · exact h

theorem wf_setPastErr (w x : Nat) (d : Dev) : (setPastErr w x d).memWf = d.memWf := rfl

theorem wf_setDramErr (w x : Nat) (d : Dev) : (setDramErr w x d).memWf = d.memWf := rfl

theorem wf_flips (l : List (Nat × Bool)) (d : Dev) : (flipWords l d).memWf = d.memWf := by
  unfold flipWords
  refine wf_foldl (fun d f => ?_) l d
  split
  · rfl
  · exact wf_setPastErr _ _ _

theorem wf_fieldDeny (d : Dev) : (fieldDeny d).memWf = d.memWf := ((FaultsOnly.bump _ _ _ _ _).trans (.raiseFault _ _ _ _)).memWf

theorem wf_sf (p : Page) (o h l x : Nat) (d : Dev) : (sf p o h l x d).memWf = d.memWf := rfl

theorem wf_sg (p : Page) (o : Nat) (x : Word) (d : Dev) : (sg p o x d).memWf = d.memWf := rfl

theorem wf_bump (p : Page) (o h l : Nat) (d : Dev) : (bump p o h l d).memWf = d.memWf := rfl

theorem wf_addTo (p : Page) (o h l n : Nat) (d : Dev) : (addTo p o h l n d).memWf = d.memWf := rfl

theorem wf_arb (t w : Nat) (d : Dev) : (arbWait t w d).memWf = d.memWf := by
  unfold arbWait
  dsimp only
  split
  · exact wf_sf _ _ _ _ _ _
  · split
    · exact wf_sf _ _ _ _ _ _
    · rfl

theorem wf_rec (x : List Byte) (b : Bool) (d : Dev) : ({ d with data := x, poisoned := b } : Dev).memWf = d.memWf := rfl

theorem wf_data (x : List Byte) (d : Dev) : ({ d with data := x } : Dev).memWf = d.memWf := rfl

theorem wf_modDrc (f : DrcS → DrcS) (d : Dev) : (modDrc f d).memWf = d.memWf := rfl

theorem wf_modCore (n : Nat) (f : CoreS → CoreS) (d : Dev) : (modCore n f d).memWf = d.memWf := rfl

theorem wf_isoBurst (c : Nat) {d : Dev} (h : d.memWf = true) : (isoBurst c d).memWf = true := by
  unfold isoBurst
  have h1 := wf_when (b := decide (resNow d ≤ tabGet (fun _ => 0) d.drc.win c)) (wf_bump (.drc 2) Reg.Drc2.ISO_OVER 15 0 d) h
  dsimp only
  generalize when (decide (resNow d ≤ tabGet (fun _ => 0) d.drc.win c)) (bump (.drc 2) Reg.Drc2.ISO_OVER 15 0) d = e at *
  have h2 := (wf_modDrc (fun s => { s with win := tabSet (fun _ => 0) s.win c (tabGet (fun _ => 0) d.drc.win c + 1), bursts := (s.bursts + 1) % 1024 }) e).trans h1
  generalize modDrc (fun s => { s with win := tabSet (fun _ => 0) s.win c (tabGet (fun _ => 0) d.drc.win c + 1), bursts := (s.bursts + 1) % 1024 }) e = f at *
  exact wf_ite ((wf_bump _ _ _ _ _).trans h2) h2

theorem wf_foldl' {α : Type} {f : Dev → α → Dev} (h : ∀ d x, d.memWf = true → (f d x).memWf = true) (l : List α) : ∀ d, d.memWf = true → (l.foldl f d).memWf = true := by
  induction l with
  | nil => exact fun _ h => h
  | cons x l ih => exact fun d k => ih _ (h _ _ k)

theorem wf_bursts (iso : Bool) (port a n code : Nat) {d : Dev} (hd : d.memWf = true) : (serveBursts iso port a n code d).memWf = true := by
  have op : ∀ c d, (openRow c d).memWf = d.memWf := fun _ _ => rfl
  unfold serveBursts
  dsimp only
  have b : ((burstsOf a n).foldl (fun d x => openRow x (if iso then isoBurst (dramChannel x) d else d)) d).memWf = true :=
    wf_foldl' (fun d x h => (op _ _).trans (wf_ite (wf_isoBurst _ h) h)) _ d hd
  generalize (burstsOf a n).foldl (fun d x => openRow x (if iso then isoBurst (dramChannel x) d else d)) d = e at *
  refine wf_ite ?_ ((wf_addTo _ _ _ _ _ _).trans b)
  unfold forN
  exact wf_foldl' (fun d _ h => wf_isoBurst _ h) _ _ b

theorem wf_dramAct (r : DramReq) {d : Dev} (h : d.memWf = true) : (dramAct r d).2.memWf = true := by
  unfold dramAct
  dsimp only
  split
  · exact h
  · split
    · exact memWf_memWrite _ _ _ _ h
    · exact (memWf_memRead _ _ _ _ _).trans h

theorem wf_enqueue (r : DramReq) {d : Dev} (h : d.memWf = true) : (enqueue r d).memWf = true := by
  unfold enqueue
  dsimp only
  refine (wf_modDrc _ _).trans (wf_dramAct r ?_)
  exact wf_ite h ((wf_sg _ _ _ _).trans ((wf_bump _ _ _ _ _).trans h))

theorem wf_admitChan (c : Nat) : ∀ (k : Nat) {d : Dev}, d.memWf = true → (admitChan c k d).memWf = true := by
  intro k
  induction k with
  | zero => exact fun h => h
  | succ k ih =>
    intro d h
    unfold admitChan
    split
    · exact ih (wf_enqueue _ h)
    · exact h

theorem wf_forN {f : Nat → Dev → Dev} (h : ∀ k d, d.memWf = true → (f k d).memWf = true) (n : Nat) {d : Dev} (hd : d.memWf = true) :
    (forN f n d).memWf = true := by
  unfold forN
  exact wf_foldl' (fun d k hd => h k d hd) _ _ hd

theorem wf_admitAll {d : Dev} (h : d.memWf = true) : (admitAll d).memWf = true := wf_forN (fun _ _ h => wf_admitChan _ _ h) _ h

theorem wf_showWaiting (d : Dev) : (showWaiting d).memWf = d.memWf := by
  unfold showWaiting
  split <;> rfl

theorem wf_withdraw (r : DramReq) {d : Dev} (h : d.memWf = true) : (withdraw r d).memWf = true := by
  unfold withdraw
  dsimp only
  exact wf_when (wf_bump _ _ _ _ _) ((wf_bump _ _ _ _ _).trans ((wf_modDrc _ _).trans h))

theorem wf_arrive (r : DramReq) {d : Dev} (h : d.memWf = true) : (arrive r d).memWf = true := by
  unfold arrive
  dsimp only
  refine wf_admitAll ((wf_modDrc _ _).trans (wf_ite ?_ h))
  split
  · exact wf_withdraw _ h
  · exact h

theorem wf_serveReq (r : DramReq) {d : Dev} (h : d.memWf = true) : (serveReq r d).memWf = true := by
  unfold serveReq
  dsimp only
  generalize hD : modDrc _ d = e
  have he : e.memWf = true := by rw [← hD]; exact (wf_modDrc _ _).trans h
  generalize hB : serveBursts _ _ _ _ _ e = f
  have hf : f.memWf = true := by rw [← hB]; exact wf_bursts _ _ _ _ _ he
  have hl := wf_ite (c := r.iso = true)
    (wf_ite (c := r.v = none) ((wf_sf (.drc 2) Reg.Drc2.ISO_LAT_MAX 15 0
      (max (rf f (.drc 2) Reg.Drc2.ISO_LAT_MAX 15 0) (min 65535 (reqAge f r))) f).trans hf) hf)
    ((wf_modDrc (fun s => { s with backoff := tabSet (fun _ => 0) s.backoff (r.port * 8 + r.chan) 0 }) f).trans hf)
  exact wf_ite ((wf_rec _ _ _).trans hl) hl

theorem wf_dramSlot {d : Dev} (h : d.memWf = true) : (dramSlot d).memWf = true := by
  unfold dramSlot
  refine wf_forN (fun c d h => ?_) _ h
  split
  · exact wf_admitChan _ _ (wf_serveReq _ h)
  · exact h

theorem wf_pastServe (r : PastReq) {d : Dev} (h : d.memWf = true) : (pastServe d r).memWf = true := by
  unfold pastServe
  dsimp only
  refine wf_ite h (wf_ite (wf_ite ((wf_fieldDeny _).trans h) h) ?_)
  have ha := (wf_arb r.tier.val r.waited d).trans h
  split
  · exact memWf_pastWrite _ _ _ _ _ ha
  · exact (wf_rec _ _ _).trans ((memWf_pastRead _ _ _ _ _).trans ha)

end Sys2Proof.Machine
end

