-- ==== Sys2Proof/Laws/Tally.lean ====
section
/-! SUPPORT. The 48-bit counts of TLY, their halves and their overflow bits. -/
namespace Sys2Proof.Machine

theorem tly_addr (j k : Nat) : tHi k ≠ tLo j ∧ tLo k ≠ tHi j ∧ (tHi k = tHi j ↔ k = j) ∧ (tLo k = tLo j ↔ k = j) := by
  simp only [tHi, tLo, tlyPage, Page.base, Reg.Tly1.COUNT_LO, Reg.Tly1.COUNT_HI]
  omega

theorem tly_ovf_ne {j : Nat} (hj : j < 128) (i : Nat) (hi : i < 4) : (Page.tly 0).base + Reg.Tly0.OVF_STAT i ≠ tHi j ∧ (Page.tly 0).base + Reg.Tly0.OVF_STAT i ≠ tLo j := by
  simp only [tHi, tLo, tlyPage, Page.base, Reg.Tly1.COUNT_LO, Reg.Tly1.COUNT_HI, Reg.Tly0.OVF_STAT]
  omega

theorem setTly_count {k : Nat} (hk : k < 128) (n : Nat) (d : Dev) : tlyCount (setTly k n d) k = n % 2 ^ 48 := by
  unfold tlyCount setTly sf
  rw [rg_sg_ne (tly_addr _ _).2.1, rg_sg_same, rf_eq_fld, rg_sg_same, fld_setFld_same _ _ (by decide) (by decide), BitVec.toNat_ofNat]
  show n % 2 ^ 32 + 2 ^ 32 * (n / 2 ^ 32 % 2 ^ 16) = _
  omega

theorem setTly_hi31 {k : Nat} (hk : k < 128) (n : Nat) (d : Dev) : bitOf (rg (setTly k n d) (tlyPage k) (Reg.Tly1.COUNT_HI (k % 64))) 31 = bitOf (rg d (tlyPage k) (Reg.Tly1.COUNT_HI (k % 64))) 31 := by
  unfold setTly sf
  rw [rg_sg_same, bitOf_setFld _ _ _ (by decide) (by decide), if_neg (by decide), rg_sg_ne (tly_addr _ _).1]

theorem setTly_other {j : Nat} (n : Nat) (d : Dev) {x : Page} {y : Nat} (h1 : x.base + y ≠ tHi j) (h2 : x.base + y ≠ tLo j) : rg (setTly j n d) x y = rg d x y := by
  unfold setTly sf
  rw [rg_sg_ne h1, rg_sg_ne h2]

theorem setOvf_hi (j : Nat) (b : Bool) (d : Dev) (x : Page) (y : Nat) (hn : x.base + y ≠ (Page.tly 0).base + Reg.Tly0.OVF_STAT (j / 32)) :
    rg (setOvf j b d) x y = if x.base + y = tHi j then putBit (rg d (tlyPage j) (Reg.Tly1.COUNT_HI (j % 64))) 31 b else rg d x y := by
  unfold setOvf sb
  unfold sf
  rw [rg_sg_ne hn, rg_sg]; rfl

theorem setOvf_count {j k : Nat} (hj : j < 128) (hk : k < 128) (b : Bool) (d : Dev) : tlyCount (setOvf j b d) k = tlyCount d k := by
  have h0 := tly_ovf_ne hk (j / 32) (by omega)
  have h1 := tly_addr j k
  unfold tlyCount
  rw [setOvf_hi _ _ _ _ _ h0.2.symm, if_neg (by have := tly_addr j k; exact this.2.1), rf_eq_fld, rf_eq_fld, setOvf_hi _ _ _ _ _ h0.1.symm]
  split
  · rename_i h
    have : k = j := h1.2.2.1.mp h
    subst this
    rw [fld_putBit_ne _ _ (by decide) (.inl (by decide))]
  · rfl

theorem setOvf_31 {j k : Nat} (hj : j < 128) (hk : k < 128) (b : Bool) (d : Dev) : bitOf (rg (setOvf j b d) (tlyPage k) (Reg.Tly1.COUNT_HI (k % 64))) 31 = if k = j then b else bitOf (rg d (tlyPage k) (Reg.Tly1.COUNT_HI (k % 64))) 31 := by
  have h0 := tly_ovf_ne hk (j / 32) (by omega)
  rw [setOvf_hi _ _ _ _ _ h0.1.symm]
  by_cases h : k = j
  · subst h; rw [if_pos rfl, if_pos rfl, bitOf_putBit _ _ _ (by decide), if_pos rfl]
  · rw [if_neg (fun e => h ((tly_addr j k).2.2.1.mp e)), if_neg h]

theorem setOvf_stat {j k : Nat} (hj : j < 128) (hk : k < 128) (b : Bool) (d : Dev) : bitOf (rg (setOvf j b d) (.tly 0) (Reg.Tly0.OVF_STAT (k / 32))) (k % 32) = if k = j then b else bitOf (rg d (.tly 0) (Reg.Tly0.OVF_STAT (k / 32))) (k % 32) := by
  have h0 := tly_ovf_ne hj (k / 32) (by omega)
  have h2 := tly_ovf_ne hj (j / 32) (by omega)
  unfold setOvf sb
  by_cases h : k / 32 = j / 32
  · rw [h]
    unfold sf
    rw [rg_sg_same, rg_sg_ne h2.1]
    show bitOf (putBit _ (j % 32) b) (k % 32) = _
    rw [bitOf_putBit _ _ _ (by omega)]
    by_cases hkj : k = j
    · subst hkj; simp
    · rw [if_neg (by omega), if_neg hkj]
  · unfold sf
    rw [rg_sg_ne (by simp only [Page.base, Reg.Tly0.OVF_STAT]; omega), rg_sg_ne h0.1, if_neg (fun e => h (by rw [e]))]

theorem rg_glbRun (b : Bool) (d : Dev) (x : Page) (y : Nat) (h : x.base + y ≠ (Page.tly 0).base + Reg.Tly0.GLB_CTRL) : rg (sb (.tly 0) Reg.Tly0.GLB_CTRL 0 b d) x y = rg d x y := rg_sg_ne h

theorem tlyClear_facts {k : Nat} (hk : k < 128) (d : Dev) : (fun e => tlyCount e k = 0 ∧ bitOf (rg e (tlyPage k) (Reg.Tly1.COUNT_HI (k % 64))) 31 = false ∧
    bitOf (rg e (.tly 0) (Reg.Tly0.OVF_STAT (k / 32))) (k % 32) = false) (forN (fun k d => setOvf k false (setTly k 0 d)) 128 d) := by
  refine forN_hit (P := fun e => tlyCount e k = 0 ∧ bitOf (rg e (tlyPage k) (Reg.Tly1.COUNT_HI (k % 64))) 31 = false ∧
    bitOf (rg e (.tly 0) (Reg.Tly0.OVF_STAT (k / 32))) (k % 32) = false) hk (fun d => ?_) (fun j d hj h => ?_) d
  · rw [setOvf_count hk hk, setTly_count hk, setOvf_31 hk hk, setOvf_stat hk hk, if_pos rfl, if_pos rfl]; exact ⟨rfl, rfl, rfl⟩
  · by_cases hkj : k = j
    · subst hkj
      rw [setOvf_count hk hk, setTly_count hk, setOvf_31 hk hk, setOvf_stat hk hk, if_pos rfl, if_pos rfl]; exact ⟨rfl, rfl, rfl⟩
    · have a := tly_addr j k
      have e1 : rg (setTly j 0 d) (tlyPage k) (Reg.Tly1.COUNT_HI (k % 64)) = rg d (tlyPage k) (Reg.Tly1.COUNT_HI (k % 64)) := setTly_other 0 d (fun e => hkj (a.2.2.1.mp e)) a.1
      have e2 : rg (setTly j 0 d) (tlyPage k) (Reg.Tly1.COUNT_LO (k % 64)) = rg d (tlyPage k) (Reg.Tly1.COUNT_LO (k % 64)) := setTly_other 0 d a.2.1 (fun e => hkj (a.2.2.2.mp e))
      have o := tly_ovf_ne hj (k / 32) (by omega)
      have e3 : rg (setTly j 0 d) (.tly 0) (Reg.Tly0.OVF_STAT (k / 32)) = rg d (.tly 0) (Reg.Tly0.OVF_STAT (k / 32)) := setTly_other 0 d o.1 o.2
      rw [setOvf_count hj hk, setOvf_31 hj hk, setOvf_stat hj hk, if_neg hkj, if_neg hkj, e1, e3]
      refine ⟨?_, h.2⟩
      have := h.1
      unfold tlyCount at this ⊢
      rw [e2, rf_eq_fld, e1, ← rf_eq_fld]; exact this

theorem rg_smpShow (d : Dev) (x : Page) (y : Nat) (h : x.base + y < (Page.tly 3).base) : rg (smpShow d) x y = rg d x y := by
  have hl : (Page.tly 3).base ≤ (Page.tly 3).base := Nat.le_refl _
  have st (o : Nat) : x.base + y ≠ (Page.tly 3).base + o := by omega
  unfold smpShow forN
  simp only [show List.range 4 = [0, 1, 2, 3] from rfl, List.foldl]
  unfold sf
  rw [rg_sg_ne (st _), rg_sg_ne (st _), rg_sg_ne (st _), rg_sg_ne (st _), rg_sg_ne (st _)]

theorem tlyOverflow_facts (k : Nat) (c : Word) (fold : Bool) (d1 d2 : Word) (d : Dev) :
    (∀ (x : Page) (y : Nat), x.base + y < (Page.tly 3).base → x.base + y ≠ (Page.tly 0).base + Reg.EVENT → ¬ pbaAt (x.base + y) →
      rg (tlyOverflow k c fold d1 d2 d) x y = rg (setOvf k true d) x y) ∧
    bitOf (rg (tlyOverflow k c fold d1 d2 d) (.tly 0) Reg.EVENT) Reg.Tly0.EV_OVERFLOW = true := by
  have hb : bitOf (rg (event (.tly 0) Reg.Tly0.EV_OVERFLOW (setOvf k true d)) (.tly 0) Reg.EVENT) Reg.Tly0.EV_OVERFLOW = true := by
    unfold event
    rw [rg_withIrq (not_pba (by decide) (by decide)), rg_sg_same]
    exact (sqEvent_bits _ (by decide)).1
  unfold tlyOverflow
  dsimp only
  split
  · exact ⟨fun x y _ h hp => rg_event h hp, hb⟩
  · split
    · refine ⟨fun x y hl h hp => ?_, ?_⟩
      · rw [rg_smpShow _ _ _ hl]; exact rg_event h hp
      · rw [rg_smpShow _ _ _ (by decide)]; exact hb
    · refine ⟨fun x y hl h hp => ?_, ?_⟩
      · rw [rg_raise (fun e => rfl), rg_event h hp]
        unfold bump addTo sf
        rw [rg_sg_ne (by omega)]
        exact rg_event h hp
      · refine (raiseFault_facts (.tly 0) _ (k := Reg.Tly0.EV_SMP_LOST) (by decide) _).2.2.1.1 _ _ (by decide) ?_
        unfold bump addTo sf
        rw [rg_sg_ne (by decide)]
        exact hb

theorem tly_gpIntervene (p : Page) (d : Dev) : (gpIntervene p d).tly = d.tly := by
  unfold gpIntervene; split
  · rfl
  · have := FaultsOnly.guardFail p { d with gp := tabSet (fun _ => none) d.gp p.base none }
    rw [this]

theorem tly_row {k : Nat} (hk : k < 128) : ∃ r, (tlyPage k).row? (Reg.Tly1.COUNT_HI (k % 64)) = some r ∧ r.acc ≠ .wo := by
  have h2 : ∀ i, i < 64 → ∃ r, (Page.tly 1).row? (Reg.Tly1.COUNT_HI i) = some r ∧ r.acc ≠ .wo := by decide
  have h3 : ∀ i, i < 64 → ∃ r, (Page.tly 2).row? (Reg.Tly1.COUNT_HI i) = some r ∧ r.acc ≠ .wo := by decide
  have : k / 64 = 0 ∨ k / 64 = 1 := by omega
  unfold tlyPage
  rcases this with h | h <;> rw [h]
  · exact h2 _ (Nat.mod_lt _ (by decide))
  · exact h3 _ (Nat.mod_lt _ (by decide))

theorem tly_hi_read {k : Nat} (hk : k < 128) (who : Party) (d : Dev) : regRead who (tlyPage k) (Reg.Tly1.COUNT_HI (k % 64)) d = countHi k d := by
  obtain ⟨r, h1, h2⟩ := tly_row hk
  unfold regRead
  rw [h1]
  dsimp only
  rw [if_neg h2, if_neg (by simp only [Reg.Tly1.COUNT_HI, Reg.HOLD]; omega), if_neg (by simp only [Reg.Tly1.COUNT_HI]; omega)]
  show tlyRead (1 + k / 64) _ d = _
  unfold tlyRead
  rw [if_neg (by omega), if_neg (by omega)]
  unfold inRun
  rw [if_neg (by simp only [Reg.Tly1.COUNT_LO, Reg.Tly1.COUNT_HI]; omega), if_pos (by simp only [Reg.Tly1.COUNT_HI]; omega)]
  have : 64 * (1 + k / 64 - 1) + (Reg.Tly1.COUNT_HI (k % 64) - Reg.Tly1.COUNT_HI 0) / 8 = k := by simp only [Reg.Tly1.COUNT_HI]; omega
  show countHi (64 * (1 + k / 64 - 1) + (Reg.Tly1.COUNT_HI (k % 64) - Reg.Tly1.COUNT_HI 0) / 8) d = _
  rw [this]

end Sys2Proof.Machine
end

