-- ==== Sys2Proof/Laws/Worlds.lean ====
section
/-! SUPPORT. The cores and their worlds, the pages a core claims, and the banks of Pasture a world may turn off. -/
namespace Sys2Proof.Machine

theorem coreOf_modCore (n j : Nat) (f : CoreS → CoreS) (d : Dev) : coreOf (modCore n f d) j = if j = n then f (coreOf d n) else coreOf d j := tabGet_set _ _ _ _ _

theorem coreOf_haltNow (n j : Nat) (d : Dev) : ∃ a b, coreOf (haltNow n d) j = { coreOf d j with halted := a, haltAsked := b } ∧ (j ≠ n → coreOf (haltNow n d) j = coreOf d j) := by
  unfold haltNow
  dsimp only
  split
  · by_cases hj : j = n
    · subst hj; rw [coreOf_modCore, if_pos rfl]; exact ⟨_, _, rfl, fun h => absurd rfl h⟩
    · rw [coreOf_modCore, if_neg hj]; exact ⟨(coreOf d j).halted, (coreOf d j).haltAsked, rfl, fun _ => rfl⟩
  · exact ⟨(coreOf d j).halted, (coreOf d j).haltAsked, rfl, fun _ => rfl⟩

theorem regAt_map (f : Nat → BitVec 64) (k i : Nat) (h : i < k) : regAt ((List.range k).map f) i = f i := by
  unfold regAt
  rw [List.getD_eq_getElem?_getD, List.getElem?_map, List.getElem?_range h]; rfl

theorem coreOf_bump (p o hi lo) (d : Dev) (j : Nat) : coreOf (bump p o hi lo d) j = coreOf d j := rfl

theorem scrubbed_x (a b c d i) (h : i < 31) : regAt (scrubbed a b c d).x i = if i < 4 then regAt b i else if 9 ≤ i ∧ i ≤ 12 then regAt a.x i else 0 := by
  unfold scrubbed; dsimp only; rw [regAt_map _ _ _ h]

theorem haltNow_wld (n : Nat) (d : Dev) : haltNow n d = { d with wld := (haltNow n d).wld } := by
  unfold haltNow; dsimp only; split <;> rfl

theorem drop_getLast {α : Type} (l : List α) (r : α) (k : Nat) (h : k ≤ l.length) : ((l ++ [r]).drop k).getLast? = some r ∧ ((l ++ [r]).drop k).dropLast = l.drop k := by
  rw [List.drop_append_of_le_length h]
  exact ⟨List.getLast?_concat, List.dropLast_concat⟩

theorem pageRun_lt {a b n : Nat} {f : Nat → Page} {p : Page} (h : pageRun a b n f = some p) : a < b + n * 0x1000 := by
  unfold pageRun at h; split at h
  · rename_i k; exact k.2
  · cases h

theorem pageOf_lt {a : Nat} {p : Page} (h : pageOf a = some p) : a < 0x52000000 := by
  by_contra hc
  unfold pageOf at h
  rw [if_pos (by omega), if_neg (by omega)] at h
  cases h

theorem tabFind_mem {α : Type} {t : Tab α} {k : Nat} {v : α} (h : tabFind t k = some v) : (k, v) ∈ t := by
  induction t with
  | nil => cases h
  | cons e t ih =>
    obtain ⟨k', v'⟩ := e
    unfold tabFind at h
    split at h
    · rename_i hk; cases h; rw [hk]; exact List.mem_cons_self ..
    · exact List.mem_cons_of_mem _ (ih h)

theorem leastOf_mem {l : List Nat} (h : l ≠ []) : leastOf l ∈ l ∧ ∀ b ∈ l, leastOf l ≤ b := by
  cases l with
  | nil => exact absurd rfl h
  | cons a l =>
    show l.foldl min a ∈ a :: l ∧ ∀ b ∈ a :: l, l.foldl min a ≤ b
    clear h
    induction l generalizing a with
    | nil => simp
    | cons c l ih =>
      obtain ⟨h1, h2⟩ := ih (min a c)
      simp only [List.foldl_cons]
      refine ⟨?_, fun b hb => ?_⟩
      · rcases List.mem_cons.mp h1 with h | h
        · rw [h]; rcases Nat.le_total a c with g | g
          · rw [Nat.min_eq_left g]; simp
          · rw [Nat.min_eq_right g]; simp
        · simp [h]
      · have hm := h2 (min a c) (List.mem_cons_self ..)
        rcases List.mem_cons.mp hb with rfl | hb
        · omega
        · rcases List.mem_cons.mp hb with rfl | hb
          · omega
          · exact h2 b (List.mem_cons_of_mem _ hb)

theorem mem_asserted (d : Dev) (kind b : Nat) : b ∈ asserted d kind ↔
    ∃ p : Page, (pageOf (p.base + Reg.EVENT) = some p ∧ irqOn d p = true ∧ rf d p Reg.OWNER 17 16 = kind) ∧ b = p.base := by
  unfold asserted
  rw [List.mem_filterMap]
  constructor
  · rintro ⟨e, he, h⟩
    split at h
    · rename_i p hp
      split at h
      · rename_i hc
        cases h
        rw [hc.1] at hp
        exact ⟨p, ⟨hp, hc.2⟩, rfl⟩
      · cases h
    · cases h
  · rintro ⟨p, ⟨h1, h2, h3⟩, rfl⟩
    have hne : rg d p Reg.EVENT ≠ 0 := by
      intro h0
      unfold irqOn at h2
      rw [h0] at h2
      revert h2
      rw [show (0 : Word) &&& rg d p Reg.EVENT_EN = 0 from BitVec.zero_and]; decide
    have hr : regReset (p.base + Reg.EVENT) = 0 := by
      unfold regReset
      rw [h1]
      have : (p.base + Reg.EVENT) % 0x1000 = Reg.EVENT := by have := base_mod p; unfold Reg.EVENT; omega
      simp only [this]; rfl
    cases hf : tabFind d.regs (p.base + Reg.EVENT) with
    | none => exfalso; apply hne; unfold rg tabGet; rw [hf]; exact hr
    | some v =>
      refine ⟨(p.base + Reg.EVENT, v), tabFind_mem hf, ?_⟩
      simp only [h1]
      simp [h2, h3, -rf_eq_fld]

/-- Only bank `b` may have changed. -/
def OneBank (b : Nat) (d e : Dev) : Prop :=
  (∀ y, y = Reg.Wld0.PASTURE_FOLD ∨ y = Reg.Wld0.DENY_COUNT ∨ y = Reg.EVENT → rg e (.wld 0) y = rg d (.wld 0) y) ∧
  ∀ c, c < 64 → c ≠ b → bankMode e c = bankMode d c ∧ bankState e c = bankState d c ∧
    tabGet (fun _ => none) e.pst.latched c = tabGet (fun _ => none) d.pst.latched c

theorem OneBank.refl (b : Nat) (d : Dev) : OneBank b d d := ⟨fun _ _ => rfl, fun _ _ _ => ⟨rfl, rfl, rfl⟩⟩

theorem OneBank.trans {b : Nat} {x y z : Dev} (h : OneBank b x y) (k : OneBank b y z) : OneBank b x z :=
  ⟨fun o ho => (k.1 o ho).trans (h.1 o ho), fun c hc hn => ⟨(k.2 c hc hn).1.trans (h.2 c hc hn).1, (k.2 c hc hn).2.1.trans (h.2 c hc hn).2.1, (k.2 c hc hn).2.2.trans (h.2 c hc hn).2.2⟩⟩

theorem OneBank.regs {b : Nat} {d e : Dev} (h : ∀ x y, (x = .wld 0 ∧ (y = Reg.Wld0.PASTURE_FOLD ∨ y = Reg.Wld0.DENY_COUNT ∨ y = Reg.EVENT)) ∨ (x = .pst 1 ∧ 0x40 ≤ y ∧ y < 0x60) → rg e x y = rg d x y)
    (hl : e.pst.latched = d.pst.latched) : OneBank b d e := by
  refine ⟨fun y hy => h _ _ (.inl ⟨rfl, hy⟩), fun c hc _ => ⟨?_, ?_, by rw [hl]⟩⟩
  · unfold bankMode; rw [rf_eq_fld, rf_eq_fld, h _ _ (.inr ⟨rfl, by simp only [Reg.Pst1.BANK_MODE]; omega⟩)]
  · unfold bankState; rw [rf_eq_fld, rf_eq_fld, h _ _ (.inr ⟨rfl, by simp only [Reg.Pst1.BANK_STATE]; omega⟩)]

theorem OneBank.field {b : Nat} (hb : b < 64) (o : Nat → Nat) (x : Nat) (d : Dev) (ho : (o = Reg.Pst1.BANK_MODE) ∨ o = Reg.Pst1.BANK_STATE) :
    OneBank b d (sf (.pst 1) (o (b / 16)) (2 * (b % 16) + 1) (2 * (b % 16)) x d) := by
  have hf (o' : Nat → Nat) (ho' : (o' = Reg.Pst1.BANK_MODE) ∨ o' = Reg.Pst1.BANK_STATE) (c : Nat) (hc : c < 64) (hn : c ≠ b) :
      fld (rg (sf (.pst 1) (o (b / 16)) (2 * (b % 16) + 1) (2 * (b % 16)) x d) (.pst 1) (o' (c / 16))) (2 * (c % 16) + 1) (2 * (c % 16)) =
      fld (rg d (.pst 1) (o' (c / 16))) (2 * (c % 16) + 1) (2 * (c % 16)) := by
    unfold sf
    rw [rg_sg]
    split
    · rename_i he
      have : o' (c / 16) = o (b / 16) ∧ c / 16 = b / 16 := by
        rcases ho with rfl | rfl <;> rcases ho' with rfl | rfl <;> simp only [Page.base, Reg.Pst1.BANK_MODE, Reg.Pst1.BANK_STATE] at he ⊢ <;> omega
      rw [fld_setFld_ne _ _ (by omega) (by omega) (by omega), this.1]
    · rfl
  refine ⟨fun y hy => ?_, fun c hc hn => ⟨hf _ (.inl rfl) c hc hn, hf _ (.inr rfl) c hc hn, rfl⟩⟩
  unfold sf
  refine rg_sg_ne ?_
  rcases ho with rfl | rfl <;> simp only [Page.base, Reg.Pst1.BANK_MODE, Reg.Pst1.BANK_STATE] <;>
    rcases hy with rfl | rfl | rfl <;> simp only [Reg.Wld0.PASTURE_FOLD, Reg.Wld0.DENY_COUNT, Reg.EVENT] <;> omega

theorem OneBank.pst {b : Nat} (f : PstS → PstS) (d : Dev) (h : ∀ c, c ≠ b → tabGet (fun _ => none) (f d.pst).latched c = tabGet (fun _ => none) d.pst.latched c) : OneBank b d (modPst f d) :=
  ⟨fun _ _ => rfl, fun c _ hn => ⟨rfl, rfl, h c hn⟩⟩

theorem OneBank.take {b : Nat} (hb : b < 64) (m : Nat) (d : Dev) : OneBank b d (bankTake b m d) := by
  have md (x : Nat) (d : Dev) : OneBank b d (setBankMode b x d) := .field hb _ x d (.inl rfl)
  have st (x : Nat) (d : Dev) : OneBank b d (setBankState b x d) := .field hb _ x d (.inr rfl)
  have ps (f : PstS → PstS) (d : Dev) (h : (f d.pst).latched = d.pst.latched) : OneBank b d (modPst f d) := .pst f d (fun c _ => by rw [h])
  have pz (o n : Nat) (d : Dev) : OneBank b d (pastZero o n d) := ⟨fun _ _ => rfl, fun c _ _ => ⟨rfl, rfl, rfl⟩⟩
  unfold bankTake
  dsimp only
  split
  · exact (((ps _ _ rfl).trans (pz _ _ _)).trans (st _ _)).trans (md _ _)
  · split
    · split
      · exact ((md _ _).trans (ps _ _ rfl)).trans (st _ _)
      · split
        · exact (md _ _).trans (ps _ _ rfl)
        · exact (md _ _).trans (st _ _)
    · split
      · exact ((md _ _).trans (ps _ _ rfl)).trans (st _ _)
      · split
        · exact (md _ _).trans (st _ _)
        · exact (md _ _).trans (ps _ _ rfl)

theorem wld1_ne {x : Page} {y : Nat} (h : (x = .wld 0 ∧ (y = Reg.Wld0.PASTURE_FOLD ∨ y = Reg.Wld0.DENY_COUNT ∨ y = Reg.EVENT)) ∨ (x = .pst 1 ∧ 0x40 ≤ y ∧ y < 0x60)) :
    (∀ o, o < 0x1000 → x.base + y ≠ (Page.wld 1).base + o) ∧ (∀ o, 0x60 ≤ o ∨ o < 0x40 → o < 0x1000 → x.base + y ≠ (Page.pst 1).base + o) ∧ ¬ pbaAt (x.base + y) := by
  refine ⟨fun o ho => ?_, fun o ho ho' => ?_, ?_⟩
  · rcases h with ⟨rfl, h⟩ | ⟨rfl, h1, h2⟩
    · rcases h with rfl | rfl | rfl <;> simp only [Page.base, Reg.Wld0.PASTURE_FOLD, Reg.Wld0.DENY_COUNT, Reg.EVENT] <;> omega
    · simp only [Page.base]; omega
  · rcases h with ⟨rfl, h⟩ | ⟨rfl, h1, h2⟩
    · rcases h with rfl | rfl | rfl <;> simp only [Page.base, Reg.Wld0.PASTURE_FOLD, Reg.Wld0.DENY_COUNT, Reg.EVENT] <;> omega
    · simp only [Page.base]; omega
  · rcases h with ⟨rfl, h⟩ | ⟨rfl, h1, h2⟩
    · rcases h with rfl | rfl | rfl <;> exact not_pba (by decide) (by decide)
    · exact not_pba (by omega) (by unfold Reg.PBA; omega)

theorem pst_event (p : Page) (k : Nat) (d : Dev) : (event p k d).pst = d.pst := by
  unfold event
  obtain ⟨R, O, e, -⟩ := withIrq_eq p (fun d => sg p Reg.EVENT (sqEvent (rg d p Reg.EVENT) k) d) d
  rw [e]; rfl

theorem OneBank.latch {b : Nat} (d : Dev) : OneBank b d (heldLatch d) := by
  unfold heldLatch
  refine .regs (fun x y h => ?_) (by rw [pst_event]; rfl)
  obtain ⟨h1, h2, h3⟩ := wld1_ne h
  rw [rg_event (h1 _ (by decide)) h3]
  exact rg_sg_ne (h1 _ (by decide))

theorem OneBank.withdraw {b : Nat} (n : Nat) (d : Dev) : OneBank b d (heldWithdraw n d) := by
  unfold heldWithdraw
  split
  · exact .refl b d
  · refine .regs (fun x y h => ?_) (by rw [pst_event]; rfl)
    obtain ⟨h1, h2, h3⟩ := wld1_ne h
    rw [rg_event (h1 _ (by decide)) h3]
    exact rg_sg_ne (h1 _ (by decide))

theorem OneBank.inUse {b c : Nat} (d : Dev) : OneBank b d (raiseFault (.pst 1) Reg.Pst1.SRC_POWER_REFUSED Reg.Pst1.EV_POWER_REFUSED
      (bump (.pst 1) Reg.Pst1.POWER_COUNT 31 16 (pwrStat c 2 d))) := by
  refine .regs (fun x y h => ?_) ?_
  · obtain ⟨h1, h2, h3⟩ := wld1_ne h
    rw [rg_raise (fun _ => rfl), rg_event (h2 _ (.inr (by decide)) (by decide)) h3]
    unfold bump addTo sf pwrStat
    rw [rg_sg_ne (h2 _ (.inl (by decide)) (by decide)), rg_sg_ne (h2 _ (.inl (by decide)) (by decide))]
  · have := FaultsOnly.raiseFault (.pst 1) Reg.Pst1.SRC_POWER_REFUSED Reg.Pst1.EV_POWER_REFUSED
      (bump (.pst 1) Reg.Pst1.POWER_COUNT 31 16 (pwrStat c 2 d))
    rw [this]; rfl

theorem OneBank.other {who : Party} {v : Word} {i j : Nat} (hj : 16 * i + j < 64) (d : Dev)
    (h : ¬ (2 ≤ fld v (2 * j + 1) (2 * j) ∧ ¬ (fld v (2 * j + 1) (2 * j) = 2 ∧ bankMode d (16 * i + j) = 2) ∧ (16 * i + j) * bankBytes < pastFold d)) :
    OneBank (16 * i + j) d (bankField who v i j d) := by
  unfold bankField
  dsimp only
  split
  · rename_i hm
    split
    · exact .refl _ d
    · rename_i hr
      have hb : ¬ (16 * i + j) * bankBytes < pastFold d := fun hb => h ⟨hm, hr, hb⟩
      unfold bankAsk
      rw [if_neg (by simp [hb])]
      split
      · exact .inUse d
      · split
        · refine OneBank.trans (.pst _ d (fun c hc => ?_)) (.latch _)
          simp only [tabGet_set, if_neg hc]
        · exact .take hj _ d
  · have hd : ∀ e, OneBank (16 * i + j) d e → OneBank (16 * i + j) d
        (if fld v (2 * j + 1) (2 * j) = bankMode e (16 * i + j) then e else bankTake (16 * i + j) (fld v (2 * j + 1) (2 * j)) e) := by
      intro e he
      split
      · exact he
      · exact he.trans (.take hj _ _)
    refine hd _ ?_
    split
    · refine OneBank.trans (.pst _ d (fun c hc => ?_)) (.withdraw _ _)
      simp only [tabGet_set, if_neg hc]
    · exact .refl _ d

theorem bankField_denied {who : Party} {v : Word} {i j : Nat} (hw : who ≠ .fold) (d : Dev)
    (h : 2 ≤ fld v (2 * j + 1) (2 * j) ∧ ¬ (fld v (2 * j + 1) (2 * j) = 2 ∧ bankMode d (16 * i + j) = 2) ∧ (16 * i + j) * bankBytes < pastFold d) :
    bankField who v i j d = event (.wld 0) Reg.Wld0.EV_PASTURE_OFF_REFUSED (bump (.wld 0) Reg.Wld0.DENY_COUNT 15 0 (pwrStat (16 * i + j) 1 d)) := by
  unfold bankField
  dsimp only
  rw [if_pos h.1, if_neg h.2.1]
  unfold bankAsk
  rw [if_pos]
  have : (who != .fold) = true := by simpa using hw
  simp [this, h.2.2]

end Sys2Proof.Machine
end

