-- ==== Sys2Proof/WellFormed.lean ====
section
/-! DEFINITION. Well-formed commands: what the rules require of operands that their types do not already bound. The meanings
do not rest on it: each is total on every operand. -/
namespace Sys2Proof

/-- A list names nothing twice. -/
def distinct {α : Type} [DecidableEq α] : List α → Bool
  | [] => true
  | x :: xs => !xs.contains x && distinct xs

/-- An access of the register space lies on a multiple of its width; a 64-bit access may lie on any word (R37). -/
def aligned (addr : BitVec 32) : Width → Bool
  | .b1 => true
  | .b2 => addr.toNat % 2 == 0
  | .b4 | .b8 => addr.toNat % 4 == 0

/-- The data of a store has the length of the access; a read carries none. -/
def payload (n : Nat) : Option (List Byte) → Bool
  | none => true
  | some bs => bs.length == n

/-- The accesses of shader waves lie in the addresses that a packet's 64-bit address words reach. -/
def ShaderRun.wf (r : ShaderRun) : Bool :=
  r.loads.all (fun e => decide (e.1 + e.2 ≤ 2 ^ 64)) && r.stores.all (fun e => decide (e.1 + e.2.length ≤ 2 ^ 64))

/-- A requester of the isochronous lane asks for what it does: a display pipe (8 to 63) reads, and a stream's buffer and a
writeback engine write (R583). -/
def isoReq (src : Option IsoSrc) (write : Bool) : Bool :=
  match src with
  | none => true
  | some (.pipe i _) => decide (8 ≤ i.val) && !write
  | some (.stream _ _) | some (.wb _ _) => write

/-- A request of Pasture ends in it, and what it writes has its length. -/
def inPasture (off : BitVec 25) (bytes : Nat) (v : Option (List Byte)) : Bool :=
  payload bytes v && decide (off.toNat + bytes ≤ 0x2000000)

/-- The command is well formed. -/
def wellFormed : Instr → Bool
  | .registerWrite _ addr w _ _ => aligned addr w
  | .unmappedAccess _ _ _ => true
  | .sequenceClear _ _ _ => true
  | .gpWrite _ _ _ => true
  | .guardWrite _ _ _ => true
  | .guardWindowExpiry _ => true
  | .holdWrite _ _ _ => true
  | .heldRequestsAct _ => true
  | .parityScrub => true
  | .daleOutOfReset => true
  | .selfTestDone fails => distinct (fails.map (·.1))
  | .tetherTrained up down => (up == 0 || up == 8 || up == 16) && (down == 0 || down == 8 || down == 16)
  | .headerRead _ => true
  | .signatureVerified => true
  | .group1Read nF => distinct (nF.map (·.1))
  | .nvmReadError _ => true
  | .recoveryAttempt _ => true
  | .fellReleased => true
  | .firmwareConfigured => true
  | .group2SectionCheck _ => true
  | .firstSafePicture => true
  | .dramTrained => true
  | .fullComposition => true
  | .readPage _ => true
  | .programPage _ => true
  | .eraseSector _ => true
  | .verifyA _ => true
  | .verifyB _ => true
  | .nvmCmdDone _ => true
  | .nvmCmdResume => true
  | .commit _ _ => true
  | .lineTrigCommit _ _ _ => true
  | .disabledHeadCommitApply _ => true
  | .pipeRestart _ _ => true
  | .coefDataWrite _ _ _ => true
  | .pipeFetch _ _ => true
  | .lastLineFetched _ => true
  | .shepherdDemoteC _ _ => true
  | .shepherdDemoteO _ _ => true
  | .lutDataWrite _ _ => true
  | .lutDataRead _ => true
  | .colourSwapRequest _ _ => true
  | .wbArm _ _ => true
  | .wbFrameDone _ => true
  | .headEnable _ _ => true
  | .headDisable _ _ => true
  | .pixelPllLocked _ => true
  | .pllUnlock _ => true
  | .headRestart _ _ => true
  | .frameBegin _ => true
  | .frameStart _ => true
  | .lineStart _ line under wbOver => decide (-0x2000 ≤ line ∧ line < 0x2000) && distinct wbOver && distinct under && under.all (fun p => decide (p < 64))
  | .syncOutPulseEnd _ _ => true
  | .syncEdge _ _ _ => true
  | .syncTimeout _ => true
  | .cutHold _ => true
  | .portSourceChange _ _ _ _ => true
  | .retrain _ _ => true
  | .linkTrainingDone _ _ _ _ _ => true
  | .trainRetry _ => true
  | .hpdUnplug _ => true
  | .hpdPlug _ => true
  | .irqHpd _ _ => true
  | .auxCmd _ _ _ => true
  | .auxDone _ _ _ count bytes => bytes.length == count.val
  | .short _ _ _ => true
  | .shortRetest _ kinds => distinct kinds
  | .csiPortEnable _ _ _ => true
  | .csiRestart _ _ => true
  | .csiUlps _ _ => true
  | .csiFs _ vc hdr => decide (vc < 16 ∧ hdr < 3)
  | .csiLongPacket _ vc dt hdr _ _ _ => decide (vc < 16 ∧ dt < 64 ∧ hdr < 3)
  | .csiFe _ vc hdr => decide (vc < 16 ∧ hdr < 3)
  | .streamEnable _ _ _ => true
  | .streamLost _ => true
  | .streamRestart _ _ => true
  | .dwApply _ _ => true
  | .dwRestart _ _ => true
  | .dwLineBegin _ _ => true
  | .dwLineVisible _ => true
  | .ctxEnable _ _ => true
  | .ctxDisable _ _ => true
  | .queueWptr _ _ _ => true
  | .nop _ => true
  | .pipeline _ => true
  | .bindResources _ => true
  | .push _ => true
  | .passBegin _ => true
  | .passEnd _ _ _ _ => true
  | .draw _ run _ _ => run.wf
  | .drawIndexed _ run _ _ => run.wf
  | .drawIndirect _ run _ _ => run.wf
  | .dispatch _ run => run.wf
  | .dispatchIndirect _ run => run.wf
  | .barrier _ => true
  | .fenceSignal _ => true
  | .fenceWait _ => true
  | .fenceRecheck => true
  | .penRing _ => true
  | .waitCall _ => true
  | .layerCommit _ => true
  | .translationDone _ _ _ => true
  | .translationTimeout _ => true
  | .preemptSaveDone _ cores => distinct (cores.map (·.1))
  | .tileStopTimeout _ _ => true
  | .bellwetherFirstWave _ _ => true
  | .preemptRestoreDone _ => true
  | .ctxCmdReset _ _ => true
  | .preemptSave _ _ => true
  | .ctxSaveDone _ _ => true
  | .ctxDrainDone _ => true
  | .resume _ _ => true
  | .ctxRestart _ _ => true
  | .penWptr _ _ _ => true
  | .penTimeout _ => true
  | .partialRender _ _ _ _ => true
  | .runLimitTimeout _ => true
  | .gpuLevelWindow busy slots => decide (busy ≤ slots)
  | .levelDeferralEnd => true
  | .voltageRampDone => true
  | .vfgSettle _ => true
  | .throttle _ => true
  | .capRise _ => true
  | .thermalTrip _ => true
  | .flockPowerDown _ => true
  | .flockWake _ => true
  | .coreErr _ _ => true
  | .gpuRestart _ => true
  | .chkCommit _ _ => true
  | .chkRestart _ _ => true
  | .windowEval _ _ => true
  | .failClear _ _ _ => true
  | .lgEnable _ _ _ => true
  | .lgRestart _ _ _ => true
  | .uplinkAligned _ _ => true
  | .helloRetry _ => true
  | .reply _ _ _ => true
  | .scanTick _ => true
  | .mutualC _ _ _ _ => true
  | .self _ _ _ _ => true
  | .listen _ _ _ _ => true
  | .suspectTimeout _ _ => true
  | .forcedLift _ _ => true
  | .uplinkLoss _ => true
  | .lostToAlign _ => true
  | .panelEnable _ _ _ => true
  | .rebase _ _ => true
  | .panelRestart _ _ => true
  | .regionWrite _ _ _ _ _ => true
  | .ringCfgWrite _ _ _ => true
  | .ringRptrWrite _ _ _ => true
  | .tchRestart _ => true
  | .keySample raw => raw.length == 48
  | .keyShortTest sat => distinct sat
  | .keyForcedLift _ => true
  | .keyRebase _ => true
  | .keyRestart _ => true
  | .boostCtrlWrite _ _ _ => true
  | .vhvOk _ _ => true
  | .chEnable _ _ _ _ => true
  | .trigger _ _ _ _ => true
  | .stop _ _ _ _ => true
  | .hapSample nF => distinct (nF.map (·.1))
  | .pendTimeout _ _ => true
  | .onLimit _ => true
  | .dutyUpdate => true
  | .thermWarn _ => true
  | .hapThermTrip _ => true
  | .capProbe _ _ => true
  | .hapShort _ _ => true
  | .chShortRetry _ => true
  | .boostFault _ _ => true
  | .boostRetry _ => true
  | .hapRestart _ => true
  | .whDataRead _ => true
  | .routeCommit _ _ => true
  | .routeDeferredApply _ => true
  | .audioSampleFrame _ inputs => distinct (inputs.map (·.1))
  | .duckOff => true
  | .domainLost _ _ => true
  | .domainBack _ _ => true
  | .tdmSlip _ => true
  | .stApply _ _ => true
  | .stZeroCrossing _ _ => true
  | .stForced _ _ => true
  | .micFault _ => true
  | .micFaultClear _ => true
  | .hsPlug _ _ => true
  | .hsUnplug _ => true
  | .hsMicFault _ => true
  | .spkEnable _ _ _ => true
  | .loadDone _ _ _ _ => true
  | .spkFault _ _ => true
  | .spkRecovery _ => true
  | .asEnable _ _ _ => true
  | .asPtrWrite _ _ _ _ => true
  | .fellAudioLoss => true
  | .audRestart _ => true
  | .afeRestart _ => true
  | .sriovConfig _ _ _ => true
  | .create _ _ => true
  | .quiesce _ _ => true
  | .resumePaddock _ _ => true
  | .reset _ _ => true
  | .remove _ _ => true
  | .claim _ _ => true
  | .release _ _ => true
  | .grant _ _ => true
  | .revoke _ _ => true
  | .lease _ _ => true
  | .unlease _ _ => true
  | .mgrCmdDone _ => true
  | .unleaseFrameStart _ => true
  | .quiesceDone _ => true
  | .quiesceTimeout _ => true
  | .forcedQuiesceDone _ => true
  | .clearingDone _ => true
  | .vfFlr _ => true
  | .busMasterClear _ => true
  | .pfFlr _ => true
  | .pfD3hot _ => true
  | .hotReset _ => true
  | .linkDown _ => true
  | .perst _ => true
  | .upWptr _ _ _ => true
  | .downWptr _ _ _ => true
  | .upRptr _ _ _ => true
  | .downRptr _ _ _ => true
  | .cqCfgWrite _ _ _ => true
  | .cqWptr _ _ _ => true
  | .cqDescDone _ _ => true
  | .apertureAccess _ off w _ => aligned (off.setWidth 32) w
  | .frameScrubDone _ => true
  | .take _ => true
  | .give _ => true
  | .msixUnmask _ _ _ => true
  | .foldCall _ _ => true
  | .foldRet _ _ => true
  | .interruptDelivery _ _ _ => true
  | .foldLong _ => true
  | .coreMemoryAccess _ _ _ bytes v => payload bytes v
  | .raiseDone => true
  | .wldRestart _ => true
  | .debugHalt _ => true
  | .jtagInstruction _ => true
  | .tamper _ => true
  | .pastureWiped => true
  | .wipeDone => true
  | .tamperClear _ _ => true
  | .tetherFrame _ bytes => bytes.length == 32
  | .tetherRetrain => true
  | .tetherTrainRetry => true
  | .chargeWordSend => true
  | .chargeAnswer bytes => bytes.length == 12
  | .chargeAnswerReceived bytes => bytes.length == 12
  | .exchangeTimeout => true
  | .ownGather => true
  | .gatherWireAssert => true
  | .gatherRelease => true
  | .lockstep _ => true
  | .daleResetEnd => true
  | .daleReloaded nF => distinct (nF.map (·.1))
  | .faultReport => true
  | .entryHoldExpiry _ => true
  | .causeClear _ => true
  | .foldRequest _ _ => true
  | .releaseRequest _ _ => true
  | .fellResetEnd fails => distinct (fails.map (·.1))
  | .restartBudgetWaitEnd => true
  | .txCmd _ _ _ _ => true
  | .canTxDone _ _ => true
  | .canRx _ _ _ bytes => decide (bytes.length ≤ 64)
  | .rxPop _ _ _ => true
  | .canBusOff _ => true
  | .canBusRecovery _ => true
  | .canEnable _ _ _ => true
  | .reportPeriod _ => true
  | .freeze _ => true
  | .unfreeze _ => true
  | .exportC _ => true
  | .note _ => true
  | .exportDone _ => true
  | .pastureAccess _ _ off bytes v flips turn =>
    inPasture off bytes v && turn.others.all (fun r => inPasture r.off r.bytes r.v) && distinct flips
  | .eccWriteback _ => true
  | .testRow fails => distinct fails
  | .bankRetention _ => true
  | .bankWake _ => true
  | .bankModeWrite _ _ _ => true
  | .pstRestart _ => true
  | .trainStageDone _ _ _ ranks => decide (ranks ≤ 2)
  | .dramTrack _ _ _ _ _ => true
  | .zqCalibration _ _ _ => true
  | .refresh _ _ _ _ _ => true
  | .mrCmd _ _ => true
  | .dramRequest _ src _ _ n v flips _ _ _ => decide (0 < n) && payload n v && distinct flips && isoReq src v.isSome
  | .backoffEnd _ _ => true
  | .isoWindow => true
  | .isoSizing => true
  | .drvStarve _ age => decide (age < 2 ^ 32)
  | .drcRestart _ => true
  | .drvRestart _ => true
  | .railSample _ _ => true
  | .vaoPowerUp => true
  | .rstN _ => true
  | .xtalFell => true
  | .xtalDale => true
  | .xtalRestored _ => true
  | .pllCore _ => true
  | .pllGpu => true
  | .pllAux _ => true
  | .dalePllUnlock => true
  | .clkStop _ => true
  | .clkRun _ => true
  | .pwrOff _ => true
  | .pwrOn _ => true
  | .rstAssert _ => true
  | .rstRelease _ => true
  | .blkDone => true
  | .supCfgWrite _ _ => true
  | .run _ _ => true
  | .clear _ => true
  | .tlyRestart _ => true
  | .tallyCount _ _ _ _ _ => true
  | .countLoRead _ _ => true
  | .countLoWrite _ _ _ => true
  | .countHiWrite _ _ _ => true
  | .smpPop _ => true
  | .gpioEdge _ _ => true
  | .gpioEdgeClr _ _ => true
  | .registerRead _ addr w => aligned addr w
  | .padStatRead _ _ => true
  | .railMeasRead _ => true
  | .storageUpset _ _ => true
  | .gpuTripClear _ => true
  | .hapTripClear _ => true
  | .thermWarnClear _ => true
  | .busMasterEnable _ _ _ => true
  | .pcieLinkUp _ => true
  | .perstRelease _ => true

end Sys2Proof
end

