-- ==== Sys2Proof/Tests/Slice0.lean ====
section
/-! SUPPORT. Tests: for each check of well-formedness a command that it refuses, worked examples of the spec, and for every
statement with hypotheses a state and operands that meet them (for a statement of several clauses, one for each clause). -/
open Sys2Proof Sys2Proof.Machine
namespace Sys2Proof.Tests
set_option Elab.async false

/-- After reset, with the Dale die out of reset, the tether at RUN, no gather, and every block clocked and powered. -/
def live : Dev :=
  sf .tet Reg.Tet.TET_STAT 30 30 0 (sf .tet Reg.Tet.TET_STAT 1 0 2
    { State.reset.dev with
      blk := [], sdg := { State.reset.dev.sdg with inReset := false }, tet := { State.reset.dev.tet with gather := false } })

/-- `live`, changed by `f`. -/
def liveAt (f : Dev → Dev) : State := State.reset.on (fun _ => f live)

theorem fold_may (e : Dev) (p : Page) (o : Nat) (wr : Bool) : mayAccess e p .fold o wr = true := rfl

theorem fold_granted {d : Dev} {p : Page} {o : Nat} {wr : Bool} (h : (p.onDale && daleAbsent d) = false)
    (hb : blkDead d p wr = false) : Granted d .fold p o wr := by
  unfold Granted access
  rw [show routeOf d .fold p = .direct from rfl]
  dsimp only
  rw [h, hb, if_neg Bool.false_ne_true, if_neg Bool.false_ne_true, fold_may, if_pos rfl]

theorem fst_is {α β : Type} {x : α × β} {a : α} (h : x.1 = a) : x = (a, x.2) := by cases x; cases h; rfl

/-- The packet at the read pointer of a context and the device after reading it, and whether it can be read. -/
def pktAt (n op : Nat) (d : Dev) : Bool × Pkt × Dev :=
  let a := ringRead n (qRptr d n) 4 d
  let hb := a.1.getD []
  let b := if op = 0 then (some [], a.2) else ringRead n (qRptr d n + 4) (4 * (leNat hb % 65536)) a.2
  (pktReady d n && a.1.isSome && headerOk (leNat hb / 2 ^ 24) (leNat hb % 65536) (leNat hb / 65536 % 256) &&
      leNat hb / 2 ^ 24 == op && b.1.isSome,
   { flags := leNat hb / 65536 % 256, words := wordsOf (leNat hb % 65536) (b.1.getD []), at_ := qRptr d n },
   ctxState n 3 0 (sf (.ctx n) Reg.Ctx.QUEUE_RPTR 19 0 ((qRptr d n + 4 + 4 * (leNat hb % 65536)) % qSize d n) b.2))

theorem pkt_front {n op : Nat} {d : Dev} (h : (pktAt n op d).1 = true) : PktFront n op d (pktAt n op d).2.1 (pktAt n op d).2.2 := by
  simp only [pktAt, Bool.and_eq_true, beq_iff_eq] at h
  obtain ⟨⟨⟨⟨h1, h2⟩, h3⟩, h4⟩, h5⟩ := h
  obtain ⟨hb, e1⟩ := Option.isSome_iff_exists.mp h2
  rw [e1] at h3 h4 h5
  obtain ⟨bs, e2⟩ := Option.isSome_iff_exists.mp h5
  refine ⟨h1, hb, (ringRead n (qRptr d n) 4 d).2, bs, _, Prod.ext e1 rfl, h3, h4, Prod.ext e2 rfl, ?_, ?_⟩
  · simp only [pktAt, e1, Option.getD_some]
    simp only [Option.getD_some] at e2
    rw [e2]; rfl
  · simp only [pktAt, e1, Option.getD_some]

theorem some_is {α β : Type} {x : Option α × β} (h : x.1.isSome = true) : x = (some (x.1.get h), x.2) := by
  obtain ⟨a, b⟩ := x; cases a <;> simp_all

/-- Context 63 READY on a running GPU, with its ring at the base of Pasture and the words given in it; the words of `ms` follow
at offset 0x1000. -/
def ringed (ws ms : List Nat) (d : Dev) : Dev :=
  let bytes := fun (l : List Nat) => (l.map (leBytes 4)).flatten
  let d := writeBytes setPast 0x1000 (bytes ms) (writeBytes setPast 0 (bytes ws) d)
  let d := modBoot (fun b => { b with dramUp := true }) (sb .gpu Reg.Gpu.GPU_CTRL 0 true d)
  let d := sf (.ctx 63) Reg.Ctx.CTX_STAT 3 0 2 (sf (.ctx 63) Reg.Ctx.QUEUE_SIZE 4 0 12 d)
  sg64 (.ctx 63) Reg.Ctx.QUEUE_BASE_LO pastBase (sf (.ctx 63) Reg.Ctx.QUEUE_WPTR 19 2 ws.length d)

/-! ## Well-formedness: for each check an ill-formed command, which it refuses -/

theorem test_wellFormed_register : wellFormed (.registerWrite .fold 0x40100042 .b4 0 0) = false ∧
    wellFormed (.registerWrite .fold 0x40100041 .b2 0 0) = false ∧ wellFormed (.registerWrite .fold 0x40100042 .b8 0 0) = false ∧
    wellFormed (.registerRead .fold 0x40100042 .b4) = false ∧ wellFormed (.apertureAccess 0 2 .b4 none) = false := by decide +kernel
theorem test_wellFormed_selfTest : wellFormed (.selfTestDone [(3, 1), (3, 2)]) = false ∧ wellFormed (.fellResetEnd [(3, 1), (3, 2)]) = false := by
  decide +kernel
theorem test_wellFormed_dale : wellFormed (.group1Read [(3, 1), (3, 2)]) = false ∧ wellFormed (.daleReloaded [(3, 1), (3, 2)]) = false ∧
    wellFormed (.hapSample [(3, 1), (3, 2)]) = false := by decide +kernel
theorem test_wellFormed_tether : wellFormed (.tetherTrained 12 8) = false ∧ wellFormed (.tetherTrained 8 12) = false ∧
    wellFormed (.tetherFrame true []) = false ∧ wellFormed (.chargeAnswer [1]) = false ∧ wellFormed (.chargeAnswerReceived [1]) = false := by
  decide +kernel
theorem test_wellFormed_line : wellFormed (.lineStart 0 0x2000 [] []) = false ∧ wellFormed (.lineStart 0 0 [5, 5] []) = false ∧
    wellFormed (.lineStart 0 0 [64] []) = false ∧ wellFormed (.lineStart 0 0 [] [1, 1]) = false := by decide +kernel
theorem test_wellFormed_port : wellFormed (.auxDone 0 0 0 2 [1]) = false ∧ wellFormed (.shortRetest 0 [1, 1]) = false := by decide +kernel
theorem test_wellFormed_csi : wellFormed (.csiFs 0 16 0) = false ∧ wellFormed (.csiFe 0 0 3) = false ∧
    wellFormed (.csiLongPacket 0 0 64 0 true 0 []) = false := by decide +kernel
theorem test_wellFormed_shader : wellFormed (.draw 0 ⟨0, [(2 ^ 64, 1)], [], [], [], []⟩ 0 0) = false ∧
    wellFormed (.drawIndexed 0 ⟨0, [], [(2 ^ 64 - 1, [1, 2])], [], [], []⟩ 0 0) = false ∧
    wellFormed (.drawIndirect 0 ⟨0, [(2 ^ 64, 1)], [], [], [], []⟩ 0 0) = false ∧ wellFormed (.dispatch 0 ⟨0, [(2 ^ 64, 1)], [], [], [], []⟩) = false ∧
    wellFormed (.dispatchIndirect 0 ⟨0, [(2 ^ 64, 1)], [], [], [], []⟩) = false := by decide +kernel
theorem test_wellFormed_gpu : wellFormed (.preemptSaveDone 0 [(1, 5), (1, 6)]) = false ∧ wellFormed (.gpuLevelWindow 2 1) = false := by
  decide +kernel
theorem test_wellFormed_keys : wellFormed (.keySample []) = false ∧ wellFormed (.keyShortTest [1, 1]) = false := by decide +kernel
theorem test_wellFormed_audio : wellFormed (.audioSampleFrame 0 [(1, 0), (1, 1)]) = false := by decide +kernel
theorem test_wellFormed_core : wellFormed (.coreMemoryAccess 0 2 0 4 (some [1])) = false := by decide +kernel
theorem test_wellFormed_can : wellFormed (.canRx 0 0 0 (List.replicate 65 0)) = false := by decide +kernel
theorem test_wellFormed_pasture : wellFormed (.pastureAccess 0 true 0 4 (some [1]) [] ⟨0, 0, []⟩) = false ∧
    wellFormed (.pastureAccess 0 true 0x1FFFFFF 2 none [] ⟨0, 0, []⟩) = false ∧
    wellFormed (.pastureAccess 0 true 0 4 none [] ⟨0, 0, [⟨0, 0, true, 0x1FFFFFF, 2, none, 0⟩]⟩) = false ∧
    wellFormed (.pastureAccess 0 true 0 4 none [(1, true), (1, true)] ⟨0, 0, []⟩) = false ∧ wellFormed (.testRow [1, 1]) = false := by decide +kernel
theorem test_wellFormed_dram : wellFormed (.trainStageDone 0 true 8 3) = false ∧
    wellFormed (.dramRequest .fold none 0 0 0 none [] 0 0 0) = false ∧
    wellFormed (.dramRequest .fold none 0 0 2 (some [1]) [] 0 0 0) = false ∧
    wellFormed (.dramRequest .fold none 0 0 2 none [(1, true), (1, true)] 0 0 0) = false ∧ wellFormed (.drvStarve 0 (2 ^ 32)) = false := by
  decide +kernel
theorem test_wellFormed_lane : wellFormed (.dramRequest .fold (some (.pipe 7 0)) 0 0 64 none [] 0 0 0) = false ∧
    wellFormed (.dramRequest .fold (some (.pipe 8 0)) 0 0 1 (some [1]) [] 0 0 0) = false ∧
    wellFormed (.dramRequest .fold (some (.stream 0 false)) 0 0 64 none [] 0 0 0) = false ∧
    wellFormed (.dramRequest .fold (some (.wb 0 0)) 0 0 64 none [] 0 0 0) = false := by decide +kernel
theorem test_wellFormed_accepts : wellFormed (.registerWrite .fold 0x40100044 .b8 0 0) = true ∧ wellFormed (.keySample (List.replicate 48 0)) = true := by
  decide +kernel

/-! ## The spec's worked examples -/

/-- The device after a command. -/
def after {α : Type} (o : Host.Outcome State Fault Refusal) (f : Dev → α) : Option α :=
  match o with
  | .next t => some (f t.dev)
  | _ => none

/-- Chapter 8, the two expected values of a window: bytes 1 to 12 of its table. -/
theorem test_window_crc : crc16 [0xC8, 0, 0, 6, 0xFC, 0x23, 0, 0, 0, 8, 0xFB, 0x3F] = 0xF950 ∧
    crc16 [0xC8, 0, 0, 6, 0xFC, 0x23, 0, 0, 0x80, 0, 2, 8] = 0x6224 := by decide +kernel

/-- Chapter 2, the example of sequence clears: a stale write and a current one. -/
theorem test_sequence_clear : sqClear 0x08000005 0x07000004 = none ∧ sqClear 0x08000005 0x08000005 = some 0x08000000 := by decide +kernel

/-- Chapter 2, the example of guarded pairs, on the page of the image: the second write of the pair. -/
theorem test_fault_classes :
    after (exec (.guardWrite .fold 0x40010004 0xFFFFFBF5)
      (liveAt (fun d => { d with gp := [(0x40010000, some { off := 0x018, val := 0x40A, party := .fold })] })))
      (fun d => rg d .img Reg.FAULT_CLASS &&& 0xFFF) = some 0x40A := by decide +kernel

/-- Chapter 5, the trim table of the aligned head: TRIM after the first four aligned frames in LOCKED. -/
theorem test_trim :
    let d := sg (.head 2) Reg.Head.H_TIMING1 0x07800058 (sg (.head 2) Reg.Head.H_TIMING2 0x002C0094
      (sg (.head 2) Reg.Head.V_TIMING1 0x04380004 (sg (.head 2) Reg.Head.V_TIMING2 0x00050024 live)))
    let trim := fun d => signed 32 (rg d (.head 2) Reg.Head.TRIM).toNat
    let d1 := trimStep 2 750 d
    let d2 := trimStep 2 578 d1
    let d3 := trimStep 2 450 d2
    [trim d1, trim d2, trim d3, trim (trimStep 2 354 d3)] = [-277, -484, -639, -756] := by decide +kernel

/-- Chapter 12: frames and indices after GRANT 13, 9216, 0, 64. -/
theorem test_grant :
    after (exec (.grant (.manager 1) 1)
      (liveAt (fun d => ([13, 9216, 0, 64].zipIdx).foldl (fun d a => sg (.padg 1) (Reg.Mgr.MGR_ARG a.2) a.1 d)
        (sf (.pset 13 0) Reg.Pad.PAD_STAT 2 0 1 (modMach (fun m => { m with
          full := true, vfs0 := 12, vfs1 := 4, fot := (List.range 64).map (fun k => (9216 + k, fotWord fkManager 1 0)) }) d)))))
      (fun d => (fotGet d 9216, fotGet d 9279, pmapGet d 13 16)) = some (0x400D0000, 0x400D003F, 0x80002410) := by decide +kernel

/-- Chapter 12: a manager's read of PAD_STAT after an FLR clears its bit of STATE_PEND. -/
theorem test_padStat :
    after (exec (.padStatRead (.manager 1) 13)
      (liveAt (fun d => sg (.padg 1) (Reg.Mgr.STATE_PEND 0) 0x2000 (sg (.pset 13 0) Reg.Pad.PAD_STAT 0x000D0103
        (modUp 1 (fun x => { x with vfEnable := true, numVfs := 2 }) (modMach (fun m => { m with vfs0 := 12, vfs1 := 4 }) d))))))
      (fun d => (d.resp, rg d (.padg 1) (Reg.Mgr.STATE_PEND 0))) = some (0x000D0903, 0) := by decide +kernel

/-- Chapter 13: raising the Pasture fold line from 96 to 104 units, while it is zeroed. -/
theorem test_fold_raise :
    after (exec (.guardWrite .fold 0x40020004 0xFFFFFF97)
      (liveAt (fun d => sg (.wld 0) Reg.Wld0.PASTURE_FOLD 96
        { d with gp := [(0x40020000, some { off := 0x044, val := 0x68, party := .fold })] })))
      (fun d => rg d (.wld 0) Reg.Wld0.FOLD_STAT) = some 0xC0000000 := by decide +kernel

/-- Chapter 13: a request that HOLD latches, as HOLD and HELD_MAP_0 read it. -/
theorem test_hold :
    after (exec (.clkStop .field) (liveAt (fun d => sf (.sys 1) Reg.Sys1.BLK_SEL 7 0 0x16 (sg (.aud 0) Reg.HOLD 1 d))))
      (fun d => ((regRead .fold (.aud 0) Reg.HOLD d).1, (regRead .fold (.wld 1) (Reg.Wld1.HELD_MAP 0) d).1)) =
      some (0x0101, 0x00400000) := by decide +kernel

/-- Chapter 15: banks 40 to 43 hold part of PREEMPT_AREA and are refused, 44 to 47 go OFF. -/
theorem test_bank_mode :
    after (exec (.bankModeWrite .field 2 0xAAAA0000) (liveAt (sg .gpu Reg.Gpu.PREEMPT_AREA 0x01000000)))
      (fun d => (rg d (.pst 1) Reg.Pst1.PWR_STAT, rg d (.pst 1) (Reg.Pst1.BANK_MODE 2))) = some (0x00002B02, 0xAA000000) := by decide +kernel

/-- Chapter 16: RES over the first sizing periods with the target 88, which ISO_RES then shows. -/
theorem test_iso_res : (List.range 12).map (fun n => ((List.range (n + 1)).foldl (fun r _ => (resNext r 88 false).1) 192)) =
      [180, 168, 157, 147, 137, 128, 120, 112, 105, 98, 91, 88] ∧
    after (exec .isoSizing (liveAt (fun d => sf (.drc 0) Reg.Drc0.DRC_STAT 2 0 2 (sg (.drc 2) Reg.Drc2.ISO_RES 0x46585B
      { d with drc := { d.drc with maxBursts := 70 } })))) (fun d => rg d (.drc 2) Reg.Drc2.ISO_RES) = some 0x00465858 := by decide +kernel

/-- Chapter 17: the second sample below 0.68 V makes rail 0 invalid. -/
theorem test_rail_sample :
    after (exec (.railSample 0 660) { liveAt (modRail 0 (fun r => { r with judge := 0, bad := 1 })) with pending := [] })
      (fun d => (railOf d 0).judge) = some 2 := by decide +kernel

/-- Chapter 6: the first stream's STREAM_CTRL, RING_LINES and FRAME_PERIOD, as its CAMERA record gives them, without ENABLE. -/
theorem test_stream_record :
    let b : List Byte := [1, 0, 0, 0x1E, 0, 0, 0, 0, 0x80, 7, 0x38, 4, 0x50, 0, 0, 0, 0x1B, 0x41, 0, 0, 0, 0, 8, 0, 0, 8, 0, 0]
    let d := streamRegs 0 b none live
    streamWord b + 1 = 0x48001E01 ∧ rg d (.stream 0) Reg.Stream.STREAM_SIZE = 0x04380780 ∧
      rg d (.stream 0) Reg.Stream.RING_ADDR = 0x00080000 ∧ rg d (.stream 0) Reg.Stream.RING_LINES = 0x50 ∧
      rg d (.stream 0) Reg.Stream.FRAME_PERIOD = 0x411B := by decide +kernel

/-- Chapter 16, R577: while both wait, a channel's slot serves the isochronous read first, and the bulk read after it. -/
theorem test_dram_lane_first :
    let r (iso : Option IsoSrc) (stamp : Nat) : DramReq :=
      { who := .fold, src := iso, port := 19, addr := 0, x := 0, len := 64, v := none, stamp := stamp, code := 0 }
    let d := modDrc (fun s => { s with now := 10, queue := [r none 1, r (some (.stream 0 false)) 2] }) live
    chooseReq d 0 = some (r (some (.stream 0 false)) 2) ∧
      chooseReq (serveReq (r (some (.stream 0 false)) 2) d) 0 = some (r none 1) := by decide +kernel

/-! ## The statements about every command, and the numbered rules -/

theorem answers {o : Host.Outcome State Fault Refusal} {P : State → Bool}
    (h : (match o with | .next t => P t | _ => false) = true) : ∃ t, o = .next t ∧ P t = true := by
  match o, h with
  | .next t, h => exact ⟨t, rfl, h⟩

/-- A start at full composition with a version to fuse; the command waits in front of another. -/
def fusing : State :=
  { State.reset.on (modBoot (fun b => { b with stage := 8, dramUp := true, flags := 1, svn := 5 })) with
    pending := [.fullComposition, .parityScrub] }

/-- Group 1 is read, and the image's flags ask for PROVISION. -/
def provisioning : State := { liveAt (modBoot (fun b => { b with stage := 6, flags := 2 })) with pending := [.fellReleased] }

theorem witness_StepRunsTheFrontCommand : ∃ (c : Instr) (rest : List Instr) (s : State), s.pending = c :: rest :=
  ⟨.fullComposition, [.parityScrub], fusing, rfl⟩

theorem witness_StepIdlesOnAnEmptyQueue : ∃ s : State, s.pending = [] := ⟨State.reset, rfl⟩

theorem witness_QueueIsTakenInOrder : ∃ (c d : Instr) (cs : List Instr) (s : State), s.pending = c :: d :: cs :=
  ⟨.fullComposition, .parityScrub, [], fusing, rfl⟩

theorem witness_StepMovesTheFusesOnlyAsAllowed :
    (∃ s t : State, step s = .next t ∧ decide (s.fuses.svn < t.fuses.svn) = true) ∧
    (∃ s t : State, step s = .next t ∧ decide (s.fuses.lcState = 0 ∧ t.fuses.lcState = 1) = true) :=
  ⟨⟨fusing, answers (by decide +kernel)⟩, ⟨provisioning, answers (by decide +kernel)⟩⟩

theorem witness_StepKeepsTheLifeCycleLegal :
    ∃ s t : State, s.fuses.legal ∧ s.dev.firing = [] ∧ step s = .next t ∧ decide (t.fuses.lcState = 1) = true := by
  obtain ⟨t, h, g⟩ := answers (o := step provisioning) (P := fun t => decide (t.fuses.lcState = 1)) (by decide +kernel)
  exact ⟨provisioning, t, Nat.zero_le 4, rfl, h, g⟩

theorem witness_RunNeverTurnsTheLifeCycleBack :
    (∃ (n : Nat) (s t : State), Host.Core.run core n s = .next t ∧ 1 ≤ s.fuses.lcState ∧ s.fuses.lcState ≠ 4) ∧
    (∃ (n : Nat) (s t : State), Host.Core.run core n s = .next t ∧ s.fuses.lcState = 4) :=
  ⟨⟨0, { State.reset with fuses := { lcState := 3 } }, _, rfl, by decide, by decide⟩,
   ⟨0, { State.reset with fuses := { lcState := 4 } }, _, rfl, rfl⟩⟩

theorem witness_MemoryCommandsKeepTheCanonicalForm :
    ∃ s t1 t2 t3 t4 : State, s.dev.memWf = true ∧
      exec (.pastureAccess 0 true 0x1FFFFFC 4 (some [1, 2, 3, 4]) [] ⟨0, 0, []⟩) s = .next t1 ∧
      exec (.dramRequest .fold none 19 0 64 none [] 0 0 0) s = .next t2 ∧
      exec (.coreMemoryAccess 3 2 0x1001FFFFF8 8 (some [1])) s = .next t3 ∧
      exec (.apertureAccess 511 0 .b4 (some 7)) s = .next t4 :=
  ⟨State.reset, _, _, _, _, by decide +kernel, rfl, rfl, rfl, rfl⟩

/-- EVENT of the CMP page: its address, and a state with bits 0 and 2 set under SEQ 8. -/
def cmpEvent : BitVec 32 := BitVec.ofNat 32 (Page.cmp.base + Reg.EVENT)
def atSeq8 : State := liveAt (sg .cmp Reg.EVENT 0x08000005)

theorem witness_SequenceClearClearsUnderTheCurrentSeq :
    ∃ (who : Party) (addr : BitVec 32) (q r : Page) (o : Nat) (row : Row) (s : State),
      landOf who addr.toNat = .page q ∧ aimAt s.dev who q (addr.toNat % 0x1000) = .at_ r o ∧
      (o = Reg.EVENT ∨ o = Reg.PARITY_STAT) ∧ r.row? o = some row ∧ row.acc = .sq ∧ Granted s.dev who r o true ∧
      (∃ v : Word, fld v 23 0 ≠ 0 ∧ fld v 31 24 = rf (cycleEnd (gpIntervene r s.dev)) r o 31 24) ∧
      (∃ v : Word, fld v 23 0 ≠ 0 ∧ fld v 31 24 ≠ rf (cycleEnd (gpIntervene r s.dev)) r o 31 24) ∧ (∃ v : Word, fld v 23 0 = 0) :=
  ⟨.fold, cmpEvent, .cmp, .cmp, Reg.EVENT, ⟨0x008, 1, 4, .sq, 0, 0xFFFFFFFF, 0⟩, atSeq8, by decide +kernel, by decide +kernel,
   .inl rfl, by decide +kernel, rfl, fold_granted (by decide +kernel) (by decide +kernel),
   ⟨0x08000005, by decide +kernel, by decide +kernel⟩, ⟨0x07000004, by decide +kernel, by decide +kernel⟩,
   ⟨0x08000000, by decide +kernel⟩⟩

theorem witness_EventSetsItsBitAndAssertsTheInterrupt :
    (∃ k j : Nat, k < 24 ∧ j < 24 ∧ j ≠ k) ∧
    (∃ (p x : Page) (y : Nat), x.base + y ≠ p.base + Reg.EVENT ∧ ¬ pbaAt (x.base + y)) ∧ (∃ (p : Page) (d : Dev), irqOn d p = true) :=
  ⟨⟨23, 0, by decide⟩, ⟨.cmp, .sys 0, 0, by decide, by
    rintro ⟨fn, h⟩
    unfold msixPage at h
    split at h <;> simp only [Page.base, Reg.PBA] at h <;> omega⟩,
   ⟨.cmp, sg .cmp Reg.EVENT_EN 1 (sg .cmp Reg.EVENT 1 live), by decide +kernel⟩⟩

/-- The repeating slots of the SYS page 0 and its last register; a window of a paddock. -/
theorem witness_SlotsRepeatAndFallBack :
    (∃ (p : Page) (o : Nat), p.row? (4 * (o / 4 % 256)) ≠ none) ∧ (∃ (p : Page) (o : Nat), p.row? (4 * (o / 4 % 256)) = none) ∧
    (∃ p : Page, p.isWindow = false) :=
  ⟨⟨.cmp, Reg.Cmp.LUT_INDEX + 0xC03, by decide +kernel⟩, ⟨.sys 0, 0x3FF, by decide +kernel⟩, ⟨.cmp, rfl⟩⟩

theorem witness_OnlyFullCompositionRaisesTheFusedVersion :
    (∃ s t : State, exec .fullComposition s = .next t ∧
      decide (fullReady s.dev = true ∧ s.dev.boot.flags.testBit 0 = true ∧ s.fuses.svn < s.dev.boot.svn) = true) ∧
    (∃ (c : Instr) (s t : State), exec c s = .next t ∧ c ≠ .fullComposition) := by
  obtain ⟨t, h, -⟩ := answers (o := exec .fullComposition fusing) (P := fun _ => true) (by decide +kernel)
  exact ⟨⟨fusing, t, h, by decide +kernel⟩, ⟨.parityScrub, State.reset, _, rfl, by simp⟩⟩

theorem witness_UnmappedAccessIsReported :
    (∃ (addr : BitVec 32) (s : State), s.dev.firing = [] ∧ pageOf addr.toNat = none ∧ addr.toNat = 0x52000000) ∧
    (∃ (addr : BitVec 32) (s : State), s.dev.firing = [] ∧ pageOf addr.toNat = none ∧ addr.toNat = 0) :=
  ⟨⟨0x52000000, State.reset, rfl, by decide +kernel, rfl⟩, ⟨0, State.reset, rfl, by decide +kernel, rfl⟩⟩

theorem witness_FaultClassDecidesIsolation :
    (∃ (p : Page) (src : Nat) (d : Dev), d.firing = [] ∧ classOf d p src < 2) ∧
    (∃ (p : Page) (src : Nat) (d : Dev), d.firing = [] ∧ classOf d p src = 2) :=
  ⟨⟨.cmp, 1, live, rfl, by decide +kernel⟩, ⟨.cmp, 0, live, rfl, by decide +kernel⟩⟩

/-- A pair for OWNER or FAULT_CLASS of the CMP page: its first write, and what the second finds. -/
theorem witness_GuardedPairTakesOnlyTheComplement :
    (∃ (who who₂ : Party) (addr addr₂ : BitVec 32) (v : Word) (q q₂ r : Page) (o : Nat) (row : Row) (s t : State),
      landOf who addr.toNat = .page q ∧ aimAt s.dev who q (addr.toNat % 0x1000) = .at_ r o ∧
      r.row? o = some row ∧ row.acc = .gp ∧ o ≠ Reg.GUARD ∧ Granted s.dev who r o true ∧
      exec (.gpWrite who addr v) s = .next t ∧
      landOf who₂ addr₂.toNat = .page q₂ ∧ aimAt t.dev who₂ q₂ (addr₂.toNat % 0x1000) = .at_ r Reg.GUARD ∧
      routeOf t.dev who₂ r = .direct ∧ (r.onDale && daleAbsent t.dev) = false ∧ blkDead t.dev r true = false ∧
      mayAccess t.dev r who₂ Reg.GUARD true = true ∧ o = Reg.OWNER ∧ who = .fold ∧ rb t.dev r Reg.OWNER 31 = false ∧
      ownerBad r v = false ∧ (∀ n, r = .stream n → n < 16)) ∧
    (∃ (who who₂ : Party) (addr addr₂ : BitVec 32) (v : Word) (q q₂ r : Page) (o : Nat) (row : Row) (s t : State),
      landOf who addr.toNat = .page q ∧ aimAt s.dev who q (addr.toNat % 0x1000) = .at_ r o ∧
      r.row? o = some row ∧ row.acc = .gp ∧ o ≠ Reg.GUARD ∧ Granted s.dev who r o true ∧
      exec (.gpWrite who addr v) s = .next t ∧
      landOf who₂ addr₂.toNat = .page q₂ ∧ aimAt t.dev who₂ q₂ (addr₂.toNat % 0x1000) = .at_ r Reg.GUARD ∧
      routeOf t.dev who₂ r = .direct ∧ (r.onDale && daleAbsent t.dev) = false ∧ blkDead t.dev r true = false ∧
      mayAccess t.dev r who₂ Reg.GUARD true = true ∧ o = Reg.OWNER ∧ rb t.dev r Reg.OWNER 31 = true) ∧
    (∃ (who who₂ : Party) (addr addr₂ : BitVec 32) (v : Word) (q q₂ r : Page) (o : Nat) (row : Row) (s t : State),
      landOf who addr.toNat = .page q ∧ aimAt s.dev who q (addr.toNat % 0x1000) = .at_ r o ∧
      r.row? o = some row ∧ row.acc = .gp ∧ o ≠ Reg.GUARD ∧ Granted s.dev who r o true ∧
      exec (.gpWrite who addr v) s = .next t ∧
      landOf who₂ addr₂.toNat = .page q₂ ∧ aimAt t.dev who₂ q₂ (addr₂.toNat % 0x1000) = .at_ r Reg.GUARD ∧
      routeOf t.dev who₂ r = .direct ∧ (r.onDale && daleAbsent t.dev) = false ∧ blkDead t.dev r true = false ∧
      mayAccess t.dev r who₂ Reg.GUARD true = true ∧ o = Reg.FAULT_CLASS ∧ isoOf t.dev r = false ∧
      (∀ n, n < 8 → (r.source n).isSome = true → r.adjustClass n (fld v (3 * n + 2) (3 * n)) = fld v (3 * n + 2) (3 * n))) :=
  ⟨⟨.fold, .fold, BitVec.ofNat 32 (Page.cmp.base + Reg.OWNER), BitVec.ofNat 32 (Page.cmp.base + Reg.GUARD), 5, .cmp, .cmp, .cmp,
    Reg.OWNER, ⟨0x010, 1, 4, .gp, 0, 0x800303FF, 0x80010001⟩, liveAt id, _, by decide +kernel, by decide +kernel, by decide +kernel, rfl,
    by decide, fold_granted (by decide +kernel) (by decide +kernel), rfl, by decide +kernel, by decide +kernel,
    by decide +kernel, by decide +kernel, by decide +kernel, by decide +kernel, rfl, rfl, by decide +kernel, rfl, nofun⟩,
   ⟨.fold, .fold, BitVec.ofNat 32 (Page.cmp.base + Reg.OWNER), BitVec.ofNat 32 (Page.cmp.base + Reg.GUARD), 5, .cmp, .cmp, .cmp,
    Reg.OWNER, ⟨0x010, 1, 4, .gp, 0, 0x800303FF, 0x80010001⟩, liveAt (sb .cmp Reg.OWNER 31 true), _, by decide +kernel, by decide +kernel,
    by decide +kernel, rfl, by decide, fold_granted (by decide +kernel) (by decide +kernel), rfl, by decide +kernel,
    by decide +kernel, by decide +kernel, by decide +kernel, by decide +kernel, by decide +kernel, rfl, by decide +kernel⟩,
   ⟨.fold, .fold, BitVec.ofNat 32 (Page.cmp.base + Reg.FAULT_CLASS), BitVec.ofNat 32 (Page.cmp.base + Reg.GUARD),
    BitVec.ofNat 32 Page.cmp.classReset, .cmp, .cmp, .cmp, Reg.FAULT_CLASS, ⟨0x018, 1, 4, .gp, 0, 0x00FFFFFF, 2396745⟩, liveAt id, _,
    by decide +kernel, by decide +kernel, by decide +kernel, rfl, by decide, fold_granted (by decide +kernel) (by decide +kernel),
    rfl, by decide +kernel, by decide +kernel, by decide +kernel, by decide +kernel, by decide +kernel, by decide +kernel, rfl,
    by decide +kernel, by decide +kernel⟩⟩

theorem witness_FoldCallReturnsWithScrubbedRegisters :
    ∃ (n : Fin 4) (file out : CoreFile) (s t : State), s.dev.firing = [] ∧
      coreGoes s.dev n.val = true ∧ (coreOf s.dev n.val).fold = false ∧ file.mode ≠ 0 ∧ isoOf s.dev (.wld 0) = false ∧
      exec (.foldCall n file) s = .next t ∧ out.mode ≠ 0 ∧ coreGoes t.dev n.val = true :=
  ⟨3, { mode := 3 }, { mode := 1 }, liveAt (modCore 3 (fun c => { c with stopped := false, fold := false })), _, rfl, by decide +kernel,
   by decide +kernel, by decide, by decide +kernel, rfl, by decide, by decide +kernel⟩

theorem witness_NotesFollowAtOneHundredMicroseconds :
    (∃ (who : Party) (s : State), s.dev.firing = [] ∧ Granted s.dev who (.crn 0) Reg.Crn0.CRN_CMD true ∧
      isoOf (gpIntervene (.crn 0) s.dev) (.crn 0) = false ∧
      (gpIntervene (.crn 0) s.dev).cairn.noteTime = some 1 ∧ (gpIntervene (.crn 0) s.dev).us = 100) ∧
    (∃ (who : Party) (s : State), s.dev.firing = [] ∧ Granted s.dev who (.crn 0) Reg.Crn0.CRN_CMD true ∧
      isoOf (gpIntervene (.crn 0) s.dev) (.crn 0) = false ∧
      (gpIntervene (.crn 0) s.dev).cairn.noteTime = some 0 ∧ (gpIntervene (.crn 0) s.dev).us = 100 ∧
      (gpIntervene (.crn 0) s.dev).cairn.post ≠ some 0) :=
  ⟨⟨.fold, liveAt (fun d => { modCairn (fun c => { c with noteTime := some 1 }) d with us := 100 }), rfl,
    fold_granted (by decide +kernel) (by decide +kernel), by decide +kernel, by decide +kernel, by decide +kernel⟩,
   ⟨.fold, liveAt (fun d => { modCairn (fun c => { c with noteTime := some 0 }) d with us := 100 }), rfl,
    fold_granted (by decide +kernel) (by decide +kernel), by decide +kernel, by decide +kernel, by decide +kernel, by decide +kernel⟩⟩

theorem witness_ClaimNamesTheLowestAssertedPage :
    (∃ (who : Party) (addr : BitVec 32) (q : Page) (s : State), landOf who addr.toNat = .page q ∧
      aimAt s.dev who q (addr.toNat % 0x1000) = .at_ (.wld 0) Reg.Wld0.FOLD_CLAIM ∧ Granted s.dev who (.wld 0) Reg.Wld0.FOLD_CLAIM false) ∧
    (∃ (who : Party) (addr : BitVec 32) (q : Page) (s : State), landOf who addr.toNat = .page q ∧
      aimAt s.dev who q (addr.toNat % 0x1000) = .at_ (.wld 1) Reg.Wld1.FIELD_CLAIM ∧ Granted s.dev who (.wld 1) Reg.Wld1.FIELD_CLAIM false ∧
      irqOn (gpIntervene (.wld 1) s.dev) (.sys 1) = true ∧ rf (gpIntervene (.wld 1) s.dev) (.sys 1) Reg.OWNER 17 16 = 1) :=
  ⟨⟨.fold, BitVec.ofNat 32 ((Page.wld 0).base + Reg.Wld0.FOLD_CLAIM), .wld 0, liveAt id, by decide +kernel, by decide +kernel,
    fold_granted (by decide +kernel) (by decide +kernel)⟩,
   ⟨.fold, BitVec.ofNat 32 ((Page.wld 1).base + Reg.Wld1.FIELD_CLAIM), .wld 1,
    liveAt (fun d => sg (.sys 1) Reg.EVENT 1 (sg (.sys 1) Reg.EVENT_EN 1 d)), by decide +kernel, by decide +kernel,
    fold_granted (by decide +kernel) (by decide +kernel), by decide +kernel, by decide +kernel⟩⟩

/-- Counter 127 counts the values of event 0xF0 of every block, from a given count. -/
def tallying (lo hi : Word) : State :=
  liveAt (fun d => sg (.tly 2) (Reg.Tly1.COUNT_LO 63) lo (sg (.tly 2) (Reg.Tly1.COUNT_HI 63) hi
    (sg (.tly 0) (Reg.Tly0.CFG 127) 0x8000FFF0 (sb (.tly 0) Reg.Tly0.GLB_CTRL 0 true d))))

/-- The conditions of the counting rule for counter `k` in a state, with the count that is reached. -/
def tlyCounts (s : State) (k x fx : Nat) : Bool × Nat :=
  let c := rg s.dev (.tly 0) (Reg.Tly0.CFG k)
  (tlyRuns s.dev && bitOf c 31 && tlyListed c && !(tlyWorld c && fld c 30 29 == 3),
   tlyCount s.dev k + tlyAdd (fld c 28 27) (rf s.dev (.tly 3) (Reg.Tly3.THR (fld c 26 24)) 15 0) (tlyValue s.dev c x fx)
     (tabGet (fun _ => 0) s.dev.tly.prev k))

theorem witness_TallyCountsPassToTheResidue :
    (∃ (s t : State), tlyCounts s 127 1 0 = (true, 2 ^ 48) ∧ exec (.tallyCount 127 1 0 0 0) s = .next t ∧
      Granted t.dev .fold (tlyPage 127) (Reg.Tly1.COUNT_HI 63) true ∧ Granted t.dev .fold (.tly 0) Reg.Tly0.GLB_CTRL true) ∧
    (∃ s : State, tlyCounts s 127 1 0 = (true, 2 ^ 48 - 1)) :=
  ⟨⟨tallying 0xFFFFFFFF 0xFFFF, _, by decide +kernel, rfl, fold_granted (by decide +kernel) (by decide +kernel),
    fold_granted (by decide +kernel) (by decide +kernel)⟩, ⟨tallying 0xFFFFFFFE 0xFFFF, by decide +kernel⟩⟩

theorem witness_TallyHalvesMoveTogether :
    (∃ s t : State, Granted s.dev .fold (tlyPage 127) (Reg.Tly1.COUNT_LO 63) false ∧ exec (.countLoRead .fold 127) s = .next t ∧
      landOf .fold ((tlyPage 127).base + Reg.Tly1.COUNT_HI 63) = .page (tlyPage 127) ∧
      aimAt t.dev .fold (tlyPage 127) (((tlyPage 127).base + Reg.Tly1.COUNT_HI 63) % 0x1000) = .at_ (tlyPage 127) (Reg.Tly1.COUNT_HI 63) ∧
      Granted t.dev .fold (tlyPage 127) (Reg.Tly1.COUNT_HI 63) false) ∧
    (∃ s t : State, Granted s.dev .fold (tlyPage 127) (Reg.Tly1.COUNT_LO 63) true ∧ exec (.countLoWrite .fold 127 7) s = .next t ∧
      Granted t.dev .fold (tlyPage 127) (Reg.Tly1.COUNT_HI 63) true) :=
  ⟨⟨tallying 1 2, _, fold_granted (by decide +kernel) (by decide +kernel), rfl, by decide +kernel, by decide +kernel,
    fold_granted (by decide +kernel) (by decide +kernel)⟩,
   ⟨tallying 1 2, _, fold_granted (by decide +kernel) (by decide +kernel), rfl, fold_granted (by decide +kernel) (by decide +kernel)⟩⟩

theorem witness_NvmCommandsMoveTheirBytes :
    ∀ code, 1 ≤ code → code ≤ 5 → ∃ (a : Nat) (s : State), s.dev.nvmc.cmd = some (code, a) ∧ s.dev.nvmc.waits = false ∧
      isoOf s.dev .nvm = false :=
  fun code _ _ => ⟨0x3FFFF00, State.reset.on (fun d => { d with nvmc := { cmd := some (code, 0x3FFFF00) } }), rfl, rfl, rfl⟩

theorem witness_CoreStoreWritesExactlyItsBytes :
    ∃ (n : Fin 4) (a : BitVec 64) (bs : List Byte) (s : State), s.dev.firing = [] ∧ coreGoes s.dev n.val = true ∧
      (!(coreOf s.dev n.val).fold && belowLine s.dev a.toNat bs.length) = false ∧
      rangeOk s.dev (.party (if (coreOf s.dev n.val).fold then .fold else .field)) a.toNat bs.length = true ∧
      a.toNat + bs.length ≤ pastBase ∧ bs ≠ [] :=
  ⟨3, 0x1FFFF8, [1, 2, 3, 4, 5, 6, 7, 8],
   liveAt (fun d => modMach (fun m => { m with fot := [(0, fotWord fkField 0 0)] }) (modCore 3 (fun c => { c with stopped := false, fold := false }) d)),
   rfl, by decide +kernel, by decide +kernel, by decide +kernel, by decide +kernel, by decide⟩

theorem witness_PastureWriteStoresExactlyItsBytes :
    ∃ (r : PastReq) (bs : List Byte) (s : State), s.dev.firing = [] ∧ r.v = some bs ∧ r.off.toNat + bs.length = 0x2000000 ∧
      (r.fold = true ∨ pastFold s.dev ≤ r.off.toNat) ∧ bs ≠ [] ∧
      (∀ w, r.off.toNat / 8 ≤ w → 8 * w < r.off.toNat + bs.length → pastErr s.dev w = 0) ∧
      (∀ b, bankOf r.off.toNat ≤ b → b * bankBytes < r.off.toNat + bs.length → bankState s.dev b ≠ 2) :=
  ⟨⟨0, 0, false, 0x1FFFFFC, 4, some [1, 2, 3, 4], 0⟩, [1, 2, 3, 4], State.reset, rfl, rfl, by decide +kernel,
   .inr (by decide +kernel), by decide, fun _ _ _ => rfl, fun b h g => by
    have hb : b = 63 := by
      have h1 : 63 ≤ b := h
      have h2 : b * 0x80000 < 0x2000000 := g
      omega
    subst hb
    decide +kernel⟩

theorem witness_FieldCannotTurnOffBanksBelowTheFoldLine :
    ∃ (who : Party) (i : Fin 4) (v : Word) (s : State),
      Granted s.dev who (.pst 1) (Reg.Pst1.BANK_MODE i.val) true ∧ who ≠ .fold ∧ isoOf (gpIntervene (.pst 1) s.dev) (.pst 1) = false ∧
      2 ≤ fld v 1 0 ∧ bankMode (gpIntervene (.pst 1) s.dev) (16 * i.val) ≠ 2 ∧
      16 * i.val * bankBytes < pastFold (gpIntervene (.pst 1) s.dev) ∧
      2 ≤ fld v 3 2 ∧ ¬ (16 * i.val + 1) * bankBytes < pastFold (gpIntervene (.pst 1) s.dev) :=
  ⟨.field, 3, 0xA, liveAt (fun d => sf (.wld 0) Reg.Wld0.PASTURE_FOLD 9 0 0x188 d), by decide +kernel, by decide, by decide +kernel,
   by decide +kernel, by decide +kernel, by decide +kernel, by decide +kernel, by decide +kernel⟩

theorem witness_LockMakesLockedFieldsReadOnly :
    (∃ (who : Party) (addr : BitVec 32) (q r : Page) (o : Nat) (row : Row) (s : State),
      landOf who addr.toNat = .page q ∧ aimAt s.dev who q (addr.toNat % 0x1000) = .at_ r o ∧ r.row? o = some row ∧ row.acc = .rwl ∧
      Granted s.dev who r o true ∧ rb (gpIntervene r s.dev) r Reg.OWNER 31 = true) ∧
    (∃ (who : Party) (addr : BitVec 32) (q r : Page) (o : Nat) (row : Row) (s : State),
      landOf who addr.toNat = .page q ∧ aimAt s.dev who q (addr.toNat % 0x1000) = .at_ r o ∧ r.row? o = some row ∧ row.acc = .rwl ∧
      Granted s.dev who r o true ∧ rb (gpIntervene r s.dev) r Reg.OWNER 31 = false) :=
  ⟨⟨.fold, BitVec.ofNat 32 ((Page.wld 0).base + 0x04C), .wld 0, .wld 0, 0x04C, ⟨0x04C, 1, 4, .rwl, 0, 0xF, 1⟩,
    liveAt (sb (.wld 0) Reg.OWNER 31 true), by decide +kernel, by decide +kernel, by decide +kernel, rfl,
    fold_granted (by decide +kernel) (by decide +kernel), by decide +kernel⟩,
   ⟨.fold, BitVec.ofNat 32 ((Page.wld 0).base + 0x04C), .wld 0, .wld 0, 0x04C, ⟨0x04C, 1, 4, .rwl, 0, 0xF, 1⟩,
    liveAt id, by decide +kernel, by decide +kernel, by decide +kernel, rfl,
    fold_granted (by decide +kernel) (by decide +kernel), by decide +kernel⟩⟩

/-- Manager 1 with 512 paddocks on its port, paddock 511 in a state, arguments in its registers and frame 16383 its own. -/
def managing (st : Nat) (frame : Word) (args : List Word) : State :=
  liveAt (fun d => (args.zipIdx).foldl (fun d a => sg (.padg 1) (Reg.Mgr.MGR_ARG a.2) a.1 d)
    (sf (.pset 511 0) Reg.Pad.PAD_STAT 2 0 st (modUp 1 (fun x => { x with vfEnable := true, numVfs := 512 })
      (modMach (fun m => { m with full := true, vfs1 := 512, fot := [(16383, frame)] }) d))))

theorem witness_CreateOpensAVoidPaddock :
    ∃ (who : Party) (u : Fin 2) (s : State),
      (let d := gpIntervene (.padg u.val) s.dev
       let p := mgrArg d u.val 0
       (upOf d u.val).cmd = none ∧ isoOf d (.padg u.val) = false ∧ d.pad.full = true ∧ portOf d p = some u.val ∧ padState d p = 0 ∧ vfLive d p = true ∧ p < 512) ∧
      Granted s.dev who (.padg u.val) Reg.Mgr.MGR_CMD true :=
  ⟨.manager 1, 1, managing 0 0 [511], by decide +kernel, by decide +kernel⟩

/-- GRANT of one frame: one that is the manager's own, and one that is not. -/
theorem witness_GrantMovesOwnFramesOnly :
    ∀ own : Bool, ∃ (who : Party) (u : Fin 2) (s : State),
      (let d := gpIntervene (.padg u.val) s.dev
       let p := mgrArg d u.val 0
       let f := mgrArg d u.val 1
       let i := mgrArg d u.val 2
       let n := mgrArg d u.val 3
       (upOf d u.val).cmd = none ∧ isoOf d (.padg u.val) = false ∧ d.pad.full = true ∧ portOf d p = some u.val ∧ 1 ≤ padState d p ∧ padState d p ≤ 4 ∧
       n = 1 ∧ f + n = 16384 ∧ i + n = 8192 ∧
       (decide (fotKind d f = fkManager ∧ fotTag d f = u.val ∧ bitOf (pmapGet d p i) 31 = false)) = own) ∧
      Granted s.dev who (.padg u.val) Reg.Mgr.MGR_CMD true
  | true => ⟨.manager 1, 1, managing 4 (fotWord fkManager 1 0) [511, 16383, 8191, 1], by decide +kernel, by decide +kernel⟩
  | false => ⟨.manager 1, 1, managing 4 (fotWord fkFree 0 0) [511, 16383, 8191, 1], by decide +kernel, by decide +kernel⟩

/-! ## Refused accesses: in each clause the paddock 0, which is VOID after reset -/

/-- Each command that can be turned away, turned away. -/
theorem witness_RefusedAccessesChangeOnlyFaultState :
    (∃ (who : Party) (p : BitVec 32) (r : Page) (s : State), pageOf p.toNat = some r ∧ ¬ Granted s.dev who r Reg.HOLD true) ∧
    (∃ (who : Party) (s : State), ¬ Granted s.dev who .nvm Reg.Nvm.NVM_CMD true) ∧
    (∃ (who : Party) (s : State), ¬ Granted s.dev who .nvm Reg.Nvm.NVM_CMD true) ∧
    (∃ (who : Party) (s : State), ¬ Granted s.dev who .nvm Reg.Nvm.NVM_CMD true) ∧
    (∃ (who : Party) (s : State), ¬ Granted s.dev who .nvm Reg.Nvm.NVM_CMD true) ∧
    (∃ (who : Party) (s : State), ¬ Granted s.dev who .nvm Reg.Nvm.NVM_CMD true) ∧
    (∃ (who : Party) (p : Fin 64) (s : State), ¬ Granted s.dev who (.pipe p.val) Reg.Pipe.COMMIT true) ∧
    (∃ (who : Party) (p : Fin 64) (s : State), ¬ Granted s.dev who (.pipe p.val) Reg.Pipe.COMMIT true) ∧
    (∃ (who : Party) (p : Fin 64) (s : State), ¬ Granted s.dev who (.pipe p.val) Reg.Pipe.CTRL true) ∧
    (∃ (who : Party) (p : Fin 64) (s : State), ¬ Granted s.dev who (.pipe p.val) Reg.Pipe.COEF_DATA true) ∧
    (∃ (who : Party) (s : State), ¬ Granted s.dev who .cmp Reg.Cmp.LUT_DATA true) ∧
    (∃ (who : Party) (s : State), ¬ Granted s.dev who .cmp Reg.Cmp.LUT_DATA false) ∧
    (∃ (who : Party) (h : Fin 8) (s : State), ¬ Granted s.dev who .cmp (Reg.Cmp.COLOUR_CTRL h.val) true) ∧
    (∃ (who : Party) (k : Fin 2) (s : State), ¬ Granted s.dev who (.wb k.val) Reg.Wb.WB_ARM true) ∧
    (∃ (who : Party) (h : Fin 8) (s : State), ¬ Granted s.dev who (.head h.val) Reg.Head.HEAD_CTRL true) ∧
    (∃ (who : Party) (h : Fin 8) (s : State), ¬ Granted s.dev who (.head h.val) Reg.Head.HEAD_CTRL true) ∧
    (∃ (who : Party) (h : Fin 8) (s : State), ¬ Granted s.dev who (.head h.val) Reg.Head.HEAD_CTRL true) ∧
    (∃ (who : Party) (n : Fin 8) (s : State), ¬ Granted s.dev who (.port n.val) Reg.Port.PORT_CTRL true) ∧
    (∃ (who : Party) (n : Fin 8) (s : State), ¬ Granted s.dev who (.port n.val) Reg.Port.PORT_CTRL true) ∧
    (∃ (who : Party) (n : Fin 8) (s : State), ¬ Granted s.dev who (.port n.val) Reg.Port.AUX_CMD true) ∧
    (∃ (who : Party) (p : Fin 4) (s : State), ¬ Granted s.dev who .cam (Reg.Cam.CSI_CTRL p.val) true) ∧
    (∃ (who : Party) (p : Fin 4) (s : State), ¬ Granted s.dev who .cam (Reg.Cam.CSI_CTRL p.val) true) ∧
    (∃ (who : Party) (n : Fin 16) (s : State), ¬ Granted s.dev who (.stream n.val) Reg.Stream.STREAM_CTRL true) ∧
    (∃ (who : Party) (n : Fin 16) (s : State), ¬ Granted s.dev who (.stream n.val) Reg.Stream.STREAM_CTRL true) ∧
    (∃ (who : Party) (n : Fin 8) (s : State), ¬ Granted s.dev who (.dw n.val) Reg.Dw.DW_APPLY true) ∧
    (∃ (who : Party) (n : Fin 8) (s : State), ¬ Granted s.dev who (.dw n.val) Reg.Dw.DW_APPLY true) ∧
    (∃ (who : Party) (n : Fin 64) (s : State), ¬ Granted s.dev who (.ctx n.val) Reg.Ctx.CTX_CTRL true) ∧
    (∃ (who : Party) (n : Fin 64) (s : State), ¬ Granted s.dev who (.ctx n.val) Reg.Ctx.CTX_CTRL true) ∧
    (∃ (who : Party) (n : Fin 64) (s : State), ¬ Granted s.dev who (.ctx n.val) Reg.Ctx.QUEUE_WPTR true) ∧
    (∃ (who : Party) (n : Fin 64) (s : State), ¬ Granted s.dev who (.ctx n.val) Reg.Ctx.CTX_CMD true) ∧
    (∃ (who : Party) (n : Fin 64) (s : State), ¬ Granted s.dev who (.ctx n.val) Reg.Ctx.CTX_CMD true) ∧
    (∃ (who : Party) (n : Fin 64) (s : State), ¬ Granted s.dev who (.ctx n.val) Reg.Ctx.CTX_CMD true) ∧
    (∃ (who : Party) (n : Fin 64) (s : State), ¬ Granted s.dev who (.ctx n.val) Reg.Ctx.CTX_CTRL true) ∧
    (∃ (who : Party) (n : Fin 64) (s : State), ¬ Granted s.dev who (.ctx n.val) Reg.Ctx.PEN_WPTR true) ∧
    (∃ (who : Party) (s : State), ¬ Granted s.dev who .gpu Reg.Gpu.GPU_CTRL true) ∧
    (∃ (who : Party) (h : Fin 8) (s : State), ¬ Granted s.dev who (.chk h.val) Reg.Chk.CHK_COMMIT true) ∧
    (∃ (who : Party) (h : Fin 8) (s : State), ¬ Granted s.dev who (.chk h.val) Reg.Chk.CHK_COMMIT true) ∧
    (∃ (who : Party) (h : Fin 8) (s : State), ¬ Granted s.dev who (.chk h.val) Reg.Chk.FAIL_CLEAR true) ∧
    (∃ (who : Party) (n : Fin 8) (s : State), ¬ Granted s.dev who (.lg n.val) Reg.Lg.LG_CTRL true) ∧
    (∃ (who : Party) (n : Fin 8) (s : State), ¬ Granted s.dev who (.lg n.val) Reg.Lg.LG_CTRL true) ∧
    (∃ (who : Party) (n : Fin 8) (s : State), ¬ Granted s.dev who (.panel n.val) Reg.Panel.PANEL_CTRL true) ∧
    (∃ (who : Party) (n : Fin 8) (s : State), ¬ Granted s.dev who (.panel n.val) Reg.Panel.PANEL_CTRL true) ∧
    (∃ (who : Party) (n : Fin 8) (s : State), ¬ Granted s.dev who (.panel n.val) Reg.Panel.PANEL_CTRL true) ∧
    (∃ (who : Party) (n : Fin 8) (r : Fin 64) (reg : Fin 3) (s : State), ¬ Granted s.dev who (.panel n.val)
      (regionOff r.val reg.val) true) ∧
    (∃ (who : Party) (k : Fin 514) (s : State), ¬ Granted s.dev who (ringPage k.val) (ringBase k.val + Reg.Ring.RING_CFG) true) ∧
    (∃ (who : Party) (k : Fin 514) (s : State), ¬ Granted s.dev who (ringPage k.val) (ringBase k.val + Reg.Ring.RING_RPTR) true) ∧
    (∃ (who : Party) (s : State), ¬ Granted s.dev who .tch Reg.Tch.TCH_CTRL true) ∧
    (∃ (who : Party) (s : State), ¬ Granted s.dev who (.key 0) Reg.Key0.KEY_CTRL true) ∧
    (∃ (who : Party) (s : State), ¬ Granted s.dev who (.key 0) Reg.Key0.KEY_CTRL true) ∧
    (∃ (who : Party) (b : Fin 2) (s : State), ¬ Granted s.dev who (.hap 0) (bstCtrl b.val) true) ∧
    (∃ (who : Party) (n : Fin 16) (s : State), ¬ Granted s.dev who (.hap 0) (Reg.Hap.CH_CFG n.val) true) ∧
    (∃ (who : Party) (page : Option (Fin 512)) (n : Fin 16) (s : State), ¬ Granted s.dev who (trigPage (page.map (·.val)))
      (Reg.Trig.TRIG n.val) true) ∧
    (∃ (who : Party) (page : Option (Fin 512)) (n : Fin 16) (s : State), ¬ Granted s.dev who (trigPage (page.map (·.val)))
      (Reg.Trig.TRIG n.val) true) ∧
    (∃ (who : Party) (s : State), ¬ Granted s.dev who (.hap 0) Reg.Hap.HAP_CTRL true) ∧
    (∃ (who : Party) (s : State), ¬ Granted s.dev who (.hap 0) Reg.Hap.WH_DATA false) ∧
    (∃ (who : Party) (s : State), ¬ Granted s.dev who (.aud 1) Reg.Aud1.ROUTE_COMMIT true) ∧
    (∃ (who : Party) (s : State), ¬ Granted s.dev who (.afe 1) Reg.Afe1.ST_APPLY true) ∧
    (∃ (who : Party) (o : Fin 4) (s : State), ¬ Granted s.dev who (.afe 0) (Reg.Afe0.SPK_CFG o.val) true) ∧
    (∃ (who : Party) (page : Option (Fin 512)) (s : State), ¬ Granted s.dev who (asPageOf (page.map (·.val))) Reg.Aud2.AS_CFG true) ∧
    (∃ (who : Party) (page : Option (Fin 512)) (n : Fin 64) (s : State), ¬ Granted s.dev who (asPageOf (page.map (·.val)))
      (Reg.Aud2.AS_PTR n.val) true) ∧
    (∃ (who : Party) (s : State), ¬ Granted s.dev who (.aud 0) Reg.Aud0.AUD_CTRL true) ∧
    (∃ (who : Party) (s : State), ¬ Granted s.dev who (.afe 0) Reg.Afe0.AFE_CTRL true) ∧
    (∃ (who : Party) (u : Fin 2) (s : State), ¬ Granted s.dev who (.padg u.val) Reg.Mgr.MGR_CMD true) ∧
    (∃ (who : Party) (u : Fin 2) (s : State), ¬ Granted s.dev who (.padg u.val) Reg.Mgr.MGR_CMD true) ∧
    (∃ (who : Party) (u : Fin 2) (s : State), ¬ Granted s.dev who (.padg u.val) Reg.Mgr.MGR_CMD true) ∧
    (∃ (who : Party) (u : Fin 2) (s : State), ¬ Granted s.dev who (.padg u.val) Reg.Mgr.MGR_CMD true) ∧
    (∃ (who : Party) (u : Fin 2) (s : State), ¬ Granted s.dev who (.padg u.val) Reg.Mgr.MGR_CMD true) ∧
    (∃ (who : Party) (u : Fin 2) (s : State), ¬ Granted s.dev who (.padg u.val) Reg.Mgr.MGR_CMD true) ∧
    (∃ (who : Party) (u : Fin 2) (s : State), ¬ Granted s.dev who (.padg u.val) Reg.Mgr.MGR_CMD true) ∧
    (∃ (who : Party) (u : Fin 2) (s : State), ¬ Granted s.dev who (.padg u.val) Reg.Mgr.MGR_CMD true) ∧
    (∃ (who : Party) (u : Fin 2) (s : State), ¬ Granted s.dev who (.padg u.val) Reg.Mgr.MGR_CMD true) ∧
    (∃ (who : Party) (u : Fin 2) (s : State), ¬ Granted s.dev who (.padg u.val) Reg.Mgr.MGR_CMD true) ∧
    (∃ (who : Party) (u : Fin 2) (s : State), ¬ Granted s.dev who (.padg u.val) Reg.Mgr.MGR_CMD true) ∧
    (∃ (who : Party) (p : Fin 512) (s : State), ¬ Granted s.dev who (.pset p.val 1) gateUp.wptr true) ∧
    (∃ (who : Party) (p : Fin 512) (s : State), ¬ Granted s.dev who (.pset p.val 1) gateDown.wptr true) ∧
    (∃ (who : Party) (p : Fin 512) (s : State), ¬ Granted s.dev who (.pset p.val 1) gateUp.rptr true) ∧
    (∃ (who : Party) (p : Fin 512) (s : State), ¬ Granted s.dev who (.pset p.val 1) gateDown.rptr true) ∧
    (∃ (who : Party) (q : Fin 514) (s : State), ¬ Granted s.dev who (cqPage q.val) (cqBase q.val + Reg.Cq.CQ_CFG) true) ∧
    (∃ (who : Party) (q : Fin 514) (s : State), ¬ Granted s.dev who (cqPage q.val) (cqBase q.val + Reg.Cq.CQ_WPTR) true) ∧
    (∃ (who : Party) (s : State), ¬ Granted s.dev who (.padg 2) Reg.Pool.FOT_CMD true) ∧
    (∃ (who : Party) (s : State), ¬ Granted s.dev who (.padg 2) Reg.Pool.FOT_CMD true) ∧
    (∃ (who : Party) (fn : Fin 514) (k : Fin 32) (s : State), ¬ Granted s.dev who (msixPage fn.val) (Reg.MSIX_CTRL k.val) true) ∧
    (∃ (who : Party) (s : State), ¬ Granted s.dev who (.wld 0) Reg.Wld0.WLD_CTRL true) ∧
    (∃ (who : Party) (s : State), ¬ Granted s.dev who .lcs Reg.Lcs.TAMPER_CLEAR true) ∧
    (∃ (who : Party) (s : State), ¬ Granted s.dev who .sdg Reg.Sdg.SDG_REQ true) ∧
    (∃ (who : Party) (s : State), ¬ Granted s.dev who .sdg Reg.Sdg.SDG_REQ true) ∧
    (∃ (who : Party) (n : Fin 4) (s : State), ¬ Granted s.dev who (.can n.val) Reg.Can.TX_CMD true) ∧
    (∃ (who : Party) (n : Fin 4) (s : State), ¬ Granted s.dev who (.can n.val) Reg.Can.RX_POP true) ∧
    (∃ (who : Party) (n : Fin 4) (s : State), ¬ Granted s.dev who (.can n.val) Reg.Can.CAN_CTRL true) ∧
    (∃ (who : Party) (s : State), ¬ Granted s.dev who (.crn 0) Reg.Crn0.CRN_CMD true) ∧
    (∃ (who : Party) (s : State), ¬ Granted s.dev who (.crn 0) Reg.Crn0.CRN_CMD true) ∧
    (∃ (who : Party) (s : State), ¬ Granted s.dev who (.crn 0) Reg.Crn0.CRN_CMD true) ∧
    (∃ (who : Party) (s : State), ¬ Granted s.dev who (.crn 0) Reg.Crn0.CRN_CMD true) ∧
    (∃ (who : Party) (i : Fin 4) (s : State), ¬ Granted s.dev who (.pst 1) (Reg.Pst1.BANK_MODE i.val) true) ∧
    (∃ (who : Party) (s : State), ¬ Granted s.dev who (.pst 0) Reg.Pst0.PST_CTRL true) ∧
    (∃ (who : Party) (s : State), ¬ Granted s.dev who (.drc 0) Reg.Drc0.MR_CMD true) ∧
    (∃ (who : Party) (s : State), ¬ Granted s.dev who (.drc 0) Reg.Drc0.DRC_CTRL true) ∧
    (∃ (who : Party) (s : State), ¬ Granted s.dev who (.drv 0) Reg.Drv0.DRV_CTRL true) ∧
    (∃ (who : Party) (s : State), ¬ Granted s.dev who (.sys 1) Reg.Sys1.BLK_REQ true) ∧
    (∃ (who : Party) (s : State), ¬ Granted s.dev who (.sys 1) Reg.Sys1.BLK_REQ true) ∧
    (∃ (who : Party) (s : State), ¬ Granted s.dev who (.sys 1) Reg.Sys1.BLK_REQ true) ∧
    (∃ (who : Party) (s : State), ¬ Granted s.dev who (.sys 1) Reg.Sys1.BLK_REQ true) ∧
    (∃ (who : Party) (s : State), ¬ Granted s.dev who (.sys 1) Reg.Sys1.BLK_REQ true) ∧
    (∃ (who : Party) (s : State), ¬ Granted s.dev who (.sys 1) Reg.Sys1.BLK_REQ true) ∧
    (∃ (who : Party) (s : State), ¬ Granted s.dev who (.sys 2) Reg.Sys2.SUP_CFG true) ∧
    (∃ (who : Party) (s : State), ¬ Granted s.dev who (.tly 0) Reg.Tly0.GLB_CTRL true) ∧
    (∃ (who : Party) (s : State), ¬ Granted s.dev who (.tly 0) Reg.Tly0.GLB_CTRL true) ∧
    (∃ (who : Party) (s : State), ¬ Granted s.dev who (.tly 0) Reg.Tly0.GLB_CTRL true) ∧
    (∃ (who : Party) (k : Fin 128) (s : State), ¬ Granted s.dev who (tlyPage k.val) (Reg.Tly1.COUNT_LO (k.val % 64)) false) ∧
    (∃ (who : Party) (k : Fin 128) (s : State), ¬ Granted s.dev who (tlyPage k.val) (Reg.Tly1.COUNT_LO (k.val % 64)) true) ∧
    (∃ (who : Party) (k : Fin 128) (s : State), ¬ Granted s.dev who (tlyPage k.val) (Reg.Tly1.COUNT_HI (k.val % 64)) true) ∧
    (∃ (who : Party) (s : State), ¬ Granted s.dev who (.tly 3) Reg.Tly3.SMP_POP true) ∧
    (∃ (who : Party) (s : State), ¬ Granted s.dev who (.sys 3) Reg.Sys3.GPIO_EDGE_CLR true) ∧
    (∃ (who : Party) (p : Fin 512) (s : State), ¬ Granted s.dev who (.pset p.val 0) Reg.Pad.PAD_STAT false) ∧
    (∃ (who : Party) (s : State), ¬ Granted s.dev who .pwr Reg.Pwr.RAIL_MEAS false) :=
  ⟨⟨.paddock 0, BitVec.ofNat 32 Page.cmp.base, .cmp, State.reset, by decide +kernel, by decide +kernel⟩,
   ⟨.paddock 0, State.reset, by decide +kernel⟩,
   ⟨.paddock 0, State.reset, by decide +kernel⟩,
   ⟨.paddock 0, State.reset, by decide +kernel⟩,
   ⟨.paddock 0, State.reset, by decide +kernel⟩,
   ⟨.paddock 0, State.reset, by decide +kernel⟩,
   ⟨.paddock 0, 63, State.reset, by decide +kernel⟩,
   ⟨.paddock 0, 63, State.reset, by decide +kernel⟩,
   ⟨.paddock 0, 63, State.reset, by decide +kernel⟩,
   ⟨.paddock 0, 63, State.reset, by decide +kernel⟩,
   ⟨.paddock 0, State.reset, by decide +kernel⟩,
   ⟨.paddock 0, State.reset, by decide +kernel⟩,
   ⟨.paddock 0, 7, State.reset, by decide +kernel⟩,
   ⟨.paddock 0, 1, State.reset, by decide +kernel⟩,
   ⟨.paddock 0, 7, State.reset, by decide +kernel⟩,
   ⟨.paddock 0, 7, State.reset, by decide +kernel⟩,
   ⟨.paddock 0, 7, State.reset, by decide +kernel⟩,
   ⟨.paddock 0, 7, State.reset, by decide +kernel⟩,
   ⟨.paddock 0, 7, State.reset, by decide +kernel⟩,
   ⟨.paddock 0, 7, State.reset, by decide +kernel⟩,
   ⟨.paddock 0, 3, State.reset, by decide +kernel⟩,
   ⟨.paddock 0, 3, State.reset, by decide +kernel⟩,
   ⟨.paddock 0, 15, State.reset, by decide +kernel⟩,
   ⟨.paddock 0, 15, State.reset, by decide +kernel⟩,
   ⟨.paddock 0, 7, State.reset, by decide +kernel⟩,
   ⟨.paddock 0, 7, State.reset, by decide +kernel⟩,
   ⟨.paddock 0, 63, State.reset, by decide +kernel⟩,
   ⟨.paddock 0, 63, State.reset, by decide +kernel⟩,
   ⟨.paddock 0, 63, State.reset, by decide +kernel⟩,
   ⟨.paddock 0, 63, State.reset, by decide +kernel⟩,
   ⟨.paddock 0, 63, State.reset, by decide +kernel⟩,
   ⟨.paddock 0, 63, State.reset, by decide +kernel⟩,
   ⟨.paddock 0, 63, State.reset, by decide +kernel⟩,
   ⟨.paddock 0, 63, State.reset, by decide +kernel⟩,
   ⟨.paddock 0, State.reset, by decide +kernel⟩,
   ⟨.paddock 0, 7, State.reset, by decide +kernel⟩,
   ⟨.paddock 0, 7, State.reset, by decide +kernel⟩,
   ⟨.paddock 0, 7, State.reset, by decide +kernel⟩,
   ⟨.paddock 0, 7, State.reset, by decide +kernel⟩,
   ⟨.paddock 0, 7, State.reset, by decide +kernel⟩,
   ⟨.paddock 0, 7, State.reset, by decide +kernel⟩,
   ⟨.paddock 0, 7, State.reset, by decide +kernel⟩,
   ⟨.paddock 0, 7, State.reset, by decide +kernel⟩,
   ⟨.paddock 0, 7, 63, 2, State.reset, by decide +kernel⟩,
   ⟨.paddock 0, 513, State.reset, by decide +kernel⟩,
   ⟨.paddock 0, 513, State.reset, by decide +kernel⟩,
   ⟨.paddock 0, State.reset, by decide +kernel⟩,
   ⟨.paddock 0, State.reset, by decide +kernel⟩,
   ⟨.paddock 0, State.reset, by decide +kernel⟩,
   ⟨.paddock 0, 1, State.reset, by decide +kernel⟩,
   ⟨.paddock 0, 15, State.reset, by decide +kernel⟩,
   ⟨.paddock 0, none, 15, State.reset, by decide +kernel⟩,
   ⟨.paddock 0, none, 15, State.reset, by decide +kernel⟩,
   ⟨.paddock 0, State.reset, by decide +kernel⟩,
   ⟨.paddock 0, State.reset, by decide +kernel⟩,
   ⟨.paddock 0, State.reset, by decide +kernel⟩,
   ⟨.paddock 0, State.reset, by decide +kernel⟩,
   ⟨.paddock 0, 3, State.reset, by decide +kernel⟩,
   ⟨.paddock 0, none, State.reset, by decide +kernel⟩,
   ⟨.paddock 0, none, 63, State.reset, by decide +kernel⟩,
   ⟨.paddock 0, State.reset, by decide +kernel⟩,
   ⟨.paddock 0, State.reset, by decide +kernel⟩,
   ⟨.paddock 0, 1, State.reset, by decide +kernel⟩,
   ⟨.paddock 0, 1, State.reset, by decide +kernel⟩,
   ⟨.paddock 0, 1, State.reset, by decide +kernel⟩,
   ⟨.paddock 0, 1, State.reset, by decide +kernel⟩,
   ⟨.paddock 0, 1, State.reset, by decide +kernel⟩,
   ⟨.paddock 0, 1, State.reset, by decide +kernel⟩,
   ⟨.paddock 0, 1, State.reset, by decide +kernel⟩,
   ⟨.paddock 0, 1, State.reset, by decide +kernel⟩,
   ⟨.paddock 0, 1, State.reset, by decide +kernel⟩,
   ⟨.paddock 0, 1, State.reset, by decide +kernel⟩,
   ⟨.paddock 0, 1, State.reset, by decide +kernel⟩,
   ⟨.paddock 0, 511, State.reset, by decide +kernel⟩,
   ⟨.paddock 0, 511, State.reset, by decide +kernel⟩,
   ⟨.paddock 0, 511, State.reset, by decide +kernel⟩,
   ⟨.paddock 0, 511, State.reset, by decide +kernel⟩,
   ⟨.paddock 0, 513, State.reset, by decide +kernel⟩,
   ⟨.paddock 0, 513, State.reset, by decide +kernel⟩,
   ⟨.paddock 0, State.reset, by decide +kernel⟩,
   ⟨.paddock 0, State.reset, by decide +kernel⟩,
   ⟨.paddock 0, 513, 31, State.reset, by decide +kernel⟩,
   ⟨.paddock 0, State.reset, by decide +kernel⟩,
   ⟨.paddock 0, State.reset, by decide +kernel⟩,
   ⟨.paddock 0, State.reset, by decide +kernel⟩,
   ⟨.paddock 0, State.reset, by decide +kernel⟩,
   ⟨.paddock 0, 3, State.reset, by decide +kernel⟩,
   ⟨.paddock 0, 3, State.reset, by decide +kernel⟩,
   ⟨.paddock 0, 3, State.reset, by decide +kernel⟩,
   ⟨.paddock 0, State.reset, by decide +kernel⟩,
   ⟨.paddock 0, State.reset, by decide +kernel⟩,
   ⟨.paddock 0, State.reset, by decide +kernel⟩,
   ⟨.paddock 0, State.reset, by decide +kernel⟩,
   ⟨.paddock 0, 3, State.reset, by decide +kernel⟩,
   ⟨.paddock 0, State.reset, by decide +kernel⟩,
   ⟨.paddock 0, State.reset, by decide +kernel⟩,
   ⟨.paddock 0, State.reset, by decide +kernel⟩,
   ⟨.paddock 0, State.reset, by decide +kernel⟩,
   ⟨.paddock 0, State.reset, by decide +kernel⟩,
   ⟨.paddock 0, State.reset, by decide +kernel⟩,
   ⟨.paddock 0, State.reset, by decide +kernel⟩,
   ⟨.paddock 0, State.reset, by decide +kernel⟩,
   ⟨.paddock 0, State.reset, by decide +kernel⟩,
   ⟨.paddock 0, State.reset, by decide +kernel⟩,
   ⟨.paddock 0, State.reset, by decide +kernel⟩,
   ⟨.paddock 0, State.reset, by decide +kernel⟩,
   ⟨.paddock 0, State.reset, by decide +kernel⟩,
   ⟨.paddock 0, State.reset, by decide +kernel⟩,
   ⟨.paddock 0, 127, State.reset, by decide +kernel⟩,
   ⟨.paddock 0, 127, State.reset, by decide +kernel⟩,
   ⟨.paddock 0, 127, State.reset, by decide +kernel⟩,
   ⟨.paddock 0, State.reset, by decide +kernel⟩,
   ⟨.paddock 0, State.reset, by decide +kernel⟩,
   ⟨.paddock 0, 511, State.reset, by decide +kernel⟩,
   ⟨.paddock 0, State.reset, by decide +kernel⟩⟩

/-! ## The commands, family by family -/

/-- What lets each of these commands have its own effect. -/
theorem witness_RegisterCommandsAnswer :
    (∃ (who : Party) (addr : BitVec 32) (q r : Page) (o : Nat) (s : State), landOf who addr.toNat = .page q ∧ aimAt s.dev who q
      (addr.toNat % 0x1000) = .at_ r o ∧ o ≠ Reg.GUARD ∧ Granted s.dev who r o true) ∧
    (∃ (addr : BitVec 32) (s : State), (pageOf addr.toNat).isSome = false) ∧
    (∃ (who : Party) (addr : BitVec 32) (v w : Word) (q r : Page) (o : Nat) (row : Row) (s : State), landOf who addr.toNat = .page q ∧
      aimAt s.dev who q (addr.toNat % 0x1000) = .at_ r o ∧ (o = Reg.EVENT ∨ o = Reg.PARITY_STAT) ∧ r.row? o = some row ∧ row.acc = .sq ∧
      Granted s.dev who r o true ∧ sqClear (rg (gpIntervene r s.dev) r o) v = some w) ∧
    (∃ (who : Party) (addr : BitVec 32) (q r : Page) (o : Nat) (row : Row) (s : State), landOf who addr.toNat = .page q ∧ aimAt s.dev who q
      (addr.toNat % 0x1000) = .at_ r o ∧ r.row? o = some row ∧ row.acc = .gp ∧ o ≠ Reg.GUARD ∧ Granted s.dev who r o true) ∧
    (∃ (who : Party) (addr : BitVec 32) (q r : Page) (g : GpPend) (s : State), landOf who addr.toNat = .page q ∧ aimAt s.dev who q
      (addr.toNat % 0x1000) = .at_ r Reg.GUARD ∧ routeOf s.dev who r = .direct ∧ (r.onDale && daleAbsent s.dev) = false ∧
      blkDead s.dev r true = false ∧ mayAccess s.dev r who Reg.GUARD true = true ∧ tabGet (fun _ => none) s.dev.gp r.base = some g) ∧
    (∃ (page : BitVec 32) (p : Page) (s : State), pageOf page.toNat = some p) ∧
    (∃ (who : Party) (p : BitVec 32) (r : Page) (s : State), pageOf p.toNat = some r ∧ Granted s.dev who r Reg.HOLD true) ∧
    (∃ (code : Byte) (s : State), holdOn s.dev code.toNat = false ∧ latchedOf s.dev code.toNat ≠ 0 ∧ code.toNat ≠ 3) ∧
    (∃ (s : State), holdOn s.dev 3 = false ∧ latchedOf s.dev 3 ≠ 0) ∧
    (∃ (who : Party) (addr : BitVec 32) (q r : Page) (o : Nat) (s : State), landOf who addr.toNat = .page q ∧ aimAt s.dev who q
      (addr.toNat % 0x1000) = .at_ r o ∧ Granted s.dev who r o false) ∧
    (∃ (addr : BitVec 32) (bit : Fin 32) (p : Page) (r : Row) (s : State), pageOf addr.toNat = some p ∧
      ((let d := s.dev; p.isWindow = false ∧ (p.onDale && d.sdg.inReset && !onVao addr.toNat) = false)) ∧
      p.row? (addr.toNat % 0x1000) = some r ∧ (r.acc ≠ .ro ∧ r.acc ≠ .wo ∧ r.acc ≠ .sq ∧ r.mask.testBit bit.val = true)) :=
  ⟨⟨.fold, BitVec.ofNat 32 (Page.cmp.base + Reg.Cmp.LUT_INDEX), .cmp, .cmp, Reg.Cmp.LUT_INDEX, liveAt id, by decide +kernel,
    by decide +kernel, by decide +kernel, fold_granted (by decide +kernel) (by decide +kernel)⟩,
   ⟨0, liveAt id, by decide +kernel⟩,
   ⟨.fold, BitVec.ofNat 32 (Page.cmp.base + Reg.EVENT), 0x08000005, 0x08000000, .cmp, .cmp, Reg.EVENT, ⟨0x008, 1, 4, .sq, 0, 0xFFFFFFFF, 0⟩,
    liveAt (fun d => sg .cmp Reg.EVENT 0x08000005 d), by decide +kernel, by decide +kernel, by decide +kernel, by decide +kernel,
    by decide +kernel, fold_granted (by decide +kernel) (by decide +kernel), by decide +kernel⟩,
   ⟨.fold, BitVec.ofNat 32 (Page.cmp.base + Reg.OWNER), .cmp, .cmp, Reg.OWNER, ⟨0x010, 1, 4, .gp, 0, 0x800303FF, 0x80010001⟩, liveAt id,
    by decide +kernel, by decide +kernel, by decide +kernel, by decide +kernel, by decide +kernel, fold_granted (by decide +kernel)
    (by decide +kernel)⟩,
   ⟨.fold, BitVec.ofNat 32 (Page.cmp.base + Reg.GUARD), .cmp, .cmp, { off := Reg.OWNER, val := 5, party := .fold }, liveAt
    (fun d => { d with gp := [(Page.cmp.base, some { off := Reg.OWNER, val := 5, party := .fold })] }), by decide +kernel,
    by decide +kernel, by decide +kernel, by decide +kernel, by decide +kernel, by decide +kernel, by decide +kernel⟩,
   ⟨BitVec.ofNat 32 Page.cmp.base, .cmp, liveAt id, by decide +kernel⟩,
   ⟨.fold, BitVec.ofNat 32 Page.cmp.base, .cmp, liveAt id, by decide +kernel, fold_granted (by decide +kernel) (by decide +kernel)⟩,
   ⟨8, liveAt (fun d => modBlk 0x08 (fun b => { b with heldClk := true }) d), by decide +kernel, by decide +kernel, by decide +kernel⟩,
   ⟨liveAt (fun d => modBlk 0x03 (fun b => { b with heldPwr := true }) d), by decide +kernel, by decide +kernel⟩,
   ⟨.fold, BitVec.ofNat 32 (Page.cmp.base + Reg.Cmp.LUT_INDEX), .cmp, .cmp, Reg.Cmp.LUT_INDEX, liveAt id, by decide +kernel,
    by decide +kernel, fold_granted (by decide +kernel) (by decide +kernel)⟩,
   ⟨BitVec.ofNat 32 (Page.cmp.base + Reg.Cmp.LUT_INDEX), 0, .cmp, ⟨Reg.Cmp.LUT_INDEX, 1, 4, .rw, 0, 0x1FFF, 1⟩, liveAt id,
    by decide +kernel, by decide +kernel, by decide +kernel, by decide +kernel⟩⟩

/-- What lets each of these commands have its own effect. -/
theorem witness_NvmCommandsAnswer :
    (∃ (who : Party) (s : State), Granted s.dev who .nvm Reg.Nvm.NVM_CMD true) ∧
    (∃ (who : Party) (d : Dev) (s : State), Granted s.dev who .nvm Reg.Nvm.NVM_CMD true ∧ gpIntervene .nvm s.dev = d ∧
      isoOf d .nvm = false ∧ d.nvmc.cmd = none ∧ nvmAddrBad 1 (rf d .nvm Reg.Nvm.NVM_ADDR 26 0) = false) ∧
    (∃ (who : Party) (s : State), Granted s.dev who .nvm Reg.Nvm.NVM_CMD true) ∧
    (∃ (who : Party) (d : Dev) (s : State), Granted s.dev who .nvm Reg.Nvm.NVM_CMD true ∧ gpIntervene .nvm s.dev = d ∧
      isoOf d .nvm = false ∧ d.nvmc.cmd = none ∧ nvmAddrBad 2 (rf d .nvm Reg.Nvm.NVM_ADDR 26 0) = false) ∧
    (∃ (who : Party) (s : State), Granted s.dev who .nvm Reg.Nvm.NVM_CMD true) ∧
    (∃ (who : Party) (d : Dev) (s : State), Granted s.dev who .nvm Reg.Nvm.NVM_CMD true ∧ gpIntervene .nvm s.dev = d ∧
      isoOf d .nvm = false ∧ d.nvmc.cmd = none ∧ nvmAddrBad 3 (rf d .nvm Reg.Nvm.NVM_ADDR 26 0) = false) ∧
    (∃ (who : Party) (s : State), Granted s.dev who .nvm Reg.Nvm.NVM_CMD true) ∧
    (∃ (who : Party) (d : Dev) (s : State), Granted s.dev who .nvm Reg.Nvm.NVM_CMD true ∧ gpIntervene .nvm s.dev = d ∧
      isoOf d .nvm = false ∧ d.nvmc.cmd = none ∧ nvmAddrBad 4 (rf d .nvm Reg.Nvm.NVM_ADDR 26 0) = false) ∧
    (∃ (who : Party) (s : State), Granted s.dev who .nvm Reg.Nvm.NVM_CMD true) ∧
    (∃ (who : Party) (d : Dev) (s : State), Granted s.dev who .nvm Reg.Nvm.NVM_CMD true ∧ gpIntervene .nvm s.dev = d ∧
      isoOf d .nvm = false ∧ d.nvmc.cmd = none ∧ nvmAddrBad 5 (rf d .nvm Reg.Nvm.NVM_ADDR 26 0) = false) ∧
    (∃ (code a : Nat) (s : State), s.dev.nvmc.cmd = some (code, a) ∧ s.dev.nvmc.waits = false ∧ isoOf s.dev .nvm = false) ∧
    (∃ (s : State), s.dev.nvmc.waits = true ∧ s.dev.cairn.exporting.isSome = false) :=
  ⟨⟨.fold, liveAt id, fold_granted (by decide +kernel) (by decide +kernel)⟩,
   ⟨.fold, _, liveAt id, fold_granted (by decide +kernel) (by decide +kernel), rfl, by decide +kernel, by decide +kernel,
    by decide +kernel⟩,
   ⟨.fold, liveAt id, fold_granted (by decide +kernel) (by decide +kernel)⟩,
   ⟨.fold, _, liveAt id, fold_granted (by decide +kernel) (by decide +kernel), rfl, by decide +kernel, by decide +kernel,
    by decide +kernel⟩,
   ⟨.fold, liveAt id, fold_granted (by decide +kernel) (by decide +kernel)⟩,
   ⟨.fold, _, liveAt id, fold_granted (by decide +kernel) (by decide +kernel), rfl, by decide +kernel, by decide +kernel,
    by decide +kernel⟩,
   ⟨.fold, liveAt id, fold_granted (by decide +kernel) (by decide +kernel)⟩,
   ⟨.fold, _, liveAt id, fold_granted (by decide +kernel) (by decide +kernel), rfl, by decide +kernel, by decide +kernel,
    by decide +kernel⟩,
   ⟨.fold, liveAt id, fold_granted (by decide +kernel) (by decide +kernel)⟩,
   ⟨.fold, _, liveAt id, fold_granted (by decide +kernel) (by decide +kernel), rfl, by decide +kernel, by decide +kernel,
    by decide +kernel⟩,
   ⟨2, 0x100, liveAt (fun d => { d with nvmc := { cmd := some (2, 0x100) } }), by decide +kernel, by decide +kernel, by decide +kernel⟩,
   ⟨liveAt (fun d => { d with nvmc := { cmd := some (2, 0x100), waits := true } }), by decide +kernel, by decide +kernel⟩⟩

/-- What lets each of these commands have its own effect. -/
theorem witness_CompositorCommandsAnswer :
    (∃ (who : Party) (p : Fin 64) (s : State), Granted s.dev who (.pipe p.val) Reg.Pipe.COMMIT true) ∧
    (∃ (who : Party) (p : Fin 64) (d : Dev) (s : State), Granted s.dev who (.pipe p.val) Reg.Pipe.COMMIT true ∧ gpIntervene
      (.pipe p.val) s.dev = d ∧ takesWork d who = true) ∧
    (∃ (who : Party) (p : Fin 64) (s : State), Granted s.dev who (.pipe p.val) Reg.Pipe.COMMIT true) ∧
    (∃ (who : Party) (p : Fin 64) (d : Dev) (s : State), Granted s.dev who (.pipe p.val) Reg.Pipe.COMMIT true ∧ gpIntervene
      (.pipe p.val) s.dev = d ∧ takesWork d who = true) ∧
    (∃ (h : Fin 8) (s : State), headDisabled s.dev h.val = true) ∧
    (∃ (who : Party) (p : Fin 64) (s : State), Granted s.dev who (.pipe p.val) Reg.Pipe.CTRL true) ∧
    (∃ (who : Party) (p : Fin 64) (s : State), 48 ≤ p.val ∧ Granted s.dev who (.pipe p.val) Reg.Pipe.COEF_DATA true) ∧
    (∃ (p : Fin 64) (c : LayerCfg) (s : State), (pipeOf s.dev p.val).pre = some c) ∧
    (∃ (h : Fin 8) (part : Fin 16) (lead : Option Nat) (e : Dev) (s : State), shepLead s.dev h.val (nextLine s.dev h.val) part.val = lead ∧
      leadLow s.dev h.val lead = true ∧ (headOf s.dev h.val).run = true ∧ (headOf s.dev h.val).stepC = false ∧ demoteClass h.val 2
      (modHead h.val (fun s => { s with stepC := true }) (noteLead h.val lead s.dev)) = (true, e)) ∧
    (∃ (h : Fin 8) (part : Fin 16) (lead : Option Nat) (d e : Dev) (s : State), shepLead s.dev h.val
      (nextLine s.dev h.val) part.val = lead ∧ noteLead h.val lead s.dev = d ∧ leadLow d h.val lead = true ∧ (headOf d h.val).run = true ∧
      (headOf d h.val).stepC = true ∧ (headOf d h.val).oDone = false ∧ demoteClass h.val 1 d = (true, e)) ∧
    (∃ (who : Party) (s : State), Granted s.dev who .cmp Reg.Cmp.LUT_DATA true) ∧
    (∃ (who : Party) (h i : Nat) (d : Dev) (s : State), Granted s.dev who .cmp Reg.Cmp.LUT_DATA true ∧ gpIntervene .cmp s.dev = d ∧
      rf d .cmp Reg.Cmp.LUT_SEL 18 16 = h ∧ rf d .cmp Reg.Cmp.LUT_SEL 9 8 = 0 ∧ rf d .cmp Reg.Cmp.LUT_INDEX 12 0 = i ∧ rb d .cmp
      (Reg.Cmp.COLOUR_CTRL h) 16 = false ∧ i < lutSize 0) ∧
    (∃ (who : Party) (h i : Nat) (d : Dev) (s : State), Granted s.dev who .cmp Reg.Cmp.LUT_DATA true ∧ gpIntervene .cmp s.dev = d ∧
      rf d .cmp Reg.Cmp.LUT_SEL 18 16 = h ∧ rf d .cmp Reg.Cmp.LUT_SEL 9 8 = 2 ∧ rf d .cmp Reg.Cmp.LUT_INDEX 12 0 = i ∧ rb d .cmp
      (Reg.Cmp.COLOUR_CTRL h) 16 = false ∧ i < lutSize 2) ∧
    (∃ (who : Party) (s : State), Granted s.dev who .cmp Reg.Cmp.LUT_DATA false) ∧
    (∃ (who : Party) (h : Fin 8) (s : State), Granted s.dev who .cmp (Reg.Cmp.COLOUR_CTRL h.val) true) ∧
    (∃ (who : Party) (k : Fin 2) (s : State), Granted s.dev who (.wb k.val) Reg.Wb.WB_ARM true) ∧
    (∃ (who : Party) (k : Fin 2) (d : Dev) (s : State), Granted s.dev who (.wb k.val) Reg.Wb.WB_ARM true ∧ gpIntervene
      (.wb k.val) s.dev = d ∧ wbRefuse d k.val = 0) ∧
    (∃ (k : Fin 2) (t : Tab Word) (s : State),
      (let d := s.dev; let s := wbOf d k.val; s.set = some t) ∧ ((let d := s.dev; let s := wbOf d k.val; let ht := fld (wbReg t Reg.Wb.WB_RECT_WH) 29 16; s.busy = true ∧
      s.dead = false ∧ s.lines = ht))) :=
  ⟨⟨.fold, 63, liveAt id, fold_granted (by decide +kernel) (by decide +kernel)⟩,
   ⟨.fold, 63, _, liveAt id, fold_granted (by decide +kernel) (by decide +kernel), rfl, by decide +kernel⟩,
   ⟨.fold, 63, liveAt id, fold_granted (by decide +kernel) (by decide +kernel)⟩,
   ⟨.fold, 63, _, liveAt id, fold_granted (by decide +kernel) (by decide +kernel), rfl, by decide +kernel⟩,
   ⟨7, liveAt id, by decide +kernel⟩,
   ⟨.fold, 63, liveAt id, fold_granted (by decide +kernel) (by decide +kernel)⟩,
   ⟨.fold, 63, liveAt id, by decide +kernel, fold_granted (by decide +kernel) (by decide +kernel)⟩,
   ⟨63, {}, liveAt (fun d => modPipe 63 (fun x => { x with pre := some {} }) d), by decide +kernel⟩,
   ⟨7, 0, (some 0), _, liveAt (fun d => modHead 7 (fun x => { x with run := true }) (modPipe 63
    (fun x => { x with act := { owner := 0, regs := [(Reg.Pipe.CTRL, 0x7801), (Reg.Pipe.DST_WH, 0x00040001)] } }) d)), by decide +kernel,
    by decide +kernel, by decide +kernel, by decide +kernel, fst_is (by decide +kernel)⟩,
   ⟨7, 0, (some 0), _, _, liveAt (fun d => modHead 7 (fun x => { x with run := true, stepC := true }) (modPipe 63
    (fun x => { x with act := { owner := 0, regs := [(Reg.Pipe.CTRL, 0x7401), (Reg.Pipe.DST_WH, 0x00040001)] } }) d)), by decide +kernel,
    rfl, by decide +kernel, by decide +kernel, by decide +kernel, by decide +kernel, fst_is (by decide +kernel)⟩,
   ⟨.fold, liveAt id, fold_granted (by decide +kernel) (by decide +kernel)⟩,
   ⟨.fold, 0, 0, _, liveAt id, fold_granted (by decide +kernel) (by decide +kernel), rfl, by decide +kernel, by decide +kernel,
    by decide +kernel, by decide +kernel, by decide +kernel⟩,
   ⟨.fold, 0, 0, _, liveAt (fun d => sf .cmp Reg.Cmp.LUT_SEL 9 8 2 d), fold_granted (by decide +kernel) (by decide +kernel), rfl,
    by decide +kernel, by decide +kernel, by decide +kernel, by decide +kernel, by decide +kernel⟩,
   ⟨.fold, liveAt id, fold_granted (by decide +kernel) (by decide +kernel)⟩,
   ⟨.fold, 7, liveAt id, fold_granted (by decide +kernel) (by decide +kernel)⟩,
   ⟨.fold, 1, liveAt id, fold_granted (by decide +kernel) (by decide +kernel)⟩,
   ⟨.fold, 1, _, liveAt id, fold_granted (by decide +kernel) (by decide +kernel), rfl, by decide +kernel⟩,
   ⟨1, [], liveAt (fun d => modWb 1 (fun x => { x with set := some [], busy := true }) d), by decide +kernel, by decide +kernel⟩⟩

/-- What lets each of these commands have its own effect. -/
theorem witness_HeadCommandsAnswer :
    (∃ (who : Party) (h : Fin 8) (s : State), Granted s.dev who (.head h.val) Reg.Head.HEAD_CTRL true) ∧
    (∃ (who : Party) (h : Fin 8) (d : Dev) (s : State), Granted s.dev who (.head h.val) Reg.Head.HEAD_CTRL true ∧ gpIntervene
      (.head h.val) s.dev = d ∧ 2 ≤ h.val ∧ rb d (.head h.val) Reg.Head.HEAD_CTRL 0 = false ∧ bitOf (rg d
      (.head h.val) Reg.Head.HEAD_CTRL) 31 = false ∧ (headOf d h.val).run = false) ∧
    (∃ (who : Party) (h : Fin 8) (s : State), Granted s.dev who (.head h.val) Reg.Head.HEAD_CTRL true) ∧
    (∃ (h : Fin 8) (s : State), rb s.dev (.head h.val) Reg.Head.HEAD_CTRL 0 = true) ∧
    (∃ (h : Fin 8) (s : State), rb s.dev (.head h.val) Reg.Head.HEAD_STAT 23 = true) ∧
    (∃ (who : Party) (h : Fin 8) (s : State), Granted s.dev who (.head h.val) Reg.Head.HEAD_CTRL true) ∧
    (∃ (h : Fin 8) (s : State), (headOf s.dev h.val).run = true ∧ rb s.dev (.head h.val) Reg.Head.HEAD_STAT 22 = false ∧
      (headOf s.dev h.val).line + 1 = (vActive s.dev h.val : Int) ∧ firstWaits s.dev h.val = false ∧ (headOf s.dev h.val).off = false ∧
      aligning s.dev h.val = false ∧ s.dev.boot.pictured.contains h.val = true) ∧
    (∃ (h : Fin 8) (s : State), ((let d := s.dev; let s := headOf d h.val; s.run = true ∧ s.ahead = true ∧ s.line = -1))) ∧
    (∃ (h : Fin 8) (line : Int) (s : State), (headOf s.dev h.val).run = true ∧ rb s.dev (.head h.val) Reg.Head.HEAD_STAT 22 = false ∧
      (headOf s.dev h.val).goto_ = none ∧ line = (headOf s.dev h.val).line + 1 ∧ line < (vActive s.dev h.val : Int) ∧ (¬ (line = 0 ∧
      (headOf s.dev h.val).ahead = true)) ∧ (¬ (line < 0 ∧ (headOf s.dev h.val).ahead = false)) ∧ aligning s.dev h.val = false) ∧
    (∃ (h : Fin 8) (s : State), (headOf s.dev h.val).run = true ∧ edgeHere s.dev h.val = true ∧ (headOf s.dev h.val).seen = false) ∧
    (∃ (h : Fin 8) (period : Nat) (e : Dev) (s : State), (headOf s.dev h.val).run = true ∧ edgeHere s.dev h.val = true ∧
      (headOf s.dev h.val).seen = true ∧ sg (.head h.val) Reg.Head.SYNC_PERIOD (BitVec.ofNat 32 period) (modHead h.val
      (fun s => { s with seen := true, edgeDue := s.edgeDue - 1, first := s.first && s.firstAt.isNone }) s.dev) = e ∧
      inRange e h.val period = false) ∧
    (∃ (h : Fin 8) (period : Nat) (e : Dev) (s : State), (headOf s.dev h.val).run = true ∧ edgeHere s.dev h.val = true ∧
      (headOf s.dev h.val).seen = true ∧ sg (.head h.val) Reg.Head.SYNC_PERIOD (BitVec.ofNat 32 period) (modHead h.val
      (fun s => { s with seen := true, edgeDue := s.edgeDue - 1, first := s.first && s.firstAt.isNone }) s.dev) = e ∧
      inRange e h.val period = true ∧ headState e h.val = 1 ∧ (headOf e h.val).good = 0) ∧
    (∃ (h : Fin 8) (period : Nat) (e : Dev) (s : State), (headOf s.dev h.val).run = true ∧ edgeHere s.dev h.val = true ∧
      (headOf s.dev h.val).seen = true ∧ sg (.head h.val) Reg.Head.SYNC_PERIOD (BitVec.ofNat 32 period) (modHead h.val
      (fun s => { s with seen := true, edgeDue := s.edgeDue - 1, first := s.first && s.firstAt.isNone }) s.dev) = e ∧
      inRange e h.val period = true ∧ headState e h.val = 1 ∧ 1 ≤ (headOf e h.val).good) ∧
    (∃ (h : Fin 8) (period : Nat) (e : Dev) (s : State), (headOf s.dev h.val).run = true ∧ edgeHere s.dev h.val = true ∧
      (headOf s.dev h.val).seen = true ∧ sg (.head h.val) Reg.Head.SYNC_PERIOD (BitVec.ofNat 32 period) (modHead h.val
      (fun s => { s with seen := true, edgeDue := s.edgeDue - 1, first := s.first && s.firstAt.isNone }) s.dev) = e ∧
      inRange e h.val period = true ∧ headState e h.val ≠ 1 ∧ (headOf s.dev h.val).jumped = false) ∧
    (∃ (h : Fin 8) (period : Nat) (e : Dev) (s : State), (headOf s.dev h.val).run = true ∧ edgeHere s.dev h.val = true ∧
      (headOf s.dev h.val).seen = true ∧ sg (.head h.val) Reg.Head.SYNC_PERIOD (BitVec.ofNat 32 period) (modHead h.val
      (fun s => { s with seen := true, edgeDue := s.edgeDue - 1, first := s.first && s.firstAt.isNone }) s.dev) = e ∧
      inRange e h.val period = true ∧ headState e h.val ≠ 1 ∧ (headOf s.dev h.val).jumped = true ∧ ratioDen (modHead h.val
      (fun s => { s with edges := s.edges + 1 }) e) h.val ≤ (headOf s.dev h.val).edges + 1) ∧
    (∃ (h : Fin 8) (period : Nat) (e : Dev) (s : State), (headOf s.dev h.val).run = true ∧ edgeHere s.dev h.val = true ∧
      (headOf s.dev h.val).seen = true ∧ sg (.head h.val) Reg.Head.SYNC_PERIOD (BitVec.ofNat 32 period) (modHead h.val
      (fun s => { s with seen := true, edgeDue := s.edgeDue - 1, first := s.first && s.firstAt.isNone }) s.dev) = e ∧
      inRange e h.val period = true ∧ headState e h.val ≠ 1 ∧ (headOf s.dev h.val).jumped = true ∧ (headOf s.dev h.val).edges + 1 < ratioDen
      (modHead h.val (fun s => { s with edges := s.edges + 1 }) e) h.val) ∧
    (∃ (h : Fin 8) (s : State), (headOf s.dev h.val).run = true ∧ syncSrc s.dev h.val ≠ 0 ∧ (headOf s.dev h.val).seen = true) ∧
    (∃ (h : Fin 8) (s : State), rb s.dev (.head h.val) Reg.Head.HEAD_STAT 22 = true) :=
  ⟨⟨.fold, 7, liveAt id, fold_granted (by decide +kernel) (by decide +kernel)⟩,
   ⟨.fold, 7, _, liveAt id, fold_granted (by decide +kernel) (by decide +kernel), rfl, by decide +kernel, by decide +kernel,
    by decide +kernel, by decide +kernel⟩,
   ⟨.fold, 7, liveAt id, fold_granted (by decide +kernel) (by decide +kernel)⟩,
   ⟨7, liveAt (fun d => sb (.head 7) Reg.Head.HEAD_CTRL 0 true d), by decide +kernel⟩,
   ⟨7, liveAt (fun d => sb (.head 7) Reg.Head.HEAD_STAT 23 true d), by decide +kernel⟩,
   ⟨.fold, 7, liveAt id, fold_granted (by decide +kernel) (by decide +kernel)⟩,
   ⟨7, liveAt (fun d => modBoot (fun b => { b with pictured := [7] }) (modHead 7 (fun x => { x with run := true, line := -1 }) d)),
    by decide +kernel, by decide +kernel, by decide +kernel, by decide +kernel, by decide +kernel, by decide +kernel, by decide +kernel⟩,
   ⟨7, liveAt (fun d => modHead 7 (fun x => { x with run := true, ahead := true, line := -1 }) d), by decide +kernel⟩,
   ⟨7, -1, liveAt (fun d => modHead 7 (fun x => { x with run := true, line := -2, ahead := true }) d), by decide +kernel, by decide +kernel,
    by decide +kernel, by decide +kernel, by decide +kernel, by decide +kernel, by decide +kernel, by decide +kernel⟩,
   ⟨7, liveAt (fun d => sf (.head 7) Reg.Head.HEAD_STAT 30 28 1 (sf (.head 7) Reg.Head.PCLK_KHZ 19 0 148500 (sg
    (.head 7) Reg.Head.H_TIMING1 0x07800058 (sg (.head 7) Reg.Head.H_TIMING2 0x002C0094 (sg (.head 7) Reg.Head.V_TIMING1 0x04380004 (sg
    (.head 7) Reg.Head.V_TIMING2 0x00050024 (modHead 7 (fun x => { x with run := true, src := 0x100, seen := false }) d))))))),
    by decide +kernel, by decide +kernel, by decide +kernel⟩,
   ⟨7, 1, _, liveAt (fun d => sf (.head 7) Reg.Head.HEAD_STAT 30 28 1 (sf (.head 7) Reg.Head.PCLK_KHZ 19 0 148500 (sg
    (.head 7) Reg.Head.H_TIMING1 0x07800058 (sg (.head 7) Reg.Head.H_TIMING2 0x002C0094 (sg (.head 7) Reg.Head.V_TIMING1 0x04380004 (sg
    (.head 7) Reg.Head.V_TIMING2 0x00050024 (modHead 7 (fun x => { x with run := true, src := 0x100, seen := true }) d))))))),
    by decide +kernel, by decide +kernel, by decide +kernel, rfl, by decide +kernel⟩,
   ⟨7, 640000, _, liveAt (fun d => sf (.head 7) Reg.Head.HEAD_STAT 30 28 1 (sf (.head 7) Reg.Head.PCLK_KHZ 19 0 148500 (sg
    (.head 7) Reg.Head.H_TIMING1 0x07800058 (sg (.head 7) Reg.Head.H_TIMING2 0x002C0094 (sg (.head 7) Reg.Head.V_TIMING1 0x04380004 (sg
    (.head 7) Reg.Head.V_TIMING2 0x00050024 (modHead 7 (fun x => { x with run := true, src := 0x100, seen := true }) d))))))),
    by decide +kernel, by decide +kernel, by decide +kernel, rfl, by decide +kernel, by decide +kernel, by decide +kernel⟩,
   ⟨7, 640000, _, liveAt (fun d => sf (.head 7) Reg.Head.HEAD_STAT 30 28 1 (sf (.head 7) Reg.Head.PCLK_KHZ 19 0 148500 (sg
    (.head 7) Reg.Head.H_TIMING1 0x07800058 (sg (.head 7) Reg.Head.H_TIMING2 0x002C0094 (sg (.head 7) Reg.Head.V_TIMING1 0x04380004 (sg
    (.head 7) Reg.Head.V_TIMING2 0x00050024 (modHead 7 (fun x => { x with run := true, src := 0x100, seen := true, good := 1 }) d))))))),
    by decide +kernel, by decide +kernel, by decide +kernel, rfl, by decide +kernel, by decide +kernel, by decide +kernel⟩,
   ⟨7, 640000, _, liveAt (fun d => sf (.head 7) Reg.Head.HEAD_STAT 30 28 2 (sf (.head 7) Reg.Head.PCLK_KHZ 19 0 148500 (sg
    (.head 7) Reg.Head.H_TIMING1 0x07800058 (sg (.head 7) Reg.Head.H_TIMING2 0x002C0094 (sg (.head 7) Reg.Head.V_TIMING1 0x04380004 (sg
    (.head 7) Reg.Head.V_TIMING2 0x00050024 (modHead 7 (fun x => { x with run := true, src := 0x100, seen := true }) d))))))),
    by decide +kernel, by decide +kernel, by decide +kernel, rfl, by decide +kernel, by decide +kernel, by decide +kernel⟩,
   ⟨7, 640000, _, liveAt (fun d => sf (.head 7) Reg.Head.HEAD_STAT 30 28 2 (sf (.head 7) Reg.Head.PCLK_KHZ 19 0 148500 (sg
    (.head 7) Reg.Head.H_TIMING1 0x07800058 (sg (.head 7) Reg.Head.H_TIMING2 0x002C0094 (sg (.head 7) Reg.Head.V_TIMING1 0x04380004 (sg
    (.head 7) Reg.Head.V_TIMING2 0x00050024 (modHead 7
    (fun x => { x with run := true, src := 0x100, seen := true, jumped := true }) d))))))), by decide +kernel, by decide +kernel,
    by decide +kernel, rfl, by decide +kernel, by decide +kernel, by decide +kernel, by decide +kernel⟩,
   ⟨7, 320000, _, liveAt (fun d => sf (.head 7) Reg.Head.HEAD_STAT 30 28 2 (sf (.head 7) Reg.Head.PCLK_KHZ 19 0 148500 (sg
    (.head 7) Reg.Head.H_TIMING1 0x07800058 (sg (.head 7) Reg.Head.H_TIMING2 0x002C0094 (sg (.head 7) Reg.Head.V_TIMING1 0x04380004 (sg
    (.head 7) Reg.Head.V_TIMING2 0x00050024 (modHead 7
    (fun x => { x with run := true, src := 0x110, seen := true, jumped := true }) d))))))), by decide +kernel, by decide +kernel,
    by decide +kernel, rfl, by decide +kernel, by decide +kernel, by decide +kernel, by decide +kernel⟩,
   ⟨7, liveAt (fun d => modHead 7 (fun x => { x with run := true, src := 0x100, seen := true }) d), by decide +kernel, by decide +kernel,
    by decide +kernel⟩,
   ⟨7, liveAt (fun d => sb (.head 7) Reg.Head.HEAD_STAT 22 true d), by decide +kernel⟩⟩

/-- What lets each of these commands have its own effect. -/
theorem witness_PortCommandsAnswer :
    (∃ (who : Party) (n : Fin 8) (s : State), Granted s.dev who (.port n.val) Reg.Port.PORT_CTRL true) ∧
    (∃ (who : Party) (n : Fin 8) (s : State), Granted s.dev who (.port n.val) Reg.Port.PORT_CTRL true) ∧
    (∃ (n : Fin 8) (s : State), linkState s.dev n.val = 2) ∧
    (∃ (n : Fin 8) (s : State), linkState s.dev n.val = 2) ∧
    (∃ (n : Fin 8) (s : State), linkState s.dev n.val = 4) ∧
    (∃ (n : Fin 8) (s : State), rb s.dev (.port n.val) Reg.Port.LINK_STAT 31 = true) ∧
    (∃ (n : Fin 8) (s : State), rb s.dev (.port n.val) Reg.Port.LINK_STAT 31 = false) ∧
    (∃ (n : Fin 8) (s : State), rb s.dev (.port n.val) Reg.Port.LINK_STAT 31 = true) ∧
    (∃ (who : Party) (n : Fin 8) (s : State), Granted s.dev who (.port n.val) Reg.Port.AUX_CMD true) ∧
    (∃ (who : Party) (n : Fin 8) (v : Word) (d : Dev) (s : State), Granted s.dev who (.port n.val) Reg.Port.AUX_CMD true ∧ gpIntervene
      (.port n.val) s.dev = d ∧ bitOf v 31 = true ∧ rb d (.port n.val) Reg.Port.AUX_STAT 31 = false ∧ [0, 1, 4, 5, 8, 9].contains
      (fld v 3 0) = true ∧ rf d (.port n.val) Reg.Port.SHORT_STAT 9 8 = 0) ∧
    (∃ (n : Fin 8) (v : Word) (s : State), (portS s.dev n.val).aux = some v ∧ (portS s.dev n.val).auxOut = true) ∧
    (∃ (n : Fin 8) (s : State), (¬ (modeOf (rg s.dev (.port n.val) Reg.Port.PORT_CTRL) = 0 ∧ (portS s.dev n.val).mode = 0))) ∧
    (∃ (n : Fin 8) (s : State), rg s.dev (.port n.val) Reg.Port.SHORT_STAT ≠ 0) :=
  ⟨⟨.fold, 7, liveAt id, fold_granted (by decide +kernel) (by decide +kernel)⟩,
   ⟨.fold, 7, liveAt id, fold_granted (by decide +kernel) (by decide +kernel)⟩,
   ⟨7, liveAt (fun d => sf (.port 7) Reg.Port.LINK_STAT 3 0 2 d), by decide +kernel⟩,
   ⟨7, liveAt (fun d => sf (.port 7) Reg.Port.LINK_STAT 3 0 2 d), by decide +kernel⟩,
   ⟨7, liveAt (fun d => sf (.port 7) Reg.Port.LINK_STAT 3 0 4 d), by decide +kernel⟩,
   ⟨7, liveAt (fun d => sb (.port 7) Reg.Port.LINK_STAT 31 true d), by decide +kernel⟩,
   ⟨7, liveAt id, by decide +kernel⟩,
   ⟨7, liveAt (fun d => sb (.port 7) Reg.Port.LINK_STAT 31 true d), by decide +kernel⟩,
   ⟨.fold, 7, liveAt id, fold_granted (by decide +kernel) (by decide +kernel)⟩,
   ⟨.fold, 7, 0x80000009, _, liveAt id, fold_granted (by decide +kernel) (by decide +kernel), rfl, by decide +kernel, by decide +kernel,
    by decide +kernel, by decide +kernel⟩,
   ⟨7, 9, liveAt (fun d => modPort 7 (fun x => { x with aux := some 9, auxOut := true }) d), by decide +kernel, by decide +kernel⟩,
   ⟨7, liveAt (fun d => modPort 7 (fun x => { x with mode := 1 }) d), by decide +kernel⟩,
   ⟨7, liveAt (fun d => sf (.port 7) Reg.Port.SHORT_STAT 9 8 1 d), by decide +kernel⟩⟩

/-- What lets each of these commands have its own effect. -/
theorem witness_CameraCommandsAnswer :
    (∃ (who : Party) (p : Fin 4) (s : State), Granted s.dev who .cam (Reg.Cam.CSI_CTRL p.val) true) ∧
    (∃ (who : Party) (p : Fin 4) (v : Word) (e d : Dev) (s : State), Granted s.dev who .cam (Reg.Cam.CSI_CTRL p.val) true ∧
      gpIntervene .cam s.dev = d ∧ bitOf (v ||| 1) 31 = false ∧ bitOf (v ||| 1) 0 = true ∧ csiOn d p.val = false ∧ sf .cam
      (Reg.Cam.CSI_CTRL p.val) 2 1 (fld (v ||| 1) 2 1) d = e ∧ csiRefuse e p.val (fld (v ||| 1) 2 1) = 0) ∧
    (∃ (who : Party) (p : Fin 4) (s : State), Granted s.dev who .cam (Reg.Cam.CSI_CTRL p.val) true) ∧
    (∃ (p : Fin 4) (s : State), csiOn s.dev p.val = true ∧ stands s.dev .cam = false) ∧
    (∃ (p : Fin 4) (s : State), csiTakes s.dev p.val = true) ∧
    (∃ (p : Fin 4) (s : State), csiTakes s.dev p.val = true) ∧
    (∃ (who : Party) (n : Fin 16) (s : State), Granted s.dev who (.stream n.val) Reg.Stream.STREAM_CTRL true) ∧
    (∃ (who : Party) (n : Fin 16) (v : Word) (e d : Dev) (s : State), Granted s.dev who (.stream n.val) Reg.Stream.STREAM_CTRL true ∧
      gpIntervene (.stream n.val) s.dev = d ∧ bitOf (v ||| 1) 31 = false ∧ bitOf (v ||| 1) 0 = true ∧ (streamOf d n.val).on = false ∧
      plainWrite (.stream n.val) Reg.Stream.STREAM_CTRL ((v ||| 1) &&& 0xFFFFFFFE) d = e ∧ streamRefuse e who n.val = 0) ∧
    (∃ (n : Fin 16) (s : State), ((let d := s.dev; let s := streamOf d n.val; s.on = true ∧ s.lost = false))) ∧
    (∃ (who : Party) (n : Fin 16) (s : State), Granted s.dev who (.stream n.val) Reg.Stream.STREAM_CTRL true) ∧
    (∃ (who : Party) (n : Fin 8) (s : State), Granted s.dev who (.dw n.val) Reg.Dw.DW_APPLY true) ∧
    (∃ (who : Party) (n : Fin 8) (s : State), Granted s.dev who (.dw n.val) Reg.Dw.DW_APPLY true) ∧
    (∃ (who : Party) (n : Fin 8) (d : Dev) (s : State), Granted s.dev who (.dw n.val) Reg.Dw.DW_APPLY true ∧ gpIntervene
      (.dw n.val) s.dev = d ∧ isoOf d (.dw n.val) = true) ∧
    (∃ (n : Fin 8) (k : Nat) (m : MeshCfg) (s : State), dwReady s.dev n.val = true ∧ (dwOf s.dev n.val).serves = some k ∧
      (dwOf s.dev n.val).mesh = some m) ∧
    (∃ (n : Fin 8) (s : State), dwReady s.dev n.val = false ∧ dwInput s.dev n.val = true) ∧
    (∃ (n : Fin 8) (t : RingTag) (ts : List RingTag) (m : MeshCfg) (s : State), (dwOf s.dev n.val).made = t :: ts ∧
      (dwOf s.dev n.val).mesh = some m) :=
  ⟨⟨.fold, 3, liveAt id, fold_granted (by decide +kernel) (by decide +kernel)⟩,
   ⟨.fold, 3, 0, _, _, liveAt id, fold_granted (by decide +kernel) (by decide +kernel), rfl, by decide +kernel, by decide +kernel,
    by decide +kernel, rfl, by decide +kernel⟩,
   ⟨.fold, 3, liveAt id, fold_granted (by decide +kernel) (by decide +kernel)⟩,
   ⟨3, liveAt (fun d => sb .cam (Reg.Cam.CSI_CTRL 3) 0 true d), by decide +kernel, by decide +kernel⟩,
   ⟨3, liveAt (fun d => sb .cam (Reg.Cam.CSI_CTRL 3) 0 true d), by decide +kernel⟩,
   ⟨3, liveAt (fun d => sb .cam (Reg.Cam.CSI_CTRL 3) 0 true d), by decide +kernel⟩,
   ⟨.fold, 15, liveAt id, fold_granted (by decide +kernel) (by decide +kernel)⟩,
   ⟨.fold, 15, 0x00141E30, _, _, liveAt (fun d => sg (.stream 15) Reg.Stream.STREAM_SIZE 0x00400040 (sg
    (.stream 15) Reg.Stream.DRAM_STRIDE 128 (sg (.stream 15) Reg.Stream.FRAME_PERIOD 33333 (sb .cam (Reg.Cam.CSI_CTRL 3) 0 true d)))),
    fold_granted (by decide +kernel) (by decide +kernel), rfl, by decide +kernel, by decide +kernel, by decide +kernel, rfl,
    by decide +kernel⟩,
   ⟨15, liveAt (fun d => modStream 15 (fun x => { x with on := true }) d), by decide +kernel⟩,
   ⟨.fold, 15, liveAt id, fold_granted (by decide +kernel) (by decide +kernel)⟩,
   ⟨.fold, 7, liveAt id, fold_granted (by decide +kernel) (by decide +kernel)⟩,
   ⟨.fold, 7, liveAt id, fold_granted (by decide +kernel) (by decide +kernel)⟩,
   ⟨.fold, 7, _, liveAt (fun d => setIso (.dw 7) true d), fold_granted (by decide +kernel) (by decide +kernel), rfl, by decide +kernel⟩,
   ⟨7, 15, { addr := 0, cols := 2, rows := 2, cellW := 64, cellH := 64 }, liveAt (fun d => sg (.stream 15) Reg.Stream.STREAM_SIZE 0x00400040
    (modStream 15 (fun x => { x with tags := [(1, some { seq := 1, line := 1, bad := false })] }) (modDw 7
    (fun x => { x with serves := some 15, mesh := some { addr := 0, cols := 2, rows := 2, cellW := 64, cellH := 64 }, seq := 1 }) d))),
    by decide +kernel, by decide +kernel, by decide +kernel⟩,
   ⟨7, liveAt (fun d => modPipe 63
    (fun x => { x with act := { owner := 0, regs := [(Reg.Pipe.CTRL, 0x7001), (Reg.Pipe.FORMAT, 0x40), (Reg.Pipe.DIRECT_SRC, 15), (Reg.Pipe.DST_WH, 0x00010001)] } })
    (modHead 7 (fun x => { x with run := true }) (sg (.stream 15) Reg.Stream.STREAM_SIZE 0x00400040 (modStream 15
    (fun x => { x with seq := 1, tags := [(1, some { seq := 1, line := 1, bad := false })] }) (modDw 7
    (fun x => { x with serves := some 15, mesh := some { addr := 0, cols := 2, rows := 2, cellW := 64, cellH := 64 }, seq := 1, tags := [(0, some { seq := 1, line := 0, bad := false })] }) d))))),
    by decide +kernel, by decide +kernel⟩,
   ⟨7, { seq := 1, line := 0, bad := false }, [], { addr := 0, cols := 2, rows := 2, cellW := 64, cellH := 64 }, liveAt (fun d => modDw 7
    (fun x => { x with made := [{ seq := 1, line := 0, bad := false }], mesh := some { addr := 0, cols := 2, rows := 2, cellW := 64, cellH := 64 } }) d),
    by decide +kernel, by decide +kernel⟩⟩

/-- What lets each of these commands have its own effect. -/
theorem witness_ContextCommandsAnswer :
    (∃ (who : Party) (n : Fin 64) (s : State), Granted s.dev who (.ctx n.val) Reg.Ctx.CTX_CTRL true) ∧
    (∃ (who : Party) (n : Fin 64) (o : Word) (d : Dev) (s : State), Granted s.dev who (.ctx n.val) Reg.Ctx.CTX_CTRL true ∧ gpIntervene
      (.ctx n.val) s.dev = d ∧ who = .fold ∧ rg d (.ctx n.val) Reg.Ctx.CTX_CTRL = o ∧ bitOf o 0 = false ∧ bitOf o 31 = false ∧
      fld o 17 16 ≠ 0 ∧ fld o 13 12 ≠ 3 ∧ bitOf o 18 = false ∧ (ctxOf d n.val).closing = false ∧ putBit o 0 true = o ||| 1 ∧ bitOf
      (o ||| 1) 0 = true ∧ bitOf (o ||| 1) 31 = false ∧ fld (o ||| 1) 17 16 = fld o 17 16 ∧ fld (o ||| 1) 13 12 = fld o 13 12) ∧
    (∃ (who : Party) (n : Fin 64) (s : State), Granted s.dev who (.ctx n.val) Reg.Ctx.CTX_CTRL true) ∧
    (∃ (who : Party) (n : Fin 64) (e d : Dev) (s : State), Granted s.dev who (.ctx n.val) Reg.Ctx.CTX_CTRL true ∧ gpIntervene
      (.ctx n.val) s.dev = d ∧ sf (.ctx n.val) Reg.Ctx.CTX_CTRL 0 0 0 d = e ∧ bitOf (rg d (.ctx n.val) Reg.Ctx.CTX_CTRL) 31 = false ∧ rb d
      (.ctx n.val) Reg.Ctx.CTX_CTRL 0 = true ∧ bitOf (putBit (rg d (.ctx n.val) Reg.Ctx.CTX_CTRL) 0 false) 0 = false ∧ bitOf (putBit (rg d
      (.ctx n.val) Reg.Ctx.CTX_CTRL) 0 false) 31 = false ∧ cxState e n.val ≠ 8 ∧
      (cxStarted e n.val = false ∨ cxState e n.val = 0 ∨ cxState e n.val = 7)) ∧
    (∃ (who : Party) (n : Fin 64) (s : State), Granted s.dev who (.ctx n.val) Reg.Ctx.QUEUE_WPTR true) ∧
    (∃ (who : Party) (n : Fin 64) (d : Dev) (s : State), Granted s.dev who (.ctx n.val) Reg.Ctx.QUEUE_WPTR true ∧ gpIntervene
      (.ctx n.val) s.dev = d ∧ takesWork d who = true) ∧
    (∃ (n : Fin 64) (s : State), cxStops s.dev n.val = true ∧ (ctxOf s.dev n.val).work = true) ∧
    (∃ (n : Fin 64) (s : State), cxStops s.dev n.val = true ∧ (ctxOf s.dev n.val).pass.isNone = false) ∧
    (∃ (n : Fin 64) (s : State), (ctxOf s.dev n.val).called = true) ∧
    (∃ (n : Fin 64) (s : State), restoreFree s.dev n.val = true) ∧
    (∃ (who : Party) (n : Fin 64) (s : State), Granted s.dev who (.ctx n.val) Reg.Ctx.CTX_CMD true) ∧
    (∃ (who : Party) (n : Fin 64) (d : Dev) (s : State), Granted s.dev who (.ctx n.val) Reg.Ctx.CTX_CMD true ∧ gpIntervene
      (.ctx n.val) s.dev = d ∧ cxState d n.val ≠ 8) ∧
    (∃ (who : Party) (n : Fin 64) (s : State), Granted s.dev who (.ctx n.val) Reg.Ctx.CTX_CMD true) ∧
    (∃ (who : Party) (n : Fin 64) (d : Dev) (s : State), Granted s.dev who (.ctx n.val) Reg.Ctx.CTX_CMD true ∧ gpIntervene
      (.ctx n.val) s.dev = d ∧ 1 ≤ cxState d n.val ∧ cxState d n.val ≤ 5 ∧ rg64 d (.ctx n.val) Reg.Ctx.SAVE_LO ≠ 0) ∧
    (∃ (n : Fin 64) (s : State), (ctxOf s.dev n.val).saving = true) ∧
    (∃ (n : Fin 64) (s : State), (ctxOf s.dev n.val).drain = some (qRptr s.dev n.val) ∧ ¬ (cxState s.dev n.val < 1) ∧ ¬
      (3 < cxState s.dev n.val)) ∧
    (∃ (who : Party) (n : Fin 64) (s : State), Granted s.dev who (.ctx n.val) Reg.Ctx.CTX_CMD true) ∧
    (∃ (who : Party) (n : Fin 64) (d : Dev) (s : State), Granted s.dev who (.ctx n.val) Reg.Ctx.CTX_CMD true ∧ gpIntervene
      (.ctx n.val) s.dev = d ∧ (ctxOf d n.val).stop = true ∧ cxState d n.val ≠ 6 ∧ cxState (modCtx n.val
      (fun c => { c with stop := false }) d) n.val ≠ 6) ∧
    (∃ (who : Party) (n : Fin 64) (s : State), Granted s.dev who (.ctx n.val) Reg.Ctx.CTX_CTRL true) ∧
    (∃ (who : Party) (n : Fin 64) (s : State), Granted s.dev who (.ctx n.val) Reg.Ctx.PEN_WPTR true) ∧
    (∃ (n : Fin 64) (s : State), cxState s.dev n.val = 4 ∧ (ctxOf s.dev n.val).want ≠ 0 ∧ (ctxOf s.dev n.val).partialOn = false) ∧
    (∃ (n : Fin 64) (ps : GPass) (s : State), (ctxOf s.dev n.val).pass = some ps ∧ (ctxOf s.dev n.val).partialOn = true) ∧
    (∃ (n : Fin 64) (s : State), cxState s.dev n.val = 3 ∧ (ctxOf s.dev n.val).work = true ∧ rf s.dev
      (.ctx n.val) Reg.Ctx.RUN_LIMIT 15 0 ≠ 0) :=
  ⟨⟨.fold, 63, liveAt id, fold_granted (by decide +kernel) (by decide +kernel)⟩,
   ⟨.fold, 63, 0x00010000, _, liveAt (fun d => sg (.ctx 63) Reg.Ctx.CTX_CTRL 0x00010000 d), fold_granted (by decide +kernel)
    (by decide +kernel), rfl, by decide +kernel, by decide +kernel, by decide +kernel, by decide +kernel, by decide +kernel,
    by decide +kernel, by decide +kernel, by decide +kernel, by decide +kernel, by decide +kernel, by decide +kernel, by decide +kernel,
    by decide +kernel⟩,
   ⟨.fold, 63, liveAt id, fold_granted (by decide +kernel) (by decide +kernel)⟩,
   ⟨.fold, 63, _, _, liveAt (fun d => sg (.ctx 63) Reg.Ctx.CTX_CTRL 0x00010001 d), fold_granted (by decide +kernel) (by decide +kernel),
    rfl, rfl, by decide +kernel, by decide +kernel, by decide +kernel, by decide +kernel, by decide +kernel, by decide +kernel⟩,
   ⟨.fold, 63, liveAt id, fold_granted (by decide +kernel) (by decide +kernel)⟩,
   ⟨.fold, 63, _, liveAt id, fold_granted (by decide +kernel) (by decide +kernel), rfl, by decide +kernel⟩,
   ⟨63, liveAt (fun d => sf (.ctx 63) Reg.Ctx.CTX_STAT 3 0 3 (modCtx 63 (fun c => { c with stopping := true, work := true }) (d))),
    by decide +kernel, by decide +kernel⟩,
   ⟨63, liveAt (fun d => sf (.ctx 63) Reg.Ctx.CTX_STAT 3 0 3 (modCtx 63
    (fun c => { c with stopping := true, pass := some { w := 64, h := 64, samples := 1, colour := [], depth := { fmt := 0, load := 0, store := 0, stride := 0, addr := 0, clear := 0, last := 0 } } })
    (d))), by decide +kernel, by decide +kernel⟩,
   ⟨63, liveAt (fun d => modCtx 63 (fun c => { c with called := true }) (d)), by decide +kernel⟩,
   ⟨63, liveAt id, by decide +kernel⟩,
   ⟨.fold, 63, liveAt id, fold_granted (by decide +kernel) (by decide +kernel)⟩,
   ⟨.fold, 63, _, liveAt id, fold_granted (by decide +kernel) (by decide +kernel), rfl, by decide +kernel⟩,
   ⟨.fold, 63, liveAt id, fold_granted (by decide +kernel) (by decide +kernel)⟩,
   ⟨.fold, 63, _, liveAt (fun d => sf (.ctx 63) Reg.Ctx.CTX_STAT 3 0 2 (sg (.ctx 63) Reg.Ctx.SAVE_LO 0x1000 d)), fold_granted
    (by decide +kernel) (by decide +kernel), rfl, by decide +kernel, by decide +kernel, by decide +kernel⟩,
   ⟨63, liveAt (fun d => modCtx 63 (fun c => { c with saving := true }) (d)), by decide +kernel⟩,
   ⟨63, liveAt (fun d => sf (.ctx 63) Reg.Ctx.CTX_STAT 3 0 1 (modCtx 63 (fun c => { c with drain := some 0 }) (d))), by decide +kernel,
    by decide +kernel, by decide +kernel⟩,
   ⟨.fold, 63, liveAt id, fold_granted (by decide +kernel) (by decide +kernel)⟩,
   ⟨.fold, 63, _, liveAt (fun d => sf (.ctx 63) Reg.Ctx.CTX_STAT 3 0 2 (modCtx 63 (fun c => { c with stop := true }) (d))), fold_granted
    (by decide +kernel) (by decide +kernel), rfl, by decide +kernel, by decide +kernel, by decide +kernel⟩,
   ⟨.fold, 63, liveAt id, fold_granted (by decide +kernel) (by decide +kernel)⟩,
   ⟨.fold, 63, liveAt id, fold_granted (by decide +kernel) (by decide +kernel)⟩,
   ⟨63, liveAt (fun d => sf (.ctx 63) Reg.Ctx.CTX_STAT 3 0 4 (modCtx 63 (fun c => { c with want := 1 }) (d))), by decide +kernel,
    by decide +kernel, by decide +kernel⟩,
   ⟨63, { w := 64, h := 64, samples := 1, colour := [], depth := { fmt := 0, load := 0, store := 0, stride := 0, addr := 0, clear := 0, last := 0 } },
    liveAt (fun d => modCtx 63
    (fun c => { c with pass := some { w := 64, h := 64, samples := 1, colour := [], depth := { fmt := 0, load := 0, store := 0, stride := 0, addr := 0, clear := 0, last := 0 } }, partialOn := true })
    (d)), by decide +kernel, by decide +kernel⟩,
   ⟨63, liveAt (fun d => sf (.ctx 63) Reg.Ctx.CTX_STAT 3 0 3 (sf (.ctx 63) Reg.Ctx.RUN_LIMIT 15 0 1 (modCtx 63
    (fun c => { c with work := true }) (d)))), by decide +kernel, by decide +kernel, by decide +kernel⟩⟩

/-- What lets each of these commands have its own effect. -/
theorem witness_PacketCommandsAnswer :
    (∃ (n : Fin 64) (k : Pkt) (e : Dev) (s : State), PktFront n.val 0x00 s.dev k e) ∧
    (∃ (n : Fin 64) (s : State), cxState s.dev n.val = 4 ∧ cxCause s.dev n.val = 2 ∧ gpuRuns s.dev = true) ∧
    (∃ (n : Fin 64) (k : Pkt) (g : GPipe) (f e : Dev) (s : State), PktFront n.val 0x01 s.dev k e ∧ (¬ (cxState s.dev n.val = 4 ∧
      cxCause s.dev n.val = 2)) ∧ k.addr 1 % 64 = 0 ∧ tableLook n.val (k.addr 1) e = (some g, f) ∧ g.kind ≤ 1 ∧
      (cacheHas f g = true ∨ noTranslator (cacheLook n.val g (modCtx n.val (fun c => { c with bound := some g }) f)) = true)) ∧
    (∃ (n : Fin 64) (k : Pkt) (g : GPipe) (f e : Dev) (s : State), PktFront n.val 0x01 s.dev k e ∧ (¬ (cxState s.dev n.val = 4 ∧
      cxCause s.dev n.val = 2)) ∧ k.addr 1 % 64 = 0 ∧ tableLook n.val (k.addr 1) e = (some g, f) ∧ g.kind ≤ 1 ∧ cacheHas f g = false ∧
      noTranslator (cacheLook n.val g (modCtx n.val (fun c => { c with bound := some g }) f)) = false) ∧
    (∃ (n : Fin 64) (k : Pkt) (e : Dev) (s : State), PktFront n.val 0x02 s.dev k e) ∧
    (∃ (n : Fin 64) (k : Pkt) (e : Dev) (s : State), PktFront n.val 0x02 s.dev k e ∧ k.addr 2 % 64 = 0) ∧
    (∃ (n : Fin 64) (k : Pkt) (e : Dev) (s : State), PktFront n.val 0x03 s.dev k e) ∧
    (∃ (n : Fin 64) (k : Pkt) (e : Dev) (s : State), PktFront n.val 0x10 s.dev k e) ∧
    (∃ (n : Fin 64) (k : Pkt) (b : List Byte) (f e : Dev) (s : State), PktFront n.val 0x10 s.dev k e ∧ k.addr 1 % 64 = 0 ∧
      (ctxOf e n.val).pass = none ∧ cxRead n.val frontLane (k.addr 1) 128 e = (some b, f) ∧ (1 ≤ leNat ((b.drop 0).take 2) ∧ leNat
      ((b.drop 0).take 2) ≤ 8192) ∧ (1 ≤ leNat ((b.drop 2).take 2) ∧ leNat ((b.drop 2).take 2) ≤ 8192) ∧ (leNat
      ((b.drop 4).take 1) = 1 ∨ leNat ((b.drop 4).take 1) = 4) ∧ leNat ((b.drop 5).take 1) ≤ 4 ∧ attOk false (attOf (b.drop 8)) = true ∧
      ((List.range (min 4 (leNat ((b.drop 5).take 1)))).map (fun i => attOf (b.drop (0x20 + 24 * i)))).all (attOk true) = true) ∧
    (∃ (n : Fin 64) (k : Pkt) (e : Dev) (s : State), PktFront n.val 0x11 s.dev k e) ∧
    (∃ (n : Fin 64) (t0 t1 t2 : Nat) (k : Pkt) (ps : GPass) (f h e : Dev) (s : State), PktFront n.val 0x11 s.dev k e ∧
      (ctxOf e n.val).pass = some ps ∧ renderPass n.val ps false (countTiles ps t0 t1 t2 (finishWork n.val e)) = (true, f) ∧
      storeHeaders n.val ps (ps.colour.filter (fun a => a.store == 0)) f = (true, h)) ∧
    (∃ (n : Fin 64) (run : ShaderRun) (k : Pkt) (e : Dev) (s : State), canIssue s.dev n.val run = true ∧ PktFront n.val 0x12 s.dev k e) ∧
    (∃ (n : Fin 64) (run : ShaderRun) (k : Pkt) (ps : GPass) (g : GPipe) (f e : Dev) (s : State), canIssue s.dev n.val run = true ∧
      PktFront n.val 0x12 s.dev k e ∧ (ctxOf e n.val).pass = some ps ∧ (ctxOf e n.val).bound = some g ∧ g.kind = 0 ∧
      g.samples = ps.samples ∧ k.w 1 ≠ 0 ∧ k.w 2 ≠ 0 ∧ runShader n.val run (wakeFlocks e) = (true, f)) ∧
    (∃ (n : Fin 64) (run : ShaderRun) (k : Pkt) (e : Dev) (s : State), canIssue s.dev n.val run = true ∧ PktFront n.val 0x13 s.dev k e) ∧
    (∃ (n : Fin 64) (run : ShaderRun) (k : Pkt) (ps qs : GPass) (g h : GPipe) (b : List Byte) (x f e : Dev) (s : State),
      canIssue s.dev n.val run = true ∧ PktFront n.val 0x13 s.dev k e ∧ (ctxOf e n.val).pass = some qs ∧ (ctxOf e n.val).bound = some h ∧
      cxRead n.val frontLane (k.addr 6 + k.w 3 * (if k.flags = 1 then 4 else 2)) (k.w 1 * (if k.flags = 1 then 4 else 2)) e = (some b, x) ∧
      (ctxOf x n.val).pass = some ps ∧ (ctxOf x n.val).bound = some g ∧ g.kind = 0 ∧ g.samples = ps.samples ∧ k.w 1 ≠ 0 ∧ k.w 2 ≠ 0 ∧
      runShader n.val run (wakeFlocks x) = (true, f)) ∧
    (∃ (n : Fin 64) (run : ShaderRun) (k : Pkt) (e : Dev) (s : State), canIssue s.dev n.val run = true ∧ PktFront n.val 0x14 s.dev k e) ∧
    (∃ (n : Fin 64) (run : ShaderRun) (k : Pkt) (ps qs : GPass) (g h : GPipe) (b : List Byte) (x f e : Dev) (s : State),
      canIssue s.dev n.val run = true ∧ PktFront n.val 0x14 s.dev k e ∧ k.addr 1 % 4 = 0 ∧ (ctxOf e n.val).pass = some qs ∧
      (ctxOf e n.val).bound = some h ∧ cxRead n.val frontLane (k.addr 1) (16 * k.w 3) e = (some b, x) ∧ (ctxOf x n.val).pass = some ps ∧
      (ctxOf x n.val).bound = some g ∧ g.kind = 0 ∧ g.samples = ps.samples ∧ (List.range (k.w 3)).any (fun i => (wordsOf (4 * k.w 3) b).getD
      (4 * i) 0 != 0 && (wordsOf (4 * k.w 3) b).getD (4 * i + 1) 0 != 0) = true ∧ runShader n.val run (wakeFlocks x) = (true, f)) ∧
    (∃ (n : Fin 64) (run : ShaderRun) (k : Pkt) (e : Dev) (s : State), canIssue s.dev n.val run = true ∧ PktFront n.val 0x20 s.dev k e) ∧
    (∃ (n : Fin 64) (run : ShaderRun) (k : Pkt) (g : GPipe) (f e : Dev) (s : State), canIssue s.dev n.val run = true ∧
      PktFront n.val 0x20 s.dev k e ∧ (ctxOf e n.val).pass = none ∧ (ctxOf e n.val).bound = some g ∧ g.kind = 1 ∧ (1 ≤ k.w 1 ∧
      k.w 1 ≤ 65535) ∧ (1 ≤ k.w 2 ∧ k.w 2 ≤ 65535) ∧ (1 ≤ k.w 3 ∧ k.w 3 ≤ 65535) ∧ runShader n.val run (wakeFlocks e) = (true, f)) ∧
    (∃ (n : Fin 64) (run : ShaderRun) (k : Pkt) (e : Dev) (s : State), canIssue s.dev n.val run = true ∧ PktFront n.val 0x21 s.dev k e) ∧
    (∃ (n : Fin 64) (run : ShaderRun) (k : Pkt) (g h : GPipe) (b : List Byte) (x f e : Dev) (s : State), canIssue s.dev n.val run = true ∧
      PktFront n.val 0x21 s.dev k e ∧ (ctxOf e n.val).pass = none ∧ (ctxOf e n.val).bound = some h ∧ h.kind = 1 ∧ cxRead n.val frontLane
      (k.addr 1) 12 e = (some b, x) ∧ (ctxOf x n.val).pass = none ∧ (ctxOf x n.val).bound = some g ∧ g.kind = 1 ∧ (1 ≤
      (wordsOf 3 b).getD 0 0 ∧ (wordsOf 3 b).getD 0 0 ≤ 65535) ∧ (1 ≤ (wordsOf 3 b).getD 1 0 ∧ (wordsOf 3 b).getD 1 0 ≤ 65535) ∧ (1 ≤
      (wordsOf 3 b).getD 2 0 ∧ (wordsOf 3 b).getD 2 0 ≤ 65535) ∧ runShader n.val run (wakeFlocks x) = (true, f)) ∧
    (∃ (n : Fin 64) (k : Pkt) (e : Dev) (s : State), PktFront n.val 0x30 s.dev k e) ∧
    (∃ (n : Fin 64) (k : Pkt) (e : Dev) (s : State), PktFront n.val 0x31 s.dev k e) ∧
    (∃ (n : Fin 64) (k : Pkt) (f e : Dev) (s : State), PktFront n.val 0x31 s.dev k e ∧ k.addr 1 % 8 = 0 ∧ cxWrite n.val frontLane (k.addr 1)
      (leBytes 8 (k.addr 3)) (finishWork n.val e) = (true, f)) ∧
    (∃ (n : Fin 64) (k : Pkt) (e : Dev) (s : State), PktFront n.val 0x32 s.dev k e) ∧
    (∃ (n : Fin 64) (k : Pkt) (v : Nat) (f e : Dev) (s : State), PktFront n.val 0x32 s.dev k e ∧ k.addr 1 % 8 = 0 ∧ fenceValue n.val
      (k.addr 1) e = (some v, f) ∧ k.addr 3 ≤ v) ∧
    (∃ (n : Fin 64) (k : Pkt) (v : Nat) (f e : Dev) (s : State), PktFront n.val 0x32 s.dev k e ∧ k.addr 1 % 8 = 0 ∧ fenceValue n.val
      (k.addr 1) e = (some v, f) ∧ v < k.addr 3) ∧
    (∃ (n : Fin 64) (k : Pkt) (e : Dev) (s : State), PktFront n.val 0x40 s.dev k e) ∧
    (∃ (n : Fin 64) (k : Pkt) (e : Dev) (s : State), PktFront n.val 0x40 s.dev k e ∧ (ctxOf e n.val).pass = none ∧ k.addr 1 % 8 = 0) ∧
    (∃ (n : Fin 64) (k : Pkt) (e : Dev) (s : State), PktFront n.val 0x50 s.dev k e) ∧
    (∃ (n : Fin 64) (k : Pkt) (e : Dev) (s : State), PktFront n.val 0x50 s.dev k e ∧ cxBw e n.val = true ∧ rb e
      (.ctx n.val) Reg.Ctx.CTX_STAT 11 = true) ∧
    (∃ (n : Fin 64) (k : Pkt) (e : Dev) (s : State), PktFront n.val 0x50 s.dev k e ∧ cxBw e n.val = true ∧ rb e
      (.ctx n.val) Reg.Ctx.CTX_STAT 11 = false) ∧
    (∃ (n : Fin 64) (k : Pkt) (e : Dev) (s : State), PktFront n.val 0x51 s.dev k e) ∧
    (∃ (n : Fin 64) (k : Pkt) (c pipe : Nat) (owner : Party) (prs : List (Nat × Word)) (f e : Dev) (s : State),
      PktFront n.val 0x51 s.dev k e ∧ k.w 1 / 256 % 256 = c ∧ k.w 1 % 64 = pipe ∧ ownerParty e (.ctx n.val) = owner ∧ c ≤ 32 ∧
      k.words.length = 1 + 2 * c ∧ (List.range c).map (fun i => (k.w (2 + 2 * i), BitVec.ofNat 32 (k.w (3 + 2 * i)))) = prs ∧ isOwner
      (finishWork n.val e) (.pipe pipe) owner = true ∧ prs.all (fun x => (stagedOffsets pipe).contains x.1 ||
      (x.1 == Reg.Pipe.COEF_DATA && decide (48 ≤ pipe))) = true ∧ prs.foldl (fun d x => onWrite owner (.pipe pipe) x.1
      (pipeRegWrite pipe x.1 x.2) d) (finishWork n.val e) = f ∧ Granted f owner (.pipe pipe) Reg.Pipe.COMMIT true ∧ takesWork (gpIntervene
      (.pipe pipe) f) owner = true) :=
  ⟨⟨63, _, _, liveAt (fun d => ringed [0x0] [] d), pkt_front (by decide +kernel)⟩,
   ⟨63, liveAt (fun d => sf (.ctx 63) Reg.Ctx.CTX_STAT 3 0 4 (modCtx 63 (fun c => { c with callWait := true }) (ringed [] [] d))),
    by decide +kernel, by decide +kernel, by decide +kernel⟩,
   ⟨63, _, { addr := 0x1000001000, key := 1, kind := 0, samples := 1, bad := false }, _, _, liveAt (fun d => modGpu
    (fun g => { g with cache := [(1, true)] }) (modCtx 63
    (fun c => { c with table := [{ addr := 0x1000001000, key := 1, kind := 0, samples := 1, bad := false }] })
    (ringed [0x1000002, 0x1000, 0x10] [] d))), pkt_front (by decide +kernel), by decide +kernel, by decide +kernel, fst_is
    (by decide +kernel), by decide +kernel, Or.inl (by decide +kernel)⟩,
   ⟨63, _, { addr := 0x1000001000, key := 1, kind := 0, samples := 1, bad := false }, _, _, liveAt (fun d => modCtx 63
    (fun c => { c with table := [{ addr := 0x1000001000, key := 1, kind := 0, samples := 1, bad := false }] })
    (ringed [0x1000002, 0x1000, 0x10] [] d)), pkt_front (by decide +kernel), by decide +kernel, by decide +kernel, fst_is
    (by decide +kernel), by decide +kernel, by decide +kernel, by decide +kernel⟩,
   ⟨63, _, _, liveAt (fun d => ringed [0x2000003, 0x3, 0x1000, 0x10] [] d), pkt_front (by decide +kernel)⟩,
   ⟨63, _, _, liveAt (fun d => ringed [0x2000003, 0x3, 0x1000, 0x10] [] d), pkt_front (by decide +kernel), by decide +kernel⟩,
   ⟨63, _, _, liveAt (fun d => ringed [0x3000002, 0x0, 0x7] [] d), pkt_front (by decide +kernel)⟩,
   ⟨63, _, _, liveAt (fun d => ringed [0x10000002, 0x1000, 0x10] [] d), pkt_front (by decide +kernel)⟩,
   ⟨63, _, _, _, _, liveAt (fun d => ringed [0x10000002, 0x1000, 0x10] [0x400040, 0x1] d), pkt_front (by decide +kernel), by decide +kernel,
    by decide +kernel, some_is (by decide +kernel), by decide +kernel, by decide +kernel, by decide +kernel, by decide +kernel,
    by decide +kernel, by decide +kernel⟩,
   ⟨63, _, _, liveAt (fun d => ringed [0x11000000] [] d), pkt_front (by decide +kernel)⟩,
   ⟨63, 0, 0, 0, _,
    { w := 64, h := 64, samples := 1, colour := [], depth := { fmt := 0, load := 0, store := 0, stride := 0, addr := 0, clear := 0, last := 0 } },
    _, _, _, liveAt (fun d => modCtx 63
    (fun c => { c with pass := some { w := 64, h := 64, samples := 1, colour := [], depth := { fmt := 0, load := 0, store := 0, stride := 0, addr := 0, clear := 0, last := 0 } } })
    (ringed [0x11000000] [] d)), pkt_front (by decide +kernel), by decide +kernel, fst_is (by decide +kernel), fst_is (by decide +kernel)⟩,
   ⟨63, ⟨0, [], [], [], [], []⟩, _, _, liveAt (fun d => ringed [0x12000004, 0x3, 0x1, 0x0, 0x0] [] d), by decide +kernel, pkt_front
    (by decide +kernel)⟩,
   ⟨63, ⟨0, [], [], [], [], []⟩, _,
    { w := 64, h := 64, samples := 1, colour := [], depth := { fmt := 0, load := 0, store := 0, stride := 0, addr := 0, clear := 0, last := 0 } },
    { addr := 0x1000001000, key := 1, kind := 0, samples := 1, bad := false }, _, _, liveAt (fun d => modCtx 63
    (fun c => { c with pass := some { w := 64, h := 64, samples := 1, colour := [], depth := { fmt := 0, load := 0, store := 0, stride := 0, addr := 0, clear := 0, last := 0 } }, bound := some { addr := 0x1000001000, key := 1, kind := 0, samples := 1, bad := false } })
    (ringed [0x12000004, 0x3, 0x1, 0x0, 0x0] [] d)), by decide +kernel, pkt_front (by decide +kernel), by decide +kernel, by decide +kernel,
    by decide +kernel, by decide +kernel, by decide +kernel, by decide +kernel, fst_is (by decide +kernel)⟩,
   ⟨63, ⟨0, [], [], [], [], []⟩, _, _, liveAt (fun d => ringed [0x13000007, 0x3, 0x1, 0x0, 0x0, 0x0, 0x1000, 0x10] [] d), by decide +kernel,
    pkt_front (by decide +kernel)⟩,
   ⟨63, ⟨0, [], [], [], [], []⟩, _,
    { w := 64, h := 64, samples := 1, colour := [], depth := { fmt := 0, load := 0, store := 0, stride := 0, addr := 0, clear := 0, last := 0 } },
    { w := 64, h := 64, samples := 1, colour := [], depth := { fmt := 0, load := 0, store := 0, stride := 0, addr := 0, clear := 0, last := 0 } },
    { addr := 0x1000001000, key := 1, kind := 0, samples := 1, bad := false },
    { addr := 0x1000001000, key := 1, kind := 0, samples := 1, bad := false }, _, _, _, _, liveAt (fun d => modCtx 63
    (fun c => { c with pass := some { w := 64, h := 64, samples := 1, colour := [], depth := { fmt := 0, load := 0, store := 0, stride := 0, addr := 0, clear := 0, last := 0 } }, bound := some { addr := 0x1000001000, key := 1, kind := 0, samples := 1, bad := false } })
    (ringed [0x13000007, 0x3, 0x1, 0x0, 0x0, 0x0, 0x1000, 0x10] [0x10000, 0x2] d)), by decide +kernel, pkt_front (by decide +kernel),
    by decide +kernel, by decide +kernel, some_is (by decide +kernel), by decide +kernel, by decide +kernel, by decide +kernel,
    by decide +kernel, by decide +kernel, by decide +kernel, fst_is (by decide +kernel)⟩,
   ⟨63, ⟨0, [], [], [], [], []⟩, _, _, liveAt (fun d => ringed [0x14000003, 0x1000, 0x10, 0x1] [] d), by decide +kernel, pkt_front
    (by decide +kernel)⟩,
   ⟨63, ⟨0, [], [], [], [], []⟩, _,
    { w := 64, h := 64, samples := 1, colour := [], depth := { fmt := 0, load := 0, store := 0, stride := 0, addr := 0, clear := 0, last := 0 } },
    { w := 64, h := 64, samples := 1, colour := [], depth := { fmt := 0, load := 0, store := 0, stride := 0, addr := 0, clear := 0, last := 0 } },
    { addr := 0x1000001000, key := 1, kind := 0, samples := 1, bad := false },
    { addr := 0x1000001000, key := 1, kind := 0, samples := 1, bad := false }, _, _, _, _, liveAt (fun d => modCtx 63
    (fun c => { c with pass := some { w := 64, h := 64, samples := 1, colour := [], depth := { fmt := 0, load := 0, store := 0, stride := 0, addr := 0, clear := 0, last := 0 } }, bound := some { addr := 0x1000001000, key := 1, kind := 0, samples := 1, bad := false } })
    (ringed [0x14000003, 0x1000, 0x10, 0x1] [0x3, 0x1, 0x0, 0x0] d)), by decide +kernel, pkt_front (by decide +kernel), by decide +kernel,
    by decide +kernel, by decide +kernel, some_is (by decide +kernel), by decide +kernel, by decide +kernel, by decide +kernel,
    by decide +kernel, by decide +kernel, fst_is (by decide +kernel)⟩,
   ⟨63, ⟨0, [], [], [], [], []⟩, _, _, liveAt (fun d => ringed [0x20000003, 0x1, 0x1, 0xffff] [] d), by decide +kernel, pkt_front
    (by decide +kernel)⟩,
   ⟨63, ⟨0, [], [], [], [], []⟩, _, { addr := 0x1000001000, key := 1, kind := 1, samples := 1, bad := false }, _, _, liveAt
    (fun d => modCtx 63 (fun c => { c with bound := some { addr := 0x1000001000, key := 1, kind := 1, samples := 1, bad := false } })
    (ringed [0x20000003, 0x1, 0x1, 0xffff] [] d)), by decide +kernel, pkt_front (by decide +kernel), by decide +kernel, by decide +kernel,
    by decide +kernel, by decide +kernel, by decide +kernel, by decide +kernel, fst_is (by decide +kernel)⟩,
   ⟨63, ⟨0, [], [], [], [], []⟩, _, _, liveAt (fun d => ringed [0x21000002, 0x1000, 0x10] [] d), by decide +kernel, pkt_front
    (by decide +kernel)⟩,
   ⟨63, ⟨0, [], [], [], [], []⟩, _, { addr := 0x1000001000, key := 1, kind := 1, samples := 1, bad := false },
    { addr := 0x1000001000, key := 1, kind := 1, samples := 1, bad := false }, _, _, _, _, liveAt (fun d => modCtx 63
    (fun c => { c with bound := some { addr := 0x1000001000, key := 1, kind := 1, samples := 1, bad := false } })
    (ringed [0x21000002, 0x1000, 0x10] [0x1, 0x1, 0xffff] d)), by decide +kernel, pkt_front (by decide +kernel), by decide +kernel,
    by decide +kernel, by decide +kernel, some_is (by decide +kernel), by decide +kernel, by decide +kernel, by decide +kernel,
    by decide +kernel, by decide +kernel, by decide +kernel, fst_is (by decide +kernel)⟩,
   ⟨63, _, _, liveAt (fun d => ringed [0x300f0000] [] d), pkt_front (by decide +kernel)⟩,
   ⟨63, _, _, liveAt (fun d => ringed [0x31000004, 0x1000, 0x10, 0x5, 0x0] [] d), pkt_front (by decide +kernel)⟩,
   ⟨63, _, _, _, liveAt (fun d => ringed [0x31000004, 0x1000, 0x10, 0x5, 0x0] [] d), pkt_front (by decide +kernel), by decide +kernel,
    fst_is (by decide +kernel)⟩,
   ⟨63, _, _, liveAt (fun d => ringed [0x32000004, 0x1000, 0x10, 0x5, 0x0] [] d), pkt_front (by decide +kernel)⟩,
   ⟨63, _, 5, _, _, liveAt (fun d => ringed [0x32000004, 0x1000, 0x10, 0x5, 0x0] [0x5, 0x0] d), pkt_front (by decide +kernel),
    by decide +kernel, fst_is (by decide +kernel), by decide +kernel⟩,
   ⟨63, _, 4, _, _, liveAt (fun d => ringed [0x32000004, 0x1000, 0x10, 0x5, 0x0] [0x4, 0x0] d), pkt_front (by decide +kernel),
    by decide +kernel, fst_is (by decide +kernel), by decide +kernel⟩,
   ⟨63, _, _, liveAt (fun d => ringed [0x40000003, 0x1000, 0x10, 0x4] [] d), pkt_front (by decide +kernel)⟩,
   ⟨63, _, _, liveAt (fun d => ringed [0x40000003, 0x1000, 0x10, 0x4] [] d), pkt_front (by decide +kernel), by decide +kernel,
    by decide +kernel⟩,
   ⟨63, _, _, liveAt (fun d => ringed [0x50000000] [] d), pkt_front (by decide +kernel)⟩,
   ⟨63, _, _, liveAt (fun d => sb (.ctx 63) Reg.Ctx.CTX_CTRL 18 true (sb (.ctx 63) Reg.Ctx.CTX_STAT 11 true (ringed [0x50000000] [] d))),
    pkt_front (by decide +kernel), by decide +kernel, by decide +kernel⟩,
   ⟨63, _, _, liveAt (fun d => sb (.ctx 63) Reg.Ctx.CTX_CTRL 18 true (sb (.ctx 63) Reg.Ctx.CTX_STAT 11 false (ringed [0x50000000] [] d))),
    pkt_front (by decide +kernel), by decide +kernel, by decide +kernel⟩,
   ⟨63, _, _, liveAt (fun d => ringed [0x51000003, 0x13f, 0x44, 0x7] [] d), pkt_front (by decide +kernel)⟩,
   ⟨63, _, 1, 63, .field, [(0x44, 7)], _, _, liveAt (fun d => ringed [0x51000003, 0x13f, 0x44, 0x7] [] d), pkt_front (by decide +kernel),
    by decide +kernel, by decide +kernel, by decide +kernel, by decide +kernel, by decide +kernel, by decide +kernel, by decide +kernel,
    by decide +kernel, rfl, by decide +kernel, by decide +kernel⟩⟩

/-- What lets each of these commands have its own effect. -/
theorem witness_GpuCommandsAnswer :
    (∃ (n : Fin 64) (r : TransReq) (s : State), (s.dev.gpu.reqs.take 2).find? (fun r => r.ctx == n.val) = some r ∧ s.dev.wld.fieldReady = true ∧
      r.pipe.bad = false) ∧
    (∃ (n : Fin 64) (s : State), s.dev.gpu.reqs.any (fun r => r.ctx == n.val) = true) ∧
    (∃ (s : State), gpuRuns s.dev = true ∧ gTrip s.dev = false) ∧
    (∃ (l : Nat) (s : State), s.dev.gpu.raising = some l ∧ rb s.dev (.sys 2) Reg.Sys2.SUP_CFG 0 = false) ∧
    (∃ (l : Nat) (s : State), s.dev.gpu.raising = some l ∧ rb s.dev (.sys 2) Reg.Sys2.SUP_CFG 0 = true) ∧
    (∃ (f : Fin 4) (s : State), (¬ (f.val = 0 ∧ anyBound s.dev))) ∧
    (∃ (f : Fin 4) (s : State), rb s.dev (.flock f.val) Reg.Flock.FLOCK_STAT 30 = true) ∧
    (∃ (who : Party) (s : State), Granted s.dev who .gpu Reg.Gpu.GPU_CTRL true) :=
  ⟨⟨63, { ctx := 63, pipe := { addr := 0x40, key := 1, kind := 0, samples := 1, bad := false }, since := 0 }, liveAt (fun d => modWld
    (fun w => { w with fieldReady := true }) (modGpu
    (fun g => { g with reqs := [{ ctx := 63, pipe := { addr := 0x40, key := 1, kind := 0, samples := 1, bad := false }, since := 0 }] }) d)),
    by decide +kernel, by decide +kernel, by decide +kernel⟩,
   ⟨63, liveAt (fun d => modGpu
    (fun g => { g with reqs := [{ ctx := 63, pipe := { addr := 0x40, key := 1, kind := 0, samples := 1, bad := false }, since := 0 }] }) d),
    by decide +kernel⟩,
   ⟨liveAt (fun d => modBoot (fun b => { b with dramUp := true }) (sb .gpu Reg.Gpu.GPU_CTRL 0 true d)), by decide +kernel,
    by decide +kernel⟩,
   ⟨3, liveAt (fun d => sb (.sys 2) Reg.Sys2.SUP_CFG 0 false (modGpu (fun g => { g with raising := some 3 }) d)), by decide +kernel,
    by decide +kernel⟩,
   ⟨3, liveAt (fun d => sb (.sys 2) Reg.Sys2.SUP_CFG 0 true (modGpu (fun g => { g with raising := some 3 }) d)), by decide +kernel,
    by decide +kernel⟩,
   ⟨3, liveAt id, by decide +kernel⟩,
   ⟨3, liveAt (fun d => sb (.flock 3) Reg.Flock.FLOCK_STAT 30 true d), by decide +kernel⟩,
   ⟨.fold, liveAt id, fold_granted (by decide +kernel) (by decide +kernel)⟩⟩

/-- What lets each of these commands have its own effect. -/
theorem witness_CheckCommandsAnswer :
    (∃ (who : Party) (h : Fin 8) (s : State), Granted s.dev who (.chk h.val) Reg.Chk.CHK_COMMIT true) ∧
    (∃ (who : Party) (h : Fin 8) (d : Dev) (s : State), Granted s.dev who (.chk h.val) Reg.Chk.CHK_COMMIT true ∧ gpIntervene
      (.chk h.val) s.dev = d ∧ headDisabled d h.val = true) ∧
    (∃ (who : Party) (h : Fin 8) (d : Dev) (s : State), Granted s.dev who (.chk h.val) Reg.Chk.CHK_COMMIT true ∧ gpIntervene
      (.chk h.val) s.dev = d ∧ headDisabled d h.val = false) ∧
    (∃ (who : Party) (h : Fin 8) (s : State), Granted s.dev who (.chk h.val) Reg.Chk.CHK_COMMIT true) ∧
    (∃ (h : Fin 8) (w : Fin 16) (t : Tab Word) (s : State),
      (let d := s.dev; let s := winOf d (winKey h.val w.val); s.cfg = some t) ∧ ((let d := s.dev; let s := winOf d (winKey h.val w.val); s.full = true ∧
      wOn t = true ∧ winSuspended d h.val w.val = false))) ∧
    (∃ (who : Party) (h : Fin 8) (s : State), Granted s.dev who (.chk h.val) Reg.Chk.FAIL_CLEAR true) :=
  ⟨⟨.fold, 7, liveAt id, fold_granted (by decide +kernel) (by decide +kernel)⟩,
   ⟨.fold, 7, _, liveAt id, fold_granted (by decide +kernel) (by decide +kernel), rfl, by decide +kernel⟩,
   ⟨.fold, 7, _, liveAt (fun d => sb (.head 7) Reg.Head.HEAD_CTRL 0 true d), fold_granted (by decide +kernel) (by decide +kernel), rfl,
    by decide +kernel⟩,
   ⟨.fold, 7, liveAt id, fold_granted (by decide +kernel) (by decide +kernel)⟩,
   ⟨7, 15, [(0x80, 1)], liveAt (fun d => modHead 7 (fun x => { x with run := true }) (modWin (winKey 7 15)
    (fun x => { x with cfg := some [(0x80, 1)], full := true }) d)), by decide +kernel, by decide +kernel⟩,
   ⟨.fold, 7, liveAt id, fold_granted (by decide +kernel) (by decide +kernel)⟩⟩

/-- What lets each of these commands have its own effect. -/
theorem witness_TouchCommandsAnswer :
    (∃ (who : Party) (n : Fin 8) (s : State), Granted s.dev who (.lg n.val) Reg.Lg.LG_CTRL true) ∧
    (∃ (who : Party) (n : Fin 8) (v : Word) (e d : Dev) (s : State), Granted s.dev who (.lg n.val) Reg.Lg.LG_CTRL true ∧ gpIntervene
      (.lg n.val) s.dev = d ∧ bitOf v 31 = false ∧ bitOf v 0 = true ∧ plainWrite (.lg n.val) Reg.Lg.LG_CTRL v d = e ∧ stands e
      (.lg n.val) = false ∧ lgState e n.val = 0) ∧
    (∃ (who : Party) (n : Fin 8) (s : State), Granted s.dev who (.lg n.val) Reg.Lg.LG_CTRL true) ∧
    (∃ (n : Fin 8) (s : State), lgState s.dev n.val = 1) ∧
    (∃ (n : Fin 8) (c : LgCmd) (s : State), (tpOf s.dev n.val).cmd = some c ∧ c.cmd ≠ 3 ∧ (¬ (lgState s.dev n.val ≠ 2 ∧
      lgState s.dev n.val ≠ 3))) ∧
    (∃ (n : Fin 8) (s : State), ((let d := s.dev; let t := tpOf d n.val; t.scanning = true ∧ lgState d n.val = 3 ∧
      stands d (.panel n.val) = false ∧ t.cmd.any (fun c => c.cmd != 3) = false))) ∧
    (∃ (n : Fin 8) (s : State), (let d := s.dev; panelReady d n.val = true)) ∧
    (∃ (n : Fin 8) (track : Nat) (k : TrackS) (s : State), (tpOf s.dev n.val).tracks.find? (fun t => t.id == track) = some k ∧
      panelReady s.dev n.val = true ∧ k.region.any (fun r => fld (regOf s.dev n.val r).ctrl 15 8 != 0) = true) ∧
    (∃ (n : Fin 8) (s : State), lgState s.dev n.val = 3) ∧
    (∃ (n : Fin 8) (s : State), lgState s.dev n.val = 4) ∧
    (∃ (who : Party) (n : Fin 8) (s : State), Granted s.dev who (.panel n.val) Reg.Panel.PANEL_CTRL true) ∧
    (∃ (who : Party) (n : Fin 8) (v : Word) (e d : Dev) (s : State), Granted s.dev who (.panel n.val) Reg.Panel.PANEL_CTRL true ∧
      gpIntervene (.panel n.val) s.dev = d ∧ bitOf v 31 = false ∧ bitOf v 0 = true ∧ panelOn d n.val = false ∧ plainWrite
      (.panel n.val) Reg.Panel.PANEL_CTRL v d = e ∧ isoOf e (.panel n.val) = false ∧ panelRefuse e n.val = 0) ∧
    (∃ (who : Party) (n : Fin 8) (s : State), Granted s.dev who (.panel n.val) Reg.Panel.PANEL_CTRL true) ∧
    (∃ (who : Party) (n : Fin 8) (s : State), Granted s.dev who (.panel n.val) Reg.Panel.PANEL_CTRL true) ∧
    (∃ (who : Party) (n : Fin 8) (r : Fin 64) (reg : Fin 3) (s : State), Granted s.dev who (.panel n.val) (regionOff r.val reg.val) true) ∧
    (∃ (who : Party) (n : Fin 8) (r : Fin 64) (reg : Fin 3) (v : Word) (d : Dev) (s : State), Granted s.dev who (.panel n.val)
      (regionOff r.val reg.val) true ∧ gpIntervene (.panel n.val) s.dev = d ∧ who = .fold ∧ regionValid (plainWrite (.panel n.val)
      (regionOff r.val reg.val) v d) n.val r.val = true) ∧
    (∃ (who : Party) (k : Fin 514) (s : State), Granted s.dev who (ringPage k.val) (ringBase k.val + Reg.Ring.RING_CFG) true) ∧
    (∃ (who : Party) (k : Fin 514) (v : Word) (d : Dev) (s : State), Granted s.dev who (ringPage k.val)
      (ringBase k.val + Reg.Ring.RING_CFG) true ∧ gpIntervene (ringPage k.val) s.dev = d ∧ bitOf v 31 = false) ∧
    (∃ (who : Party) (k : Fin 514) (s : State), Granted s.dev who (ringPage k.val) (ringBase k.val + Reg.Ring.RING_RPTR) true) ∧
    (∃ (who : Party) (s : State), Granted s.dev who .tch Reg.Tch.TCH_CTRL true) :=
  ⟨⟨.fold, 7, liveAt id, fold_granted (by decide +kernel) (by decide +kernel)⟩,
   ⟨.fold, 7, 1, _, _, liveAt id, fold_granted (by decide +kernel) (by decide +kernel), rfl, by decide +kernel, by decide +kernel, rfl,
    by decide +kernel, by decide +kernel⟩,
   ⟨.fold, 7, liveAt id, fold_granted (by decide +kernel) (by decide +kernel)⟩,
   ⟨7, liveAt (fun d => sf (.lg 7) Reg.Lg.LG_STAT 2 0 1 (d)), by decide +kernel⟩,
   ⟨7, { cmd := 1, type := 0, freq := 0, seq := 0 }, liveAt (fun d => sf (.lg 7) Reg.Lg.LG_STAT 2 0 2 (modTp 7
    (fun t => { t with cmd := some { cmd := 1, type := 0, freq := 0, seq := 0 } }) (d))), by decide +kernel, by decide +kernel,
    by decide +kernel⟩,
   ⟨7, liveAt (fun d => sf (.lg 7) Reg.Lg.LG_STAT 2 0 3 (modTp 7 (fun t => { t with scanning := true }) (d))), by decide +kernel⟩,
   ⟨7, liveAt (fun d => sb (.panel 7) Reg.Panel.PANEL_STAT 31 true (d)), by decide +kernel⟩,
   ⟨7, 1, { id := 1, region := some 0, x := 0, y := 0, px := 0, py := 0, type := 0, scan := 0, peak := 0, area := 0, nodes := [] }, liveAt
    (fun d => sb (.panel 7) Reg.Panel.PANEL_STAT 31 true (modTp 7
    (fun t => { t with tracks := [{ id := 1, region := some 0, x := 0, y := 0, px := 0, py := 0, type := 0, scan := 0, peak := 0, area := 0, nodes := [] }] })
    (d))), by decide +kernel, by decide +kernel, by decide +kernel⟩,
   ⟨7, liveAt (fun d => sf (.lg 7) Reg.Lg.LG_STAT 2 0 3 (d)), by decide +kernel⟩,
   ⟨7, liveAt (fun d => sf (.lg 7) Reg.Lg.LG_STAT 2 0 4 (d)), by decide +kernel⟩,
   ⟨.fold, 7, liveAt id, fold_granted (by decide +kernel) (by decide +kernel)⟩,
   ⟨.fold, 7, 1, _, _, liveAt (fun d => sg (.panel 7) Reg.Panel.PANEL_SCAN 0x00F04040 d), fold_granted (by decide +kernel)
    (by decide +kernel), rfl, by decide +kernel, by decide +kernel, by decide +kernel, rfl, by decide +kernel, by decide +kernel⟩,
   ⟨.fold, 7, liveAt id, fold_granted (by decide +kernel) (by decide +kernel)⟩,
   ⟨.fold, 7, liveAt id, fold_granted (by decide +kernel) (by decide +kernel)⟩,
   ⟨.fold, 7, 63, 2, liveAt id, fold_granted (by decide +kernel) (by decide +kernel)⟩,
   ⟨.fold, 7, 63, 2, 0, _, liveAt id, fold_granted (by decide +kernel) (by decide +kernel), rfl, by decide +kernel, by decide +kernel⟩,
   ⟨.fold, 513, liveAt id, fold_granted (by decide +kernel) (by decide +kernel)⟩,
   ⟨.fold, 513, 0, _, liveAt id, fold_granted (by decide +kernel) (by decide +kernel), rfl, by decide +kernel⟩,
   ⟨.fold, 513, liveAt id, fold_granted (by decide +kernel) (by decide +kernel)⟩,
   ⟨.fold, liveAt id, fold_granted (by decide +kernel) (by decide +kernel)⟩⟩

/-- What lets each of these commands have its own effect. -/
theorem witness_KeyCommandsAnswer :
    (∃ (s : State), keysRun s.dev = true) ∧
    (∃ (s : State), keysRun s.dev = true ∧ rb s.dev (.key 0) Reg.Key0.KEY_TEST 0 = true) ∧
    (∃ (k : Fin 48) (s : State), keyState s.dev k.val = 2 ∧ rf s.dev (.key 0) (Reg.Key0.KEY_CLICK k.val) 23 16 ≠ 0 ∧ keysRun s.dev = true) ∧
    (∃ (who : Party) (s : State), Granted s.dev who (.key 0) Reg.Key0.KEY_CTRL true) ∧
    (∃ (who : Party) (s : State), Granted s.dev who (.key 0) Reg.Key0.KEY_CTRL true) :=
  ⟨⟨liveAt (fun d => modSdg (fun g => { g with tableOn := true }) (d)), by decide +kernel⟩,
   ⟨liveAt (fun d => modSdg (fun g => { g with tableOn := true }) (d)), by decide +kernel, by decide +kernel⟩,
   ⟨47, liveAt (fun d => modSdg (fun g => { g with tableOn := true }) (sf (.key 0) (Reg.Key0.KEY_CLICK 47) 23 16 1 (sf (.key 1)
    (Reg.Key1.KEY_STATE 47) 2 0 2 d))), by decide +kernel, by decide +kernel, by decide +kernel⟩,
   ⟨.fold, liveAt id, fold_granted (by decide +kernel) (by decide +kernel)⟩,
   ⟨.fold, liveAt id, fold_granted (by decide +kernel) (by decide +kernel)⟩⟩

/-- What lets each of these commands have its own effect. -/
theorem witness_HapticCommandsAnswer :
    (∃ (who : Party) (b : Fin 2) (s : State), Granted s.dev who (.hap 0) (bstCtrl b.val) true) ∧
    (∃ (who : Party) (n : Fin 16) (s : State), Granted s.dev who (.hap 0) (Reg.Hap.CH_CFG n.val) true) ∧
    (∃ (who : Party) (n : Fin 16) (v : Word) (d : Dev) (s : State), Granted s.dev who (.hap 0) (Reg.Hap.CH_CFG n.val) true ∧ gpIntervene
      (.hap 0) s.dev = d ∧ bitOf v 0 = true ∧ rb d (.hap 0) (Reg.Hap.CH_CFG n.val) 0 = false) ∧
    (∃ (who : Party) (page : Option (Fin 512)) (n : Fin 16) (s : State), Granted s.dev who (trigPage (page.map (·.val)))
      (Reg.Trig.TRIG n.val) true) ∧
    (∃ (who : Party) (page : Option (Fin 512)) (n : Fin 16) (v : Word) (c : Nat) (d : Dev) (s : State), Granted s.dev who (trigPage
      (page.map (·.val))) (Reg.Trig.TRIG n.val) true ∧ gpIntervene (trigPage (page.map (·.val))) s.dev = d ∧ isoOf d (trigPage (page.map
      (·.val))) = false ∧ trigClass d (putBit v 31 false) = c ∧ trigRefuse d who (page.map (·.val)) n.val (fld
      (putBit v 31 false) 7 0) c = 0 ∧ bitOf (putBit v 31 false) 31 = false) ∧
    (∃ (who : Party) (page : Option (Fin 512)) (n : Fin 16) (s : State), Granted s.dev who (trigPage (page.map (·.val)))
      (Reg.Trig.TRIG n.val) true) ∧
    (∃ (who : Party) (page : Option (Fin 512)) (n : Fin 16) (v : Word) (c : Nat) (d : Dev) (s : State), Granted s.dev who (trigPage
      (page.map (·.val))) (Reg.Trig.TRIG n.val) true ∧ gpIntervene (trigPage (page.map (·.val))) s.dev = d ∧ isoOf d (trigPage (page.map
      (·.val))) = false ∧ bitOf (putBit v 31 true) 31 = true ∧ fld (putBit v 31 true) 9 8 = c ∧ chState d n.val ≠ 0 ∧ chState d n.val ≠ 5 ∧
      notLeased d (page.map (·.val)) n.val = false ∧ (who = .fold ∨ c ≠ 0) ∧ (page.map (·.val)).any (fun p => padState d p != 1) = false) ∧
    (∃ (n : Fin 16) (cls : Fin 3) (t : HapTrig) (s : State), slotOf s.dev n.val cls.val = some t ∧
      ((let d := s.dev; let lim := 48 * rf d (.hap 0) (Reg.Hap.CH_LIM n.val) 23 16; lim ≠ 0 ∧ ¬ (d.hap.now < t.taken + lim)))) ∧
    (∃ (n : Fin 16) (s : State), ((hapChOf s.dev n.val).run.any (fun r => decide (r.phase < 4 ∧ onMax s.dev n.val ≤ r.driven)) = true)) ∧
    (∃ (n : Fin 16) (s : State), (chState s.dev n.val = 1 ∨ (hapChOf s.dev n.val).fault = 1)) ∧
    (∃ (n : Fin 16) (s : State), chSafe s.dev n.val = false) ∧
    (∃ (n : Fin 16) (s : State), ((let d := s.dev; let h := hapChOf d n.val; 2 ≤ h.fault ∧ h.stuck = false))) ∧
    (∃ (b : Fin 2) (kind : Fin 4) (s : State), bst s.dev b.val 13 13 ≠ 0 ∧ (¬ ((kind.val + 1) = 2 ∧ bst s.dev b.val 15 15 = 0))) ∧
    (∃ (b : Fin 2) (s : State), bst s.dev b.val 2 0 ≠ 0 ∧ (¬ (bst s.dev b.val 2 0 = 4 ∧ railBad s.dev 11 = true))) ∧
    (∃ (who : Party) (s : State), Granted s.dev who (.hap 0) Reg.Hap.HAP_CTRL true) ∧
    (∃ (who : Party) (s : State), Granted s.dev who (.hap 0) Reg.Hap.WH_DATA false) :=
  ⟨⟨.fold, 1, liveAt id, fold_granted (by decide +kernel) (by decide +kernel)⟩,
   ⟨.fold, 15, liveAt id, fold_granted (by decide +kernel) (by decide +kernel)⟩,
   ⟨.fold, 15, 1, _, liveAt id, fold_granted (by decide +kernel) (by decide +kernel), rfl, by decide +kernel, by decide +kernel⟩,
   ⟨.fold, none, 15, liveAt id, fold_granted (by decide +kernel) (by decide +kernel)⟩,
   ⟨.fold, none, 15, 0x200, 2, _, liveAt (fun d => sb (.hap 0) (Reg.Hap.CH_CFG 15) 0 true (sb .sdg Reg.Sdg.SDG_STATE 4 false (d))),
    fold_granted (by decide +kernel) (by decide +kernel), rfl, by decide +kernel, by decide +kernel, by decide +kernel, by decide +kernel⟩,
   ⟨.fold, none, 15, liveAt id, fold_granted (by decide +kernel) (by decide +kernel)⟩,
   ⟨.fold, none, 15, 0x200, 2, _, liveAt (fun d => sb (.hap 0) (Reg.Hap.CH_CFG 15) 0 true (sb .sdg Reg.Sdg.SDG_STATE 4 false (d))),
    fold_granted (by decide +kernel) (by decide +kernel), rfl, by decide +kernel, by decide +kernel, by decide +kernel, by decide +kernel,
    by decide +kernel, by decide +kernel, by decide +kernel, by decide +kernel⟩,
   ⟨15, 2, { effect := 0, cls := 2, level := 0, rep := 0, pad := none }, liveAt (fun d => sf (.hap 0) (Reg.Hap.CH_LIM 15) 23 16 1 (modHap
    (fun h => { h with now := 48 }) (modHapCh 15
    (fun h => { h with slots := [(2, some { effect := 0, cls := 2, level := 0, rep := 0, pad := none })] }) d))), by decide +kernel,
    by decide +kernel⟩,
   ⟨15, liveAt (fun d => sb (.hap 0) Reg.Hap.BST_STAT 31 true (sb (.hap 0) (Reg.Hap.CH_CFG 15) 0 true (sb .sdg Reg.Sdg.SDG_STATE 4 false
    (modHapCh 15
    (fun h => { h with run := some { trig := { effect := 0, cls := 2, level := 0, rep := 0, pad := none }, phase := 2, pos := 0, left := 0, clipped := false, driven := 240000 } }) d)))),
    by decide +kernel⟩,
   ⟨15, liveAt (fun d => sb (.hap 0) Reg.Hap.BST_STAT 31 true (sb (.hap 0) (Reg.Hap.CH_CFG 15) 0 true (sb .sdg Reg.Sdg.SDG_STATE 4 false
    (d)))), by decide +kernel⟩,
   ⟨15, liveAt (fun d => sb (.hap 0) Reg.Hap.BST_STAT 31 true (sb (.hap 0) (Reg.Hap.CH_CFG 15) 0 true (sb .sdg Reg.Sdg.SDG_STATE 4 false
    (d)))), by decide +kernel⟩,
   ⟨15, liveAt (fun d => modHapCh 15 (fun h => { h with fault := 2 }) d), by decide +kernel⟩,
   ⟨1, 3, liveAt (fun d => sb (.hap 0) Reg.Hap.BST_STAT 29 true d), by decide +kernel, by decide +kernel⟩,
   ⟨1, liveAt (fun d => sf (.hap 0) Reg.Hap.BST_STAT 18 16 1 d), by decide +kernel, by decide +kernel⟩,
   ⟨.fold, liveAt id, fold_granted (by decide +kernel) (by decide +kernel)⟩,
   ⟨.fold, liveAt id, fold_granted (by decide +kernel) (by decide +kernel)⟩⟩

/-- What lets each of these commands have its own effect. -/
theorem witness_AudioCommandsAnswer :
    (∃ (who : Party) (s : State), Granted s.dev who (.aud 1) Reg.Aud1.ROUTE_COMMIT true) ∧
    (∃ (who : Party) (v : Word) (d : Dev) (s : State), Granted s.dev who (.aud 1) Reg.Aud1.ROUTE_COMMIT true ∧ gpIntervene
      (.aud 1) s.dev = d ∧ bitOf v 0 = true) ∧
    (∃ (r : Fin 256) (s : State), (routeS s.dev r.val).defer.isSome = true) ∧
    (∃ (dom : Fin 3) (s : State), audRuns s.dev = true ∧ domOn s.dev dom.val = true) ∧
    (∃ (s : State), s.dev.aud.active = [] ∧ rb s.dev (.aud 0) Reg.Aud0.DUCK_STAT 31 = true) ∧
    (∃ (dom : Fin 3) (s : State), rb s.dev (.aud 0) (Reg.Aud0.DOMAIN_STAT dom.val) 31 = true) ∧
    (∃ (dom : Fin 3) (ppm : BitVec 16) (s : State), ppm.toInt.natAbs ≤ 1000 ∧ domOn s.dev dom.val = true ∧ rf s.dev (.aud 0)
      (Reg.Aud0.DOMAIN_CFG dom.val) 18 16 ≠ 0 ∧ rb s.dev (.aud 0) (Reg.Aud0.DOMAIN_STAT dom.val) 31 = false) ∧
    (∃ (p : Fin 4) (s : State), tdmMode s.dev p.val = 2) ∧
    (∃ (who : Party) (s : State), Granted s.dev who (.afe 1) Reg.Afe1.ST_APPLY true) ∧
    (∃ (who : Party) (v : Word) (d : Dev) (s : State), Granted s.dev who (.afe 1) Reg.Afe1.ST_APPLY true ∧ gpIntervene (.afe 1) s.dev = d ∧
      bitOf v 0 = true ∧ (List.range 4).any (fun k => stBad (rg d (.afe 1) (Reg.Afe1.ST_CFG k))) = false) ∧
    (∃ (k : Fin 4) (element : Fin 3) (s : State), (stOf s.dev k.val).pend.contains element.val = true) ∧
    (∃ (k : Fin 4) (element : Fin 3) (s : State), (stOf s.dev k.val).pend.contains element.val = true) ∧
    (∃ (m : Fin 8) (s : State), rb s.dev (.afe 0) Reg.Afe0.MIC_CFG m.val = true ∧ rb s.dev (.afe 0) Reg.Afe0.MIC_STAT m.val = false) ∧
    (∃ (h : Fin 2) (s : State), rb s.dev (.afe 0) (Reg.Afe0.HS_STAT h.val) 31 = true ∧ rb s.dev (.afe 0) (Reg.Afe0.HS_CFG h.val) 1 = true ∧
      rb s.dev (.afe 0) (Reg.Afe0.HS_STAT h.val) 29 = false) ∧
    (∃ (who : Party) (o : Fin 4) (s : State), Granted s.dev who (.afe 0) (Reg.Afe0.SPK_CFG o.val) true) ∧
    (∃ (who : Party) (o : Fin 4) (v : Word) (d : Dev) (s : State), Granted s.dev who (.afe 0) (Reg.Afe0.SPK_CFG o.val) true ∧ gpIntervene
      (.afe 0) s.dev = d ∧ bitOf v 31 = true ∧ rb d (.afe 0) (Reg.Afe0.SPK_CFG o.val) 31 = false ∧ isoOf (plainWrite (.afe 0)
      (Reg.Afe0.SPK_CFG o.val) v d) (.afe 0) = false) ∧
    (∃ (o : Fin 4) (s : State), spkState s.dev o.val = 1) ∧
    (∃ (o : Fin 4) (s : State), spkState s.dev o.val = 2) ∧
    (∃ (o : Fin 4) (s : State),
      ((let d := s.dev; let kind := rf d (.afe 0) (Reg.Afe0.SPK_STAT o.val) 26 24; let still := kind < 5 ∨ (kind = 6 ∧ railBad d 12 = true) ∨ (kind = 7 ∧ junctionLimit < daleTemp d + 10); spkState d o.val = 3 ∧
      still = false ∧ (spkOf d o.val).stuck = false))) ∧
    (∃ (who : Party) (page : Option (Fin 512)) (s : State), Granted s.dev who (asPageOf (page.map (·.val))) Reg.Aud2.AS_CFG true) ∧
    (∃ (who : Party) (page : Option (Fin 512)) (v : Word) (k : Nat) (w : Word) (d : Dev) (s : State), Granted s.dev who (asPageOf (page.map
      (·.val))) Reg.Aud2.AS_CFG true ∧ gpIntervene (asPageOf (page.map (·.val))) s.dev = d ∧ page = none ∧ who = .fold ∧ asSel d none = k ∧
      bitOf v 31 = true ∧ bitOf (asOf d k).cfg 31 = false ∧ maskIn (asOf d k).cfg v 0x9F033330 = w ∧ asRefuse d who (asOf d k) w = 0) ∧
    (∃ (who : Party) (page : Option (Fin 512)) (n : Fin 64) (s : State), Granted s.dev who (asPageOf (page.map (·.val)))
      (Reg.Aud2.AS_PTR n.val) true) ∧
    (∃ (who : Party) (page : Option (Fin 512)) (n : Fin 64) (d : Dev) (s : State), Granted s.dev who (asPageOf (page.map (·.val)))
      (Reg.Aud2.AS_PTR n.val) true ∧ gpIntervene (asPageOf (page.map (·.val))) s.dev = d ∧ page = none ∧ (who = .fold ∨
      (asPad d n.val).isSome = false ∧ asFoldS d n.val = false)) ∧
    (∃ (who : Party) (s : State), Granted s.dev who (.aud 0) Reg.Aud0.AUD_CTRL true) ∧
    (∃ (who : Party) (s : State), Granted s.dev who (.afe 0) Reg.Afe0.AFE_CTRL true) :=
  ⟨⟨.fold, liveAt id, fold_granted (by decide +kernel) (by decide +kernel)⟩,
   ⟨.fold, 1, _, liveAt id, fold_granted (by decide +kernel) (by decide +kernel), rfl, by decide +kernel⟩,
   ⟨255, liveAt (fun d => modRoute 255 (fun r => { r with defer := some (0, 0) }) d), by decide +kernel⟩,
   ⟨2, liveAt (fun d => sb (.aud 0) (Reg.Aud0.DOMAIN_CFG 2) 31 true (sb (.aud 0) Reg.Aud0.AUD_CTRL 0 true (modSdg
    (fun g => { g with fellHeld := false }) d))), by decide +kernel, by decide +kernel⟩,
   ⟨liveAt (fun d => sb (.aud 0) Reg.Aud0.DUCK_STAT 31 true d), by decide +kernel, by decide +kernel⟩,
   ⟨2, liveAt (fun d => sb (.aud 0) (Reg.Aud0.DOMAIN_STAT 2) 31 true d), by decide +kernel⟩,
   ⟨2, 0, liveAt (fun d => sb (.aud 0) (Reg.Aud0.DOMAIN_CFG 2) 31 true (sf (.aud 0) (Reg.Aud0.DOMAIN_CFG 2) 18 16 1 d)), by decide +kernel,
    by decide +kernel, by decide +kernel, by decide +kernel⟩,
   ⟨3, liveAt (fun d => sf (.aud 0) (Reg.Aud0.TDM_CFG 3) 1 0 2 d), by decide +kernel⟩,
   ⟨.fold, liveAt id, fold_granted (by decide +kernel) (by decide +kernel)⟩,
   ⟨.fold, 1, _, liveAt id, fold_granted (by decide +kernel) (by decide +kernel), rfl, by decide +kernel, by decide +kernel⟩,
   ⟨3, 2, liveAt (fun d => modSt 3 (fun x => { x with pend := [2] }) d), by decide +kernel⟩,
   ⟨3, 2, liveAt (fun d => modSt 3 (fun x => { x with pend := [2] }) d), by decide +kernel⟩,
   ⟨7, liveAt (fun d => sb (.afe 0) Reg.Afe0.MIC_CFG 7 true d), by decide +kernel, by decide +kernel⟩,
   ⟨1, liveAt (fun d => sb (.afe 0) (Reg.Afe0.HS_STAT 1) 31 true (sb (.afe 0) (Reg.Afe0.HS_CFG 1) 1 true d)), by decide +kernel,
    by decide +kernel, by decide +kernel⟩,
   ⟨.fold, 3, liveAt id, fold_granted (by decide +kernel) (by decide +kernel)⟩,
   ⟨.fold, 3, 0x80000000, _, liveAt id, fold_granted (by decide +kernel) (by decide +kernel), rfl, by decide +kernel, by decide +kernel,
    by decide +kernel⟩,
   ⟨3, liveAt (fun d => sf (.afe 0) (Reg.Afe0.SPK_STAT 3) 30 28 1 d), by decide +kernel⟩,
   ⟨3, liveAt (fun d => sf (.afe 0) (Reg.Afe0.SPK_STAT 3) 30 28 2 d), by decide +kernel⟩,
   ⟨3, liveAt (fun d => sf (.afe 0) (Reg.Afe0.SPK_STAT 3) 30 28 3 (sf (.afe 0) (Reg.Afe0.SPK_STAT 3) 26 24 5 d)), by decide +kernel⟩,
   ⟨.fold, none, liveAt id, fold_granted (by decide +kernel) (by decide +kernel)⟩,
   ⟨.fold, none, 0x88000000, 0, _, _, liveAt (fun d => sb (.aud 0) (Reg.Aud0.DOMAIN_CFG 0) 31 true (d)), fold_granted (by decide +kernel)
    (by decide +kernel), rfl, by decide +kernel, by decide +kernel, by decide +kernel, by decide +kernel, by decide +kernel, rfl,
    by decide +kernel⟩,
   ⟨.fold, none, 63, liveAt id, fold_granted (by decide +kernel) (by decide +kernel)⟩,
   ⟨.fold, none, 63, _, liveAt id, fold_granted (by decide +kernel) (by decide +kernel), rfl, by decide +kernel, by decide +kernel⟩,
   ⟨.fold, liveAt id, fold_granted (by decide +kernel) (by decide +kernel)⟩,
   ⟨.fold, liveAt id, fold_granted (by decide +kernel) (by decide +kernel)⟩⟩

/-- What lets each of these commands have its own effect. -/
theorem witness_ManagerCommandsAnswer :
    (∃ (who : Party) (u : Fin 2) (s : State), Granted s.dev who (.padg u.val) Reg.Mgr.MGR_CMD true) ∧
    (∃ (who : Party) (u : Fin 2) (p : Nat) (d : Dev) (s : State), Granted s.dev who (.padg u.val) Reg.Mgr.MGR_CMD true ∧ gpIntervene
      (.padg u.val) s.dev = d ∧ isoOf d (.padg u.val) = false ∧ (upOf d u.val).cmd = none ∧ mgrArg d u.val 0 = p ∧ d.pad.full = true ∧
      padCheck d u.val p [0] = 0 ∧ vfLive d p = true) ∧
    (∃ (who : Party) (u : Fin 2) (s : State), Granted s.dev who (.padg u.val) Reg.Mgr.MGR_CMD true) ∧
    (∃ (who : Party) (u : Fin 2) (p : Nat) (d : Dev) (s : State), Granted s.dev who (.padg u.val) Reg.Mgr.MGR_CMD true ∧ gpIntervene
      (.padg u.val) s.dev = d ∧ isoOf d (.padg u.val) = false ∧ (upOf d u.val).cmd = none ∧ mgrArg d u.val 0 = p ∧
      padCheck d u.val p [1] = 0 ∧ mgrArg d u.val 1 ≤ 1) ∧
    (∃ (who : Party) (u : Fin 2) (s : State), Granted s.dev who (.padg u.val) Reg.Mgr.MGR_CMD true) ∧
    (∃ (who : Party) (u : Fin 2) (p : Nat) (d : Dev) (s : State), Granted s.dev who (.padg u.val) Reg.Mgr.MGR_CMD true ∧ gpIntervene
      (.padg u.val) s.dev = d ∧ isoOf d (.padg u.val) = false ∧ (upOf d u.val).cmd = none ∧ mgrArg d u.val 0 = p ∧
      padCheck d u.val p [3] = 0 ∧ vfLive d p = true ∧ (fnOf d (2 + p)).bme = true) ∧
    (∃ (who : Party) (u : Fin 2) (s : State), Granted s.dev who (.padg u.val) Reg.Mgr.MGR_CMD true) ∧
    (∃ (who : Party) (u : Fin 2) (p : Nat) (d : Dev) (s : State), Granted s.dev who (.padg u.val) Reg.Mgr.MGR_CMD true ∧ gpIntervene
      (.padg u.val) s.dev = d ∧ isoOf d (.padg u.val) = false ∧ (upOf d u.val).cmd = none ∧ mgrArg d u.val 0 = p ∧
      padCheck d u.val p [3] = 0 ∧ vfLive d p = true) ∧
    (∃ (who : Party) (u : Fin 2) (s : State), Granted s.dev who (.padg u.val) Reg.Mgr.MGR_CMD true) ∧
    (∃ (who : Party) (u : Fin 2) (p : Nat) (d : Dev) (s : State), Granted s.dev who (.padg u.val) Reg.Mgr.MGR_CMD true ∧ gpIntervene
      (.padg u.val) s.dev = d ∧ isoOf d (.padg u.val) = false ∧ (upOf d u.val).cmd = none ∧ mgrArg d u.val 0 = p ∧
      padCheck d u.val p [3] = 0) ∧
    (∃ (who : Party) (u : Fin 2) (s : State), Granted s.dev who (.padg u.val) Reg.Mgr.MGR_CMD true) ∧
    (∃ (who : Party) (u : Fin 2) (f n : Nat) (d : Dev) (s : State), Granted s.dev who (.padg u.val) Reg.Mgr.MGR_CMD true ∧ gpIntervene
      (.padg u.val) s.dev = d ∧ isoOf d (.padg u.val) = false ∧ (upOf d u.val).cmd = none ∧ mgrArg d u.val 0 = f ∧ mgrArg d u.val 1 = n ∧
      d.pad.full = true ∧ spanOk f n 16384 = true ∧ (span f n).any (fun k => fotKind d k != fkFree) = false ∧
      heldFrames d u.val + n ≤ d.pad.quota) ∧
    (∃ (who : Party) (u : Fin 2) (s : State), Granted s.dev who (.padg u.val) Reg.Mgr.MGR_CMD true) ∧
    (∃ (who : Party) (u : Fin 2) (f n : Nat) (d : Dev) (s : State), Granted s.dev who (.padg u.val) Reg.Mgr.MGR_CMD true ∧ gpIntervene
      (.padg u.val) s.dev = d ∧ isoOf d (.padg u.val) = false ∧ (upOf d u.val).cmd = none ∧ mgrArg d u.val 0 = f ∧ mgrArg d u.val 1 = n ∧
      d.pad.full = true ∧ spanOk f n 16384 = true ∧ (span f n).any (fun k => !ownFrame d u.val k) = false) ∧
    (∃ (who : Party) (u : Fin 2) (s : State), Granted s.dev who (.padg u.val) Reg.Mgr.MGR_CMD true) ∧
    (∃ (who : Party) (u : Fin 2) (p f i n : Nat) (d : Dev) (s : State), Granted s.dev who (.padg u.val) Reg.Mgr.MGR_CMD true ∧ gpIntervene
      (.padg u.val) s.dev = d ∧ isoOf d (.padg u.val) = false ∧ (upOf d u.val).cmd = none ∧ mgrArg d u.val 0 = p ∧ mgrArg d u.val 1 = f ∧
      mgrArg d u.val 2 = i ∧ mgrArg d u.val 3 = n ∧ d.pad.full = true ∧ portOf d p = some u.val ∧ spanOk f n 16384 = true ∧
      spanOk i n 8192 = true ∧ padCheck d u.val p [1, 2, 3, 4] = 0 ∧ (List.range n).any (fun k => !ownFrame d u.val (f + k) || bitOf
      (pmapGet d p (i + k)) 31) = false) ∧
    (∃ (who : Party) (u : Fin 2) (s : State), Granted s.dev who (.padg u.val) Reg.Mgr.MGR_CMD true) ∧
    (∃ (who : Party) (u : Fin 2) (p i n : Nat) (d : Dev) (s : State), Granted s.dev who (.padg u.val) Reg.Mgr.MGR_CMD true ∧ gpIntervene
      (.padg u.val) s.dev = d ∧ isoOf d (.padg u.val) = false ∧ (upOf d u.val).cmd = none ∧ mgrArg d u.val 0 = p ∧ mgrArg d u.val 1 = i ∧
      mgrArg d u.val 2 = n ∧ d.pad.full = true ∧ portOf d p = some u.val ∧ spanOk i n 8192 = true ∧ padCheck d u.val p [1, 2, 3, 4] = 0 ∧
      (span i n).any (fun k => !bitOf (pmapGet d p k) 31) = false) ∧
    (∃ (who : Party) (u : Fin 2) (s : State), Granted s.dev who (.padg u.val) Reg.Mgr.MGR_CMD true) ∧
    (∃ (who : Party) (u : Fin 2) (p kind n : Nat) (d : Dev) (s : State), Granted s.dev who (.padg u.val) Reg.Mgr.MGR_CMD true ∧ gpIntervene
      (.padg u.val) s.dev = d ∧ isoOf d (.padg u.val) = false ∧ (upOf d u.val).cmd = none ∧ mgrArg d u.val 0 = p ∧ argRes d u.val = (kind,
      n) ∧ portOf d p = some u.val ∧ n < resCount kind ∧ (kind ≠ 2 ∨ mgrArg d u.val 2 / 16 % 4 ≠ 0) ∧ padCheck d u.val p [1, 3] = 0 ∧
      inPool d u.val kind n = true ∧ leasable d kind n = true ∧ windowFull d p kind (mgrArg d u.val 2 % 4) = false) ∧
    (∃ (who : Party) (u : Fin 2) (s : State), Granted s.dev who (.padg u.val) Reg.Mgr.MGR_CMD true) ∧
    (∃ (who : Party) (u : Fin 2) (p kind n : Nat) (e d : Dev) (s : State), Granted s.dev who (.padg u.val) Reg.Mgr.MGR_CMD true ∧
      gpIntervene (.padg u.val) s.dev = d ∧ isoOf d (.padg u.val) = false ∧ (upOf d u.val).cmd = none ∧ mgrArg d u.val 0 = p ∧
      argRes d u.val = (kind, n) ∧ portOf d p = some u.val ∧ n < resCount kind ∧ leasee d kind n = some p ∧ padState d p ≠ 2 ∧
      padState d p ≠ 5 ∧ (kind ≠ 1 ∨ padState d p = 3 ∨ cEnable n (pipeOf d n).act = false) ∧ startUnlease kind n d = (false, e)) ∧
    (∃ (u : Fin 2) (op st : Nat) (s : State),
      (let d := s.dev; let s := upOf d u.val; s.cmd = some (op, st)) ∧ ((let d := s.dev; let s := upOf d u.val; isoOf d (.padg u.val) = false ∧
      s.scrubbing = [] ∧ s.wait.any (fun k => k.1 == 1 || !unleaseReady d k.1 k.2) = false))) ∧
    (∃ (i : Fin 64) (p : Nat) (s : State), leasee s.dev 1 i.val = some p ∧ (let d := s.dev; cEnable i.val (pipeOf d i.val).act = false)) ∧
    (∃ (p : Fin 512) (s : State), padState s.dev p.val = 2 ∧ quiesceOver s.dev p.val = true) ∧
    (∃ (p : Fin 512) (s : State), padState s.dev p.val = 2) ∧
    (∃ (p : Fin 512) (s : State), padState s.dev p.val = 4 ∧ padAudioOff s.dev p.val = true) ∧
    (∃ (p : Fin 512) (s : State), ((let d := s.dev; let s := padOf d p.val; padState d p.val = 5 ∧ s.scrubs = [] ∧
      s.waits.any (fun e => e.1 == 1 || !unleaseReady d e.1 e.2) = false))) :=
  ⟨⟨.fold, 1, liveAt id, fold_granted (by decide +kernel) (by decide +kernel)⟩,
   ⟨.fold, 1, 511, _, liveAt (fun d => sf (.pset 511 0) Reg.Pad.PAD_STAT 2 0 0 (sg (.padg 1) (Reg.Mgr.MGR_ARG 0) 511 (modMach
    (fun m => { m with full := true, vfs1 := 512, quota := 1 }) (modUp 1 (fun x => { x with vfEnable := true, numVfs := 512 }) (d))))),
    fold_granted (by decide +kernel) (by decide +kernel), rfl, by decide +kernel, by decide +kernel, by decide +kernel, by decide +kernel,
    by decide +kernel, by decide +kernel⟩,
   ⟨.fold, 1, liveAt id, fold_granted (by decide +kernel) (by decide +kernel)⟩,
   ⟨.fold, 1, 511, _, liveAt (fun d => sf (.pset 511 0) Reg.Pad.PAD_STAT 2 0 1 (sg (.padg 1) (Reg.Mgr.MGR_ARG 1) 1 (sg (.padg 1)
    (Reg.Mgr.MGR_ARG 0) 511 (modMach (fun m => { m with full := true, vfs1 := 512, quota := 1 }) (modUp 1
    (fun x => { x with vfEnable := true, numVfs := 512 }) (d)))))), fold_granted (by decide +kernel) (by decide +kernel), rfl,
    by decide +kernel, by decide +kernel, by decide +kernel, by decide +kernel, by decide +kernel⟩,
   ⟨.fold, 1, liveAt id, fold_granted (by decide +kernel) (by decide +kernel)⟩,
   ⟨.fold, 1, 511, _, liveAt (fun d => sf (.pset 511 0) Reg.Pad.PAD_STAT 2 0 3 (sg (.padg 1) (Reg.Mgr.MGR_ARG 0) 511 (modMach
    (fun m => { m with full := true, vfs1 := 512, quota := 1 }) (modUp 1 (fun x => { x with vfEnable := true, numVfs := 512 }) (modFn 513
    (fun x => { x with bme := true }) d))))), fold_granted (by decide +kernel) (by decide +kernel), rfl, by decide +kernel,
    by decide +kernel, by decide +kernel, by decide +kernel, by decide +kernel, by decide +kernel⟩,
   ⟨.fold, 1, liveAt id, fold_granted (by decide +kernel) (by decide +kernel)⟩,
   ⟨.fold, 1, 511, _, liveAt (fun d => sf (.pset 511 0) Reg.Pad.PAD_STAT 2 0 3 (sg (.padg 1) (Reg.Mgr.MGR_ARG 0) 511 (modMach
    (fun m => { m with full := true, vfs1 := 512, quota := 1 }) (modUp 1 (fun x => { x with vfEnable := true, numVfs := 512 }) (d))))),
    fold_granted (by decide +kernel) (by decide +kernel), rfl, by decide +kernel, by decide +kernel, by decide +kernel, by decide +kernel,
    by decide +kernel⟩,
   ⟨.fold, 1, liveAt id, fold_granted (by decide +kernel) (by decide +kernel)⟩,
   ⟨.fold, 1, 511, _, liveAt (fun d => sf (.pset 511 0) Reg.Pad.PAD_STAT 2 0 3 (sg (.padg 1) (Reg.Mgr.MGR_ARG 0) 511 (modMach
    (fun m => { m with full := true, vfs1 := 512, quota := 1 }) (modUp 1 (fun x => { x with vfEnable := true, numVfs := 512 }) (d))))),
    fold_granted (by decide +kernel) (by decide +kernel), rfl, by decide +kernel, by decide +kernel, by decide +kernel, by decide +kernel⟩,
   ⟨.fold, 1, liveAt id, fold_granted (by decide +kernel) (by decide +kernel)⟩,
   ⟨.fold, 1, 16383, 1, _, liveAt (fun d => sg (.padg 1) (Reg.Mgr.MGR_ARG 1) 1 (sg (.padg 1) (Reg.Mgr.MGR_ARG 0) 16383 (modMach
    (fun m => { m with full := true, vfs1 := 512, quota := 1 }) (modUp 1 (fun x => { x with vfEnable := true, numVfs := 512 }) (modMach
    (fun m => { m with fot := [(16383, fotWord fkFree 0 0)] }) (d)))))), fold_granted (by decide +kernel) (by decide +kernel), rfl,
    by decide +kernel, by decide +kernel, by decide +kernel, by decide +kernel, by decide +kernel, by decide +kernel, by decide +kernel,
    by decide +kernel⟩,
   ⟨.fold, 1, liveAt id, fold_granted (by decide +kernel) (by decide +kernel)⟩,
   ⟨.fold, 1, 16383, 1, _, liveAt (fun d => sg (.padg 1) (Reg.Mgr.MGR_ARG 1) 1 (sg (.padg 1) (Reg.Mgr.MGR_ARG 0) 16383 (modMach
    (fun m => { m with full := true, vfs1 := 512, quota := 1 }) (modUp 1 (fun x => { x with vfEnable := true, numVfs := 512 }) (modMach
    (fun m => { m with fot := [(16383, fotWord fkManager 1 0)] }) (d)))))), fold_granted (by decide +kernel) (by decide +kernel), rfl,
    by decide +kernel, by decide +kernel, by decide +kernel, by decide +kernel, by decide +kernel, by decide +kernel, by decide +kernel⟩,
   ⟨.fold, 1, liveAt id, fold_granted (by decide +kernel) (by decide +kernel)⟩,
   ⟨.fold, 1, 511, 16383, 8191, 1, _, liveAt (fun d => sf (.pset 511 0) Reg.Pad.PAD_STAT 2 0 1 (sg (.padg 1) (Reg.Mgr.MGR_ARG 3) 1 (sg
    (.padg 1) (Reg.Mgr.MGR_ARG 2) 8191 (sg (.padg 1) (Reg.Mgr.MGR_ARG 1) 16383 (sg (.padg 1) (Reg.Mgr.MGR_ARG 0) 511 (modMach
    (fun m => { m with full := true, vfs1 := 512, quota := 1 }) (modUp 1 (fun x => { x with vfEnable := true, numVfs := 512 }) (modMach
    (fun m => { m with fot := [(16383, fotWord fkManager 1 0)] }) (d))))))))), fold_granted (by decide +kernel) (by decide +kernel), rfl,
    by decide +kernel, by decide +kernel, by decide +kernel, by decide +kernel, by decide +kernel, by decide +kernel, by decide +kernel,
    by decide +kernel, by decide +kernel, by decide +kernel, by decide +kernel, by decide +kernel⟩,
   ⟨.fold, 1, liveAt id, fold_granted (by decide +kernel) (by decide +kernel)⟩,
   ⟨.fold, 1, 511, 8191, 1, _, liveAt (fun d => sf (.pset 511 0) Reg.Pad.PAD_STAT 2 0 4 (sg (.padg 1) (Reg.Mgr.MGR_ARG 2) 1 (sg (.padg 1)
    (Reg.Mgr.MGR_ARG 1) 8191 (sg (.padg 1) (Reg.Mgr.MGR_ARG 0) 511 (modMach (fun m => { m with full := true, vfs1 := 512, quota := 1 })
    (modUp 1 (fun x => { x with vfEnable := true, numVfs := 512 }) (modMach
    (fun m => { m with maps := [(511 * 8192 + 8191, 0x80003FFF)] }) d))))))), fold_granted (by decide +kernel) (by decide +kernel), rfl,
    by decide +kernel, by decide +kernel, by decide +kernel, by decide +kernel, by decide +kernel, by decide +kernel, by decide +kernel,
    by decide +kernel, by decide +kernel, by decide +kernel⟩,
   ⟨.fold, 1, liveAt id, fold_granted (by decide +kernel) (by decide +kernel)⟩,
   ⟨.fold, 1, 511, 1, 63, _, liveAt (fun d => sf (.pset 511 0) Reg.Pad.PAD_STAT 2 0 1 (sg (.padg 1) (Reg.Mgr.MGR_ARG 2) 3 (sg (.padg 1)
    (Reg.Mgr.MGR_ARG 1) 0x1000003F (sg (.padg 1) (Reg.Mgr.MGR_ARG 0) 511 (modMach
    (fun m => { m with full := true, vfs1 := 512, quota := 1 }) (modUp 1 (fun x => { x with vfEnable := true, numVfs := 512 }) (sf
    (.pipe 63) Reg.OWNER 17 16 1 (sf (.pset 511 0) Reg.Pad.WINDOW_PIPE 31 24 255 (sb (.padg 2)
    (Reg.Pool.POOL_PIPE 0 + 4 + 0x80) 31 true d))))))))), fold_granted (by decide +kernel) (by decide +kernel), rfl, by decide +kernel,
    by decide +kernel, by decide +kernel, by decide +kernel, by decide +kernel, by decide +kernel, by decide +kernel, by decide +kernel,
    by decide +kernel, by decide +kernel, by decide +kernel⟩,
   ⟨.fold, 1, liveAt id, fold_granted (by decide +kernel) (by decide +kernel)⟩,
   ⟨.fold, 1, 511, 1, 63, _, _, liveAt (fun d => sf (.pset 511 0) Reg.Pad.PAD_STAT 2 0 1 (sg (.padg 1) (Reg.Mgr.MGR_ARG 1) 0x1000003F (sg
    (.padg 1) (Reg.Mgr.MGR_ARG 0) 511 (modMach (fun m => { m with full := true, vfs1 := 512, quota := 1 }) (modUp 1
    (fun x => { x with vfEnable := true, numVfs := 512 }) (sf (.pipe 63) Reg.OWNER 17 16 3 (sf (.pipe 63) Reg.OWNER 9 0 511 d))))))),
    fold_granted (by decide +kernel) (by decide +kernel), rfl, by decide +kernel, by decide +kernel, by decide +kernel, by decide +kernel,
    by decide +kernel, by decide +kernel, by decide +kernel, by decide +kernel, by decide +kernel, by decide +kernel, fst_is
    (by decide +kernel)⟩,
   ⟨1, 11, 0, liveAt (fun d => modUp 1 (fun x => { x with cmd := some (11, 0) }) d), by decide +kernel, by decide +kernel⟩,
   ⟨63, 511, liveAt (fun d => sf (.pipe 63) Reg.OWNER 17 16 3 (sf (.pipe 63) Reg.OWNER 9 0 511 d)), by decide +kernel, by decide +kernel⟩,
   ⟨511, liveAt (fun d => sf (.pset 511 0) Reg.Pad.PAD_STAT 2 0 2 d), by decide +kernel, by decide +kernel⟩,
   ⟨511, liveAt (fun d => sf (.pset 511 0) Reg.Pad.PAD_STAT 2 0 2 d), by decide +kernel⟩,
   ⟨511, liveAt (fun d => sf (.pset 511 0) Reg.Pad.PAD_STAT 2 0 4 d), by decide +kernel, by decide +kernel⟩,
   ⟨511, liveAt (fun d => sf (.pset 511 0) Reg.Pad.PAD_STAT 2 0 5 d), by decide +kernel⟩⟩

/-- What lets each of these commands have its own effect. -/
theorem witness_HostPortCommandsAnswer :
    (∃ (u : Fin 2) (numVfs : BitVec 16) (s : State), ((let d := s.dev; let ps := padsOf d u.val; ¬ (d.boot.stage < 8) ∧
      ¬ (ps.length < numVfs.toNat)))) ∧
    (∃ (p : Fin 512) (s : State), vfLive s.dev p.val = true) ∧
    (∃ (fn : Fin 514) (s : State), (fnOf s.dev fn.val).bme = true) ∧
    (∃ (fn : Fin 514) (s : State), (¬ (2 ≤ fn.val ∧ vfLive s.dev (fn.val - 2) = false))) ∧
    (∃ (who : Party) (fn : Fin 514) (k : Fin 32) (s : State), Granted s.dev who (msixPage fn.val) (Reg.MSIX_CTRL k.val) true) ∧
    (∃ (p : Fin 512) (off : BitVec 28) (w : Width) (r : MemAns) (e : Dev) (s : State), vfLive s.dev p.val = true ∧ isoOf s.dev
      (.pset p.val 0) = false ∧ memRead (.party (.paddock (Fin.ofNat 512 p.val))) { tier := 1, port := 14 + (portOf s.dev p.val).getD 0 }
      (rf s.dev (.pset p.val 0) Reg.Pad.APERTURE 5 0 * 2 ^ 28 + off.toNat) (widthBytes w) s.dev = (r, e) ∧ r.ok = true) ∧
    (∃ (p : Fin 512) (off : BitVec 28) (w : Width) (x : BitVec 64) (e : Dev) (s : State), vfLive s.dev p.val = true ∧ isoOf s.dev
      (.pset p.val 0) = false ∧ memWrite (.party (.paddock (Fin.ofNat 512 p.val))) { tier := 1, port := 14 + (portOf s.dev p.val).getD 0 }
      (rf s.dev (.pset p.val 0) Reg.Pad.APERTURE 5 0 * 2 ^ 28 + off.toNat) (leBytes (widthBytes w) x.toNat) s.dev = (true, e)) ∧
    (∃ (who : Party) (p : Fin 512) (s : State), Granted s.dev who (.pset p.val 0) Reg.Pad.PAD_STAT false) :=
  ⟨⟨1, 512, liveAt (fun d => modMach (fun m => { m with full := true, vfs1 := 512, quota := 1 }) (modUp 1
    (fun x => { x with vfEnable := true, numVfs := 512 }) (modBoot (fun b => { b with stage := 8 }) d))), by decide +kernel⟩,
   ⟨511, liveAt (fun d => modMach (fun m => { m with full := true, vfs1 := 512, quota := 1 }) (modUp 1
    (fun x => { x with vfEnable := true, numVfs := 512 }) (d))), by decide +kernel⟩,
   ⟨513, liveAt (fun d => modFn 513 (fun x => { x with bme := true }) d), by decide +kernel⟩,
   ⟨513, liveAt (fun d => modMach (fun m => { m with full := true, vfs1 := 512, quota := 1 }) (modUp 1
    (fun x => { x with vfEnable := true, numVfs := 512 }) (d))), by decide +kernel⟩,
   ⟨.fold, 513, 31, liveAt id, fold_granted (by decide +kernel) (by decide +kernel)⟩,
   ⟨511, 0, .b4, _, _, liveAt (fun d => sf (.pset 511 0) Reg.Pad.PAD_STAT 2 0 1 (modMach
    (fun m => { m with full := true, vfs1 := 512, quota := 1 }) (modUp 1 (fun x => { x with vfEnable := true, numVfs := 512 }) (modMach
    (fun m => { m with fot := [(1, fotWord fkPaddock 511 0)], maps := [(511 * 8192, 0x80000001)] }) d)))), by decide +kernel,
    by decide +kernel, Prod.mk.eta.symm, by decide +kernel⟩,
   ⟨511, 0, .b4, 0, _, liveAt (fun d => sf (.pset 511 0) Reg.Pad.PAD_STAT 2 0 1 (modMach
    (fun m => { m with full := true, vfs1 := 512, quota := 1 }) (modUp 1 (fun x => { x with vfEnable := true, numVfs := 512 }) (modMach
    (fun m => { m with fot := [(1, fotWord fkPaddock 511 0)], maps := [(511 * 8192, 0x80000001)] }) d)))), by decide +kernel,
    by decide +kernel, fst_is (by decide +kernel)⟩,
   ⟨.fold, 511, liveAt id, fold_granted (by decide +kernel) (by decide +kernel)⟩⟩

/-- What lets each of these commands have its own effect. -/
theorem witness_GateAndCopyCommandsAnswer :
    (∃ (who : Party) (p : Fin 512) (s : State), Granted s.dev who (.pset p.val 1) gateUp.wptr true) ∧
    (∃ (who : Party) (p : Fin 512) (v : Word) (w k : Nat) (d : Dev) (s : State), Granted s.dev who (.pset p.val 1) gateUp.wptr true ∧
      gpIntervene (.pset p.val 1) s.dev = d ∧ fld v 2 0 = w ∧ gateWorks d p.val = true ∧ (w + 8 - gateCtr d p.val gateUp.rptr) % 8 ≤ 4 ∧
      (w + 8 - gateCtr d p.val gateUp.vptr) % 8 = k) ∧
    (∃ (who : Party) (p : Fin 512) (s : State), Granted s.dev who (.pset p.val 1) gateDown.wptr true) ∧
    (∃ (who : Party) (p : Fin 512) (v : Word) (w k : Nat) (d : Dev) (s : State), Granted s.dev who (.pset p.val 1) gateDown.wptr true ∧
      gpIntervene (.pset p.val 1) s.dev = d ∧ fld v 2 0 = w ∧ gateWorks d p.val = true ∧ (w + 8 - gateCtr d p.val gateDown.rptr) % 8 ≤ 4 ∧
      (w + 8 - gateCtr d p.val gateDown.vptr) % 8 = k) ∧
    (∃ (who : Party) (p : Fin 512) (s : State), Granted s.dev who (.pset p.val 1) gateUp.rptr true) ∧
    (∃ (who : Party) (p : Fin 512) (v : Word) (d : Dev) (s : State), Granted s.dev who (.pset p.val 1) gateUp.rptr true ∧ gpIntervene
      (.pset p.val 1) s.dev = d ∧ isoOf d (.pset p.val 1) = false ∧ (fld v 2 0 + 8 - gateCtr d p.val gateUp.rptr) % 8 ≤
      (gateCtr d p.val gateUp.vptr + 8 - gateCtr d p.val gateUp.rptr) % 8) ∧
    (∃ (who : Party) (p : Fin 512) (s : State), Granted s.dev who (.pset p.val 1) gateDown.rptr true) ∧
    (∃ (who : Party) (p : Fin 512) (v : Word) (d : Dev) (s : State), Granted s.dev who (.pset p.val 1) gateDown.rptr true ∧ gpIntervene
      (.pset p.val 1) s.dev = d ∧ isoOf d (.pset p.val 1) = false ∧ (fld v 2 0 + 8 - gateCtr d p.val gateDown.rptr) % 8 ≤
      (gateCtr d p.val gateDown.vptr + 8 - gateCtr d p.val gateDown.rptr) % 8) ∧
    (∃ (who : Party) (q : Fin 514) (s : State), Granted s.dev who (cqPage q.val) (cqBase q.val + Reg.Cq.CQ_CFG) true) ∧
    (∃ (who : Party) (q : Fin 514) (v : Word) (d : Dev) (s : State), Granted s.dev who (cqPage q.val) (cqBase q.val + Reg.Cq.CQ_CFG) true ∧
      gpIntervene (cqPage q.val) s.dev = d ∧ cqOn d q.val = false ∧ 4 ≤ fld v 3 0 ∧ fld v 3 0 ≤ 12 ∧ cqRing d q.val %
      (32 * 2 ^ fld v 3 0) = 0 ∧ bitOf v 31 = true) ∧
    (∃ (who : Party) (q : Fin 514) (s : State), Granted s.dev who (cqPage q.val) (cqBase q.val + Reg.Cq.CQ_WPTR) true) ∧
    (∃ (who : Party) (q : Fin 514) (d : Dev) (s : State), Granted s.dev who (cqPage q.val) (cqBase q.val + Reg.Cq.CQ_WPTR) true ∧
      gpIntervene (cqPage q.val) s.dev = d ∧ takesWork d who = true) ∧
    (∃ (q : Fin 514) (host : List Byte) (r : MemAns) (e f : Dev) (s : State), cqRuns s.dev q.val = true ∧ memRead
      (cqRingWho q.val) { tier := 1, port := 6 + Config.freeNat s.dev.free 0x453 % 8 } (cqRing s.dev q.val + 32 * cqRptr s.dev q.val) 32
      (tick s.dev) = (r, e) ∧ r.ok = true ∧ r.poison = false ∧ cqBad (cqDesc r.bytes) = false ∧
      cqMove q.val { tier := 1, port := 6 + Config.freeNat s.dev.free 0x453 % 8 } (cqDesc r.bytes) host 257 0 e = (0, f)) ∧
    (∃ (f : Fin 16384) (s : State), fotKind s.dev f.val = fkScrub) ∧
    (∃ (who : Party) (s : State), Granted s.dev who (.padg 2) Reg.Pool.FOT_CMD true) ∧
    (∃ (who : Party) (f : Nat) (d : Dev) (s : State), Granted s.dev who (.padg 2) Reg.Pool.FOT_CMD true ∧ gpIntervene (.padg 2) s.dev = d ∧
      isoOf d (.padg 2) = false ∧ rf d (.padg 2) Reg.Pool.FOT_INDEX 13 0 = f ∧ d.pad.giving = none ∧ fotKind d f = fkFree) ∧
    (∃ (who : Party) (s : State), Granted s.dev who (.padg 2) Reg.Pool.FOT_CMD true) ∧
    (∃ (who : Party) (f : Nat) (d : Dev) (s : State), Granted s.dev who (.padg 2) Reg.Pool.FOT_CMD true ∧ gpIntervene (.padg 2) s.dev = d ∧
      isoOf d (.padg 2) = false ∧ rf d (.padg 2) Reg.Pool.FOT_INDEX 13 0 = f ∧ d.pad.giving = none ∧ fotKind d f = fkField) :=
  ⟨⟨.fold, 511, liveAt id, fold_granted (by decide +kernel) (by decide +kernel)⟩,
   ⟨.fold, 511, 0, 0, 0, _, liveAt (fun d => sf (.pset 511 0) Reg.Pad.PAD_STAT 2 0 1 d), fold_granted (by decide +kernel)
    (by decide +kernel), rfl, by decide +kernel, by decide +kernel, by decide +kernel, by decide +kernel⟩,
   ⟨.fold, 511, liveAt id, fold_granted (by decide +kernel) (by decide +kernel)⟩,
   ⟨.fold, 511, 0, 0, 0, _, liveAt (fun d => sf (.pset 511 0) Reg.Pad.PAD_STAT 2 0 1 d), fold_granted (by decide +kernel)
    (by decide +kernel), rfl, by decide +kernel, by decide +kernel, by decide +kernel, by decide +kernel⟩,
   ⟨.fold, 511, liveAt id, fold_granted (by decide +kernel) (by decide +kernel)⟩,
   ⟨.fold, 511, 0, _, liveAt id, fold_granted (by decide +kernel) (by decide +kernel), rfl, by decide +kernel, by decide +kernel⟩,
   ⟨.fold, 511, liveAt id, fold_granted (by decide +kernel) (by decide +kernel)⟩,
   ⟨.fold, 511, 0, _, liveAt id, fold_granted (by decide +kernel) (by decide +kernel), rfl, by decide +kernel, by decide +kernel⟩,
   ⟨.fold, 513, liveAt id, fold_granted (by decide +kernel) (by decide +kernel)⟩,
   ⟨.fold, 513, 0x80000004, _, liveAt id, fold_granted (by decide +kernel) (by decide +kernel), rfl, by decide +kernel, by decide +kernel,
    by decide +kernel, by decide +kernel, by decide +kernel⟩,
   ⟨.fold, 513, liveAt id, fold_granted (by decide +kernel) (by decide +kernel)⟩,
   ⟨.fold, 513, _, liveAt id, fold_granted (by decide +kernel) (by decide +kernel), rfl, by decide +kernel⟩,
   ⟨0, [], _, _, _, liveAt (fun d => sf (.padg 0) (0x070 + Reg.Cq.CQ_WPTR) 11 0 1 (sg (.padg 0) (0x070 + Reg.Cq.CQ_CFG) 0x80000004 (sg64
    (.padg 0) (0x070 + Reg.Cq.CQ_BASE_LO) pastBase (writeBytes setPast 0 (([7, 0, 0x1000, 0x10, 4, 4, 0, 0].map (leBytes 4)).flatten) d)))),
    by decide +kernel, Prod.mk.eta.symm, by decide +kernel, by decide +kernel, by decide +kernel, fst_is (by decide +kernel)⟩,
   ⟨16383, liveAt (fun d => modMach (fun m => { m with fot := [(16383, fotWord fkScrub 0 0)] }) (d)), by decide +kernel⟩,
   ⟨.fold, liveAt id, fold_granted (by decide +kernel) (by decide +kernel)⟩,
   ⟨.fold, 16383, _, liveAt (fun d => sf (.padg 2) Reg.Pool.FOT_INDEX 13 0 16383 (modMach
    (fun m => { m with fot := [(16383, fotWord fkFree 0 0)] }) (d))), fold_granted (by decide +kernel) (by decide +kernel), rfl,
    by decide +kernel, by decide +kernel, by decide +kernel, by decide +kernel⟩,
   ⟨.fold, liveAt id, fold_granted (by decide +kernel) (by decide +kernel)⟩,
   ⟨.fold, 16383, _, liveAt (fun d => sf (.padg 2) Reg.Pool.FOT_INDEX 13 0 16383 (modMach
    (fun m => { m with fot := [(16383, fotWord fkField 0 0)] }) (d))), fold_granted (by decide +kernel) (by decide +kernel), rfl,
    by decide +kernel, by decide +kernel, by decide +kernel, by decide +kernel⟩⟩

/-- What lets each of these commands have its own effect. -/
theorem witness_WorldCommandsAnswer :
    (∃ (n : Fin 4) (file : CoreFile) (s : State), coreGoes s.dev n.val = true ∧ (coreOf (modCore n.val
      (fun c => { c with regs := file }) s.dev) n.val).fold = false ∧ file.mode ≠ 0 ∧ isoOf (modCore n.val
      (fun c => { c with regs := file }) s.dev) (.wld 0) = false) ∧
    (∃ (n : Fin 4) (file : CoreFile) (ret : BitVec 64) (mode : Fin 4) (s : State), coreGoes s.dev n.val = true ∧
      ((let c := coreOf (modCore n.val (fun c => { c with regs := file }) s.dev) n.val; c.fold = true ∧ c.entry = some (.call ret mode))) ∧
      file.mode ≠ 0) ∧
    (∃ (a : BitVec 32) (en : BitVec 4) (p : Page) (n : Nat) (s : State), pageOf a.toNat = some p ∧ irqOn s.dev p = true ∧
      ownedByFold s.dev p = true ∧ coreOfMask (rf s.dev (.wld 0) Reg.Wld0.FOLD_INT_MASK 3 0)
      (fun n => (coreOf s.dev n).fold && !(coreOf s.dev n).stopped && !(coreOf s.dev n).halted && en.toNat.testBit n) = some n) ∧
    (∃ (a : BitVec 32) (en : BitVec 4) (p : Page) (n : Nat) (s : State), pageOf a.toNat = some p ∧ irqOn s.dev p = true ∧
      ownedByFold s.dev p = false ∧ ownedByField s.dev p = true ∧ coreOfMask (rf s.dev (.wld 1) Reg.Wld1.FIELD_INT_MASK 3 0)
      (fun n => !(coreOf s.dev n).fold && coreGoes s.dev n && en.toNat.testBit n) = some n) ∧
    (∃ (n : Fin 4) (s : State), rf s.dev (.wld 0) Reg.Wld0.FOLD_BUDGET 15 0 ≠ 0 ∧ (coreOf s.dev n.val).fold = true ∧
      (coreOf s.dev n.val).long = false ∧ rf s.dev (.wld 1) Reg.Wld1.FIELD_INT_MASK 3 0 = 2 ^ n.val ∧ asserted s.dev 1 ≠ []) ∧
    (∃ (n : Fin 4) (kind : Fin 3) (a : BitVec 64) (bytes : Nat) (r : MemAns) (e : Dev) (s : State), coreGoes s.dev n.val = true ∧
      kind.val ≠ 2 ∧ (!(coreOf s.dev n.val).fold && belowLine { s.dev with data := [], poisoned := false } a.toNat bytes) = false ∧
      rangeOk { s.dev with data := [], poisoned := false } (.party (if
      (coreOf s.dev n.val).fold then .fold else .field)) a.toNat bytes = true ∧ memRead (.party (if
      (coreOf s.dev n.val).fold then .fold else .field)) { tier := 2, port := 0 } a.toNat bytes { s.dev with data := [], poisoned := false } = (r,
      e) ∧ r.poison = false) ∧
    (∃ (n : Fin 4) (a : BitVec 64) (bs : List Byte) (s : State), coreGoes s.dev n.val = true ∧
      (!(coreOf s.dev n.val).fold && belowLine { s.dev with data := [], poisoned := false } a.toNat bs.length) = false ∧
      rangeOk { s.dev with data := [], poisoned := false } (.party (if
      (coreOf s.dev n.val).fold then .fold else .field)) a.toNat bs.length = true) ∧
    (∃ (past : Bool) (lo hi : Nat) (s : State), s.dev.wld.raising = some (past, lo, hi)) ∧
    (∃ (who : Party) (s : State), Granted s.dev who (.wld 0) Reg.Wld0.WLD_CTRL true) ∧
    (∃ (n : Fin 4) (s : State), (coreOf s.dev n.val).stopped = false ∧ (invasive s.dev true || invasive s.dev false) = true) :=
  ⟨⟨3, { mode := 3 }, liveAt (fun d => modCore 3 (fun c => { c with stopped := false, fold := false }) (d)), by decide +kernel,
    by decide +kernel, by decide +kernel, by decide +kernel⟩,
   ⟨3, { mode := 3 }, 0x80000000, 3, liveAt (fun d => modCore 3 (fun c => { c with stopped := false, entry := some (.call 0x80000000 3) })
    (d)), by decide +kernel, by decide +kernel, by decide +kernel⟩,
   ⟨BitVec.ofNat 32 (Page.sys 0).base, 8, .sys 0, 3, liveAt (fun d => sf (.wld 0) Reg.Wld0.FOLD_INT_MASK 3 0 8 (sg (.sys 0) Reg.EVENT 1 (sg
    (.sys 0) Reg.EVENT_EN 1 (modCore 3 (fun c => { c with stopped := false }) (d))))), by decide +kernel, by decide +kernel,
    by decide +kernel, by decide +kernel⟩,
   ⟨BitVec.ofNat 32 (Page.sys 1).base, 8, .sys 1, 3, liveAt (fun d => sf (.wld 1) Reg.Wld1.FIELD_INT_MASK 3 0 8 (sg (.sys 1) Reg.EVENT 1 (sg
    (.sys 1) Reg.EVENT_EN 1 (modCore 3 (fun c => { c with stopped := false, fold := false }) (d))))), by decide +kernel, by decide +kernel,
    by decide +kernel, by decide +kernel, by decide +kernel⟩,
   ⟨3, liveAt (fun d => sf (.wld 0) Reg.Wld0.FOLD_BUDGET 15 0 100 (sf (.wld 1) Reg.Wld1.FIELD_INT_MASK 3 0 8 (sg (.sys 1) Reg.EVENT 1 (sg
    (.sys 1) Reg.EVENT_EN 1 (modCore 3 (fun c => { c with stopped := false }) (d)))))), by decide +kernel, by decide +kernel,
    by decide +kernel, by decide +kernel, by decide +kernel⟩,
   ⟨3, 1, 0x1001FFFFF8, 8, _, _, liveAt (fun d => modCore 3 (fun c => { c with stopped := false }) (d)), by decide +kernel,
    by decide +kernel, by decide +kernel, by decide +kernel, Prod.mk.eta.symm, by decide +kernel⟩,
   ⟨3, 0x1001FFFFF8, [1, 2, 3, 4, 5, 6, 7, 8], liveAt (fun d => modCore 3 (fun c => { c with stopped := false }) (d)), by decide +kernel,
    by decide +kernel, by decide +kernel⟩,
   ⟨true, 0, 1, liveAt (fun d => modWld (fun w => { w with raising := some (true, 0, 1) }) d), by decide +kernel⟩,
   ⟨.fold, liveAt id, fold_granted (by decide +kernel) (by decide +kernel)⟩,
   ⟨3, liveAt (fun d => sb (.wld 0) Reg.Wld0.DEBUG_STAT 0 true (modCore 3 (fun c => { c with stopped := false }) (d))), by decide +kernel,
    by decide +kernel⟩⟩

/-- What lets each of these commands have its own effect. -/
theorem witness_TamperCommandsAnswer :
    (∃ (n : Fin 2) (s : State), rb s.dev .lcs Reg.Lcs.TAMPER_CFG (8 * n.val + 7) = true) ∧
    (∃ (s : State), rf s.dev .lcs Reg.Lcs.WIPE_STAT 3 0 = 2) ∧
    (∃ (s : State), rf s.dev .lcs Reg.Lcs.WIPE_STAT 3 0 = 3) ∧
    (∃ (who : Party) (s : State), Granted s.dev who .lcs Reg.Lcs.TAMPER_CLEAR true) :=
  ⟨⟨1, liveAt id, by decide +kernel⟩,
   ⟨liveAt (fun d => sf .lcs Reg.Lcs.WIPE_STAT 3 0 2 d), by decide +kernel⟩,
   ⟨liveAt (fun d => sf .lcs Reg.Lcs.WIPE_STAT 3 0 3 d), by decide +kernel⟩,
   ⟨.fold, liveAt id, fold_granted (by decide +kernel) (by decide +kernel)⟩⟩

/-- What lets each of these commands have its own effect. -/
theorem witness_TetherCommandsAnswer :
    (∃ (s : State), tetUp s.dev = true ∧ s.dev.sdg.inReset = false) ∧
    (∃ (s : State), tetUp s.dev = true) ∧
    (∃ (s : State), tetState s.dev = 0 ∧ s.dev.sdg.inReset = false ∧ isoOf s.dev .tet = false) ∧
    (∃ (s : State), s.dev.sdg.inReset = false ∧ fellLive s.dev = true ∧ s.dev.sdg.reload = 0) ∧
    (∃ (bytes : List Byte) (s : State), fellLive s.dev = true ∧ tetUp s.dev = true ∧ s.dev.sdg.inReset = false ∧ cwGood bytes = true ∧
      cwSource bytes = 0) ∧
    (∃ (bytes : List Byte) (x : Exchange) (s : State), s.dev.sdg.open_ = some x ∧ cwGood bytes = true ∧ cwSource bytes = 1 ∧
      cwSeq bytes = x.seq ∧ cwEpoch bytes = s.dev.sdg.vaoEpoch % 2 ^ 32) ∧
    (∃ (x : Exchange) (s : State), s.dev.sdg.open_ = some x) ∧
    (∃ (s : State), ¬ (s.dev.boot.stage < 7) ∧ s.dev.sdg.fellHeld = false ∧ ownGather s.dev = false) ∧
    (∃ (s : State), gatherWire s.dev = true) ∧
    (∃ (s : State), gatherWire s.dev = false) ∧
    (∃ (s : State), s.dev.sdg.inReset = false) ∧
    (∃ (s : State), s.dev.sdg.inReset = true ∧ s.dev.sdg.deadHeld = false ∧ s.dev.pwr.held = false ∧ railInvalid s.dev 9 = false ∧
      railInvalid s.dev 10 = false) ∧
    (∃ (s : State), s.dev.sdg.reload ≠ 0 ∧ s.dev.sdg.inReset = false) :=
  ⟨⟨liveAt id, by decide +kernel, by decide +kernel⟩,
   ⟨liveAt id, by decide +kernel⟩,
   ⟨liveAt (fun d => sf .tet Reg.Tet.TET_STAT 1 0 0 d), by decide +kernel, by decide +kernel, by decide +kernel⟩,
   ⟨liveAt (fun d => modSdg (fun g => { g with fellHeld := false }) (d)), by decide +kernel, by decide +kernel, by decide +kernel⟩,
   ⟨[255, 255, 0, 0, 0, 0, 0, 0, 107, 240, 221, 227], liveAt (fun d => modSdg (fun g => { g with fellHeld := false }) (d)),
    by decide +kernel, by decide +kernel, by decide +kernel, by decide +kernel, by decide +kernel⟩,
   ⟨[255, 255, 0, 1, 0, 0, 0, 0, 199, 159, 204, 219], { seq := 0xFFFF, st := 0 }, liveAt (fun d => modSdg
    (fun g => { g with open_ := some { seq := 0xFFFF, st := 0 } }) (d)), by decide +kernel, by decide +kernel, by decide +kernel,
    by decide +kernel, by decide +kernel⟩,
   ⟨{ seq := 0xFFFF, st := 0 }, liveAt (fun d => modSdg (fun g => { g with open_ := some { seq := 0xFFFF, st := 0 } }) (d)),
    by decide +kernel⟩,
   ⟨liveAt (fun d => modSdg (fun g => { g with fellHeld := false }) (modBoot (fun b => { b with stage := 7 }) d)), by decide +kernel,
    by decide +kernel, by decide +kernel⟩,
   ⟨liveAt (fun d => sb .sdg Reg.Sdg.SDG_STATE 4 true d), by decide +kernel⟩,
   ⟨liveAt (fun d => sb .sdg Reg.Sdg.SDG_STATE 4 false d), by decide +kernel⟩,
   ⟨liveAt id, by decide +kernel⟩,
   ⟨liveAt (fun d => modSdg (fun g => { g with inReset := true })
    ({ d with pwr := { d.pwr with held := false, rails := (List.range 11).map (fun i => (i, { judge := 0 })) } })), by decide +kernel,
    by decide +kernel, by decide +kernel, by decide +kernel, by decide +kernel⟩,
   ⟨liveAt (fun d => modSdg (fun g => { g with reload := 2 }) (d)), by decide +kernel, by decide +kernel⟩⟩

/-- What lets each of these commands have its own effect. -/
theorem witness_SheepdogCommandsAnswer :
    (∃ (r : FaultRep × Nat) (rs : List (FaultRep × Nat)) (s : State), s.dev.sdg.inReset = false ∧ s.dev.sdg.reports = r :: rs) ∧
    (∃ (pos : Nat) (a : ActiveEntry) (s : State), s.dev.sdg.active[pos]? = some a) ∧
    (∃ (pos : Nat) (a : ActiveEntry) (s : State), s.dev.sdg.active[pos]? = some a ∧ mayClear s.dev a = true) ∧
    (∃ (who : Party) (s : State), Granted s.dev who .sdg Reg.Sdg.SDG_REQ true) ∧
    (∃ (who : Party) (code : BitVec 8) (v : SdgEvent) (d : Dev) (s : State), Granted s.dev who .sdg Reg.Sdg.SDG_REQ true ∧
      gpIntervene .sdg s.dev = d ∧ isoOf d .sdg = false ∧ v = { event := 4, block := 0xFF, source := code.toNat, cls := 0xFF, page := 0 } ∧
      (d.sdg.tableOn = false ∨ (matchEvent d v).isSome = true)) ∧
    (∃ (who : Party) (s : State), Granted s.dev who .sdg Reg.Sdg.SDG_REQ true) ∧
    (∃ (who : Party) (entry : BitVec 16) (d : Dev) (s : State), Granted s.dev who .sdg Reg.Sdg.SDG_REQ true ∧ gpIntervene .sdg s.dev = d ∧
      isoOf d .sdg = false ∧ d.sdg.active.any (fun a => a.key == releaseKey entry.toNat && (a.release == 2 || a.release == 3)) = true) ∧
    (∃ (s : State), s.dev.boot.stage = 0 ∧ s.dev.sdg.fellHeld = true ∧ s.dev.sdg.inReset = false ∧ s.dev.pwr.held = false ∧
      railHold s.dev = false ∧ s.dev.pwr.xtalLost = false ∧ s.dev.sdg.waiting = false ∧ s.dev.sdg.recovery = false ∧ wiping s.dev = false) ∧
    (∃ (s : State), s.dev.sdg.waiting = true) :=
  ⟨⟨({ block := 0x10, src := 1, cls := 0, event := 0, frame := 0 }, 0), [], liveAt (fun d => modSdg
    (fun g => { g with reports := [({ block := 0x10, src := 1, cls := 0, event := 0, frame := 0 }, 0)] }) (d)), by decide +kernel,
    by decide +kernel⟩,
   ⟨0, { key := 0, stTo := 1, release := 3, holdMs := 0, actions := 4, report := 0, event := 4, causes := [], heldDone := false, clear := false, asked := false, served := false, done := false },
    liveAt (fun d => modSdg
    (fun g => { g with active := [{ key := 0, stTo := 1, release := 3, holdMs := 0, actions := 4, report := 0, event := 4, causes := [], heldDone := false, clear := false, asked := false, served := false, done := false }] })
    (d)), by decide +kernel⟩,
   ⟨0, { key := 0, stTo := 1, release := 3, holdMs := 0, actions := 4, report := 0, event := 4, causes := [], heldDone := false, clear := false, asked := false, served := false, done := false },
    liveAt (fun d => modSdg
    (fun g => { g with active := [{ key := 0, stTo := 1, release := 3, holdMs := 0, actions := 4, report := 0, event := 4, causes := [], heldDone := false, clear := false, asked := false, served := false, done := false }] })
    (d)), by decide +kernel, by decide +kernel⟩,
   ⟨.fold, liveAt id, fold_granted (by decide +kernel) (by decide +kernel)⟩,
   ⟨.fold, 0xFF, _, _, liveAt id, fold_granted (by decide +kernel) (by decide +kernel), rfl, by decide +kernel, rfl, by decide +kernel⟩,
   ⟨.fold, liveAt id, fold_granted (by decide +kernel) (by decide +kernel)⟩,
   ⟨.fold, 0, _, liveAt (fun d => modSdg
    (fun g => { g with active := [{ key := 0, stTo := 1, release := 3, holdMs := 0, actions := 4, report := 0, event := 4, causes := [], heldDone := false, clear := false, asked := false, served := false, done := false }] })
    (d)), fold_granted (by decide +kernel) (by decide +kernel), rfl, by decide +kernel, by decide +kernel⟩,
   ⟨liveAt (fun d => modSdg (fun g => { g with fellHeld := true })
    ({ d with pwr := { d.pwr with held := false, rails := (List.range 11).map (fun i => (i, { judge := 0 })) } })), by decide +kernel,
    by decide +kernel, by decide +kernel, by decide +kernel, by decide +kernel, by decide +kernel, by decide +kernel, by decide +kernel,
    by decide +kernel⟩,
   ⟨liveAt (fun d => modSdg (fun g => { g with waiting := true }) (d)), by decide +kernel⟩⟩

/-- What lets each of these commands have its own effect. -/
theorem witness_CanCommandsAnswer :
    (∃ (who : Party) (n : Fin 4) (s : State), Granted s.dev who (.can n.val) Reg.Can.TX_CMD true) ∧
    (∃ (who : Party) (n : Fin 4) (v : Word) (seen : Bool) (d : Dev) (s : State), Granted s.dev who (.can n.val) Reg.Can.TX_CMD true ∧
      gpIntervene (.can n.val) s.dev = d ∧ bitOf v 0 = true ∧ rb d (.can n.val) Reg.Can.TX_STAT 31 = false ∧ txAllowed d n.val = true ∧
      seen = true) ∧
    (∃ (n : Fin 4) (f : CanFrame) (fs : List CanFrame) (s : State), canRuns s.dev n.val = true ∧ (canOf s.dev n.val).txq = f :: fs) ∧
    (∃ (n : Fin 4) (hdr : Word) (s : State), canRuns s.dev n.val = true ∧ (bitOf hdr 30 = false ∨ rb s.dev
      (.can n.val) Reg.Can.CAN_CTRL 1 = true) ∧ (List.range 8).any (fun k => canFilter s.dev n.val k hdr) = true ∧
      (canOf s.dev n.val).rx.length < 32) ∧
    (∃ (who : Party) (n : Fin 4) (s : State), Granted s.dev who (.can n.val) Reg.Can.RX_POP true) ∧
    (∃ (who : Party) (n : Fin 4) (v : Word) (d : Dev) (s : State), Granted s.dev who (.can n.val) Reg.Can.RX_POP true ∧ gpIntervene
      (.can n.val) s.dev = d ∧ bitOf v 0 = true) ∧
    (∃ (n : Fin 4) (s : State), canRuns s.dev n.val = true) ∧
    (∃ (n : Fin 4) (s : State), rf s.dev (.can n.val) Reg.Can.CAN_STAT 1 0 = 3 ∧ rb s.dev (.can n.val) Reg.Can.CAN_CTRL 4 = false) ∧
    (∃ (who : Party) (n : Fin 4) (s : State), Granted s.dev who (.can n.val) Reg.Can.CAN_CTRL true) ∧
    (∃ (who : Party) (n : Fin 4) (v : Word) (e d : Dev) (s : State), Granted s.dev who (.can n.val) Reg.Can.CAN_CTRL true ∧ gpIntervene
      (.can n.val) s.dev = d ∧ bitOf v 0 = true ∧ bitOf v 31 = false ∧ rb d (.can n.val) Reg.Can.CAN_CTRL 0 = false ∧ plainWrite
      (.can n.val) Reg.Can.CAN_CTRL v d = e ∧ canInLimits e n.val = true) ∧
    (∃ (k : Fin 8) (r : ReportDef) (s : State), s.dev.sdg.defs[k.val]? = some r ∧ r.periodMs ≠ 0 ∧
      (reportsOf s.dev.sdg.active).contains k.val = true ∧ s.dev.sdg.inReset = false) :=
  ⟨⟨.fold, 3, liveAt id, fold_granted (by decide +kernel) (by decide +kernel)⟩,
   ⟨.fold, 3, 1, true, _, liveAt (fun d => sb (.can 3) Reg.Can.CAN_CTRL 0 true (sf (.can 3) Reg.Can.CAN_STAT 1 0 1 (d))), fold_granted
    (by decide +kernel) (by decide +kernel), rfl, by decide +kernel, by decide +kernel, by decide +kernel, by decide +kernel⟩,
   ⟨3, { hdr := 0, dlc := 0, bytes := [], report := false }, [], liveAt (fun d => sb (.can 3) Reg.Can.CAN_CTRL 0 true (sf
    (.can 3) Reg.Can.CAN_STAT 1 0 1 (modCan 3 (fun x => { x with txq := [{ hdr := 0, dlc := 0, bytes := [], report := false }] }) d))),
    by decide +kernel, by decide +kernel⟩,
   ⟨3, 0, liveAt (fun d => sb (.can 3) Reg.Can.CAN_CTRL 0 true (sf (.can 3) Reg.Can.CAN_STAT 1 0 1 (sg (.can 3)
    (Reg.Can.FILTER 7) 0x80000000 d))), by decide +kernel, by decide +kernel, by decide +kernel, by decide +kernel⟩,
   ⟨.fold, 3, liveAt id, fold_granted (by decide +kernel) (by decide +kernel)⟩,
   ⟨.fold, 3, 1, _, liveAt id, fold_granted (by decide +kernel) (by decide +kernel), rfl, by decide +kernel⟩,
   ⟨3, liveAt (fun d => sb (.can 3) Reg.Can.CAN_CTRL 0 true (sf (.can 3) Reg.Can.CAN_STAT 1 0 1 (d))), by decide +kernel⟩,
   ⟨3, liveAt (fun d => sf (.can 3) Reg.Can.CAN_STAT 1 0 3 d), by decide +kernel, by decide +kernel⟩,
   ⟨.fold, 3, liveAt id, fold_granted (by decide +kernel) (by decide +kernel)⟩,
   ⟨.fold, 3, 1, _, _, liveAt (fun d => sg (.can 3) Reg.Can.CAN_TIMING 0x07D001F4 (sg (.can 3) Reg.Can.CAN_SAMPLE 0x5050 d)), fold_granted
    (by decide +kernel) (by decide +kernel), rfl, by decide +kernel, by decide +kernel, by decide +kernel, rfl, by decide +kernel⟩,
   ⟨7, { controller := 0, flags := 0, id := 1, periodMs := 10 }, liveAt (fun d => modSdg
    (fun g => { g with defs := List.replicate 8 { controller := 0, flags := 0, id := 1, periodMs := 10 }, active := [{ key := 0, stTo := 1, release := 3, holdMs := 0, actions := 4, report := 7, event := 4, causes := [], heldDone := false, clear := false, asked := false, served := false, done := false }] })
    (d)), by decide +kernel, by decide +kernel, by decide +kernel, by decide +kernel⟩⟩

/-- What lets each of these commands have its own effect. -/
theorem witness_CairnCommandsAnswer :
    (∃ (who : Party) (s : State), Granted s.dev who (.crn 0) Reg.Crn0.CRN_CMD true) ∧
    (∃ (who : Party) (d : Dev) (s : State), Granted s.dev who (.crn 0) Reg.Crn0.CRN_CMD true ∧ gpIntervene (.crn 0) s.dev = d ∧ isoOf d
      (.crn 0) = false ∧ d.cairn.post = none) ∧
    (∃ (who : Party) (s : State), Granted s.dev who (.crn 0) Reg.Crn0.CRN_CMD true) ∧
    (∃ (who : Party) (s : State), Granted s.dev who (.crn 0) Reg.Crn0.CRN_CMD true) ∧
    (∃ (who : Party) (d : Dev) (s : State), Granted s.dev who (.crn 0) Reg.Crn0.CRN_CMD true ∧ gpIntervene (.crn 0) s.dev = d ∧ isoOf d
      (.crn 0) = false ∧ d.cairn.exporting = none ∧ d.nvmc.cmd = none ∧ 7 ≤ d.boot.stage) ∧
    (∃ (who : Party) (s : State), Granted s.dev who (.crn 0) Reg.Crn0.CRN_CMD true) ∧
    (∃ (who : Party) (d : Dev) (s : State), Granted s.dev who (.crn 0) Reg.Crn0.CRN_CMD true ∧ gpIntervene (.crn 0) s.dev = d ∧ isoOf d
      (.crn 0) = false ∧ d.cairn.noteTime = none) ∧
    (∃ (k : Nat) (rs : List CairnRec) (s : State), s.dev.cairn.exporting = some (k, rs)) :=
  ⟨⟨.fold, liveAt id, fold_granted (by decide +kernel) (by decide +kernel)⟩,
   ⟨.fold, _, liveAt id, fold_granted (by decide +kernel) (by decide +kernel), rfl, by decide +kernel, by decide +kernel⟩,
   ⟨.fold, liveAt id, fold_granted (by decide +kernel) (by decide +kernel)⟩,
   ⟨.fold, liveAt id, fold_granted (by decide +kernel) (by decide +kernel)⟩,
   ⟨.fold, _, liveAt (fun d => modBoot (fun b => { b with stage := 7 }) d), fold_granted (by decide +kernel) (by decide +kernel), rfl,
    by decide +kernel, by decide +kernel, by decide +kernel, by decide +kernel⟩,
   ⟨.fold, liveAt id, fold_granted (by decide +kernel) (by decide +kernel)⟩,
   ⟨.fold, _, liveAt id, fold_granted (by decide +kernel) (by decide +kernel), rfl, by decide +kernel, by decide +kernel⟩,
   ⟨0, [], liveAt (fun d => modCairn (fun c => { c with exporting := some (0, []) }) d), by decide +kernel⟩⟩

/-- What lets each of these commands have its own effect. -/
theorem witness_PastureCommandsAnswer :
    (∃ (r : PastReq) (bs : List Byte) (s : State), r.v = some bs ∧ r.off.toNat + bs.length ≤ 0x2000000 ∧
      (r.fold = true ∨ pastFold s.dev ≤ r.off.toNat)) ∧
    (∃ (r : PastReq) (x : List Byte × Bool × Dev) (s : State), r.v = none ∧ r.off.toNat + r.bytes ≤ 0x2000000 ∧
      (r.fold = true ∨ pastFold s.dev ≤ r.off.toNat) ∧ pastRead (r.bytes / 64 + 2) r.tier.val r.off.toNat r.bytes
      (arbWait r.tier.val r.waited { s.dev with data := [], poisoned := false }) = x) ∧
    (∃ (b : Fin 64) (w : Nat) (s : State), s.dev.pst.wb.find? (fun w => w * 8 / bankBytes == b.val) = some w) ∧
    (∃ (s : State), rb s.dev (.pst 0) Reg.Pst0.TEST_CFG 31 = true ∧ isoOf s.dev (.pst 0) = false) ∧
    (∃ (b : Fin 64) (s : State), bankState s.dev b.val = 0 ∧ bankMode s.dev b.val = 0) ∧
    (∃ (b : Fin 64) (s : State), bankState s.dev b.val = 3) ∧
    (∃ (who : Party) (i : Fin 4) (s : State), Granted s.dev who (.pst 1) (Reg.Pst1.BANK_MODE i.val) true) ∧
    (∃ (who : Party) (i : Fin 4) (d : Dev) (s : State), Granted s.dev who (.pst 1) (Reg.Pst1.BANK_MODE i.val) true ∧ gpIntervene
      (.pst 1) s.dev = d ∧ isoOf d (.pst 1) = false) ∧
    (∃ (who : Party) (s : State), Granted s.dev who (.pst 0) Reg.Pst0.PST_CTRL true) :=
  ⟨⟨⟨0, 0, true, 0x1FFFFFC, 4, some [1, 2, 3, 4], 0⟩, [1, 2, 3, 4], liveAt id, by decide +kernel, by decide +kernel, by decide +kernel⟩,
   ⟨⟨0, 0, true, 0x1FFFFFC, 4, none, 0⟩, _, liveAt id, by decide +kernel, by decide +kernel, by decide +kernel, rfl⟩,
   ⟨63, 0x3F0000, liveAt (fun d => { d with pst := { d.pst with wb := [0x3F0000] } }), by decide +kernel⟩,
   ⟨liveAt id, by decide +kernel, by decide +kernel⟩,
   ⟨63, liveAt id, by decide +kernel, by decide +kernel⟩,
   ⟨63, liveAt (fun d => sf (.pst 1) (Reg.Pst1.BANK_STATE 3) 31 30 3 d), by decide +kernel⟩,
   ⟨.fold, 3, liveAt id, fold_granted (by decide +kernel) (by decide +kernel)⟩,
   ⟨.fold, 3, _, liveAt id, fold_granted (by decide +kernel) (by decide +kernel), rfl, by decide +kernel⟩,
   ⟨.fold, liveAt id, fold_granted (by decide +kernel) (by decide +kernel)⟩⟩

/-- What lets each of these commands have its own effect. -/
theorem witness_DramCommandsAnswer :
    (∃ (c : Fin 8) (s : State), drcState s.dev = 1 ∧ tabGet (fun _ => 0) s.dev.drc.stage c.val = 0) ∧
    (∃ (c : Fin 8) (s : State), drcState s.dev = 1 ∧ tabGet (fun _ => 0) s.dev.drc.stage c.val < 8 ∧ tabGet
      (fun _ => 0) s.dev.drc.attempt c.val < 2) ∧
    (∃ (s : State), drcState s.dev = 2) ∧
    (∃ (s : State), drcState s.dev = 2) ∧
    (∃ (s : State), drcState s.dev = 2) ∧
    (∃ (who : Party) (s : State), Granted s.dev who (.drc 0) Reg.Drc0.MR_CMD true) ∧
    (∃ (who : Party) (v : Word) (d : Dev) (s : State), Granted s.dev who (.drc 0) Reg.Drc0.MR_CMD true ∧ gpIntervene (.drc 0) s.dev = d ∧
      bitOf v 0 = true) ∧
    (∃ (who : Party) (src : Option IsoSrc) (port : Fin 20) (a : BitVec 35) (n len : Nat) (v : Option (List Byte)) (dt x : Nat) (w : Who)
      (e : Dev) (s : State), modDrc (fun s => { s with now := s.now + dt }) { s.dev with data := [], poisoned := false } = e ∧
      dramWho who src.isSome port.val = w ∧ (match v with | some bs => bs.length | none => n) = len ∧ drcState e = 2 ∧ len ≠ 0 ∧
      rangeOk e w a.toNat len = true ∧ locOf e w a.toNat = some (.dram x) ∧ x + len ≤ e.drc.capacity) ∧
    (∃ (s : State), drcState s.dev = 2) ∧
    (∃ (s : State), drcState s.dev = 2) ∧
    (∃ (port : Fin 20) (age : Nat) (r : DramReq) (s : State), firstBy olderThan (s.dev.drc.waiting.filter
      (fun r => !r.iso && r.port == port.val && !r.told)) = some r ∧ ¬ (age ≤ 1000 * max 1 (fld (if isoOf s.dev
      (.drv 0) then 0x64 else rg s.dev (.drv 0) Reg.Drv0.STARVE_CFG) 15 0))) ∧
    (∃ (who : Party) (s : State), Granted s.dev who (.drc 0) Reg.Drc0.DRC_CTRL true) ∧
    (∃ (who : Party) (s : State), Granted s.dev who (.drv 0) Reg.Drv0.DRV_CTRL true) :=
  ⟨⟨7, liveAt (fun d => sf (.drc 0) Reg.Drc0.DRC_STAT 2 0 1 (d)), by decide +kernel, by decide +kernel⟩,
   ⟨7, liveAt (fun d => sf (.drc 0) Reg.Drc0.DRC_STAT 2 0 1 (d)), by decide +kernel, by decide +kernel, by decide +kernel⟩,
   ⟨liveAt (fun d => sf (.drc 0) Reg.Drc0.DRC_STAT 2 0 2 (d)), by decide +kernel⟩,
   ⟨liveAt (fun d => sf (.drc 0) Reg.Drc0.DRC_STAT 2 0 2 (d)), by decide +kernel⟩,
   ⟨liveAt (fun d => sf (.drc 0) Reg.Drc0.DRC_STAT 2 0 2 (d)), by decide +kernel⟩,
   ⟨.fold, liveAt id, fold_granted (by decide +kernel) (by decide +kernel)⟩,
   ⟨.fold, 1, _, liveAt id, fold_granted (by decide +kernel) (by decide +kernel), rfl, by decide +kernel⟩,
   ⟨.fold, none, 19, 0, 64, 64, none, 0, 0, _, _, liveAt (fun d => sf (.drc 0) Reg.Drc0.DRC_STAT 2 0 2
    ({ modMach (fun m => { m with fot := [(0, fotWord fkFold 0 0)] }) d with drc := { d.drc with capacity := 0x100000000 } })), rfl, rfl,
    by decide +kernel, by decide +kernel, by decide +kernel, by decide +kernel, by decide +kernel, by decide +kernel⟩,
   ⟨liveAt (fun d => sf (.drc 0) Reg.Drc0.DRC_STAT 2 0 2 (d)), by decide +kernel⟩,
   ⟨liveAt (fun d => sf (.drc 0) Reg.Drc0.DRC_STAT 2 0 2 (d)), by decide +kernel⟩,
   ⟨19, 100001, { who := .fold, src := none, port := 19, addr := 0, x := 0, len := 64, v := none, stamp := 0, code := 0 }, liveAt
    (fun d => modDrc
    (fun x => { x with waiting := [{ who := .fold, src := none, port := 19, addr := 0, x := 0, len := 64, v := none, stamp := 0, code := 0 }] }) d),
    by decide +kernel, by decide +kernel⟩,
   ⟨.fold, liveAt id, fold_granted (by decide +kernel) (by decide +kernel)⟩,
   ⟨.fold, liveAt id, fold_granted (by decide +kernel) (by decide +kernel)⟩⟩

/-- What lets each of these commands have its own effect. -/
theorem witness_SupplyCommandsAnswer :
    (∃ (s : State), s.dev.sdg.inReset = false) ∧
    (∃ (s : State), s.dev.sdg.inReset = false) ∧
    (∃ (who : Party) (s : State), Granted s.dev who .pwr Reg.Pwr.RAIL_MEAS false) ∧
    (∃ (who : Party) (s : State), Granted s.dev who (.sys 2) Reg.Sys2.SUP_CFG true) ∧
    (∃ (who : Party) (d : Dev) (s : State), Granted s.dev who (.sys 2) Reg.Sys2.SUP_CFG true ∧ gpIntervene (.sys 2) s.dev = d ∧
      rb d .gpu Reg.Gpu.GPU_CTRL 0 = false) :=
  ⟨⟨liveAt id, by decide +kernel⟩,
   ⟨liveAt id, by decide +kernel⟩,
   ⟨.fold, liveAt id, fold_granted (by decide +kernel) (by decide +kernel)⟩,
   ⟨.fold, liveAt id, fold_granted (by decide +kernel) (by decide +kernel)⟩,
   ⟨.fold, _, liveAt id, fold_granted (by decide +kernel) (by decide +kernel), rfl, by decide +kernel⟩⟩

/-- What lets each of these commands have its own effect. -/
theorem witness_BlockCommandsAnswer :
    (∃ (who : Party) (s : State), Granted s.dev who (.sys 1) Reg.Sys1.BLK_REQ true) ∧
    (∃ (who : Party) (c : Nat) (d : Dev) (s : State), Granted s.dev who (.sys 1) Reg.Sys1.BLK_REQ true ∧ gpIntervene (.sys 1) s.dev = d ∧
      isoOf d (.sys 1) = false ∧ rf d (.sys 1) Reg.Sys1.BLK_SEL 7 0 = c ∧ reqRefuse d (who == .fold) c 0 = 0 ∧
      (who = .fold ∨ holdOn d c = false)) ∧
    (∃ (who : Party) (s : State), Granted s.dev who (.sys 1) Reg.Sys1.BLK_REQ true) ∧
    (∃ (who : Party) (c : Nat) (d : Dev) (s : State), Granted s.dev who (.sys 1) Reg.Sys1.BLK_REQ true ∧ gpIntervene (.sys 1) s.dev = d ∧
      isoOf d (.sys 1) = false ∧ rf d (.sys 1) Reg.Sys1.BLK_SEL 7 0 = c ∧ reqRefuse d (who == .fold) c 1 = 0) ∧
    (∃ (who : Party) (s : State), Granted s.dev who (.sys 1) Reg.Sys1.BLK_REQ true) ∧
    (∃ (who : Party) (c : Nat) (d : Dev) (s : State), Granted s.dev who (.sys 1) Reg.Sys1.BLK_REQ true ∧ gpIntervene (.sys 1) s.dev = d ∧
      isoOf d (.sys 1) = false ∧ rf d (.sys 1) Reg.Sys1.BLK_SEL 7 0 = c ∧ reqRefuse d (who == .fold) c 2 = 0 ∧
      (who = .fold ∨ holdOn d c = false)) ∧
    (∃ (who : Party) (s : State), Granted s.dev who (.sys 1) Reg.Sys1.BLK_REQ true) ∧
    (∃ (who : Party) (c : Nat) (d : Dev) (s : State), Granted s.dev who (.sys 1) Reg.Sys1.BLK_REQ true ∧ gpIntervene (.sys 1) s.dev = d ∧
      isoOf d (.sys 1) = false ∧ rf d (.sys 1) Reg.Sys1.BLK_SEL 7 0 = c ∧ reqRefuse d (who == .fold) c 3 = 0) ∧
    (∃ (who : Party) (s : State), Granted s.dev who (.sys 1) Reg.Sys1.BLK_REQ true) ∧
    (∃ (who : Party) (c : Nat) (d : Dev) (s : State), Granted s.dev who (.sys 1) Reg.Sys1.BLK_REQ true ∧ gpIntervene (.sys 1) s.dev = d ∧
      isoOf d (.sys 1) = false ∧ rf d (.sys 1) Reg.Sys1.BLK_SEL 7 0 = c ∧ reqRefuse d (who == .fold) c 4 = 0 ∧
      (who = .fold ∨ holdOn d c = false)) ∧
    (∃ (who : Party) (s : State), Granted s.dev who (.sys 1) Reg.Sys1.BLK_REQ true) ∧
    (∃ (who : Party) (c : Nat) (d : Dev) (s : State), Granted s.dev who (.sys 1) Reg.Sys1.BLK_REQ true ∧ gpIntervene (.sys 1) s.dev = d ∧
      isoOf d (.sys 1) = false ∧ rf d (.sys 1) Reg.Sys1.BLK_SEL 7 0 = c ∧ reqRefuse d (who == .fold) c 5 = 0) ∧
    (∃ (s : State), s.dev.pwr.acted ≠ 0) :=
  ⟨⟨.fold, liveAt id, fold_granted (by decide +kernel) (by decide +kernel)⟩,
   ⟨.fold, 0x14, _, liveAt (fun d => sf (.sys 1) Reg.Sys1.BLK_SEL 7 0 0x14 d), fold_granted (by decide +kernel) (by decide +kernel), rfl,
    by decide +kernel, by decide +kernel, by decide +kernel, by decide +kernel⟩,
   ⟨.fold, liveAt id, fold_granted (by decide +kernel) (by decide +kernel)⟩,
   ⟨.fold, 0x14, _, liveAt (fun d => sf (.sys 1) Reg.Sys1.BLK_SEL 7 0 0x14 d), fold_granted (by decide +kernel) (by decide +kernel), rfl,
    by decide +kernel, by decide +kernel, by decide +kernel⟩,
   ⟨.fold, liveAt id, fold_granted (by decide +kernel) (by decide +kernel)⟩,
   ⟨.fold, 0x14, _, liveAt (fun d => sf (.sys 1) Reg.Sys1.BLK_SEL 7 0 0x14 d), fold_granted (by decide +kernel) (by decide +kernel), rfl,
    by decide +kernel, by decide +kernel, by decide +kernel, by decide +kernel⟩,
   ⟨.fold, liveAt id, fold_granted (by decide +kernel) (by decide +kernel)⟩,
   ⟨.fold, 0x14, _, liveAt (fun d => sf (.sys 1) Reg.Sys1.BLK_SEL 7 0 0x14 d), fold_granted (by decide +kernel) (by decide +kernel), rfl,
    by decide +kernel, by decide +kernel, by decide +kernel⟩,
   ⟨.fold, liveAt id, fold_granted (by decide +kernel) (by decide +kernel)⟩,
   ⟨.fold, 0x14, _, liveAt (fun d => sf (.sys 1) Reg.Sys1.BLK_SEL 7 0 0x14 d), fold_granted (by decide +kernel) (by decide +kernel), rfl,
    by decide +kernel, by decide +kernel, by decide +kernel, by decide +kernel⟩,
   ⟨.fold, liveAt id, fold_granted (by decide +kernel) (by decide +kernel)⟩,
   ⟨.fold, 0x14, _, liveAt (fun d => sf (.sys 1) Reg.Sys1.BLK_SEL 7 0 0x14 d), fold_granted (by decide +kernel) (by decide +kernel), rfl,
    by decide +kernel, by decide +kernel, by decide +kernel⟩,
   ⟨liveAt (fun d => { d with pwr := { d.pwr with acted := 1 } }), by decide +kernel⟩⟩

/-- What lets each of these commands have its own effect. -/
theorem witness_TallyCommandsAnswer :
    (∃ (who : Party) (s : State), Granted s.dev who (.tly 0) Reg.Tly0.GLB_CTRL true) ∧
    (∃ (who : Party) (s : State), Granted s.dev who (.tly 0) Reg.Tly0.GLB_CTRL true) ∧
    (∃ (who : Party) (s : State), Granted s.dev who (.tly 0) Reg.Tly0.GLB_CTRL true) ∧
    (∃ (who : Party) (k : Fin 128) (s : State), Granted s.dev who (tlyPage k.val) (Reg.Tly1.COUNT_LO (k.val % 64)) false) ∧
    (∃ (who : Party) (k : Fin 128) (s : State), Granted s.dev who (tlyPage k.val) (Reg.Tly1.COUNT_LO (k.val % 64)) true) ∧
    (∃ (who : Party) (k : Fin 128) (s : State), Granted s.dev who (tlyPage k.val) (Reg.Tly1.COUNT_HI (k.val % 64)) true) ∧
    (∃ (who : Party) (s : State), Granted s.dev who (.tly 3) Reg.Tly3.SMP_POP true) :=
  ⟨⟨.fold, liveAt id, fold_granted (by decide +kernel) (by decide +kernel)⟩,
   ⟨.fold, liveAt id, fold_granted (by decide +kernel) (by decide +kernel)⟩,
   ⟨.fold, liveAt id, fold_granted (by decide +kernel) (by decide +kernel)⟩,
   ⟨.fold, 127, liveAt id, fold_granted (by decide +kernel) (by decide +kernel)⟩,
   ⟨.fold, 127, liveAt id, fold_granted (by decide +kernel) (by decide +kernel)⟩,
   ⟨.fold, 127, liveAt id, fold_granted (by decide +kernel) (by decide +kernel)⟩,
   ⟨.fold, liveAt id, fold_granted (by decide +kernel) (by decide +kernel)⟩⟩

/-- What lets each of these commands have its own effect. -/
theorem witness_GpioCommandsAnswer :
    ∃ (who : Party) (s : State), Granted s.dev who (.sys 3) Reg.Sys3.GPIO_EDGE_CLR true :=
  ⟨.fold, liveAt id, fold_granted (by decide +kernel) (by decide +kernel)⟩

/-! ## An image that passes every check -/

/-! ## A signed image

A slot of 1216 bytes with the eight sections that R74 requires, its CRCs, hashes and ECDSA signature computed by a program
from R70–R76. -/

def image0 : List Byte := [80, 85, 69, 84, 1, 0, 0, 0, 192, 4, 0, 0, 8, 0, 0, 0, 0, 0, 0, 0, 22, 136, 176, 0, 0, 0, 0, 0, 0,
  0, 0, 0, 0, 0, 7, 0, 0, 1, 0, 0, 0, 0, 0, 0, 0, 0, 0, 0, 0, 0, 0, 0, 0, 0, 0, 0, 0, 0, 0, 0, 0, 0, 0, 0, 187, 246, 20, 82,
  0, 0, 0, 0, 0, 0, 0, 0, 0, 0, 0, 0, 0, 0, 0, 0, 0, 0, 0, 0, 0, 0, 0, 0, 0, 0, 0, 0]
def image1 : List Byte := [0, 0, 0, 0, 0, 0, 0, 0, 0, 0, 0, 0, 0, 0, 0, 0, 0, 0, 0, 0, 0, 0, 0, 0, 0, 0, 0, 0, 0, 0, 0, 0, 0,
  0, 0, 0, 0, 0, 0, 0, 0, 0, 0, 0, 0, 0, 0, 0, 0, 0, 0, 0, 0, 0, 0, 0, 0, 0, 0, 0, 0, 0, 0, 0, 0, 0, 0, 0, 0, 0, 0, 0, 0, 0,
  0, 0, 0, 0, 0, 0, 0, 0, 0, 0, 0, 0, 0, 0, 0, 0, 0, 0, 0, 0, 0, 0]
def image2 : List Byte := [0, 0, 0, 0, 0, 0, 0, 0, 0, 0, 0, 0, 0, 0, 0, 0, 0, 0, 0, 0, 0, 0, 0, 0, 0, 0, 0, 0, 0, 0, 0, 0, 0,
  0, 0, 0, 0, 0, 0, 0, 0, 0, 0, 0, 0, 0, 0, 0, 0, 0, 0, 0, 0, 0, 0, 0, 0, 0, 0, 0, 44, 208, 169, 243, 1, 0, 0, 0, 0, 0, 0, 0,
  0, 2, 0, 0, 136, 1, 0, 0, 0, 0, 0, 0, 0, 0, 0, 0, 0, 0, 0, 0, 76, 104, 195, 157]
def image3 : List Byte := [2, 0, 0, 0, 0, 0, 0, 0, 136, 3, 0, 0, 208, 0, 0, 0, 0, 0, 0, 0, 0, 0, 0, 0, 0, 0, 0, 0, 253, 52,
  145, 232, 16, 0, 0, 0, 0, 0, 0, 0, 88, 4, 0, 0, 16, 0, 0, 0, 0, 0, 0, 0, 0, 0, 0, 0, 0, 0, 0, 0, 9, 58, 207, 162, 17, 0, 0,
  0, 0, 0, 0, 0, 104, 4, 0, 0, 16, 0, 0, 0, 0, 0, 0, 0, 0, 0, 0, 0, 0, 0, 0, 0, 249, 78, 1, 229]
def image4 : List Byte := [32, 0, 0, 0, 0, 0, 0, 0, 120, 4, 0, 0, 0, 0, 0, 0, 0, 0, 0, 0, 0, 0, 0, 0, 0, 0, 0, 0, 52, 122, 69,
  51, 33, 0, 0, 0, 0, 0, 0, 0, 120, 4, 0, 0, 0, 0, 0, 0, 0, 0, 0, 0, 0, 0, 0, 0, 0, 0, 0, 0, 140, 208, 0, 238, 65, 0, 0, 0, 0,
  0, 0, 0, 120, 4, 0, 0, 72, 0, 0, 0, 0, 0, 0, 0, 0, 0, 0, 0, 0, 0, 0, 0, 240, 142, 222, 185]
def image5 : List Byte := [67, 0, 0, 0, 0, 0, 0, 0, 192, 4, 0, 0, 0, 0, 0, 0, 0, 0, 0, 0, 0, 0, 0, 0, 0, 0, 0, 0, 13, 243,
  103, 81, 8, 0, 0, 0, 0, 0, 0, 0, 167, 131, 76, 237, 181, 99, 225, 99, 174, 241, 223, 123, 40, 238, 219, 25, 195, 161, 130,
  85, 73, 19, 170, 26, 154, 42, 73, 231, 97, 51, 3, 173, 228, 126, 164, 12, 144, 92, 192, 45, 188, 76, 65, 13, 24, 182, 95,
  80, 18, 235, 18, 3, 246, 82, 6, 75]
def image6 : List Byte := [14, 71, 32, 101, 85, 220, 5, 152, 153, 181, 227, 123, 167, 12, 5, 223, 103, 108, 135, 142, 60, 232,
  255, 48, 174, 128, 46, 82, 254, 1, 132, 253, 214, 88, 241, 16, 118, 164, 118, 192, 255, 116, 102, 23, 124, 194, 183, 125,
  140, 141, 179, 229, 131, 78, 155, 127, 227, 174, 82, 99, 18, 222, 209, 101, 192, 162, 177, 245, 64, 191, 195, 130, 118, 180,
  45, 22, 99, 226, 138, 224, 43, 18, 96, 154, 204, 252, 166, 147, 174, 64, 101, 157, 161, 25, 60, 222]
def image7 : List Byte := [200, 223, 71, 75, 94, 54, 65, 106, 130, 71, 59, 131, 211, 45, 187, 225, 221, 109, 248, 236, 148,
  153, 210, 73, 2, 202, 8, 195, 52, 135, 107, 200, 230, 158, 129, 139, 238, 204, 4, 106, 56, 176, 96, 167, 81, 172, 150, 56,
  76, 217, 50, 126, 177, 177, 227, 106, 33, 253, 183, 17, 20, 190, 7, 67, 76, 12, 199, 191, 99, 246, 225, 218, 39, 78, 222,
  191, 231, 111, 101, 251, 213, 26, 210, 241, 72, 152, 185, 91, 56, 176, 96, 167, 81, 172, 150, 56]
def image8 : List Byte := [76, 217, 50, 126, 177, 177, 227, 106, 33, 253, 183, 17, 20, 190, 7, 67, 76, 12, 199, 191, 99, 246,
  225, 218, 39, 78, 222, 191, 231, 111, 101, 251, 213, 26, 210, 241, 72, 152, 185, 91, 221, 155, 48, 168, 159, 53, 215, 201,
  213, 22, 55, 125, 60, 136, 225, 71, 184, 205, 212, 39, 4, 82, 100, 23, 224, 63, 34, 199, 146, 126, 235, 132, 194, 35, 205,
  217, 136, 155, 220, 67, 197, 159, 41, 254, 206, 168, 74, 207, 56, 176, 96, 167, 81, 172, 150, 56]
def image9 : List Byte := [76, 217, 50, 126, 177, 177, 227, 106, 33, 253, 183, 17, 20, 190, 7, 67, 76, 12, 199, 191, 99, 246,
  225, 218, 39, 78, 222, 191, 231, 111, 101, 251, 213, 26, 210, 241, 72, 152, 185, 91, 4, 86, 73, 229, 186, 155, 72, 31, 123,
  73, 51, 185, 175, 150, 134, 3, 61, 4, 146, 24, 180, 61, 186, 158, 178, 18, 243, 52, 212, 55, 141, 25, 132, 90, 90, 6, 46,
  252, 42, 166, 68, 78, 127, 8, 230, 156, 125, 243, 2, 217, 48, 206, 138, 124, 18, 57]
def image10 : List Byte := [126, 203, 170, 227, 219, 240, 117, 160, 201, 193, 196, 51, 208, 145, 52, 206, 161, 234, 125, 131,
  135, 35, 130, 204, 191, 148, 203, 150, 92, 68, 191, 191, 106, 121, 57, 30, 235, 71, 62, 60, 120, 0, 0, 0, 8, 217, 153, 5,
  123, 163, 210, 217, 105, 38, 0, 69, 197, 91, 151, 240, 137, 2, 89, 89, 166, 244, 52, 214, 81, 210, 7, 209, 159, 185, 110,
  158, 79, 224, 232, 110, 190, 14, 100, 248, 91, 150, 169, 199, 82, 149, 223, 97, 237, 93, 160, 176]
def image11 : List Byte := [48, 48, 24, 163, 248, 229, 216, 255, 117, 216, 67, 170, 24, 254, 156, 100, 237, 78, 26, 80, 135,
  224, 136, 121, 214, 176, 57, 223, 227, 45, 40, 169, 101, 129, 191, 5, 207, 155, 194, 149, 22, 185, 71, 107, 0, 0, 0, 0, 0,
  0, 0, 0, 0, 0, 0, 0, 70, 76, 70, 87, 22, 136, 176, 0, 0, 0, 0, 0, 0, 0, 0, 0, 0, 0, 0, 0, 0, 0, 0, 0, 0, 0, 0, 0, 0, 0, 0,
  0, 0, 0, 2, 0, 0, 0, 0, 0]
def image12 : List Byte := [0, 0, 0, 0, 0, 0, 0, 0, 0, 0, 0, 0, 0, 0, 0, 0, 0, 0, 0, 0, 0, 0, 0, 0, 0, 0, 0, 0, 0, 0, 0, 0, 0,
  0, 0, 0, 0, 0, 0, 0, 0, 0, 0, 0, 0, 0, 0, 0, 0, 0, 0, 0, 0, 0, 0, 0, 0, 0, 0, 0, 0, 0, 0, 0]

def image : List Byte := image0 ++ image1 ++ image2 ++ image3 ++ image4 ++ image5 ++ image6 ++ image7 ++ image8 ++ image9 ++ image10 ++ image11 ++ image12

/-- Bytes from address `a` on as the NVM lists them. -/
def packAt : Nat → List Byte → Tab Byte
  | _, [] => []
  | a, b :: bs => if b = 0xFF then packAt (a + 1) bs else (a, b) :: packAt (a + 1) bs

/-- The first `n` bytes, with erased ones behind the end. -/
def takeErased : Nat → List Byte → List Byte
  | 0, _ => []
  | n + 1, [] => 0xFF :: takeErased n []
  | n + 1, b :: bs => b :: takeErased n bs

theorem tabFind_packAt (bs : List Byte) (a k : Nat) :
    (tabFind (packAt a bs) k).getD 0xFF = if a ≤ k then (bs[k - a]?).getD 0xFF else 0xFF := by
  induction bs generalizing a with
  | nil => simp [packAt, tabFind]
  | cons b bs ih =>
    have hs : k - a = 0 ∨ k - a = (k - (a + 1)) + 1 := by omega
    by_cases hb : b = 0xFF
    · rw [packAt, if_pos hb, ih]
      rcases Nat.lt_trichotomy k a with h | h | h
      · simp [show ¬ a ≤ k by omega, show ¬ a + 1 ≤ k by omega]
      · simp [h, hb]
      · rw [show k - a = (k - (a + 1)) + 1 by omega]
        simp [show a ≤ k by omega, show a + 1 ≤ k by omega]
    · rw [packAt, if_neg hb, tabFind]
      rcases Nat.lt_trichotomy k a with h | h | h
      · rw [if_neg (by omega), ih]
        simp [show ¬ a ≤ k by omega, show ¬ a + 1 ≤ k by omega]
      · simp [h]
      · rw [if_neg (by omega), ih, show k - a = (k - (a + 1)) + 1 by omega]
        simp [show a ≤ k by omega, show a + 1 ≤ k by omega]

theorem readBytes_pack (bs : List Byte) (n a : Nat) :
    readBytes (fun k => (tabFind (packAt 0 bs) k).getD 0xFF) a n = takeErased n (bs.drop a) := by
  induction n generalizing a with
  | zero => rfl
  | succ n ih =>
    rw [readBytes, ih, tabFind_packAt]
    rcases h : bs.drop a with _ | ⟨b, t⟩
    · have hl : bs.length ≤ a := by simpa using h
      rw [show bs.drop (a + 1) = [] by simp; omega]
      simp [takeErased, List.getElem?_eq_none hl]
    · have h1 : bs.drop (a + 1) = t := by rw [← List.drop_drop, h]; rfl
      have h0 : bs[a]? = some b := by
        have := congrArg (·[0]?) h
        simpa using this
      simp [takeErased, h1, h0]

/-- A device whose slot A holds the image. -/
def imaged : Dev := { nvm := packAt 0 image }

theorem image_bytes (a n : Nat) : imgBytes imaged 0 a n = takeErased n (image.drop a) := by
  have h : slotBase 0 + a = a := Nat.zero_add a
  rw [imgBytes, h]
  exact readBytes_pack image n a

theorem failing_none {last read : Nat} {l : List Check} (h : ∀ c ∈ l, c.bad () = false) : failing last read l = none := by
  simp only [failing, List.find?_eq_none]
  intro c hc
  simp [h c hc]

set_option maxRecDepth 100000 in
theorem image_manifest : sha384 (takeErased 392 (image.drop 512)) = beBytes 48 0xed5da0b0303018a3f8e5d8ff75d843aa18fe9c64ed4e1a5087e08879d6b039dfe32d28a96581bf05cf9bc29516b9476b := by decide +kernel

theorem image_signature : sigHolds (takeErased 97 (image.drop 904)) (takeErased 96 (image.drop 1004)) (beBytes 48 0xed5da0b0303018a3f8e5d8ff75d843aa18fe9c64ed4e1a5087e08879d6b039dfe32d28a96581bf05cf9bc29516b9476b) = true := by
  decide +kernel

theorem image_table : sectsOf imaged 0 = [{ idx := 0, typ := 1, inst := 0, off := 512, len := 392, crc := 2646829132 },
  { idx := 1, typ := 2, inst := 0, off := 904, len := 208, crc := 3901830397 },
  { idx := 2, typ := 16, inst := 0, off := 1112, len := 16, crc := 2731489801 },
  { idx := 3, typ := 17, inst := 0, off := 1128, len := 16, crc := 3842068217 },
  { idx := 4, typ := 32, inst := 0, off := 1144, len := 0, crc := 860191284 },
  { idx := 5, typ := 33, inst := 0, off := 1144, len := 0, crc := 3993030796 },
  { idx := 6, typ := 65, inst := 0, off := 1144, len := 72, crc := 3118370544 },
  { idx := 7, typ := 67, inst := 0, off := 1216, len := 0, crc := 1365766925 }] := by
  have h : sectAt imaged 0 = fun i => sectAt imaged 0 i := rfl
  rw [sectsOf, h]
  simp only [sectAt, imgN, image_bytes]
  decide +kernel

set_option maxRecDepth 100000 in
theorem image_header : ∀ c ∈ headChecks imaged 0, c.bad () = false := by
  simp only [headChecks, tableOk, image_table, List.forall_mem_cons, List.not_mem_nil, false_implies, implies_true, and_true]
  simp only [imgN, image_bytes]
  exact ⟨by decide +kernel, by decide +kernel, by decide +kernel⟩

set_option maxRecDepth 100000 in
theorem image_sections : ∀ c ∈ sectChecks imaged 0 true 0 0, c.bad () = false := by
  simp only [sectChecks, image_table]
  simp only [List.forall_mem_append, List.forall_mem_cons, List.not_mem_nil, false_implies, implies_true, and_true]
  simp only [imgN, image_bytes, sectGood, manifestHash]
  refine ⟨⟨⟨?_, ?_, rfl, ?_, ?_, ?_, ?_⟩, ?_⟩, ?_, ?_, ?_⟩
  · decide +kernel
  · decide +kernel
  · show (!sigHolds (takeErased 97 (image.drop 904)) (takeErased 96 (image.drop 1004))
      (sha384 (takeErased 392 (image.drop 512)))) = false
    rw [image_manifest, image_signature]; rfl
  · decide +kernel
  · decide +kernel
  · decide +kernel
  · decide +kernel
  · decide +kernel
  · decide +kernel
  · decide +kernel

/-- The image passes every check of R86. -/
theorem image_passes (last : Nat) : imageReason imaged {} 0 last wholeSlot = 0 := by
  unfold imageReason
  rw [failing_none image_header]
  by_cases h : last < 4
  · simp [h]
  · simp only [h]
    have := failing_none (last := last) (read := wholeSlot) image_sections
    simp_all

/-- What an image's checks answer depends on the NVM alone. -/
theorem image_passes_on {last : Nat} (d : Dev) (f : Fuses) {slot : Nat} (h : d.nvm = packAt 0 image) (hs : slot = 0)
    (hf : f = {}) : imageReason d f slot last wholeSlot = 0 := by
  subst hs hf
  have hd : imageReason d {} 0 last wholeSlot = imageReason { nvm := d.nvm } {} 0 last wholeSlot := rfl
  rw [hd, h]
  exact image_passes last

set_option maxRecDepth 100000 in
theorem image_table_holds (d : Dev) (h : d.nvm = packAt 0 image) {slot : Nat} (hs : slot = 0 := by rfl) : tableHolds d slot = true := by
  subst hs
  have hd : tableHolds d 0 = tableHolds { nvm := d.nvm } 0 := rfl
  rw [hd, h]
  show tableHolds imaged 0 = true
  simp only [tableHolds, imgN, image_bytes]
  decide +kernel

theorem enter_nvm (b : Bool) (slot : Nat) (d : Dev) : (when b (xspiEnter slot) d).nvm = d.nvm := by cases b <;> rfl

/-- What lets each of these commands have its own effect. -/
theorem witness_StartUpCommandsAnswer :
    (∃ (s : State), s.dev.pwr.held = true ∧ s.dev.pwr.rstLow = false ∧ (List.range 11).any (railInvalid s.dev) = false ∧
      (s.dev.sdg.deadHeld && !s.dev.pwr.vaoBad) = false) ∧
    (∃ (s : State), s.dev.sdg.inReset = false ∧ s.dev.sdg.reload ≠ 1 ∧ s.dev.boot.stage = 1) ∧
    (∃ (up down : Nat) (s : State), tetState s.dev ≠ 0 ∧ tetState s.dev ≠ 2 ∧ s.dev.sdg.inReset = false ∧ isoOf s.dev .tet = false ∧
      (up = 16 ∨ up = 8) ∧ (down = 16 ∨ down = 8)) ∧
    (∃ (garbled : Bool) (e f : Dev) (s : State), s.dev.boot.stage = 3 ∧ s.dev.sdg.inReset = false ∧ s.fuses.lcState ≠ 4 ∧
      when s.dev.xspi.octal xspiReset s.dev = e ∧ imageReason e s.fuses s.dev.boot.slot 2 wholeSlot = 0 ∧ when
      (octalAsked e s.dev.boot.slot) (xspiEnter s.dev.boot.slot) e = f ∧ (f.xspi.octal = false ∨ (garbled = false ∧
      tableHolds f s.dev.boot.slot = true)) ∧ imageReason f s.fuses s.dev.boot.slot 5 wholeSlot = 0) ∧
    (∃ (s : State), s.dev.boot.stage = 4 ∧ s.dev.sdg.inReset = false ∧ imageReason s.dev s.fuses s.dev.boot.slot 8 wholeSlot = 0) ∧
    (∃ (s : State), s.dev.boot.stage = 5 ∧ s.dev.sdg.inReset = false ∧ imageReason s.dev s.fuses s.dev.boot.slot 10 wholeSlot = 0) ∧
    (∃ (read : Nat) (s : State), 3 ≤ s.dev.boot.stage ∧ s.dev.boot.stage ≤ 5 ∧ s.dev.sdg.inReset = false ∧
      imageReason s.dev s.fuses s.dev.boot.slot 10 read = 0) ∧
    (∃ (csLow : Bool) (s : State), s.dev.sdg.recovery = true ∧ s.dev.boot.stage = 0 ∧ csLow = false ∧ s.fuses.lcState ≠ 4 ∧
      s.dev.sdg.inReset = false ∧ s.dev.pwr.held = false) ∧
    (∃ (s : State), s.dev.boot.stage = 6 ∧ s.dev.sdg.inReset = false ∧ (fusesAfter s.fuses s.dev).lcState ≠ 4) ∧
    (∃ (s : State), s.dev.boot.stage = 7) ∧
    (∃ (x : Sect) (rest : List Sect) (s : State), group2Goes s.dev = true ∧ s.dev.boot.group2 = x :: rest ∧ crcFold x.idx
      (imgBytes s.dev s.dev.boot.slot x.off x.len) = BitVec.ofNat 32 x.crc ∧ sha384 (imgBytes s.dev s.dev.boot.slot x.off x.len) = x.hash ∧
      sectGroup x ≠ 0) ∧
    (∃ (s : State), ¬ (s.dev.boot.stage < 8) ∧ s.dev.boot.firstPic = false ∧ (firstHeads s.dev).all
      (fun h => s.dev.boot.pictured.contains h) = true) ∧
    (∃ (s : State), ¬ (s.dev.boot.stage < 8) ∧ s.dev.boot.dramUp = false ∧ drcState s.dev = 2) ∧
    (∃ (s : State), fullReady s.dev = true) :=
  ⟨⟨State.reset.on (fun d => { d with pwr := { d.pwr with rails := (List.range 11).map (fun i => (i, { judge := 1 })) } }), by decide +kernel,
    by decide +kernel, by decide +kernel, by decide +kernel⟩,
   ⟨liveAt (fun d => modBoot (fun b => { b with stage := 1 }) d), by decide +kernel, by decide +kernel, by decide +kernel⟩,
   ⟨8, 16, State.reset.on (fun d => modSdg (fun g => { g with inReset := false }) (sf .tet Reg.Tet.TET_STAT 1 0 1 d)), by decide +kernel,
    by decide +kernel, by decide +kernel, by decide +kernel, by decide +kernel, by decide +kernel⟩,
   ⟨false, _, _, liveAt (fun d => { modBoot (fun b => { b with stage := 3 }) d with nvm := packAt 0 image }), by decide +kernel,
    by decide +kernel, by decide +kernel, rfl, image_passes_on _ _ rfl rfl rfl, rfl, .inr ⟨rfl, image_table_holds _
    (enter_nvm _ _ _ |>.trans rfl)⟩, image_passes_on _ _ (enter_nvm _ _ _ |>.trans rfl) rfl rfl⟩,
   ⟨liveAt (fun d => { modBoot (fun b => { b with stage := 4 }) d with nvm := packAt 0 image }), by decide +kernel, by decide +kernel,
    image_passes_on _ _ rfl rfl rfl⟩,
   ⟨liveAt (fun d => { modBoot (fun b => { b with stage := 5 }) d with nvm := packAt 0 image }), by decide +kernel, by decide +kernel,
    image_passes_on _ _ rfl rfl rfl⟩,
   ⟨wholeSlot, liveAt (fun d => { modBoot (fun b => { b with stage := 3 }) d with nvm := packAt 0 image }), by decide +kernel,
    by decide +kernel, by decide +kernel, image_passes_on _ _ rfl rfl rfl⟩,
   ⟨false, liveAt (fun d => { modSdg (fun g => { g with recovery := true }) d with pwr := { d.pwr with held := false } }),
    by decide +kernel, by decide +kernel, by decide +kernel, by decide +kernel, by decide +kernel, by decide +kernel⟩,
   ⟨liveAt (fun d => modBoot (fun b => { b with stage := 6 }) d), by decide +kernel, by decide +kernel, by decide +kernel⟩,
   ⟨liveAt (fun d => modBoot (fun b => { b with stage := 7 }) d), by decide +kernel⟩,
   ⟨{ idx := 9, typ := 0x13, inst := 0, off := 0, len := 0, crc := (crcFold 9 []).toNat, hash := beBytes 48 0x38b060a751ac96384cd9327eb1b1e36a21fdb71114be07434c0cc7bf63f6e1da274edebfe76f65fbd51ad2f14898b95b },
    [], liveAt (fun d => modBoot
    (fun b => { b with stage := 8, dramUp := true, group2 := [{ idx := 9, typ := 0x13, inst := 0, off := 0, len := 0, crc := (crcFold 9 []).toNat, hash := beBytes 48 0x38b060a751ac96384cd9327eb1b1e36a21fdb71114be07434c0cc7bf63f6e1da274edebfe76f65fbd51ad2f14898b95b }] }) d),
    by decide +kernel, by decide +kernel, by decide +kernel, by decide +kernel, by decide +kernel⟩,
   ⟨liveAt (fun d => modBoot (fun b => { b with stage := 8 }) d), by decide +kernel, by decide +kernel, by decide +kernel⟩,
   ⟨liveAt (fun d => modBoot (fun b => { b with stage := 8 }) (sf (.drc 0) Reg.Drc0.DRC_STAT 2 0 2 d)), by decide +kernel,
    by decide +kernel, by decide +kernel⟩,
   ⟨liveAt (fun d => modBoot (fun b => { b with stage := 8, dramUp := true }) d), by decide +kernel⟩⟩

end Sys2Proof.Tests
end

section
/-! The family `00_scope.md`: what a fault source does at each class (R12, R13). -/
namespace Sys2Proof.Machine

/-- The report that a source of a page makes when it fires (R16, R533). -/
def faultRep (p : Page) (src : Nat) (d : Dev) : FaultRep :=
  { block := p.code, src := src, cls := classOf d p src, event := rg d p Reg.EVENT,
    frame := rg d (.head 0) Reg.Head.FRAME_COUNT }

/-- Below class F2 a source that fires is reported, and that is all it does (R13). -/
theorem fireSource_of_class_lt {p : Page} {src : Nat} {d : Dev} (h : classOf d p src < 2) :
    fireSource p src d = sendReport p.onDale p.base (faultRep p src d) d :=
  if_neg (Nat.not_le_of_lt h)

/-- From class F2 upwards a source that fires is reported, and its page is isolated (R12, R13). -/
theorem fireSource_of_two_le_class {p : Page} {src : Nat} {d : Dev} (h : 2 ≤ classOf d p src) :
    fireSource p src d = isolate p (sendReport p.onDale p.base (faultRep p src d) d) :=
  if_pos h

/-- A report on its way isolates no page and changes no register and no context. -/
theorem sendReport_keeps (onDale : Bool) (page : Nat) (r : FaultRep) (d : Dev) :
    (sendReport onDale page r d).iso = d.iso ∧ (sendReport onDale page r d).regs = d.regs ∧
      (sendReport onDale page r d).ctxs = d.ctxs :=
  ⟨rfl, rfl, rfl⟩

/-- Settles O17: the report leaves whatever the class (`fires_fireSource`); whether the page is isolated is decided by the
class alone. -/
theorem faultClassDecidesIsolation : Obligations.FaultClassDecidesIsolation := by
  unfold Obligations.FaultClassDecidesIsolation
  intro p src d
  refine ⟨fun quiet => reported_first quiet (fires_fireSource p src d), .fireSource p src d, fun below => ?_, fun above => ?_⟩
  · rw [fireSource_of_class_lt below]
    exact sendReport_keeps _ _ _ _
  · rw [fireSource_of_two_le_class above]
    exact isolate_iso p _

end Sys2Proof.Machine
end

section
/-! The family `02_register_conventions.md`: what an access to a register comes to once it lands and is granted, and the
commands that make such accesses (R35, R53, R56, R59, R60–R63, R492). -/
namespace Sys2Proof.Machine

/-- Two changes of the device that agree on a state's device lead to the same state. -/
theorem State.on_congr {f g : Dev → Dev} {s : State} (h : f s.dev = g s.dev) : s.on f = s.on g := by
  unfold State.on; rw [h]

/-- A command that changes the device alone answers by any change that agrees with its own on that device. -/
theorem onDev_eq_of {f g : Dev → Dev} {s : State} (h : f s.dev = g s.dev) : onDev f s = .next (s.on g) := by
  rw [onDev_eq, State.on_congr h]

section
variable {who : Party} {only : Page → Nat → Bool} {sense a : Nat} {v : Word} {q r : Page} {o : Nat} {d : Dev}

/-- A granted write that lands on a register other than GUARD acts on the device that has broken off a pending pair. -/
theorem writeWord_granted (land : landOf who a = .page q) (aim : aimAt d who q (a % 0x1000) = .at_ r o)
    (about : only r o = true) (guard : o ≠ Reg.GUARD) (granted : Granted d who r o true) :
    writeWord who only sense a v d = regWrite who sense r o v (gpIntervene r d) := by
  simp only [writeWord, land, aim, about, guard, onWrite_granted granted, Bool.not_true, Bool.false_eq_true, if_false]

/-- A write of GUARD by a party that reaches the page completes the pair or fails, and breaks nothing off (R59). -/
theorem writeWord_guard (land : landOf who a = .page q) (aim : aimAt d who q (a % 0x1000) = .at_ r Reg.GUARD)
    (about : only r Reg.GUARD = true) (route : routeOf d who r = .direct) (die : (r.onDale && daleAbsent d) = false)
    (alive : blkDead d r true = false) (may : mayAccess d r who Reg.GUARD true = true) :
    writeWord who only sense a v d = guardTake r v d := by
  simp only [writeWord, land, aim, about, Bool.not_true, Bool.false_eq_true, if_false, if_true]
  exact if_pos ⟨route, die, alive, may⟩

/-- A granted read that lands on a register answers what the register gives. -/
theorem readWord_granted (land : landOf who a = .page q) (aim : aimAt d who q (a % 0x1000) = .at_ r o)
    (granted : Granted d who r o false) :
    readWord who a d = { (regRead who r o (gpIntervene r d)).2 with resp := (regRead who r o (gpIntervene r d)).1.setWidth 64 } := by
  simp only [readWord, land, aim, onRead_granted granted]

end

/-- A write of a GP register leaves its value pending (R59). -/
theorem regWrite_gp {r : Page} {o : Nat} {row : Row} (at_row : r.row? o = some row) (gp : row.acc = .gp) (who : Party)
    (sense : Nat) (v : Word) : regWrite who sense r o v = gpWrite who r o v := by
  simp only [regWrite, at_row, gp]

/-- A clearing write whose SEQ is current, or whose mask is 0, stores the word that it leaves (R56). -/
theorem sqWrite_of_some {r : Page} {o : Nat} {v w : Word} {d : Dev} (h : sqClear (rg d r o) v = some w) :
    sqWrite r o v d = withIrq r (sg r o w) d := by
  simp only [sqWrite, h]

/-- A clearing write with a stale SEQ is counted (R56). -/
theorem sqWrite_of_none {r : Page} {o : Nat} {v : Word} {d : Dev} (h : sqClear (rg d r o) v = none) :
    sqWrite r o v d = bump r Reg.STAT_COUNT 31 16 d := by
  simp only [sqWrite, h]

/-- GUARD written while a value is pending: the complement makes it effective, any other value fails (R59). -/
theorem guardTake_pending {p : Page} {g : GpPend} {d : Dev} (h : tabGet (fun _ => none) d.gp p.base = some g) (v : Word) :
    guardTake p v d = if v = ~~~g.val then gpTake p g { d with gp := tabSet (fun _ => none) d.gp p.base none }
      else guardFail p { d with gp := tabSet (fun _ => none) d.gp p.base none } := by
  simp only [guardTake, h]

section
variable {who : Party} {addr : BitVec 32} {q r : Page} {o : Nat} {row : Row} {s : State}

/-- REGISTER_WRITE of a word. -/
theorem registerWrite_granted {v : BitVec 64} {sense : Nat} (land : landOf who addr.toNat = .page q)
    (aim : aimAt s.dev who q (addr.toNat % 0x1000) = .at_ r o) (guard : o ≠ Reg.GUARD) (granted : Granted s.dev who r o true) :
    exec (.registerWrite who addr .b4 v sense) s =
      .next (s.on fun d => regWrite who sense r o (v.setWidth 32) (gpIntervene r d)) :=
  onDev_eq_of (writeWord_granted land aim rfl guard granted)

/-- GP_WRITE leaves its value pending in the page. -/
theorem gpWrite_granted {v : Word} (land : landOf who addr.toNat = .page q)
    (aim : aimAt s.dev who q (addr.toNat % 0x1000) = .at_ r o) (at_row : r.row? o = some row) (gp : row.acc = .gp)
    (guard : o ≠ Reg.GUARD) (granted : Granted s.dev who r o true) :
    exec (.gpWrite who addr v) s = .next (s.on fun d => gpWrite who r o v (gpIntervene r d)) := by
  have about : accIs r o .gp = true := by simp only [accIs, at_row, gp, beq_self_eq_true]
  refine onDev_eq_of ((writeWord_granted land aim about guard granted).trans ?_)
  rw [regWrite_gp at_row gp]

/-- GUARD_WRITE by a party that reaches the page. -/
theorem guardWrite_reaches {w : Word} (land : landOf who addr.toNat = .page q)
    (aim : aimAt s.dev who q (addr.toNat % 0x1000) = .at_ r Reg.GUARD) (route : routeOf s.dev who r = .direct)
    (die : (r.onDale && daleAbsent s.dev) = false) (alive : blkDead s.dev r true = false)
    (may : mayAccess s.dev r who Reg.GUARD true = true) :
    exec (.guardWrite who addr w) s = .next (s.on (guardTake r w)) :=
  onDev_eq_of (writeWord_guard land aim rfl route die alive may)

/-- REGISTER_READ of a word. -/
theorem registerRead_granted (land : landOf who addr.toNat = .page q)
    (aim : aimAt s.dev who q (addr.toNat % 0x1000) = .at_ r o) (granted : Granted s.dev who r o false) :
    exec (.registerRead who addr .b4) s = .next (s.on fun d =>
      { (regRead who r o (gpIntervene r d)).2 with resp := (regRead who r o (gpIntervene r d)).1.setWidth 64 }) :=
  onDev_eq_of (readWord_granted land aim granted)

end

/-- UNMAPPED_ACCESS to an address of no page: a read answers 0 (R35). -/
theorem unmappedAccess_off_pages {fold write : Bool} {addr : BitVec 32} {s : State} (off : (pageOf addr.toNat).isSome = false) :
    exec (.unmappedAccess fold write addr) s = .next (s.on fun d =>
      let d := unmapped fold write addr.toNat d
      if write then d else { d with resp := 0 }) := by
  refine onDev_eq_of ?_
  simp only [doUnmapped, off, Bool.false_eq_true, if_false]

/-- GUARD_WINDOW_EXPIRY breaks off the pair that waits in the page (R59). -/
theorem guardWindowExpiry_on_page {page : BitVec 32} {p : Page} {s : State} (on_page : pageOf page.toNat = some p) :
    exec (.guardWindowExpiry page) s = .next (s.on fun d => gpIntervene p d) := by
  refine onDev_eq_of ?_
  simp only [doGuardExpiry, on_page]

/-- HOLD_WRITE that is granted (R48). -/
theorem holdWrite_granted {who : Party} {p : BitVec 32} {on : Bool} {r : Page} {s : State} (on_page : pageOf p.toNat = some r)
    (granted : Granted s.dev who r Reg.HOLD true) :
    exec (.holdWrite who p on) s = .next (s.on fun d => holdSet r on (gpIntervene r d)) := by
  refine onDev_eq_of ?_
  simp only [doHoldWrite, on_page, onWrite_granted granted]

/-- The latched requests of a block act when HOLD is clear in its pages (R492). -/
theorem doHeldAct_clear {code : Nat} {d : Dev} (clear : holdOn d code = false) (latched : latchedOf d code ≠ 0)
    (block : code ≠ 3) :
    doHeldAct code d =
      (let b := blkOf d code
       let d := modBlk code (fun b => { b with heldClk := false, heldPwr := false, heldRst := false }) d
       let act := fun (c : Bool) k d => when c (fun d => reqDone (reqAct code k d)) d
       heldRelease (act (b.heldRst && !b.heldPwr) 4 (act b.heldPwr 2 (act b.heldClk 0 d)))) := by
  have latched' : (latchedOf d code == 0) = false := by simpa using latched
  simp only [doHeldAct, clear, latched', block, Bool.or_self, Bool.false_eq_true, if_false]

/-- Those of Pasture are its banks' (R489, R492). -/
theorem doHeldAct_banks {d : Dev} (clear : holdOn d 3 = false) (latched : latchedOf d 3 ≠ 0) :
    doHeldAct 3 d = heldRelease (banksAct d) := by
  have latched' : (latchedOf d 3 == 0) = false := by simpa using latched
  simp only [doHeldAct, clear, latched', Bool.or_self, Bool.false_eq_true, if_false, if_true]

/-- STORAGE_UPSET of a field that holds parity, on a die that is out of reset (R61). -/
theorem doStorageUpset_field {a k : Nat} {p : Page} {r : Row} {d : Dev} (on_page : pageOf a = some p)
    (window : p.isWindow = false) (die : (p.onDale && d.sdg.inReset && !onVao a) = false)
    (at_row : p.row? (a % 0x1000) = some r)
    (field : ¬ (r.acc = .ro ∨ r.acc = .wo ∨ r.acc = .sq ∨ r.mask.testBit k = false)) :
    doStorageUpset a k d = upsetMark a k (upsetFollow p (a % 0x1000) k (upsetStore p (a % 0x1000) k d)) := by
  simp only [doStorageUpset, on_page, window, die, at_row, field, Bool.or_self, Bool.false_eq_true, if_false]

/-- Settles O3: the cases of a command's answer are those of `exec_cases`. -/
theorem everyCommandAnswersANextState : Obligations.EveryCommandAnswersANextState := by
  unfold Obligations.EveryCommandAnswersANextState
  intro c s
  obtain ⟨t, answers, pending, -, -⟩ := exec_cases c s
  exact ⟨t, answers, pending⟩

/-- Settles O31: one lemma for each of the commands. -/
theorem registerCommandsAnswer : Obligations.RegisterCommandsAnswer := by
  unfold Obligations.RegisterCommandsAnswer
  refine ⟨?write, ?unmapped, ?clear, ?gp, ?guard, ?expiry, ?hold, ?held, ?banks, ?scrub, ?read, ?upset⟩
  case write => exact fun who addr v sense q r o s land aim guard granted => registerWrite_granted land aim guard granted
  case unmapped => exact fun fold write addr s off => unmappedAccess_off_pages off
  case clear =>
    intro who addr v w q r o row s land aim isSq at_row sq granted clears
    rw [sequence_write land aim isSq at_row sq granted]
    exact congrArg _ (State.on_congr (sqWrite_of_some clears))
  case gp =>
    exact fun who addr v q r o row s land aim at_row gp guard granted => gpWrite_granted land aim at_row gp guard granted
  case guard =>
    intro who addr q r g s land aim route die alive may pending
    rw [guardWrite_reaches land aim route die alive may]
    exact congrArg _ (State.on_congr ((guardTake_pending pending _).trans (if_pos rfl)))
  case expiry => exact fun page p s on_page => guardWindowExpiry_on_page on_page
  case hold => exact fun who p on r s on_page granted => holdWrite_granted on_page granted
  case held => exact fun code s clear latched block => onDev_eq_of (doHeldAct_clear clear latched block)
  case banks => exact fun s clear latched => onDev_eq_of (doHeldAct_banks clear latched)
  case scrub => exact fun s => onDev_eq _ s
  case read => exact fun who addr q r o s land aim granted => registerRead_granted land aim granted
  case upset =>
    rintro addr bit p r s on_page ⟨window, die⟩ at_row ⟨ro, wo, sq, mask⟩
    exact onDev_eq_of (doStorageUpset_field on_page window die at_row (by simp only [ro, wo, sq, mask]; decide))

end Sys2Proof.Machine
end

section
/-! The family `02_register_conventions.md`: the slot an offset reaches (R50, R51), events and their interrupt (R55), and
clearing under the current SEQ (R56). -/
namespace Sys2Proof.Machine

/-! ## Slots -/

/-- The slots that an offset is tried at: the remainders of its slot number by falling powers of two. -/
theorem slotOffset_eq (p : Page) (o : Nat) :
    slotOffset p o = 4 * ((([o / 4 % 256 % 256, o / 4 % 256 % 128, o / 4 % 256 % 64, o / 4 % 256 % 32, o / 4 % 256 % 16,
      o / 4 % 256 % 8, o / 4 % 256 % 4, o / 4 % 256 % 2, 0].find? (fun s => (p.row? (4 * s)).isSome)).getD 0)) := by
  unfold slotOffset
  rw [slots_find]

/-- Slot 0 holds ID, in every page (R41). -/
theorem row?_zero (p : Page) : p.row? 0 ≠ none := by
  have header : p.row? 0 = Reg.headerRows.find? (·.hits 0) := if_pos (by decide)
  rw [header]
  decide

/-- A slot that holds a register is reached itself (R50). -/
theorem slotOffset_of_row {p : Page} {o : Nat} (h : p.row? (4 * (o / 4 % 256)) ≠ none) : slotOffset p o = 4 * (o / 4 % 256) := by
  have found : (p.row? (4 * (o / 4 % 256))).isSome = true := Option.isSome_iff_ne_none.mpr h
  rw [slotOffset_eq, Nat.mod_mod, List.find?_cons, found, Option.getD_some]

/-- A slot that holds none falls back to the slot without its highest set bit (R51). -/
theorem slotOffset_of_no_row {p : Page} {o : Nat} (h : p.row? (4 * (o / 4 % 256)) = none) :
    slotOffset p o = slotOffset p (4 * (o / 4 % 256 - 2 ^ Nat.log2 (o / 4 % 256))) := by
  have small : o / 4 % 256 < 256 := Nat.mod_lt _ (by decide)
  rw [slotOffset_eq p o, slotOffset_eq]
  generalize o / 4 % 256 = s at *
  have pos : s ≠ 0 := by rintro rfl; exact row?_zero p h
  have below : 2 ^ s.log2 ≤ s := Nat.log2_self_le pos
  have above : s < 2 ^ (s.log2 + 1) := Nat.lt_log2_self
  have bit : s.log2 < 8 := (Nat.log2_lt pos).mpr small
  have rest : 4 * (s - 2 ^ s.log2) / 4 % 256 = s - 2 ^ s.log2 := by omega
  rw [rest, slots_find_first _ s _ (by rw [h]; rfl) bit below above]

/-- Settles O14: the repeat is arithmetic on the offset, and the fallback is `slots_find_first` at the highest set bit. -/
theorem slotsRepeatAndFallBack : Obligations.SlotsRepeatAndFallBack := by
  unfold Obligations.SlotsRepeatAndFallBack
  intro p o
  refine ⟨?repeats, slotOffset_of_row, slotOffset_of_no_row, row?_zero p, ?lands⟩
  case repeats =>
    have slot : o % 0x400 / 4 % 256 = o / 4 % 256 := by omega
    rw [slotOffset, slotOffset, slot]
  case lands =>
    intro window d who
    simp only [aimAt, window, Bool.not_false, if_true]

/-! ## Events -/

/-- EVENT and PARITY_STAT are no PBA. -/
theorem sq_not_pba {o : Nat} (h : o = Reg.EVENT ∨ o = Reg.PARITY_STAT) (p : Page) : ¬ pbaAt (p.base + o) := by
  rcases h with rfl | rfl <;> exact not_pba (by decide) (by decide)

/-- EVENT of the page after an event (R55). -/
theorem rg_event_same (p : Page) (k : Nat) (d : Dev) : rg (event p k d) p Reg.EVENT = sqEvent (rg d p Reg.EVENT) k := by
  unfold event
  rw [rg_withIrq (sq_not_pba (.inl rfl) p), rg_sg_same]

/-- A field is not 0 exactly where one of its bits is set. -/
theorem fld_ne_zero_iff (v : Word) (hi lo : Nat) : fld v hi lo ≠ 0 ↔ ∃ k, k < hi + 1 - lo ∧ bitOf v (k + lo) = true := by
  constructor
  · intro h
    obtain ⟨k, hk⟩ := Nat.exists_testBit_of_ne_zero h
    rw [fld_testBit, Bool.and_eq_true, decide_eq_true_eq] at hk
    exact ⟨k, hk⟩
  · rintro ⟨k, hk, hb⟩ h0
    have := fld_testBit v hi lo k
    rw [h0, hb, decide_eq_true hk, Nat.zero_testBit] at this
    exact absurd this (by decide)

/-- A page asserts its interrupt while EVENT and EVENT_EN share a bit (R55). -/
theorem irqOn_iff (d : Dev) (p : Page) :
    irqOn d p = true ↔ ∃ k, k < 24 ∧ rb d p Reg.EVENT k = true ∧ rb d p Reg.EVENT_EN k = true := by
  simp only [irqOn, bne_iff_ne, fld_ne_zero_iff, rb_eq_bitOf, bitOf, BitVec.getLsbD_and, Bool.and_eq_true, Nat.add_zero]

/-- Settles O13: EVENT takes `sqEvent`, whose bits `sqEvent_bits` gives. -/
theorem eventSetsItsBitAndAssertsTheInterrupt : Obligations.EventSetsItsBitAndAssertsTheInterrupt := by
  unfold Obligations.EventSetsItsBitAndAssertsTheInterrupt
  intro p d
  refine ⟨fun k hk => ?_, irqOn_iff d p⟩
  obtain ⟨raised, others, seq⟩ := sqEvent_bits (rg d p Reg.EVENT) hk
  simp only [rb_eq_bitOf, rf_eq_fld, rg_event_same]
  refine ⟨raised, seq, others, fun x y off pba => rg_event off pba, ?frame⟩
  case frame =>
    obtain ⟨R, O, e⟩ := event_eq p k d
    rw [e]

/-! ## Clearing -/

/-- A mask of 0 clears nothing, and is not counted (R56). -/
theorem sqClear_no_mask {w v : Word} (h : fld v 23 0 = 0) : sqClear w v = some w := if_pos h

/-- Under the current SEQ the bits of the mask clear (R56). -/
theorem sqClear_current {w v : Word} (mask : fld v 23 0 ≠ 0) (seq : fld v 31 24 = fld w 31 24) :
    sqClear w v = some (w &&& ~~~ (v &&& fldMask 23 0)) := by
  rw [sqClear, if_neg mask, if_pos seq]

/-- Under another SEQ nothing clears (R56). -/
theorem sqClear_stale {w v : Word} (mask : fld v 23 0 ≠ 0) (seq : fld v 31 24 ≠ fld w 31 24) : sqClear w v = none := by
  rw [sqClear, if_neg mask, if_neg seq]

/-- Clearing by a mask leaves SEQ. -/
theorem fld_cleared_seq (w v : Word) : fld (w &&& ~~~ (v &&& fldMask 23 0)) 31 24 = fld w 31 24 := by
  apply Nat.eq_of_testBit_eq
  intro k
  rw [fld_testBit, fld_testBit]
  by_cases hk : k < 31 + 1 - 24
  · have high : ¬ k + 24 < 24 := by omega
    rw [bitOf_cleared _ _ _ (by omega), decide_eq_false high, Bool.and_false, Bool.not_false, Bool.and_true]
  · simp only [hk, decide_false, Bool.false_and]

/-- A register stored with its page's interrupt reads the value stored, if it is no PBA. -/
theorem rg_stored {r : Page} {o : Nat} (h : ¬ pbaAt (r.base + o)) (w : Word) (d : Dev) : rg (withIrq r (sg r o w) d) r o = w := by
  rw [rg_withIrq h, rg_sg_same]

/-- Every other register that is no PBA stays. -/
theorem rg_stored_ne {r x : Page} {o y : Nat} (h : ¬ pbaAt (x.base + y)) (off : x.base + y ≠ r.base + o) (w : Word) (d : Dev) :
    rg (withIrq r (sg r o w) d) x y = rg d x y := by
  rw [rg_withIrq h, rg_sg_ne off]

section
variable {r : Page} {o : Nat} {v : Word} {d : Dev}

/-- Under the current SEQ the bits of the mask clear, SEQ stays, and so does every other register but a pending bit. -/
theorem sqWrite_current (pba : ¬ pbaAt (r.base + o)) (mask : fld v 23 0 ≠ 0) (seq : fld v 31 24 = fld (rg d r o) 31 24) :
    (∀ k, k < 24 → bitOf (rg (sqWrite r o v d) r o) k = (bitOf (rg d r o) k && !bitOf v k)) ∧
    fld (rg (sqWrite r o v d) r o) 31 24 = fld (rg d r o) 31 24 ∧
    ∀ (x : Page) (y : Nat), x.base + y ≠ r.base + o → ¬ pbaAt (x.base + y) → rg (sqWrite r o v d) x y = rg d x y := by
  rw [sqWrite_of_some (sqClear_current mask seq), rg_stored pba]
  refine ⟨fun k hk => ?_, fld_cleared_seq _ _, fun x y off h => rg_stored_ne h off _ _⟩
  rw [bitOf_cleared _ _ _ (by omega), decide_eq_true hk, Bool.and_true]

/-- Under another SEQ the stale count goes up and nothing else changes. -/
theorem sqWrite_stale (mask : fld v 23 0 ≠ 0) (seq : fld v 31 24 ≠ fld (rg d r o) 31 24) :
    fld (rg (sqWrite r o v d) r Reg.STAT_COUNT) 31 16 = (fld (rg d r Reg.STAT_COUNT) 31 16 + 1) % 65536 ∧
    fld (rg (sqWrite r o v d) r Reg.STAT_COUNT) 15 0 = fld (rg d r Reg.STAT_COUNT) 15 0 ∧
    ∀ (x : Page) (y : Nat), x.base + y ≠ r.base + Reg.STAT_COUNT → rg (sqWrite r o v d) x y = rg d x y := by
  have count : rg (bump r Reg.STAT_COUNT 31 16 d) r Reg.STAT_COUNT =
      setFld (rg d r Reg.STAT_COUNT) 31 16 (fld (rg d r Reg.STAT_COUNT) 31 16 + 1) := rg_sg_same _ _ _ _
  rw [sqWrite_of_none (sqClear_stale mask seq), count]
  exact ⟨fld_setFld_same _ _ (by decide) (by decide), fld_setFld_ne _ _ (by decide) (by decide) (by decide),
    fun x y off => rg_sg_ne off⟩

/-- With a mask of 0 no register changes but a pending bit. -/
theorem sqWrite_no_mask (mask : fld v 23 0 = 0) {x : Page} {y : Nat} (pba : ¬ pbaAt (x.base + y)) :
    rg (sqWrite r o v d) x y = rg d x y := by
  rw [sqWrite_of_some (sqClear_no_mask mask)]
  by_cases same : x.base + y = r.base + o
  · have reads (e : Dev) : rg e x y = rg e r o := by rw [rg, rg, same]
    rw [reads, reads, rg_stored (same ▸ pba)]
  · exact rg_stored_ne pba same _ _

/-- The clearing write touches registers and messages out alone. -/
theorem sqWrite_eq (r : Page) (o : Nat) (v : Word) (d : Dev) : ∃ R O, sqWrite r o v d = { d with regs := R, out := O } := by
  cases h : sqClear (rg d r o) v with
  | none => exact ⟨_, d.out, sqWrite_of_none h⟩
  | some w =>
    obtain ⟨R, O, e, -⟩ := withIrq_eq r (sg r o w) d
    exact ⟨R, O, (sqWrite_of_some h).trans e⟩

end

/-- Devices that differ in registers and messages out alone differ in no more at the end of the cycle. -/
theorem cycleEnd_regs_out {d e : Dev} (h : ∃ R O, e = { d with regs := R, out := O }) :
    { cycleEnd e with regs := (cycleEnd d).regs, out := (cycleEnd d).out } = cycleEnd d := by
  obtain ⟨R, O, rfl⟩ := h
  obtain ⟨S, T, quiet, same⟩ := cycleEnd_form d
  rw [same { d with regs := R, out := O } rfl rfl rfl, quiet]

/-- Settles O12: the three cases of the clearing write, at the end of the cycle. -/
theorem sequenceClearClearsUnderTheCurrentSeq : Obligations.SequenceClearClearsUnderTheCurrentSeq := by
  unfold Obligations.SequenceClearClearsUnderTheCurrentSeq
  intro who addr v q r o row s land aim isSq at_row sq granted
  refine ⟨_, sequence_write land aim isSq at_row sq granted, rfl, rfl, ?current, ?stale, ?none,
    cycleEnd_regs_out (sqWrite_eq r o v _)⟩
  all_goals simp only [on_dev, rb_eq_bitOf, rf_eq_fld, cycleEnd_keeps]
  case current => exact sqWrite_current (sq_not_pba isSq r)
  case stale => exact sqWrite_stale
  case none => exact fun mask x y => sqWrite_no_mask mask

end Sys2Proof.Machine
end

section
/-! The family `02_register_conventions.md`: the lock of a page (R65) and an access to no page (R35). -/
namespace Sys2Proof.Machine

/-! ## The lock -/

/-- A locked page refuses a write of an RWL register with LOCKED_WRITE (R65). -/
theorem lockedWrite_locked {p : Page} {d : Dev} (h : rb d p Reg.OWNER 31 = true) (o : Nat) (v : Word) :
    lockedWrite p o v d = event p Reg.EV_LOCKED_WRITE d := if_pos h

/-- An unlocked page takes it (R53). -/
theorem lockedWrite_unlocked {p : Page} {d : Dev} (h : rb d p Reg.OWNER 31 = false) (o : Nat) (v : Word) :
    lockedWrite p o v d = plainWrite p o v d := if_neg (by rw [h]; decide)

/-- A plain write leaves every other register. -/
theorem rg_plainWrite_ne {p x : Page} {o y : Nat} (h : x.base + y ≠ p.base + o) (v : Word) (d : Dev) :
    rg (plainWrite p o v d) x y = rg d x y := tabGet_set_ne h

/-- The writable bits of a register are those of its row. -/
theorem maskOf_row {p : Page} {o : Nat} {row : Row} (h : p.row? o = some row) : maskOf p o = row.mask := by
  simp only [maskOf, h]

/-- A device with the three memories of another. -/
def SameMemories (d e : Dev) : Prop := e.pasture = d.pasture ∧ e.dram = d.dram ∧ e.nvm = d.nvm

/-- No memory changes with an event. -/
theorem event_sameMemories (p : Page) (k : Nat) (d : Dev) : SameMemories d (event p k d) := by
  obtain ⟨R, O, e⟩ := event_eq p k d
  rw [e]
  exact ⟨rfl, rfl, rfl⟩

/-- No memory changes with a write of an RWL register, whether the page is locked or not. -/
theorem lockedWrite_sameMemories (p : Page) (o : Nat) (v w : Word) (d : Dev) :
    SameMemories d (freshParity p o w (lockedWrite p o v d)) := by
  have stored : SameMemories d (lockedWrite p o v d) := by
    cases h : rb d p Reg.OWNER 31 with
    | true => rw [lockedWrite_locked h]; exact event_sameMemories _ _ _
    | false => rw [lockedWrite_unlocked h]; exact ⟨rfl, rfl, rfl⟩
  unfold freshParity
  split
  · exact stored
  · exact stored

/-- Settles O28: every RWL register is written by `lockedWrite` (`locked_write`), which asks OWNER.LOCK alone. -/
theorem lockMakesLockedFieldsReadOnly : Obligations.LockMakesLockedFieldsReadOnly := by
  unfold Obligations.LockMakesLockedFieldsReadOnly
  intro who addr v sense q r o row s land aim at_row rwl granted
  have beyond : 0x40 ≤ o := (rwl_page at_row rwl).2
  have guard : o ≠ Reg.GUARD := by unfold Reg.GUARD; omega
  refine ⟨_, registerWrite_granted land aim guard granted, rfl, rfl, ?_⟩
  simp only [on_dev, locked_write at_row rwl, rb_cycleEnd, cycleEnd_keeps, rg_freshParity]
  generalize gpIntervene r s.dev = d
  refine ⟨fun locked => ⟨fun x y off pba => ?_, ?_⟩, fun unlocked => ⟨?_, fun x y off => ?_⟩,
    lockedWrite_sameMemories _ _ _ _ _⟩
  · rw [lockedWrite_locked locked, rg_event off pba]
  · rw [rb_eq_bitOf, rg_freshParity, lockedWrite_locked locked, rg_event_same]
    exact (sqEvent_bits _ (by decide)).1
  · rw [lockedWrite_unlocked unlocked, rg_plainWrite, maskOf_row at_row]
    rfl
  · rw [lockedWrite_unlocked unlocked, rg_plainWrite_ne off]

/-! ## An access to no page -/

/-- A saturating counter changes its own register alone. -/
theorem bumpSat_eq (p : Page) (o hi lo : Nat) (d : Dev) : ∃ R, bumpSat p o hi lo d = { d with regs := R } ∧
    ∀ a, a ≠ p.base + o → tabGet regReset R a = tabGet regReset d.regs a := by
  unfold bumpSat
  split
  · exact ⟨d.regs, rfl, fun _ _ => rfl⟩
  · exact ⟨_, rfl, fun _ off => tabGet_set_ne off⟩

/-- An access to no page writes UNMAPPED_ADDR and UNMAPPED_INFO, and raises UNMAPPED_ACCESS (R35, R36). -/
theorem unmapped_eq (fold wr : Bool) (a : Nat) (d : Dev) :
    ∃ R, unmapped fold wr a d =
        raiseFault (.sys 0) Reg.Sys0.SRC_UNMAPPED_ACCESS Reg.Sys0.EV_UNMAPPED { d with regs := R } ∧
      ∀ (x : Page) (y : Nat), x.base + y ≠ (Page.sys 0).base + Reg.Sys0.UNMAPPED_ADDR →
        x.base + y ≠ (Page.sys 0).base + Reg.Sys0.UNMAPPED_INFO → rg { d with regs := R } x y = rg d x y := by
  obtain ⟨R, counted, others⟩ :=
    bumpSat_eq (.sys 0) Reg.Sys0.UNMAPPED_INFO 29 16 (sg (.sys 0) Reg.Sys0.UNMAPPED_ADDR (BitVec.ofNat 32 a) d)
  unfold unmapped
  rw [counted]
  refine ⟨_, rfl, fun x y addr info => ?_⟩
  calc
    _ = tabGet regReset R (x.base + y) := (tabGet_set_ne info).trans (tabGet_set_ne info)
    _ = rg (sg (.sys 0) Reg.Sys0.UNMAPPED_ADDR (BitVec.ofNat 32 a) d) x y := others _ info
    _ = rg d x y := rg_sg_ne addr

/-- What fired after a device fired after any that has the same reports under way and the same classes in the page. -/
theorem Fires.of_same {p : Page} {src : Nat} {d e f : Dev} (h : Fires p src e f)
    (same : e.firing = d.firing ∧ e.sdg = d.sdg ∧ e.tet = d.tet) (cls : rg e p Reg.FAULT_CLASS = rg d p Reg.FAULT_CLASS) :
    Fires p src d f := by
  obtain ⟨firing, sdg, tet⟩ := same
  obtain ⟨r, b, l, block, source, class_, fired, sdg', tet'⟩ := h
  have classes : classOf e p src = classOf d p src := by unfold classOf; rw [rf_eq_fld, rf_eq_fld, cls]
  exact ⟨r, b, l, block, source, class_.trans classes, by rw [fired, firing], sdg'.trans sdg, tet'.trans tet⟩

/-- Faults leave the answer of a read. -/
theorem FaultsOnly.resp_eq {d e : Dev} (h : FaultsOnly d e) : e.resp = d.resp := by
  unfold FaultsOnly at h
  rw [h]

/-- Settles O16: the fault is raised on SYS, whose isolation changes no register (`rg_raise`). -/
theorem unmappedAccessIsReported : Obligations.UnmappedAccessIsReported := by
  unfold Obligations.UnmappedAccessIsReported
  intro fold write addr s quiet off
  refine ⟨_, unmappedAccess_off_pages (by rw [off]; rfl), rfl, rfl, ?_⟩
  have answer (u : Dev) : (if write then u else { u with resp := 0 }) = { u with resp := if write then u.resp else 0 } := by
    cases write <;> rfl
  simp only [on_dev, answer, cycleEnd_resp]
  obtain ⟨R, raised, others⟩ := unmapped_eq fold write addr.toNat s.dev
  obtain ⟨bit, fires, -, faults⟩ := raiseFault_facts (.sys 0) Reg.Sys0.SRC_UNMAPPED_ACCESS
    (k := Reg.Sys0.EV_UNMAPPED) (by decide) { s.dev with regs := R }
  have keeps : FaultsOnly s.dev (cycleEnd (unmapped fold write addr.toNat s.dev)) := by
    rw [raised]; exact ((FaultsOnly.regs _ R).trans faults).trans (.cycleEnd _)
  refine ⟨fun read => by rw [read]; rfl, ?event, ?report, ?only, fun x y listed pba => ?register⟩
  case event =>
    rw [raised]
    exact (rb_cycleEnd _ _ _ _).trans bit
  case report =>
    rw [raised]
    have cls := others (.sys 0) Reg.FAULT_CLASS (base_ne (by decide) (by decide) (by decide))
      (base_ne (by decide) (by decide) (by decide))
    exact reported_first quiet (fires.of_same ⟨rfl, rfl, rfl⟩ cls)
  case only =>
    have resp : { cycleEnd (unmapped fold write addr.toNat s.dev) with resp := s.dev.resp } =
        cycleEnd (unmapped fold write addr.toNat s.dev) := by rw [← keeps.resp_eq]
    exact resp.symm ▸ keeps
  case register =>
    simp only [List.mem_cons, List.not_mem_nil, or_false, not_or] at listed
    obtain ⟨event, address, info⟩ := listed
    have reg : rg (cycleEnd (unmapped fold write addr.toNat s.dev)) x y = rg s.dev x y := by
      simp only [cycleEnd_keeps]
      rw [raised, rg_raise (fun _ => rfl), rg_event event pba, others x y address info]
    exact reg

end Sys2Proof.Machine
end

section
/-! The family `02_register_conventions.md`: the guarded pair (R14, R44, R47, R59). -/
namespace Sys2Proof.Machine

/-! ## The value that takes effect -/

/-- A class in its range leaves no record (R14). -/
theorem classRecord_fits {p : Page} {v : Word} {src : Nat} (d : Dev)
    (fits : (p.source src).isSome = true → p.adjustClass src (fld v (3 * src + 2) (3 * src)) = fld v (3 * src + 2) (3 * src)) :
    classRecord p v src d = d := by
  unfold classRecord
  refine if_neg fun h => ?_
  obtain ⟨source, other⟩ := (Bool.and_eq_true _ _).mp h
  exact bne_iff_ne.mp other (fits source)

/-- FAULT_CLASS of a page that is not isolated takes classes that all fit (R14, R47). -/
theorem classTake_fits {p : Page} {v : Word} {d : Dev} (live : isoOf d p = false)
    (fits : ∀ n, n < 8 → (p.source n).isSome = true →
      p.adjustClass n (fld v (3 * n + 2) (3 * n)) = fld v (3 * n + 2) (3 * n)) :
    classTake p v d = plainWrite p Reg.FAULT_CLASS (classFit p v) d := by
  have unrecorded : forN (classRecord p v) 8 d = d := forN_id 8 d fun k e hk => classRecord_fits e (fits k hk)
  unfold classTake
  rw [unrecorded]
  exact if_neg (by rw [live]; decide)

/-- The classes of FAULT_CLASS are its low 24 bits, in every page (R47). -/
theorem maskOf_faultClass (p : Page) : maskOf p Reg.FAULT_CLASS = 0x00FFFFFF := by
  have row : p.row? Reg.FAULT_CLASS = Reg.headerRows.find? (·.hits Reg.FAULT_CLASS) := if_pos (by decide)
  rw [maskOf, row]
  decide

/-- The writable bits of a register written read as those of the value. -/
theorem maskIn_and_mask (old v : Word) (mask : Nat) :
    maskIn old v mask &&& BitVec.ofNat 32 mask = v &&& BitVec.ofNat 32 mask := by
  unfold maskIn
  generalize BitVec.ofNat 32 mask = m
  ext k hk
  simp only [BitVec.getElem_and, BitVec.getElem_or, BitVec.getElem_not]
  cases old[k] <;> cases v[k] <;> cases m[k] <;> rfl

/-- A refused access leaves the page header but for EVENT (R45). -/
theorem rg_accessRefused (p : Page) {o : Nat} (header : o < 0x24) (notEvent : o ≠ Reg.EVENT) (d : Dev) :
    rg (accessRefused p d) p o = rg d p o := by
  obtain ⟨-, -, keeps, -⟩ := raiseFault_facts p Reg.SRC_ACCESS_REFUSED (k := Reg.EV_ACCESS_REFUSED) (by decide) d
  exact keeps.2 p o header notEvent

/-- The classes that all fit stand in FAULT_CLASS. -/
theorem rg_classTake_fits {p : Page} {v : Word} {d : Dev} (live : isoOf d p = false)
    (fits : ∀ n, n < 8 → (p.source n).isSome = true →
      p.adjustClass n (fld v (3 * n + 2) (3 * n)) = fld v (3 * n + 2) (3 * n)) :
    rg (classTake p v d) p Reg.FAULT_CLASS &&& 0x00FFFFFF = classFit p v &&& 0x00FFFFFF := by
  rw [classTake_fits live fits, rg_plainWrite, maskOf_faultClass]
  exact maskIn_and_mask _ _ _

/-- A locked OWNER stays, and so does one written with an owner that the page does not take (R44, R112, R159). -/
theorem rg_ownerTake_refused {who : Party} {p : Page} {v : Word} {d : Dev}
    (refused : rb d p Reg.OWNER 31 = true ∨ ownerBad p v = true) :
    rg (ownerTake who p v d) p Reg.OWNER = rg d p Reg.OWNER := by
  rw [ownerTake_refused refused]
  exact rg_accessRefused p (by decide) (by decide) d

/-- A completed pair on OWNER writes OWNER (R44). -/
theorem gpTake_owner (p : Page) (v : Word) (who : Party) (d : Dev) :
    gpTake p { off := Reg.OWNER, val := v, party := who } d = ownerTake who p v d := if_pos rfl

/-- A completed pair on FAULT_CLASS writes the classes (R14). -/
theorem gpTake_faultClass (p : Page) (v : Word) (who : Party) (d : Dev) :
    gpTake p { off := Reg.FAULT_CLASS, val := v, party := who } d = classTake p v d :=
  (if_neg (show ¬ Reg.FAULT_CLASS = Reg.OWNER by decide)).trans (if_pos rfl)

/-! ## The pair that fails -/

/-- A failed pair sets EVENT.GUARD_FAIL, goes up by one in the guard-fail count, reports GUARD_FAIL and leaves OWNER and
FAULT_CLASS (R59). -/
theorem guardFail_facts (p : Page) (d : Dev) :
    rb (guardFail p d) p Reg.EVENT Reg.EV_GUARD_FAIL = true ∧
    rf (guardFail p d) p Reg.STAT_COUNT 15 0 = (rf d p Reg.STAT_COUNT 15 0 + 1) % 65536 ∧
    rg (guardFail p d) p Reg.OWNER = rg d p Reg.OWNER ∧ rg (guardFail p d) p Reg.FAULT_CLASS = rg d p Reg.FAULT_CLASS ∧
    Fires p Reg.SRC_GUARD_FAIL d (guardFail p d) ∧ FaultsOnly d (guardFail p d) := by
  obtain ⟨bit, fires, ⟨-, header⟩, -⟩ := raiseFault_facts p Reg.SRC_GUARD_FAIL (k := Reg.EV_GUARD_FAIL) (by decide)
    (bump p Reg.STAT_COUNT 15 0 d)
  have counted : rg (bump p Reg.STAT_COUNT 15 0 d) p Reg.STAT_COUNT =
      setFld (rg d p Reg.STAT_COUNT) 15 0 (fld (rg d p Reg.STAT_COUNT) 15 0 + 1) := rg_sg_same _ _ _ _
  have others {o : Nat} (h : o < 0x1000) (ne : o ≠ Reg.STAT_COUNT) : rg (bump p Reg.STAT_COUNT 15 0 d) p o = rg d p o :=
    rg_sg_ne (base_ne h (by decide) ne)
  refine ⟨bit, ?count, ?owner, ?classes, fires.of_same ⟨rfl, rfl, rfl⟩ (others (by decide) (by decide)), .guardFail p d⟩
  case count =>
    calc
      _ = fld (rg (bump p Reg.STAT_COUNT 15 0 d) p Reg.STAT_COUNT) 15 0 :=
        congrArg (fld · 15 0) (header p Reg.STAT_COUNT (by decide) (by decide))
      _ = _ := by rw [counted]; exact fld_setFld_same _ _ (by decide) (by decide)
  case owner => exact (header p Reg.OWNER (by decide) (by decide)).trans (others (by decide) (by decide))
  case classes => exact (header p Reg.FAULT_CLASS (by decide) (by decide)).trans (others (by decide) (by decide))

/-! ## The pair -/

/-- The pair is pending at the end of the GP write's cycle, and the GP write changes nothing else (R59). -/
theorem gpWrite_pending (who : Party) (r : Page) (o : Nat) (v : Word) (d : Dev) :
    let e := cycleEnd (gpWrite who r o v d)
    e = cycleEnd { d with gp := e.gp } ∧
      tabGet (fun _ => none) e.gp r.base = some { off := o, val := v, party := who } ∧ e.firing = [] := by
  have gp : (cycleEnd (gpWrite who r o v d)).gp = (gpWrite who r o v d).gp := by simp only [cycleEnd_keeps]
  refine ⟨by rw [gp]; rfl, ?_, by simp only [cycleEnd_keeps]⟩
  simp only [cycleEnd_keeps, gpWrite, tabGet_set_same]

/-- Settles O18: the GP write leaves its value pending (`gpWrite_pending`), the GUARD write compares with it
(`guardTake_pending`), and the value takes effect (`gpTake`) or the pair fails (`guardFail_facts`). -/
theorem guardedPairTakesOnlyTheComplement : Obligations.GuardedPairTakesOnlyTheComplement := by
  unfold Obligations.GuardedPairTakesOnlyTheComplement
  intro who who₂ addr addr₂ v w q q₂ r o row s t land aim at_row gp guard granted ran land₂ aim₂ route die alive may
  obtain rfl : s.on (fun d => gpWrite who r o v (gpIntervene r d)) = t :=
    Host.Outcome.next.inj ((gpWrite_granted land aim at_row gp guard granted).symm.trans ran)
  obtain ⟨frame, waits, quiet⟩ := gpWrite_pending who r o v (gpIntervene r s.dev)
  refine ⟨frame, waits, _, guardWrite_reaches land₂ aim₂ route die alive may, ?_⟩
  have answer := guardTake_pending waits w
  rw [← on_dev s fun d => gpWrite who r o v (gpIntervene r d)] at answer quiet
  generalize s.on (fun d => gpWrite who r o v (gpIntervene r d)) = t at *
  refine ⟨fun complement => ?takes, fun other => ?fails⟩
  case takes =>
    rw [on_dev, answer, if_pos complement]
    refine ⟨rfl, ?fold, ?refused, ?classes⟩
    case fold =>
      rintro rfl rfl unlocked admitted stream
      simp only [cycleEnd_keeps, gpTake_owner]
      exact ownerTake_fold unlocked admitted stream
    case refused =>
      rintro rfl refused
      simp only [cycleEnd_keeps, gpTake_owner]
      exact rg_ownerTake_refused refused
    case classes =>
      rintro rfl live fits
      simp only [cycleEnd_keeps, gpTake_faultClass]
      exact rg_classTake_fits live fits
  case fails =>
    rw [on_dev, answer, if_neg other]
    simp only [rb_cycleEnd, rf_cycleEnd, cycleEnd_keeps]
    obtain ⟨bit, count, owner, classes, fires, faults⟩ := guardFail_facts r
      { t.dev with gp := tabSet (fun _ => none) t.dev.gp r.base none }
    exact ⟨bit, count, owner, classes, reported_first quiet (fires.of_same ⟨rfl, rfl, rfl⟩ rfl), faults.trans (.cycleEnd _)⟩

end Sys2Proof.Machine
end

section
/-! The family `03_puette_image_and_startup.md`: what a step does to the fuses (R91, R92, R95). -/
namespace Sys2Proof.Machine

/-! ## The life cycle -/

/-- A flag that is carried out moves the life cycle along one transition (R91). -/
theorem transition_lcMove {f : Fuses} {d : Dev} {k b : Nat} (h : transition f d k = some b) : LcMove f.lcState b := by
  unfold LcMove
  simp only [transition] at h
  split at h
  case h_5 => exact nomatch h
  all_goals
    split at h
    · cases h; omega
    · exact nomatch h

/-- PROVISION leads from state 0 to state 1 (R91). -/
theorem transition_provision {f : Fuses} {d : Dev} {b : Nat} (h : transition f d 1 = some b) : f.lcState = 0 ∧ b = 1 := by
  by_cases virgin : f.lcState = 0
  · exact ⟨virgin, (Option.some.inj ((if_pos virgin).symm.trans h)).symm⟩
  · exact nomatch (if_neg virgin).symm.trans h

/-- The flag that is carried out has a transition. -/
theorem chosenFlag_transition {f : Fuses} {d : Dev} {k : Nat} (h : chosenFlag f d = some k) :
    ∃ b, transition f d k = some b := by
  have available := List.find?_some h
  rw [Bool.and_eq_true] at available
  exact Option.isSome_iff_exists.mp available.2

/-- The fuses after a start: as before, or those of the flag that is carried out. -/
theorem fusesAfter_cases (f : Fuses) (d : Dev) :
    fusesAfter f d = f ∨ ∃ k b, transition f d k = some b ∧
      fusesAfter f d = { f with lcState := b, ownerKey := if k = 1 then beNat (sha384 d.boot.key) else f.ownerKey } := by
  unfold fusesAfter
  cases chosen : chosenFlag f d with
  | none => exact .inl rfl
  | some k =>
    obtain ⟨b, leads⟩ := chosenFlag_transition chosen
    exact .inr ⟨k, b, leads, by simp only [leads, Option.getD_some]⟩

/-- The security version after ADVANCE_SVN (R95). -/
theorem svnAfter_svn (f : Fuses) (d : Dev) :
    (svnAfter f d).svn = if d.boot.flags.testBit 0 = true ∧ f.svn < d.boot.svn then d.boot.svn else f.svn := by
  unfold svnAfter
  split <;> rfl

/-! ## A step and the fuses -/

/-- Fuses that stay are a step. -/
theorem FuseStep.refl (f : Fuses) : FuseStep f f :=
  ⟨rfl, rfl, Nat.le_refl _, .inl rfl, fun changed => absurd rfl changed⟩

/-- A life-cycle transition is a step: the owner key changes with PROVISION alone (R91). -/
theorem fuseStep_fusesAfter (f : Fuses) (d : Dev) : FuseStep f (fusesAfter f d) := by
  rcases fusesAfter_cases f d with same | ⟨k, b, leads, moved⟩
  · rw [same]; exact .refl f
  · rw [moved]
    refine ⟨rfl, rfl, Nat.le_refl _, transition_lcMove leads, fun changed => ?_⟩
    by_cases provision : k = 1
    · subst provision
      exact transition_provision leads
    · exact absurd (if_neg provision) changed

/-- ADVANCE_SVN is a step: the security version does not fall (R95). -/
theorem fuseStep_svnAfter (f : Fuses) (d : Dev) : FuseStep f (svnAfter f d) := by
  unfold svnAfter
  split
  case isTrue rises =>
    exact ⟨rfl, rfl, Nat.le_of_lt rises.2, .inl rfl, fun changed => absurd rfl changed⟩
  case isFalse => exact .refl f

/-- A step of the fuses keeps the life cycle one of its five states (R91). -/
theorem FuseStep.legal {a b : Fuses} (h : FuseStep a b) (legal : a.legal) : b.legal := by
  obtain ⟨-, -, -, move, -⟩ := h
  unfold LcMove at move
  unfold Fuses.legal at *
  omega

/-- Whatever a step takes, a command or none, the fuses make a step, and no fault that has fired is left waiting. -/
theorem step_fuses_firing (s : State) :
    ∃ t, step s = .next t ∧ FuseStep s.fuses t.fuses ∧ (s.dev.firing = [] → t.dev.firing = []) := by
  cases waiting : s.pending with
  | nil =>
    have idles : step s = .next (s.on idle) := by simp only [step, waiting, onDev_eq]
    refine ⟨s.on idle, idles, ?_, fun _ => by simp only [on_dev, cycleEnd_keeps]⟩
    rw [on_fuses]
    exact .refl _
  | cons c rest =>
    obtain ⟨t, answers, -, quiet, fuses⟩ := exec_cases c { s with pending := rest }
    refine ⟨t, (step_cons c rest s waiting).trans answers, ?_, quiet⟩
    rcases fuses with e | e | e
    · rw [e]; exact .refl _
    · rw [e]; exact fuseStep_fusesAfter _ _
    · rw [e]; exact fuseStep_svnAfter _ _

/-- Settles O6: whatever the step takes, it is a step of the fuses (`step_fuses_firing`). -/
theorem stepMovesTheFusesOnlyAsAllowed : Obligations.StepMovesTheFusesOnlyAsAllowed := by
  unfold Obligations.StepMovesTheFusesOnlyAsAllowed
  intro s t ran
  obtain ⟨u, answers, fuses, -⟩ := step_fuses_firing s
  obtain rfl : u = t := Host.Outcome.next.inj (answers.symm.trans ran)
  exact fuses

/-- Settles O7: a step of the fuses keeps the life cycle legal (`FuseStep.legal`). -/
theorem stepKeepsTheLifeCycleLegal : Obligations.StepKeepsTheLifeCycleLegal := by
  unfold Obligations.StepKeepsTheLifeCycleLegal
  intro s t ran
  obtain ⟨u, answers, fuses, quiet⟩ := step_fuses_firing s
  obtain rfl : u = t := Host.Outcome.next.inj (answers.symm.trans ran)
  exact ⟨fuses.legal, quiet⟩

/-! ## Full composition -/

/-- FULL_COMPOSITION where the start has come to it. -/
theorem exec_fullComposition_ready {s : State} (ready : fullReady s.dev = true) :
    exec .fullComposition s = .next { s with
      fuses := svnAfter s.fuses s.dev, dev := cycleEnd (fullComposition (svnAfter s.fuses s.dev) s.dev) } :=
  if_neg (by rw [ready]; decide)

/-- FULL_COMPOSITION where it has not. -/
theorem exec_fullComposition_not_ready {s : State} (ready : fullReady s.dev = false) :
    exec .fullComposition s = .next s :=
  if_pos (by rw [ready]; decide)

/-- Every other command leaves the fused security version. -/
theorem exec_svn {c : Instr} {s t : State} (other : c ≠ .fullComposition) (ran : exec c s = .next t) :
    t.fuses.svn = s.fuses.svn := by
  by_cases released : c = .fellReleased
  · subst released
    rcases exec_fellReleased s with e | ⟨d, e⟩
    · obtain rfl : s = t := Host.Outcome.next.inj (e.symm.trans ran)
      rfl
    · obtain rfl := Host.Outcome.next.inj (e.symm.trans ran)
      exact fusesAfter_svn _ _
  · obtain ⟨f, e⟩ := exec_on c s released other
    obtain rfl : s.on f = t := Host.Outcome.next.inj (e.symm.trans ran)
    rfl

/-- Settles O15: FULL_COMPOSITION writes `svnAfter` where its conditions are met, and no other command writes the version
(`exec_svn`). -/
theorem onlyFullCompositionRaisesTheFusedVersion : Obligations.OnlyFullCompositionRaisesTheFusedVersion := by
  unfold Obligations.OnlyFullCompositionRaisesTheFusedVersion
  intro c s t ran
  by_cases full : c = .fullComposition
  case neg => exact ⟨fun h => absurd h full, fun _ => exec_svn full ran⟩
  subst full
  cases ready : fullReady s.dev with
  | false =>
    obtain rfl : s = t := Host.Outcome.next.inj ((exec_fullComposition_not_ready ready).symm.trans ran)
    exact ⟨fun _ h => absurd h (by decide), fun _ => rfl⟩
  | true =>
    obtain rfl := Host.Outcome.next.inj ((exec_fullComposition_ready ready).symm.trans ran)
    have version := svnAfter_svn s.fuses s.dev
    refine ⟨fun _ _ advance rises => ?_, fun stays => ?_⟩
    · exact version.trans (if_pos ⟨advance, rises⟩)
    · exact version.trans (if_neg fun ⟨advance, rises⟩ => stays ⟨rfl, rfl, advance, rises⟩)

end Sys2Proof.Machine
end

section
/-! The family `03_puette_image_and_startup.md`: what the start-up commands and the NVM commands answer (R86, R88, R89, R96,
R103, R108, R109, R440, R513). -/
namespace Sys2Proof.Machine

/-! ## The resets that end, and the tether (R96, R513) -/

/-- DALE_OUT_OF_RESET with every required rail valid and nothing that holds the die (R96). -/
theorem doDaleOut_rails_valid (f : Fuses) {d : Dev} (held : d.pwr.held = true) (pin : d.pwr.rstLow = false)
    (rails : (List.range 11).any (railInvalid d) = false) (vao : (d.sdg.deadHeld && !d.pwr.vaoBad) = false) :
    doDaleOut f d =
      let d := when d.pwr.vaoBad (modSdg (fun g => { g with deadHeld := false, vaoLocks := [] })) d
      let d := { d with pwr := { d.pwr with held := false, vaoBad := false }, boot := { stage := 1, t0 := d.us - 1000 } }
      daleOut (readFuses f d) := by
  simp only [doDaleOut, held, pin, rails, vao, Bool.not_true, Bool.or_self, Bool.false_eq_true, if_false]

/-- SELF_TEST_DONE at a start of the device (R96). -/
theorem doSelfTest_start (fails : List (Nat × Nat)) {d : Dev} (out : d.sdg.inReset = false) (reload : d.sdg.reload ≠ 1)
    (stage : d.boot.stage = 1) :
    doSelfTest fails d =
      sf .tet Reg.Tet.TET_STAT 1 0 1 (pastStart fails (modBoot (fun b => { b with stage := 2 }) d)) := by
  simp only [doSelfTest, out, reload, stage, Bool.false_eq_true, if_false, ne_eq, not_true_eq_false]

/-- TETHER_TRAINED with 16 or 8 lanes in each direction (R513). -/
theorem doTetherTrained_lanes {up down : Nat} {d : Dev} (off : tetState d ≠ 0) (trained : tetState d ≠ 2)
    (out : d.sdg.inReset = false) (live : isoOf d .tet = false) (lanesUp : up = 16 ∨ up = 8) (lanesDown : down = 16 ∨ down = 8) :
    doTetherTrained up down d =
      let d := modTet (fun t => { t with toDale := none, toFell := none }) d
      let d := when (d.boot.stage == 2) (fun d => { d with boot := { d.boot with stage := 3 } }) d
      let d := tetFlush (sb .tet Reg.Tet.TET_STAT 31 true (sf .tet Reg.Tet.TET_STAT 20 16 up
        (sf .tet Reg.Tet.TET_STAT 12 8 down (sf .tet Reg.Tet.TET_STAT 1 0 2 d))))
      if up = 8 ∨ down = 8 then raiseFault .tet Reg.Tet.SRC_TET_LANE Reg.Tet.EV_LANE_DROP d else d := by
  have takes : ¬ (tetState d = 0 ∨ tetState d = 2 ∨ d.sdg.inReset = true ∨ isoOf d .tet = true) := by
    simp only [off, trained, out, live, Bool.false_eq_true, or_self, not_false_eq_true]
  have whole : ¬ ((up ≠ 16 ∧ up ≠ 8) ∨ (down ≠ 16 ∧ down ≠ 8)) := by omega
  simp only [doTetherTrained, if_neg takes, if_neg whole]

/-! ## Authentication (R86, R88, R103) -/

section
variable {f : Fuses} {d e : Dev}

/-- HEADER_READ of a header, table, MANIFEST and SIGNATURE that pass (R86, R88). -/
theorem doHeaderRead_passes {garbled : Bool} (stage : d.boot.stage = 3) (out : d.sdg.inReset = false)
    (alive : f.lcState ≠ 4) (header : imageReason (when d.xspi.octal xspiReset d) f d.boot.slot 2 wholeSlot = 0)
    (mode : when (octalAsked (when d.xspi.octal xspiReset d) d.boot.slot) (xspiEnter d.boot.slot)
      (when d.xspi.octal xspiReset d) = e)
    (table : e.xspi.octal = false ∨ (garbled = false ∧ tableHolds e d.boot.slot = true))
    (image : imageReason e f d.boot.slot 5 wholeSlot = 0) :
    doHeaderRead f garbled d = modBoot (fun b => { b with stage := 4 }) e := by
  have reads : ¬ (d.boot.stage ≠ 3 ∨ d.sdg.inReset = true) := by simp [stage, out]
  have holds : (e.xspi.octal && (garbled || !tableHolds e d.boot.slot)) = false := by
    rcases table with single | ⟨clean, whole⟩
    · rw [single, Bool.false_and]
    · rw [clean, whole, Bool.not_true, Bool.or_self, Bool.and_false]
  simp only [doHeaderRead, if_neg reads, if_neg alive, header, mode, holds, image, Bool.false_eq_true, if_false]

/-- SIGNATURE_VERIFIED with the checks that the signature covers passed (R86). -/
theorem doSignature_passes (stage : d.boot.stage = 4) (out : d.sdg.inReset = false)
    (image : imageReason d f d.boot.slot 8 wholeSlot = 0) :
    doSignature f d = modBoot (fun b => { b with stage := 5 }) d := by
  have acts : ¬ (d.boot.stage ≠ 4 ∨ d.sdg.inReset = true) := by simp [stage, out]
  simp only [doSignature, if_neg acts, image]

/-- GROUP1_READ with every check passed (R86, R96). -/
theorem doGroup1_passes (nF : List (Nat × Nat)) (stage : d.boot.stage = 5) (out : d.sdg.inReset = false)
    (image : imageReason d f d.boot.slot 10 wholeSlot = 0) :
    doGroup1 f nF d =
      let d := storeFw (takeImage d.boot.slot d)
      let d := sf .img Reg.Img.BOOT_STAT 11 8 1 (modBoot (fun b => { b with stage := 6 }) d)
      daleLoad d.boot.sects nF d := by
  have acts : ¬ (d.boot.stage ≠ 5 ∨ d.sdg.inReset = true) := by simp [stage, out]
  simp only [doGroup1, if_neg acts, image]

/-- NVM_READ_ERROR where no check of what was read fails: reason 1 (R86). -/
theorem doNvmReadError_passes {read : Nat} (least : 3 ≤ d.boot.stage) (most : d.boot.stage ≤ 5) (out : d.sdg.inReset = false)
    (image : imageReason d f d.boot.slot 10 read = 0) : doNvmReadError f read d = imageFail f 1 d := by
  have acts : ¬ (d.boot.stage < 3 ∨ 5 < d.boot.stage ∨ d.sdg.inReset = true) := by
    rw [out]; simp; omega
  simp only [doNvmReadError, if_neg acts, image]

/-- RECOVERY_ATTEMPT that nothing holds off (R103). -/
theorem doRecoveryAttempt_tries (recovery : d.sdg.recovery = true) (stage : d.boot.stage = 0) (alive : f.lcState ≠ 4)
    (out : d.sdg.inReset = false) (power : d.pwr.held = false) :
    doRecoveryAttempt f false d =
      modBoot (fun b => { b with stage := 3, slot := 0, failA := 0, failB := 0, single := true, retry := true }) d := by
  have alive' : (f.lcState == 4) = false := beq_false_of_ne alive
  simp only [doRecoveryAttempt, recovery, stage, alive', out, power, Bool.not_true, bne_self_eq_false, Bool.or_self,
    Bool.false_eq_true, if_false]

end

/-! ## The running Fell die (R89, R96, R440) -/

/-- FELL_RELEASED of a device that is not SCRAPPED by it (R91, R96). -/
theorem exec_fellReleased_goes {s : State} (stage : s.dev.boot.stage = 6) (out : s.dev.sdg.inReset = false)
    (alive : (fusesAfter s.fuses s.dev).lcState ≠ 4) :
    exec .fellReleased s = .next { s with
      fuses := fusesAfter s.fuses s.dev
      dev := cycleEnd (releaseFell (fusesAfter s.fuses s.dev) (readFuses (fusesAfter s.fuses s.dev) (carryOut s.fuses s.dev))) } := by
  have acts : ¬ (s.dev.boot.stage ≠ 6 ∨ s.dev.sdg.inReset = true) := by simp [stage, out]
  show execFellReleased s = _
  simp only [execFellReleased, if_neg acts, if_neg alive]

/-- GROUP2_SECTION_CHECK of a section that holds under its CRC and hash and is of a known group (R73, R89). -/
theorem doGroup2_holds (f : Fuses) {x : Sect} {rest : List Sect} {d : Dev} (goes : group2Goes d = true)
    (front : d.boot.group2 = x :: rest)
    (crc : crcFold x.idx (imgBytes d d.boot.slot x.off x.len) = BitVec.ofNat 32 x.crc)
    (hash : sha384 (imgBytes d d.boot.slot x.off x.len) = x.hash) (known : sectGroup x ≠ 0) :
    doGroup2 f false d = storeSect { x with bytes := imgBytes d d.boot.slot x.off x.len } d := by
  simp only [doGroup2, goes, front, crc, hash, if_neg known, Bool.not_true, Bool.false_eq_true, if_false, and_self, if_true]

/-- FIRST_SAFE_PICTURE when each head of the first-picture set has shown a frame (R96). -/
theorem doFirstPicture_shown {d : Dev} (stage : ¬ d.boot.stage < 8) (first : d.boot.firstPic = false)
    (shown : (firstHeads d).all (fun h => d.boot.pictured.contains h) = true) :
    doFirstPicture d =
      let d := modBoot (fun b => { b with firstPic := true }) d
      let d := sf .img Reg.Img.BOOT_STAT 11 8 (max 3 (rf d .img Reg.Img.BOOT_STAT 11 8)) d
      event .img Reg.Img.EV_FIRST_PICTURE (sg .img Reg.Img.T_SAFE (BitVec.ofNat 32 (d.us - d.boot.t0)) d) := by
  have acts : ¬ (d.boot.stage < 8 ∨ d.boot.firstPic = true ∨
      (firstHeads d).all (fun h => d.boot.pictured.contains h) = false) := by
    simp only [stage, first, shown, Bool.false_eq_true, Bool.true_eq_false, or_self, not_false_eq_true]
  simp only [doFirstPicture, if_neg acts]

/-- DRAM_TRAINED with the controller trained (R96, R440). -/
theorem doDramTrained_trained {d : Dev} (stage : ¬ d.boot.stage < 8) (first : d.boot.dramUp = false) (up : drcState d = 2) :
    doDramTrained d =
      let d := if d.boot.wipeDram then dramZero 0 (dramFold d) d else d
      let d := modBoot (fun b => { b with dramUp := true, wipeDram := false, g2at := [] }) d
      let d := forN (fun n d => sb (.stream n) Reg.Stream.STREAM_STAT 27 false d) 16 d
      let d := loadShaders (fillPens (setFrames d))
      let d := if d.gpu.off then d else gpuCtrl (putBit (rg d .gpu Reg.Gpu.GPU_CTRL) 0 true) d
      fieldStart d := by
  have acts : ¬ (d.boot.stage < 8 ∨ d.boot.dramUp = true ∨ drcState d ≠ 2) := by
    simp only [stage, first, up, Bool.false_eq_true, ne_eq, not_true_eq_false, or_self, not_false_eq_true]
  simp only [doDramTrained, if_neg acts]

/-- Settles O32: one lemma for each of the commands. -/
theorem startUpCommandsAnswer : Obligations.StartUpCommandsAnswer := by
  unfold Obligations.StartUpCommandsAnswer
  refine ⟨?dale, ?selfTest, ?tether, ?header, ?signature, ?group1, ?readError, ?attempt, ?fell, ?firmware, ?group2,
    ?picture, ?dram, ?full⟩
  case dale => exact fun s held pin rails vao => onDev_eq_of (doDaleOut_rails_valid _ held pin rails vao)
  case selfTest => exact fun fails s out reload stage => onDev_eq_of (doSelfTest_start _ out reload stage)
  case tether =>
    exact fun up down s off done out live lanesUp lanesDown =>
      onDev_eq_of (doTetherTrained_lanes off done out live lanesUp lanesDown)
  case header =>
    rintro garbled e f s stage out alive rfl header mode table image
    exact onDev_eq_of (doHeaderRead_passes stage out alive header mode table image)
  case signature => exact fun s stage out image => onDev_eq_of (doSignature_passes stage out image)
  case group1 => exact fun nF s stage out image => onDev_eq_of (doGroup1_passes _ stage out image)
  case readError => exact fun read s least most out image => onDev_eq_of (doNvmReadError_passes least most out image)
  case attempt =>
    rintro csLow s recovery stage rfl alive out power
    exact onDev_eq_of (doRecoveryAttempt_tries recovery stage alive out power)
  case fell => exact fun s stage out alive => exec_fellReleased_goes stage out alive
  case firmware => exact fun s stage => onDev_eq_of (if_neg fun other => other stage)
  case group2 => exact fun x rest s goes front crc hash known => onDev_eq_of (doGroup2_holds _ goes front crc hash known)
  case picture => exact fun s stage first shown => onDev_eq_of (doFirstPicture_shown stage first shown)
  case dram => exact fun s stage first up => onDev_eq_of (doDramTrained_trained stage first up)
  case full => exact fun s ready => exec_fullComposition_ready ready

/-! ## The NVM commands (R108, R109) -/

/-- A write of NVM_CMD that is granted acts on the device that has broken off a pending pair. -/
theorem onDev_nvmCmd_granted {who : Party} {s : State} (granted : Granted s.dev who .nvm Reg.Nvm.NVM_CMD true) (code : Nat) :
    onDev (doNvmCmd who code) s = .next (s.on fun d => nvmCmd (BitVec.ofNat 32 code) (gpIntervene .nvm d)) :=
  onDev_eq_of (onWrite_granted granted)

/-- A code of the table, on a page that is neither isolated nor at work, with an address that the command takes, starts the
command (R108, R109). -/
theorem nvmCmd_starts {code : Nat} {d : Dev} (least : 1 ≤ code) (most : code ≤ 5) (live : isoOf d .nvm = false)
    (free : d.nvmc.cmd = none) (address : nvmAddrBad code (rf d .nvm Reg.Nvm.NVM_ADDR 26 0) = false) :
    nvmCmd (BitVec.ofNat 32 code) d =
      nvmStat true d.cairn.exporting.isSome code (rf d .nvm Reg.Nvm.NVM_STAT 11 8)
        { d with nvmc := { cmd := some (code, rf d .nvm Reg.Nvm.NVM_ADDR 26 0), waits := d.cairn.exporting.isSome } } := by
  have reads : fld (BitVec.ofNat 32 code) 3 0 = code := by interval_cases code <;> rfl
  have listed : ¬ (code = 0 ∨ 5 < code ∨ isoOf d .nvm = true) := by rw [live]; simp; omega
  simp only [nvmCmd, reads, if_neg listed, free, Option.isSome_none, address, Bool.false_eq_true, if_false]

/-- The command that such a write starts. -/
theorem onDev_nvmCmd_starts {who : Party} {s : State} {d : Dev} {code : Nat} (least : 1 ≤ code) (most : code ≤ 5)
    (granted : Granted s.dev who .nvm Reg.Nvm.NVM_CMD true) (pair : gpIntervene .nvm s.dev = d) (live : isoOf d .nvm = false)
    (free : d.nvmc.cmd = none) (address : nvmAddrBad code (rf d .nvm Reg.Nvm.NVM_ADDR 26 0) = false) :
    onDev (doNvmCmd who code) s = .next (s.on fun _ =>
      nvmStat true d.cairn.exporting.isSome code (rf d .nvm Reg.Nvm.NVM_STAT 11 8)
        { d with nvmc := { cmd := some (code, rf d .nvm Reg.Nvm.NVM_ADDR 26 0), waits := d.cairn.exporting.isSome } }) := by
  rw [onDev_nvmCmd_granted granted]
  exact congrArg _ (State.on_congr ((congrArg _ pair).trans (nvmCmd_starts least most live free address)))

/-- NVM_CMD_DONE of a command that is under way (R108). -/
theorem doNvmCmdDone_at_work (f : Fuses) (error : Bool) {code a : Nat} {d : Dev} (work : d.nvmc.cmd = some (code, a))
    (runs : d.nvmc.waits = false) (live : isoOf d .nvm = false) :
    doNvmCmdDone f error d =
      let d := nvmPerform f code a error d
      let d := nvmStat false false code (if error then 3 else 0) { d with nvmc := {} }
      cairnExportDue (event .nvm Reg.Nvm.EV_DONE d) := by
  simp only [doNvmCmdDone, work, runs, live, Bool.or_self, Bool.false_eq_true, if_false]

/-- NVM_CMD_RESUME of a command that Cairn no longer keeps waiting. -/
theorem doNvmCmdResume_waits {d : Dev} (waits : d.nvmc.waits = true) (ended : d.cairn.exporting.isSome = false) :
    doNvmCmdResume d = sb .nvm Reg.Nvm.NVM_STAT 1 false { d with nvmc := { d.nvmc with waits := false } } := by
  simp only [doNvmCmdResume, waits, ended, Bool.true_eq_false, Bool.false_eq_true, or_self, if_false]

/-- Settles O33: the five commands are writes of their codes to NVM_CMD (`onDev_nvmCmd_granted`, `onDev_nvmCmd_starts`). -/
theorem nvmCommandsAnswer : Obligations.NvmCommandsAnswer := by
  unfold Obligations.NvmCommandsAnswer
  have writes (code : Nat) : ∀ (who : Party) (s : State), Granted s.dev who .nvm Reg.Nvm.NVM_CMD true →
      onDev (doNvmCmd who code) s = .next (s.on fun d => nvmCmd (BitVec.ofNat 32 code) (gpIntervene .nvm d)) :=
    fun who s granted => onDev_nvmCmd_granted granted code
  refine ⟨writes 1, ?read, writes 2, ?program, writes 3, ?erase, writes 4, ?verifyA, writes 5, ?verifyB, ?done, ?resume⟩
  case done => exact fun error code a s work runs live => onDev_eq_of (doNvmCmdDone_at_work _ error work runs live)
  case resume => exact fun s waits ended => onDev_eq_of (doNvmCmdResume_waits waits ended)
  all_goals
    exact fun who d s granted pair live free address =>
      onDev_nvmCmd_starts (by decide) (by decide) granted pair live free address

end Sys2Proof.Machine
end

section
/-! The family `03_puette_image_and_startup.md`: the bytes that the NVM commands move (R108). -/
namespace Sys2Proof.Machine

/-! ## The end of a command -/

/-- A command of the NVM page that has done its work without error ends: NVM_STAT shows the result 0, EVENT.DONE is set, and a
dump of Cairn that waited starts (R108). -/
def nvmEnd (code : Nat) (d : Dev) : Dev :=
  cairnExportDue (event .nvm Reg.Nvm.EV_DONE (nvmStat false false code 0 { d with nvmc := {} }))

/-- NVM_CMD_DONE without error ends the command that has done its work. -/
theorem nvmCmdDone_ends {code a : Nat} {s : State} (work : s.dev.nvmc.cmd = some (code, a)) (runs : s.dev.nvmc.waits = false)
    (live : isoOf s.dev .nvm = false) :
    exec (.nvmCmdDone false) s = .next (s.on fun d => nvmEnd code (nvmPerform s.fuses code a false d)) :=
  onDev_eq_of (doNvmCmdDone_at_work s.fuses false work runs live)

/-- The end of a command leaves the memories, and no command in progress. -/
theorem nvmEnd_memories (code : Nat) (d : Dev) : SameMemories d (nvmEnd code d) ∧ (nvmEnd code d).nvmc.cmd = none := by
  unfold nvmEnd
  obtain ⟨R, C, due, -⟩ := cairnExportDue_eq (event .nvm Reg.Nvm.EV_DONE (nvmStat false false code 0 { d with nvmc := {} }))
  obtain ⟨S, O, done⟩ := event_eq .nvm Reg.Nvm.EV_DONE (nvmStat false false code 0 { d with nvmc := {} })
  rw [due, done]
  exact ⟨⟨rfl, rfl, rfl⟩, rfl⟩

/-- A register of the NVM page is none of Cairn's. -/
theorem rg_cairnExportDue_nvm {o : Nat} (h : o < 0x1000) (d : Dev) : rg (cairnExportDue d) .nvm o = rg d .nvm o := by
  obtain ⟨R, C, due, keeps⟩ := cairnExportDue_eq d
  rw [due]
  refine keeps .nvm o ?_
  simp only [Page.base, Reg.Crn0.CRN_STAT]
  omega

/-- The NVM page is no MSI-X page: it holds no PBA. -/
theorem nvm_not_pba {o : Nat} (h : o < 0x1000) : ¬ pbaAt (Page.nvm.base + o) := by
  rintro ⟨fn, e⟩
  unfold msixPage at e
  split at e
  all_goals
    simp only [Page.base, Reg.PBA] at e
    omega

/-- NVM_STAT shows the result 0, and EVENT.DONE is set. -/
theorem nvmEnd_shows {code : Nat} (h : code ≤ 5) (d : Dev) :
    rf (nvmEnd code d) .nvm Reg.Nvm.NVM_STAT 11 8 = 0 ∧ rb (nvmEnd code d) .nvm Reg.EVENT Reg.Nvm.EV_DONE = true := by
  unfold nvmEnd
  rw [rf_eq_fld, rb_eq_bitOf, rg_cairnExportDue_nvm (by decide), rg_cairnExportDue_nvm (by decide), rg_event_same,
    rg_event (base_ne (by decide) (by decide) (by decide)) (nvm_not_pba (by decide)), nvmStat, rg_sg_same]
  refine ⟨?_, (sqEvent_bits _ (by decide)).1⟩
  interval_cases code <;> rfl

/-- The page buffer stays at the end of a command. -/
theorem rg_nvmEnd_buf {code j : Nat} (h : j < 64) (d : Dev) :
    rg (nvmEnd code d) .nvm (Reg.Nvm.NVM_BUF j) = rg d .nvm (Reg.Nvm.NVM_BUF j) := by
  have inside : Reg.Nvm.NVM_BUF j < 0x1000 := by simp only [Reg.Nvm.NVM_BUF]; omega
  have off {o : Nat} (h : o < 0x100) : Reg.Nvm.NVM_BUF j ≠ o := by simp only [Reg.Nvm.NVM_BUF]; omega
  unfold nvmEnd
  rw [rg_cairnExportDue_nvm inside, rg_event (base_ne inside (by decide) (off (by decide))) (nvm_not_pba inside), nvmStat,
    rg_sg_ne (base_ne inside (by decide) (off (by decide)))]
  rfl

/-! ## The bytes moved -/

/-- The bytes of the number that a list of bytes makes are those of the list. -/
theorem leNat_byte (bs : List Byte) (k : Nat) : leNat bs / 256 ^ k % 256 = (bs.getD k 0).toNat := by
  induction bs generalizing k with
  | nil => simp [leNat]
  | cons b bs ih =>
    have low := b.isLt
    cases k with
    | zero =>
      simp only [leNat, Nat.pow_zero, Nat.div_one, List.getD_cons_zero]
      omega
    | succ k =>
      have rest : (b.toNat + 256 * leNat bs) / 256 = leNat bs := by omega
      rw [leNat, Nat.pow_succ', ← Nat.div_div_eq_div_mul, rest, ih, List.getD_cons_succ]

/-- A list of bytes makes a number of as many bytes. -/
theorem leNat_lt (bs : List Byte) : leNat bs < 256 ^ bs.length := by
  induction bs with
  | nil => decide
  | cons b bs ih =>
    have low := b.isLt
    rw [leNat, List.length_cons, Nat.pow_succ]
    omega

/-- A byte of the word that four consecutive bytes make. -/
theorem word_byte (rd : Nat → Byte) (a : Nat) {k : Nat} (h : k < 4) :
    (BitVec.ofNat 32 (leNat (readBytes rd a 4))).toNat / 256 ^ k % 256 = (rd (a + k)).toNat := by
  have four : (readBytes rd a 4).length = 4 := rfl
  have fits : leNat (readBytes rd a 4) < 2 ^ 32 := by
    have lt := leNat_lt (readBytes rd a 4)
    rw [four] at lt
    exact lt.trans_eq (by decide)
  rw [BitVec.toNat_ofNat, Nat.mod_eq_of_lt fits, leNat_byte]
  interval_cases k <;> rfl

/-- READ_PAGE leaves the bytes at the address in the buffer. -/
theorem readPage_byte (f : Fuses) (a : Nat) {i : Nat} (h : i < 256) (d : Dev) :
    (rg (nvmPerform f 1 a false d) .nvm (Reg.Nvm.NVM_BUF (i / 4))).toNat / 256 ^ (i % 4) % 256 = (nvmByte d (a + i)).toNat := by
  have word : rg (nvmPerform f 1 a false d) .nvm (Reg.Nvm.NVM_BUF (i / 4)) =
      BitVec.ofNat 32 (leNat (readBytes (nvmByte d) (a + 4 * (i / 4)) 4)) := by
    rw [nvmPerform, rg_nvmBufSet _ _ _ (by omega), readBytes_drop, readBytes_take _ _ _ _ (by omega)]
  have place : a + 4 * (i / 4) + i % 4 = a + i := by omega
  rw [word, word_byte _ _ (Nat.mod_lt _ (by decide)), place]

/-- READ_PAGE leaves the NVM. -/
theorem readPage_nvm (f : Fuses) (a : Nat) (d : Dev) : (nvmPerform f 1 a false d).nvm = d.nvm := nvmBufSet_nvm _ _

/-- PROGRAM_PAGE stores the buffer at the address, and every other byte stays. -/
theorem programPage_byte (f : Fuses) (a c : Nat) (d : Dev) :
    nvmByte (nvmPerform f 2 a false d) c =
      if a ≤ c ∧ c < a + 256 then
        BitVec.ofNat 8 ((rg d .nvm (Reg.Nvm.NVM_BUF ((c - a) / 4))).toNat / 256 ^ ((c - a) % 4))
      else nvmByte d c := by
  rw [nvmPerform, nvmByte_writeBytes, nvmBuf_len]
  by_cases inside : a ≤ c ∧ c < a + 256
  · rw [if_neg (by omega), if_pos inside, nvmBuf_get _ _ (by omega)]
  · rw [if_pos (by omega), if_neg inside]

/-- ERASE_SECTOR makes the sector 0xFF, and every other byte stays. -/
theorem eraseSector_byte (f : Fuses) (a c : Nat) (d : Dev) :
    nvmByte (nvmPerform f 3 a false d) c = if a ≤ c ∧ c < a + 0x10000 then 0xFF else nvmByte d c := by
  have erased : nvmByte (nvmPerform f 3 a false d) c = if c < a ∨ a + 0x10000 ≤ c then nvmByte d c else 0xFF :=
    tabGet_clear _ _ _ _ _
  rw [erased]
  by_cases inside : a ≤ c ∧ c < a + 0x10000
  · rw [if_neg (by omega), if_pos inside]
  · rw [if_pos (by omega), if_neg inside]

/-- VERIFY_A and VERIFY_B leave the NVM. -/
theorem verify_nvm (f : Fuses) {code : Nat} (h : code = 4 ∨ code = 5) (a : Nat) (d : Dev) :
    (nvmPerform f code a false d).nvm = d.nvm := by
  rcases h with rfl | rfl <;> rfl

/-- Settles O24: the command does its work (`nvmPerform`), and its end leaves the memories and the buffer (`nvmEnd`). -/
theorem nvmCommandsMoveTheirBytes : Obligations.NvmCommandsMoveTheirBytes := by
  unfold Obligations.NvmCommandsMoveTheirBytes
  intro code a s work runs live least most
  refine ⟨_, nvmCmdDone_ends work runs live, rfl, rfl, ?_⟩
  obtain ⟨pasture, dram⟩ := nvmPerform_frame s.fuses code a s.dev least most
  obtain ⟨⟨pasture', dram', nvm'⟩, ended⟩ := nvmEnd_memories code (nvmPerform s.fuses code a false s.dev)
  obtain ⟨result, done⟩ := nvmEnd_shows most (nvmPerform s.fuses code a false s.dev)
  have bytes (c : Nat) : nvmByte (nvmEnd code (nvmPerform s.fuses code a false s.dev)) c =
      nvmByte (nvmPerform s.fuses code a false s.dev) c := by rw [nvmByte, nvm', nvmByte]
  have bytes' (e : Dev) (c : Nat) : nvmByte (cycleEnd e) c = nvmByte e c := by simp only [nvmByte, cycleEnd_keeps]
  simp only [on_dev, cycleEnd_keeps, rf_cycleEnd, rb_cycleEnd, bytes', bytes]
  refine ⟨pasture'.trans pasture, dram'.trans dram, ended, result, done, ?read, ?program, ?erase, ?verify⟩
  case read =>
    rintro rfl
    refine ⟨nvm'.trans (readPage_nvm _ _ _), fun i inside => ?_⟩
    rw [rg_nvmEnd_buf (by omega), readPage_byte _ _ inside]
  case program =>
    rintro rfl c
    exact programPage_byte _ _ _ _
  case erase =>
    rintro rfl c
    exact eraseSector_byte _ _ _ _
  case verify => exact fun verify => nvm'.trans (verify_nvm _ verify _ _)

end Sys2Proof.Machine
end

section
/-! The family `04_compositor.md`: what the compositor commands answer (R119, R124, R151, R153, R156, R160, R164, R170, R188,
R319). -/
namespace Sys2Proof.Machine

/-! ## Writes of a page's registers -/

section
variable {who : Party} {p : Page} {o : Nat} {act : Dev → Dev} {s : State}

/-- A command that is a register write, granted, acts on the device that has broken off a pending pair. -/
theorem onDev_onWrite_granted (granted : Granted s.dev who p o true) :
    onDev (onWrite who p o act) s = .next (s.on fun d => act (gpIntervene p d)) :=
  onDev_eq_of (onWrite_granted granted)

/-- What such a command leads to, where the write is known on that device. -/
theorem onDev_onWrite_eq {d e : Dev} (granted : Granted s.dev who p o true) (pair : gpIntervene p s.dev = d) (acts : act d = e) :
    onDev (onWrite who p o act) s = .next (s.on fun _ => e) := by
  subst pair acts
  exact onDev_onWrite_granted granted

end

/-! ## Commits (R119, R124, R188) -/

/-- A party whose work is taken has it done (R460). -/
theorem intake_takes {who : Party} {d : Dev} (takes : takesWork d who = true) (act : Dev → Dev) : intake who act d = act d := by
  cases who with
  | paddock p => exact if_pos (beq_iff_eq.mp takes)
  | _ => rfl

/-- A write of COMMIT with bit 0 set commits the owner's pipes on the head that the pipe names; LINE_TRIG with its line makes it
a commit at that line (R119, R187). -/
theorem commitWrite_takes {who : Party} {v : Word} {d : Dev} (bit : bitOf v 0 = true) (takes : takesWork d who = true) (p : Nat) :
    commitWrite who p v d =
      commitPipes (rf d (.pipe p) Reg.Pipe.CTRL 14 12) (ownerCode (partyKind who) (partyTag who))
        (commitSet d (ownerCode (partyKind who) (partyTag who)) (rf d (.pipe p) Reg.Pipe.CTRL 14 12))
        (if bitOf v 1 then some (fld v 28 16) else none) none d := by
  simp only [commitWrite, bit, Bool.not_true, Bool.false_eq_true, if_false, intake_takes takes]

/-- The word of LINE_TRIG_COMMIT: COMMIT and LINE_TRIG are set, and LINE holds the line (R187). -/
theorem lineTrigWord_fields (line : BitVec 13) :
    bitOf (BitVec.ofNat 32 (line.toNat * 65536 + 3)) 0 = true ∧ bitOf (BitVec.ofNat 32 (line.toNat * 65536 + 3)) 1 = true ∧
      fld (BitVec.ofNat 32 (line.toNat * 65536 + 3)) 28 16 = line.toNat := by
  have small : line.toNat < 8192 := line.isLt
  have value : (BitVec.ofNat 32 (line.toNat * 65536 + 3)).toNat = line.toNat * 65536 + 3 :=
    Nat.mod_eq_of_lt (show line.toNat * 65536 + 3 < 2 ^ 32 by omega)
  simp only [bitOf_eq_testBit, fld, value, Nat.testBit_eq_decide_div_mod_eq, decide_eq_true_eq]
  omega

/-- The commits of a disabled head apply at once (R124). -/
theorem doDisabledHeadCommitApply_disabled {h : Nat} {d : Dev} (off : headDisabled d h = true) :
    doDisabledHeadCommitApply h d =
      let s := headOf d h
      let cs := s.latched ++ s.opened ++ s.trig
      let d := applyCommits h cs (modHead h (fun s => { s with latched := [], opened := [], trig := [] }) d)
      tryRelease h (showTrig h (((cs.map (·.layers)).flatten).foldl (fun d l => refetch h l d) d)) := by
  simp only [doDisabledHeadCommitApply, off, Bool.not_true, Bool.false_eq_true, if_false]

/-! ## Fetches and the bandwidth shepherd (R153) -/

/-- PIPE_FETCH of a pipe that fetches a layer. -/
theorem doPipeFetch_fetches {p : Nat} {c : LayerCfg} {d : Dev} (layer : (pipeOf d p).pre = some c) (k : Nat) :
    doPipeFetch p k d =
      let d := resumeFetch p c d
      if pipeBarred d p || heldOut d p then d
      else if cFmt p c = 0x40 then directFetch p c k d
      else if k < cTh p c then fetchLine p c k d
      else d := by
  simp only [doPipeFetch, layer]

section
variable {h part : Nat} {lead : Option Nat} {d e : Dev}

/-- The first step of the shepherd, with a class-C layer to demote. -/
theorem doShepherdDemoteC_demotes (is_lead : shepLead d h (nextLine d h) part = lead) (low : leadLow d h lead = true)
    (run : (headOf d h).run = true) (first : (headOf d h).stepC = false)
    (demotes : demoteClass h 2 (modHead h (fun s => { s with stepC := true }) (noteLead h lead d)) = (true, e)) :
    doShepherdDemoteC h part d =
      event .cmp (Reg.Cmp.EV_DEMOTION + h) (bump .cmp (Reg.Cmp.DEMOTE_C_COUNT h) 31 0 (sb .cmp (Reg.Cmp.SHEP_STAT h) 0 true
        (modHead h (fun s => { s with cDone := true, demoted2 := true }) e))) := by
  simp only [doShepherdDemoteC, is_lead, low, run, first, demotes, Bool.not_true, Bool.false_eq_true, or_self, if_false, if_true]

/-- The second step of the shepherd, with a class-O layer to demote. -/
theorem doShepherdDemoteO_demotes {s : Dev} (is_lead : shepLead s h (nextLine s h) part = lead) (noted : noteLead h lead s = d)
    (low : leadLow d h lead = true) (run : (headOf d h).run = true) (second : (headOf d h).stepC = true)
    (first : (headOf d h).oDone = false) (demotes : demoteClass h 1 d = (true, e)) :
    doShepherdDemoteO h part s =
      event .cmp (Reg.Cmp.EV_DEMOTION + h) (bump .cmp (Reg.Cmp.DEMOTE_O_COUNT h) 31 0 (sb .cmp (Reg.Cmp.SHEP_STAT h) 1 true
        (modHead h (fun s => { s with oDone := true, demoted2 := true }) e))) := by
  simp only [doShepherdDemoteO, is_lead, noted, low, run, second, first, demotes, Bool.not_true, Bool.false_eq_true, or_self,
    if_false, if_true]

end

/-! ## The colour tables (R151) -/

/-- A write of LUT_DATA to degamma (0) or gamma (2), whose entries have one component, stores the entry in the inactive bank and
moves on. -/
theorem lutWrite_single {h i t : Nat} {d : Dev} (head : rf d .cmp Reg.Cmp.LUT_SEL 18 16 = h)
    (table : rf d .cmp Reg.Cmp.LUT_SEL 9 8 = t) (single : t = 0 ∨ t = 2) (index : rf d .cmp Reg.Cmp.LUT_INDEX 12 0 = i)
    (free : rb d .cmp (Reg.Cmp.COLOUR_CTRL h) 16 = false) (inside : i < lutSize t) (v : Word) :
    lutWrite v d = lutNext t (lutSet h (1 - lutBank d h) t i 0 (fld v (if t = 0 then 15 else 11) 0) d) := by
  have fits : ¬ lutSize t ≤ i := Nat.not_le_of_lt inside
  simp only [lutWrite, head, table, index, free, if_neg fits, Bool.false_eq_true, if_false]
  rcases single with rfl | rfl
  · rfl
  · rfl

/-! ## Write-back (R156, R157) -/

/-- A write of WB_ARM that nothing refuses arms the engine with the settings and the owner as they stand (R156, R319). -/
theorem wbArm_taken {k : Nat} {d : Dev} (taken : wbRefuse d k = 0) :
    wbArm k 1 d =
      sf (.wb k) Reg.Wb.WB_STAT 3 0 0 (modWb k (fun x => { x with
        armed := some (wbOffsets.foldl (fun t o => tabSet (fun _ => 0) t o (rg d (.wb k) o)) [])
        armedBy := ownerOf d (.wb k) }) d) := by
  have bit : bitOf 1 0 = true := rfl
  simp only [wbArm, bit, taken, Bool.not_true, Bool.false_eq_true, ne_eq, not_true_eq_false, if_false]

/-- WB_FRAME_DONE of a capture whose lines have all been taken: a Fleece header is written first, and a frame whose header
cannot be written is given up (R156, R157). -/
theorem doWbFrameDone_whole {k : Nat} {t : Tab Word} {d : Dev} (settings : (wbOf d k).set = some t)
    (busy : (wbOf d k).busy = true) (alive : (wbOf d k).dead = false)
    (lines : (wbOf d k).lines = fld (wbReg t Reg.Wb.WB_RECT_WH) 29 16) :
    doWbFrameDone k d =
      let s := wbOf d k
      let c := wbReg t Reg.Wb.WB_CTRL
      let f := fld c 15 8
      let w := fld (wbReg t Reg.Wb.WB_RECT_WH) 13 0
      let ht := fld (wbReg t Reg.Wb.WB_RECT_WH) 29 16
      let r := if isFleece f then
          writeHeader (wbWho d k) { tier := 1, iso := true } (wbAddr t s.buf) f w ht (rg d (.wb k) Reg.Wb.WB_GEN).toNat d
        else (true, d)
      if !r.1 then wbDrop k true r.2
      else
        let d := when (isFleece f) (bump (.wb k) Reg.Wb.WB_GEN 31 0) r.2
        let single := fld c 6 5 == 0
        let d := sf (.wb k) Reg.Wb.WB_STAT 17 16 s.buf (sg (.wb k) Reg.Wb.WB_FRAME s.frame d)
        let d := modWb k (fun s => { s with
          busy := false, lines := 0, set := if single then none else s.set
          buf := if single then 0 else if s.buf = fld c 17 16 then 0 else s.buf + 1 }) d
        let d := when single (sb (.wb k) Reg.Wb.WB_STAT 31 false) d
        event (.wb k) Reg.Wb.EV_DONE (bump (.wb k) Reg.Wb.WB_COUNT 15 0 d) := by
  have whole : ¬ ((!(wbOf d k).busy) = true ∨ (wbOf d k).dead = true ∨
      (wbOf d k).lines ≠ fld (wbReg t Reg.Wb.WB_RECT_WH) 29 16) := by
    simp only [busy, alive, lines, Bool.not_true, Bool.false_eq_true, ne_eq, not_true_eq_false, or_self, not_false_eq_true]
  simp only [doWbFrameDone, settings, if_neg whole]

/-- Settles O34: one lemma for each of the commands that are no plain writes. -/
theorem compositorCommandsAnswer : Obligations.CompositorCommandsAnswer := by
  unfold Obligations.CompositorCommandsAnswer
  refine ⟨?commit, ?commits, ?line, ?lineCommits, ?disabled, ?restart, ?coef, ?fetch, ?last, ?demoteC, ?demoteO, ?lut, ?degamma,
    ?gamma, ?lutRead, ?swap, ?arm, ?arms, ?frame⟩
  case commit => exact fun who p s granted => onDev_onWrite_granted granted
  case commits => exact fun who p d s granted pair takes => onDev_onWrite_eq granted pair (commitWrite_takes rfl takes _)
  case line => exact fun who p line s granted => onDev_onWrite_granted granted
  case lineCommits =>
    intro who p line d s granted pair takes
    obtain ⟨commit, trig, at_line⟩ := lineTrigWord_fields line
    refine onDev_onWrite_eq granted pair ((commitWrite_takes commit takes _).trans ?_)
    rw [trig, at_line, if_pos rfl]
  case disabled => exact fun h s off => onDev_eq_of (doDisabledHeadCommitApply_disabled off)
  case restart => exact fun who p s granted => onDev_onWrite_granted granted
  case coef =>
    intro who p v s camera granted
    exact onDev_eq_of ((congrFun (if_neg (Nat.not_lt.mpr camera)) _).trans (onWrite_granted granted))
  case fetch => exact fun p line c s layer => onDev_eq_of (doPipeFetch_fetches layer line)
  case last => exact fun h s => onDev_eq _ s
  case demoteC =>
    exact fun h part lead e s is_lead low run first demotes =>
      onDev_eq_of (doShepherdDemoteC_demotes is_lead low run first demotes)
  case demoteO =>
    exact fun h part lead d e s is_lead noted low run second first demotes =>
      onDev_eq_of (doShepherdDemoteO_demotes is_lead noted low run second first demotes)
  case lut => exact fun who v s granted => onDev_onWrite_granted granted
  case degamma =>
    exact fun who v h i d s granted pair head table index free inside =>
      onDev_onWrite_eq granted pair (lutWrite_single head table (.inl rfl) index free inside v)
  case gamma =>
    exact fun who v h i d s granted pair head table index free inside =>
      onDev_onWrite_eq granted pair (lutWrite_single head table (.inr rfl) index free inside v)
  case lutRead => exact fun who s granted => onDev_eq_of (onRead_granted granted)
  case swap => exact fun who h s granted => onDev_onWrite_granted granted
  case arm => exact fun who k s granted => onDev_onWrite_granted granted
  case arms => exact fun who k d s granted pair taken => onDev_onWrite_eq granted pair (wbArm_taken taken)
  case frame =>
    rintro k t s settings ⟨busy, alive, lines⟩
    exact onDev_eq_of (doWbFrameDone_whole settings busy alive lines)

end Sys2Proof.Machine
end

section
/-! The family `05_heads_and_scanout.md`: what the head commands answer (R178, R180, R181, R193, R195, R199, R211, R212). -/
namespace Sys2Proof.Machine

/-- A head that is changed reads as its change. -/
theorem headOf_modHead_same (h : Nat) (f : HeadS → HeadS) (d : Dev) : headOf (modHead h f d) h = f (headOf d h) :=
  tabGet_set_same _ _ _ _

/-! ## Enable, frames and lines -/

/-- A write that sets ENABLE alone, in a head that is off and follows no lead, enables the head (R178). -/
theorem headCtrl_enables {h : Nat} {d : Dev} (follows : 2 ≤ h) (off : rb d (.head h) Reg.Head.HEAD_CTRL 0 = false)
    (restart : bitOf (rg d (.head h) Reg.Head.HEAD_CTRL) 31 = false) :
    headCtrl h (putBit (rg d (.head h) Reg.Head.HEAD_CTRL) 0 true) d =
      headEnable h (plainWrite (.head h) Reg.Head.HEAD_CTRL (putBit (rg d (.head h) Reg.Head.HEAD_CTRL) 0 true) d) := by
  have lead : ¬ h < 2 := Nat.not_lt.mpr follows
  have off' : bitOf (rg d (.head h) Reg.Head.HEAD_CTRL) 0 = false := off
  have enable : bitOf (putBit (rg d (.head h) Reg.Head.HEAD_CTRL) 0 true) 0 = true := bitOf_putBit _ _ _ (by decide)
  have restart' : bitOf (putBit (rg d (.head h) Reg.Head.HEAD_CTRL) 0 true) 31 = false :=
    (bitOf_putBit _ _ _ (by decide)).trans restart
  have profile : fld (putBit (rg d (.head h) Reg.Head.HEAD_CTRL) 0 true) 19 16 = fld (rg d (.head h) Reg.Head.HEAD_CTRL) 19 16 :=
    fld_putBit_ne _ _ (by decide) (.inr (by decide))
  simp only [headCtrl, if_neg lead, off', enable, restart', profile, bne_self_eq_false, ne_eq, not_true_eq_false, and_false,
    Bool.and_false, Bool.false_and, Bool.false_eq_true, if_false]

/-- Where no skip or jump is set, the line that follows is the next one (R193). -/
theorem followingLine_next {s : HeadS} (straight : s.goto_ = none) : followingLine s = s.line + 1 := by
  unfold followingLine
  rw [straight]
  exact ite_self _

/-- LINE_START of the next line, where the head is not held and aligns no frame (R181, R193): no line is passed over. -/
theorem doLineStart_next {h : Nat} {line : Int} {d : Dev} (run : (headOf d h).run = true)
    (held : rb d (.head h) Reg.Head.HEAD_STAT 22 = false) (straight : (headOf d h).goto_ = none)
    (next : line = (headOf d h).line + 1) (inside : line < (vActive d h : Int)) (started : ¬ (line = 0 ∧ (headOf d h).ahead = true))
    (blank : ¬ (line < 0 ∧ (headOf d h).ahead = false)) (free : aligning d h = false) (under : List Nat) (wbOver : List (Fin 2)) :
    doLineStart h line under wbOver d =
      let d := modHead h (fun s => { s with goto_ := if s.ahead then none else s.goto_ }) d
      let d := sf (.head h) Reg.Head.LINE_POS 28 16 (unsigned 13 line) (modHead h (fun s => { s with line := line }) d)
      let d := lineEvents h line d
      if 0 ≤ line then activeLine h line.toNat under wbOver d else d := by
  have follows : line = followingLine (headOf d h) := next.trans (followingLine_next straight).symm
  have takes : ¬ ((!(headOf d h).run) = true ∨ rb d (.head h) Reg.Head.HEAD_STAT 22 = true ∨ line ≠ followingLine (headOf d h) ∨
      (vActive d h : Int) ≤ line ∨ (line = 0 ∧ (headOf d h).ahead = true) ∨ (line < 0 ∧ (!(headOf d h).ahead) = true)) := by
    simp only [run, held, ← follows, Int.not_le.mpr inside, started, blank, Bool.not_eq_true', Bool.true_eq_false,
      Bool.false_eq_true, ne_eq, not_true_eq_false, or_self, not_false_eq_true]
  have skipped : line - (headOf d h).line - 1 = 0 := by omega
  simp only [doLineStart, if_neg takes, free, skipped, Int.toNat_zero, List.range_zero, List.map_nil, List.foldl_nil,
    Bool.false_eq_true, false_and, and_false, if_false]

/-! ## The edges of the sync source (R192–R195) -/

/-- No condition turns away an edge that reaches a running head (R190). -/
theorem edge_acts {h : Nat} {d : Dev} (run : (headOf d h).run = true) (here : edgeHere d h = true) :
    ¬ ((!(headOf d h).run) = true ∨ (!edgeHere d h) = true) := by
  simp only [run, here, Bool.not_true, Bool.false_eq_true, or_self, not_false_eq_true]

/-- The first edge has no period: the head has now seen one. -/
theorem doSyncEdge_first {h : Nat} {d : Dev} (run : (headOf d h).run = true) (here : edgeHere d h = true)
    (first : (headOf d h).seen = false) (period phase : Nat) :
    doSyncEdge h period phase d =
      modHead h (fun s => { s with seen := true, edgeDue := s.edgeDue - 1, first := s.first && s.firstAt.isNone }) d := by
  simp only [doSyncEdge, if_neg (edge_acts run here), first, Bool.not_false, if_true]

section
variable {h period : Nat} {d e : Dev} (run : (headOf d h).run = true) (here : edgeHere d h = true)
  (seen : (headOf d h).seen = true)
  (noted : sg (.head h) Reg.Head.SYNC_PERIOD (BitVec.ofNat 32 period)
    (modHead h (fun s => { s with seen := true, edgeDue := s.edgeDue - 1, first := s.first && s.firstAt.isNone }) d) = e)
include run here seen noted

/-- An edge whose period is out of range loses the lock (R192, R195). -/
theorem doSyncEdge_out_of_range (range : inRange e h period = false) (phase : Nat) : doSyncEdge h period phase d = lockLoss h e := by
  simp only [doSyncEdge, if_neg (edge_acts run here), seen, noted, range, Bool.not_true, Bool.not_false, Bool.false_eq_true,
    if_false, if_true]

/-- An edge in FREE with a period in range is a good one; the second makes the head capture its source (R195). -/
theorem doSyncEdge_free (range : inRange e h period = true) (free : headState e h = 1) (phase : Nat) :
    doSyncEdge h period phase d =
      if 2 ≤ (headOf e h).good + 1 then
        sf (.head h) Reg.Head.HEAD_STAT 30 28 2 (modHead h (fun s => { s with good := 0, jumped := false, aligned := 0 })
          (modHead h (fun s => { s with good := s.good + 1 }) e))
      else modHead h (fun s => { s with good := s.good + 1 }) e := by
  simp only [doSyncEdge, if_neg (edge_acts run here), seen, noted, range, free, headOf_modHead_same, Bool.not_true,
    Bool.false_eq_true, if_false, if_true]

/-- The first edge of a head that captures makes it jump (R195). -/
theorem doSyncEdge_jumps (range : inRange e h period = true) (captures : headState e h ≠ 1)
    (jumped : (headOf d h).jumped = false) (phase : Nat) : doSyncEdge h period phase d = captureJump h e := by
  simp only [doSyncEdge, if_neg (edge_acts run here), seen, noted, range, captures, jumped, Bool.not_true, Bool.not_false,
    Bool.false_eq_true, if_false, if_true]

/-- A later edge is counted, and the last of the ratio's aligns (R193, R195). -/
theorem doSyncEdge_counts (range : inRange e h period = true) (captures : headState e h ≠ 1)
    (jumped : (headOf d h).jumped = true) (phase : Nat) :
    doSyncEdge h period phase d =
      if ratioDen (modHead h (fun s => { s with edges := s.edges + 1 }) e) h ≤ (headOf d h).edges + 1 then
        alignEdge h phase (modHead h (fun s => { s with edges := s.edges + 1 }) e)
      else modHead h (fun s => { s with edges := s.edges + 1 }) e := by
  simp only [doSyncEdge, if_neg (edge_acts run here), seen, noted, range, captures, jumped, Bool.not_true, Bool.false_eq_true,
    if_false]

end

/-- Settles O35: one lemma for each of the commands that are no plain writes and have more than one condition. -/
theorem headCommandsAnswer : Obligations.HeadCommandsAnswer := by
  unfold Obligations.HeadCommandsAnswer
  refine ⟨?enable, ?enables, ?disable, ?locked, ?unlock, ?restart, ?frame, ?start, ?line, ?pulse, ?first, ?outOfRange,
    ?good, ?captures, ?jumps, ?aligns, ?counts, ?timeout, ?cut⟩
  case enable => exact fun who h s granted => onDev_onWrite_granted granted
  case enables =>
    exact fun who h d s granted pair follows off restart _ => onDev_onWrite_eq granted pair (headCtrl_enables follows off restart)
  case disable => exact fun who h s granted => onDev_onWrite_granted granted
  case locked => exact fun h s enabled => onDev_eq_of (if_neg (by rw [enabled]; decide))
  case unlock => exact fun h s locked => onDev_eq_of (if_neg (by rw [locked]; decide))
  case restart => exact fun who h s granted => onDev_onWrite_granted granted
  case frame =>
    intro h s run held last waits off free pictured
    have begins : ¬ ((!(headOf s.dev h.val).run) = true ∨ rb s.dev (.head h.val) Reg.Head.HEAD_STAT 22 = true ∨
        (headOf s.dev h.val).line + 1 ≠ (vActive s.dev h.val : Int) ∨ firstWaits s.dev h.val = true) := by
      simp only [run, held, last, waits, Bool.not_true, Bool.false_eq_true, ne_eq, not_true_eq_false, or_self, not_false_eq_true]
    refine onDev_eq_of ((if_neg begins).trans ?_)
    simp only [pictured, off, free, Bool.not_true, Bool.and_false, Bool.false_eq_true, false_and, if_false]
  case start =>
    rintro h s ⟨run, ahead, last⟩
    have starts : ¬ ((!(headOf s.dev h.val).run) = true ∨ (!(headOf s.dev h.val).ahead) = true ∨ (headOf s.dev h.val).line ≠ -1) := by
      simp only [run, ahead, last, Bool.not_true, Bool.false_eq_true, ne_eq, not_true_eq_false, or_self, not_false_eq_true]
    exact onDev_eq_of (if_neg starts)
  case line =>
    exact fun h line under wbOver s run held straight next inside started blank free =>
      onDev_eq_of (doLineStart_next run held straight next inside started blank free under wbOver)
  case pulse => exact fun h pin s => onDev_eq _ s
  case first => exact fun h period phase s run here first => onDev_eq_of (doSyncEdge_first run here first period phase)
  case outOfRange =>
    exact fun h period phase e s run here seen noted range =>
      onDev_eq_of (doSyncEdge_out_of_range run here seen noted range phase)
  case good =>
    exact fun h period phase e s run here seen noted range free none_yet =>
      onDev_eq_of ((doSyncEdge_free run here seen noted range free phase).trans (if_neg (by omega)))
  case captures =>
    exact fun h period phase e s run here seen noted range free one =>
      onDev_eq_of ((doSyncEdge_free run here seen noted range free phase).trans (if_pos (by omega)))
  case jumps =>
    exact fun h period phase e s run here seen noted range captures jumped =>
      onDev_eq_of (doSyncEdge_jumps run here seen noted range captures jumped phase)
  case aligns =>
    exact fun h period phase e s run here seen noted range captures jumped all =>
      onDev_eq_of ((doSyncEdge_counts run here seen noted range captures jumped phase).trans (if_pos all))
  case counts =>
    exact fun h period phase e s run here seen noted range captures jumped more =>
      onDev_eq_of ((doSyncEdge_counts run here seen noted range captures jumped phase).trans (if_neg (Nat.not_le.mpr more)))
  case timeout => exact fun h s run source seen => onDev_eq_of (if_pos ⟨run, source, seen⟩)
  case cut => exact fun h s held => onDev_eq_of (if_neg (by rw [held]; decide))

end Sys2Proof.Machine
end

section
/-! The family `05_heads_and_scanout.md`: what the commands of the display ports answer (R200, R202–R205). -/
namespace Sys2Proof.Machine

/-- LINK_TRAINING_DONE of a training that succeeds: the link is up, and the port sends no stream that the link cannot carry
(R200, R202). -/
theorem doLinkTrainingDone_trained {n : Nat} {d : Dev} (trains : linkState d n = 2) (rate lanes : Nat) (msa : Bool) :
    doLinkTrainingDone n true rate lanes msa d =
      let d := sf (.port n) Reg.Port.LINK_STAT 26 24 (min rate (maxRate d n))
        (sf (.port n) Reg.Port.LINK_STAT 18 16 (min lanes (maxLanes d n)) (sb (.port n) Reg.Port.LINK_STAT 28 msa d))
      let d := noteLink (event (.port n) Reg.Port.EV_TRAINED (setPort n 3 true (when msa (emit (.msaIgnore n)) d)))
      (portS d n).src.elim d fun h => if linkCarries d n h then d else bwShort n d := by
  simp only [doLinkTrainingDone, trains, ne_eq, not_true_eq_false, Bool.not_true, Bool.false_eq_true, if_false]
  generalize noteLink _ = e
  cases (portS e n).src with
  | none => rfl
  | some h => rfl

/-- A write of AUX_CMD with the request bit and a listed command, while no request runs and the AUX pair is not shorted, sends
the request (R204). -/
theorem auxCmdWrite_sends {n : Nat} {v : Word} {d : Dev} (request : bitOf v 31 = true)
    (idle : rb d (.port n) Reg.Port.AUX_STAT 31 = false) (listed : [0, 1, 4, 5, 8, 9].contains (fld v 3 0) = true)
    (whole : rf d (.port n) Reg.Port.SHORT_STAT 9 8 = 0) :
    auxCmdWrite n v d = auxSend n (sg (.port n) Reg.Port.AUX_STAT 0x80000000
      (modPort n (fun x => { x with aux := some v, auxOut := false, auxMute := false }) d)) := by
  have runs : ¬ ((!bitOf v 31) = true) := by rw [request]; decide
  have takes : ¬ (rb d (.port n) Reg.Port.AUX_STAT 31 = true ∨ (!([0, 1, 4, 5, 8, 9].contains (fld v 3 0))) = true) := by
    rw [idle, listed]; decide
  have kept : rf (sg (.port n) Reg.Port.AUX_STAT 0x80000000
      (modPort n (fun x => { x with aux := some v, auxOut := false, auxMute := false }) d)) (.port n) Reg.Port.SHORT_STAT 9 8 = 0 :=
    (congrArg (fld · 9 8) (rg_sg_ne (base_ne (by decide) (by decide) (by decide)))).trans whole
  exact (if_neg runs).trans ((if_neg takes).trans (if_neg (not_not_intro kept)))

/-- AUX_DONE of a request that has been sent (R204): one that the port could not send ends in the timeout, one with a result
other than 0 in that result, and the data of a read are stored. -/
theorem doAuxDone_sent {n : Nat} {v : Word} {d : Dev} (request : (portS d n).aux = some v) (sent : (portS d n).auxOut = true)
    (result reply count : Nat) (bytes : List Byte) :
    doAuxDone n result reply count bytes d =
      if (portS d n).auxMute then auxEnd n 1 d
      else if result ≠ 0 then auxEnd n result (when (result == 2) (sf (.port n) Reg.Port.AUX_STAT 13 12 2) d)
      else
        let c := min count (fld v 11 8 + 1)
        let d := sf (.port n) Reg.Port.AUX_STAT 20 16 c (sf (.port n) Reg.Port.AUX_STAT 13 12 reply d)
        auxEnd n 0 (if bitOf v 0 then auxStore n (bytes.take c) d else d) := by
  simp only [doAuxDone, request, sent, Bool.not_true, Bool.false_eq_true, if_false]

/-- Settles O36: what turns each command away is its first condition. -/
theorem portCommandsAnswer : Obligations.PortCommandsAnswer := by
  unfold Obligations.PortCommandsAnswer
  refine ⟨?source, ?retrain, ?failed, ?trained, ?retry, ?unplug, ?plug, ?irq, ?aux, ?sends, ?done, ?short, ?retest⟩
  case source => exact fun who n en h s granted => onDev_onWrite_granted granted
  case retrain => exact fun who n s granted => onDev_onWrite_granted granted
  case failed =>
    exact fun n rate lanes msaIgnore s trains => onDev_eq_of ((if_neg (not_not_intro trains)).trans (if_pos rfl))
  case trained =>
    intro n rate lanes msaIgnore s trains
    refine onDev_eq_of ((doLinkTrainingDone_trained trains rate.val (2 ^ lanes.val) msaIgnore).trans ?_)
    dsimp only
    generalize noteLink _ = e
    cases (portS e n.val).src with
    | none => rfl
    | some h => rfl
  case retry => exact fun n s failed => onDev_eq_of (if_pos failed)
  case unplug => exact fun n s high => onDev_eq_of (if_neg (by rw [high]; decide))
  case plug => exact fun n s low => onDev_eq_of (if_neg (by rw [low]; decide))
  case irq => exact fun n lost s high => onDev_eq_of (if_neg (by rw [high]; decide))
  case aux => exact fun who n v s granted => onDev_onWrite_granted granted
  case sends =>
    exact fun who n v d s granted pair request idle listed whole =>
      onDev_onWrite_eq granted pair (auxCmdWrite_sends request idle listed whole)
  case done =>
    exact fun n result reply count bytes v s request sent => onDev_eq_of (doAuxDone_sent request sent _ _ _ bytes)
  case short => exact fun n lane supply s powered => onDev_eq_of (if_neg powered)
  case retest => exact fun n kinds s shorted => onDev_eq_of (if_neg shorted)

end Sys2Proof.Machine
end

section
/-! The family `06_camera_path.md`: what the commands of the camera ports, the streams and the dewarp engines answer (R217–R220,
R225, R226, R238, R239, R247, R249, R254). -/
namespace Sys2Proof.Machine

/-! ## Ports and their packets (R217–R219, R226) -/

/-- A write of CSI_CTRL that enables a port with settings that are not refused (R218): the port is on, and of its
status only ULPS and ISOLATED stay. -/
theorem csiCtrl_enables {p : Nat} {v : Word} {d e : Dev} (restart : bitOf v 31 = false) (enable : bitOf v 0 = true)
    (off : csiOn d p = false) (lanes : sf .cam (Reg.Cam.CSI_CTRL p) 2 1 (fld v 2 1) d = e)
    (fits : csiRefuse e p (fld v 2 1) = 0) :
    csiCtrl p v d =
      let f := sf .cam (Reg.Cam.CSI_STAT p) 3 0 0 e
      event .cam (Reg.Cam.EV_PORT_UP + p)
        (sg .cam (Reg.Cam.CSI_STAT p) (rg f .cam (Reg.Cam.CSI_STAT p) &&& 0x50000000)
          (sb .cam (Reg.Cam.CSI_CTRL p) 0 true f)) := by
  simp only [csiCtrl, when, restart, enable, off, lanes, fits, Bool.not_true, Bool.false_eq_true, ne_eq, not_true_eq_false,
    if_false]

/-- An enabled port whose page is not isolated takes its packets, and only such a port. -/
theorem csiTakes_iff {d : Dev} {p : Nat} : csiTakes d p = true ↔ csiOn d p = true ∧ stands d .cam = false := by
  simp only [csiTakes, Bool.and_eq_true, Bool.not_eq_true']

/-- A packet that the port takes acts. -/
theorem csi_packet_taken {d : Dev} {p : Nat} (takes : csiTakes d p = true) (acts : Dev) :
    (if !csiTakes d p then d else acts) = acts :=
  if_neg (by rw [takes]; decide)

/-! ## Streams (R220, R225, R247) -/

/-- A write of STREAM_CTRL that enables a stream with settings that are not refused (R220, R225). -/
theorem streamCtrl_enables {who : Party} {n : Nat} {v : Word} {d e : Dev} (restart : bitOf v 31 = false)
    (enable : bitOf v 0 = true) (off : (streamOf d n).on = false)
    (stored : plainWrite (.stream n) Reg.Stream.STREAM_CTRL (v &&& 0xFFFFFFFE) d = e) (fits : streamRefuse e who n = 0) :
    streamCtrl who n v d =
      streamStart n (sb (.stream n) Reg.Stream.STREAM_CTRL 0 true (sf (.stream n) Reg.Stream.STREAM_STAT 3 0 0 e)) := by
  simp only [streamCtrl, when, restart, enable, off, stored, fits, Bool.false_and, Bool.not_true, Bool.false_eq_true, if_false,
    if_true]

/-! ## Dewarp engines (R238, R239, R249) -/

/-- A dewarp engine after a change of its own state. -/
theorem dwOf_modDw_same (e : Nat) (f : DwS → DwS) (d : Dev) : dwOf (modDw e f d) e = f (dwOf d e) := tabGet_set_same _ _ _ _

/-- RESTART of an isolated engine is noted for the next FS (R249). -/
theorem dwApply_restart_isolated {e : Nat} {d : Dev} (isolated : isoOf d (.dw e) = true) :
    dwApply e 0x80000000 d = modDw e (fun w => { w with restart := true }) d := by
  have apply : bitOf (0x80000000 : Word) 0 = false := by decide
  have restart : bitOf (0x80000000 : Word) 31 = true := by decide
  simp only [dwApply, when, apply, restart, isolated, Bool.and_self, Bool.false_eq_true, if_false, if_true]

/-- DW_LINE_BEGIN of an engine that has its input and a free slot (R239). -/
theorem doDwLineBegin_ready {e n : Nat} {m : MeshCfg} {d : Dev} (ready : dwReady d e = true) (serves : (dwOf d e).serves = some n)
    (mesh : (dwOf d e).mesh = some m) (waited : Bool) :
    doDwLineBegin e waited d =
      dwProduce e n m (when (waited || (dwOf d e).waits) (bump (.dw e) Reg.Dw.DW_COUNT 15 0) d) := by
  simp only [doDwLineBegin, ready, serves, mesh, Bool.not_true, Bool.false_eq_true, if_false]

/-- DW_LINE_BEGIN of an engine that has its input and no free slot: the engine waits (R239). -/
theorem doDwLineBegin_waits {e : Nat} {d : Dev} (ready : dwReady d e = false) (input : dwInput d e = true) (waited : Bool) :
    doDwLineBegin e waited d = modDw e (fun w => { w with waits := true }) d := by
  simp only [doDwLineBegin, ready, input, Bool.not_false, if_true]

/-- DW_LINE_VISIBLE of the oldest line begun: its tag stands in its slot, and the last line of a frame counts it (R239). -/
theorem doDwLineVisible_shows {e : Nat} {t : RingTag} {ts : List RingTag} {m : MeshCfg} {d : Dev}
    (made : (dwOf d e).made = t :: ts) (mesh : (dwOf d e).mesh = some m) :
    doDwLineVisible e d =
      when (t.line + 1 == m.outH) (bump (.dw e) Reg.Dw.DW_FRAMES 31 0)
        (modDw e (fun w => { w with made := ts, tags := tabSet (fun _ => none) w.tags (t.line % 8) (some t) }) d) := by
  simp only [doDwLineVisible, made, dwOf_modDw_same, mesh]

/-! ## The commands -/

/-- Settles O37: the register writes act once they are granted, and each of the others has its own lemma where more than its first
condition decides. -/
theorem cameraCommandsAnswer : Obligations.CameraCommandsAnswer := by
  unfold Obligations.CameraCommandsAnswer
  refine ⟨?port, ?portUp, ?portRestart, ?ulps, ?fs, ?long, ?fe, ?stream, ?streamUp, ?lost, ?streamRestart, ?apply, ?restart,
    ?isolated, ?begins, ?waits, ?visible⟩
  case port => exact fun who p v s granted => onDev_onWrite_granted granted
  case portUp =>
    exact fun who p v e d s granted pair restart enable off lanes fits =>
      onDev_onWrite_eq granted pair (csiCtrl_enables restart enable off lanes fits)
  case portRestart => exact fun who p s granted => onDev_onWrite_granted granted
  case ulps => exact fun p enter s on live => onDev_eq_of (if_pos (csiTakes_iff.mpr ⟨on, live⟩))
  case fs => exact fun p vc hdr s => onDev_eq _ s
  case long => exact fun p vc dt hdr crcOk t payload s takes => onDev_eq_of (csi_packet_taken takes _)
  case fe => exact fun p vc hdr s takes => onDev_eq_of (csi_packet_taken takes _)
  case stream => exact fun who n v s granted => onDev_onWrite_granted granted
  case streamUp =>
    exact fun who n v e d s granted pair restart enable off stored fits =>
      onDev_onWrite_eq granted pair (streamCtrl_enables restart enable off stored fits)
  case lost =>
    rintro n s ⟨on, first⟩
    exact onDev_eq_of (if_neg (by rw [on, first]; decide))
  case streamRestart => exact fun who n s granted => onDev_onWrite_granted granted
  case apply => exact fun who n s granted => onDev_onWrite_granted granted
  case restart => exact fun who n s granted => onDev_onWrite_granted granted
  case isolated =>
    exact fun who n d s granted pair isolated => onDev_onWrite_eq granted pair (dwApply_restart_isolated isolated)
  case begins => exact fun n waited k m s ready serves mesh => onDev_eq_of (doDwLineBegin_ready ready serves mesh waited)
  case waits => exact fun n waited s ready input => onDev_eq_of (doDwLineBegin_waits ready input waited)
  case visible => exact fun n t ts m s made mesh => onDev_eq_of (doDwLineVisible_shows made mesh)

end Sys2Proof.Machine
end

section
/-! The family `07_nuroton_gpu.md`: what the context commands answer (R262, R263, R279, R280, R284, R286–R289, R298). -/
namespace Sys2Proof.Machine

/-! ## Enabling and disabling (R259, R262, R298) -/

section
variable {n : Nat} {v : Word} {d : Dev}

/-- A write of CTX_CTRL by the Fold that enables a context which is neither enabled nor closing nor bound to a head, with a
level and a class that are not refused (R259, R262). -/
theorem ctxCtrl_enables (restart : bitOf v 31 = false) (enable : bitOf v 0 = true) (level : fld v 17 16 ≠ 0)
    (cls : fld v 13 12 ≠ 3) (off : bitOf (rg d (.ctx n) Reg.Ctx.CTX_CTRL) 0 = false)
    (unbound : bitOf (rg d (.ctx n) Reg.Ctx.CTX_CTRL) 18 = false) (closed : (ctxOf d n).closing = false) :
    ctxCtrl .fold n v d = cxEnable n (plainWrite (.ctx n) Reg.Ctx.CTX_CTRL v d) := by
  have level' : (fld v 17 16 == 0) = false := beq_eq_false_iff_ne.mpr level
  simp only [ctxCtrl, restart, enable, level', cls, off, unbound, closed, Bool.false_and, Bool.not_false, Bool.false_eq_true,
    Bool.or_false, Bool.and_false, ne_eq, not_true_eq_false, and_false, or_false, if_false, if_true]

/-- A write of CTX_CTRL that clears ENABLE of an enabled context disables it, and nothing else of it takes effect (R298). -/
theorem ctxCtrl_disables (restart : bitOf v 31 = false) (disable : bitOf v 0 = false)
    (on : bitOf (rg d (.ctx n) Reg.Ctx.CTX_CTRL) 0 = true) (who : Party) :
    ctxCtrl who n v d = cxDisable n (sf (.ctx n) Reg.Ctx.CTX_CTRL 0 0 0 d) := by
  simp only [ctxCtrl, restart, disable, on, Bool.false_and, Bool.false_eq_true, if_false, if_true]

/-- A context that has no started packet, or is OFF or FAULTED, closes at once (R298). -/
theorem cxDisable_closes (live : cxState d n ≠ 8) (free : cxStarted d n = false ∨ cxState d n = 0 ∨ cxState d n = 7) :
    cxDisable n d = cxClosed n d := by
  have ends : (cxStarted d n && cxState d n != 0 && cxState d n != 7) = false := by
    rcases free with free | off | faulted
    · rw [free, Bool.false_and, Bool.false_and]
    · rw [off, bne_self_eq_false, Bool.and_false, Bool.false_and]
    · rw [faulted, bne_self_eq_false, Bool.and_false]
  simp only [cxDisable, live, ends, Bool.false_eq_true, if_false]

end

/-! ## Saving, resetting and resuming (R262, R271, R278, R289) -/

section
variable {n : Nat} {d : Dev}

/-- PREEMPT_SAVE of a context between IDLE and PREEMPTED that has a save area (R289). -/
theorem cxSave_saves (least : 1 ≤ cxState d n) (most : cxState d n ≤ 5) (area : rg64 d (.ctx n) Reg.Ctx.SAVE_LO ≠ 0) :
    cxSave n false d = modCtx n (fun c => { c with saving := true }) d := by
  have inside : ¬ (cxState d n < 1 ∨ 5 < cxState d n) := by omega
  simp only [cxSave, inside, area, Bool.false_eq_true, or_self, if_false]

/-- RESUME of a context that does not stand saved ends the stop of its drain (R262, R289). -/
theorem cxResume_kicks (unsaved : cxState (modCtx n (fun c => { c with stop := false }) d) n ≠ 6) :
    cxResume n d = cxKick n (modCtx n (fun c => { c with stop := false }) d) := if_pos unsaved

/-- CTX_DRAIN_DONE at the mark of the drain (R289). -/
theorem doCtxDrainDone_drained (mark : (ctxOf d n).drain = some (qRptr d n)) (least : ¬ cxState d n < 1)
    (most : ¬ 3 < cxState d n) :
    doCtxDrainDone n d =
      ctxState n 1 0 (modCtx n (fun c => { c with drain := none, stop := true }) (finishWork n d)) := by
  have drained : ¬ ((ctxOf d n).drain ≠ some (qRptr d n) ∨ cxState d n < 1 ∨ 3 < cxState d n) := by
    rintro (open_ | low | high)
    · exact open_ mark
    · exact least low
    · exact most high
  exact if_neg drained

end

/-! ## Pens (R279, R280) -/

/-- PARTIAL_RENDER of a context whose pass has begun one (R280). -/
theorem doPartialRender_renders {n : Nat} {ps : GPass} {d : Dev} (pass : (ctxOf d n).pass = some ps)
    (begun : (ctxOf d n).partialOn = true) (t0 t1 t2 : Nat) :
    doPartialRender n t0 t1 t2 d =
      let r := renderPass n ps true (countTiles ps t0 t1 t2 (modCtx n (fun c => { c with partialOn := false }) d))
      let q := if r.1 then ownWrite n (flockLane 0) (rg64 r.2 (.ctx n) Reg.Ctx.SPILL_LO)
          (freeBytes (spillBytes ps) r.2) (tick r.2) else r
      if !q.1 then q.2
      else
        let d := modCtx n (fun c => { c with pass := some { ps with spilled := true, touched := [] } }) (freePens n q.2)
        let d := raiseFault (.ctx n) Reg.Ctx.SRC_PARTIAL_RENDER Reg.Ctx.EV_PARTIAL_RENDER
          (bump (.ctx n) Reg.Ctx.PREEMPT_COUNT 15 0 d)
        if cxState d n = 3 ∨ cxState d n = 4 then bin n (rf d (.ctx n) Reg.Ctx.PEN_STAT 15 0) d else d := by
  simp only [doPartialRender, pass, begun, Bool.not_true, Bool.false_eq_true, if_false]

/-! ## The commands -/

/-- Settles O38: the register writes act once they are granted; what turns each other command away is its first condition. -/
theorem contextCommandsAnswer : Obligations.ContextCommandsAnswer := by
  unfold Obligations.ContextCommandsAnswer
  refine ⟨?enable, ?enables, ?disable, ?closes, ?doorbell, ?kicks, ?saved, ?tile, ?wave, ?restored, ?reset, ?resets, ?save,
    ?saves, ?written, ?drained, ?resume, ?resumes, ?restart, ?pens, ?starved, ?part, ?limit⟩
  case enable => exact fun who n s granted => onDev_onWrite_granted granted
  case enables =>
    rintro _ n o d s granted pair rfl rfl off - level cls unbound closed word enable restart level' cls'
    refine onDev_onWrite_eq granted pair ?_
    rw [word]
    exact ctxCtrl_enables restart enable (level'.trans_ne level) (cls'.trans_ne cls) off unbound closed
  case disable => exact fun who n s granted => onDev_onWrite_granted granted
  case closes =>
    rintro who n e d s granted pair rfl - on disable restart live free
    exact onDev_onWrite_eq granted pair ((ctxCtrl_disables restart disable on who).trans (cxDisable_closes live free))
  case doorbell => exact fun who n v s granted => onDev_onWrite_granted granted
  case kicks => exact fun who n v d s granted pair takes => onDev_onWrite_eq granted pair (intake_takes takes _)
  case saved => exact fun n cores s stops work => onDev_eq_of (if_neg (by rw [stops, work]; decide))
  case tile => exact fun n f s stops pass => onDev_eq_of (if_neg (by rw [stops, pass]; decide))
  case wave => exact fun n lat s called => onDev_eq_of (if_neg (by rw [called]; decide))
  case restored => exact fun n s free => onDev_eq_of (if_neg (by rw [free]; decide))
  case reset => exact fun who n s granted => onDev_onWrite_granted granted
  case resets => exact fun who n d s granted pair live => onDev_onWrite_eq granted pair (if_neg live)
  case save => exact fun who n s granted => onDev_onWrite_granted granted
  case saves =>
    exact fun who n d s granted pair least most area => onDev_onWrite_eq granted pair (cxSave_saves least most area)
  case written => exact fun n kib s saving => onDev_eq_of (if_neg (by rw [saving]; decide))
  case drained => exact fun n s mark least most => onDev_eq_of (doCtxDrainDone_drained mark least most)
  case resume => exact fun who n s granted => onDev_onWrite_granted granted
  case resumes =>
    exact fun who n d s granted pair _ _ unsaved => onDev_onWrite_eq granted pair (cxResume_kicks unsaved)
  case restart => exact fun who n s granted => onDev_onWrite_granted granted
  case pens => exact fun who n v s granted => onDev_onWrite_granted granted
  case starved =>
    exact fun n s waits wants whole => onDev_eq_of (if_pos ⟨waits, wants, by rw [whole]; decide⟩)
  case part => exact fun n t0 t1 t2 ps s pass begun => onDev_eq_of (doPartialRender_renders pass begun t0 t1 t2)
  case limit => exact fun n s running work limited => onDev_eq_of (if_pos ⟨running, work, limited⟩)

end Sys2Proof.Machine
end

section
/-! The family `07_nuroton_gpu.md`: what the packets of a context's queue answer (R264–R266, R268, R271, R272, R275–R277,
R283). -/
namespace Sys2Proof.Machine

/-! ## Packets at the front of the queue (R262–R265) -/

section
variable {n op : Nat} {run : ShaderRun} {act : Pkt → Dev → Dev} {k : Pkt} {e f : Dev} {s : State}

/-- What a packet leads to that is whole at the read pointer, where its effect is known. -/
theorem onDev_doPkt_eq (front : PktFront n op s.dev k e) (acts : act k e = f) :
    onDev (doPkt n op act) s = .next (s.on fun _ => cxSettle n f) := by
  subst acts
  exact onDev_eq_of (doPkt_front front)

/-- The same for a draw or a dispatch whose waves can issue (R256). -/
theorem onDev_whenIssued_eq (issues : canIssue s.dev n run = true) (front : PktFront n op s.dev k e) (acts : act k e = f) :
    onDev (whenIssued n run (doPkt n op act)) s = .next (s.on fun _ => cxSettle n f) := by
  subst acts
  exact onDev_eq_of ((if_pos issues).trans (doPkt_front front))

end

section
variable {n : Nat} {k : Pkt} {d f x : Dev} {b : List Byte}

/-! ## Pipelines and resources (R268, R271, R272) -/

section
variable {g : GPipe}

/-- PIPELINE of a descriptor that is found or read: the pipeline is bound and looked up in the cache, and without a
translation the context waits for one (R271, R272). -/
theorem pktPipeline_found (aligned : k.addr 1 % 64 = 0) (found : tableLook n (k.addr 1) d = (some g, f)) (kind : g.kind ≤ 1) :
    pktPipeline n k d =
      let e := cacheLook n g (modCtx n (fun c => { c with bound := some g }) f)
      if cacheHas f g = true ∨ noTranslator e = true then e
      else ctxState n 4 4 (modCtx n (fun c => { c with transWait := true }) e) := by
  have listed : ¬ 1 < g.kind := Nat.not_lt.mpr kind
  simp only [pktPipeline, aligned, found, listed, ne_eq, not_true_eq_false, if_false]

/-- A context that does not wait for a call takes PIPELINE as the packet at its read pointer. -/
theorem doPipeline_packet (packet : ¬ (cxState d n = 4 ∧ cxCause d n = 2)) :
    doPipeline n d = doPkt n 0x01 (pktPipeline n) d :=
  if_neg fun waits => packet ⟨waits.1, waits.2.1⟩

end

/-! ## Passes (R275–R277) -/

/-- PASS_BEGIN outside a pass, with a descriptor that keeps its table (R275). -/
theorem pktPassBegin_begins (aligned : k.addr 1 % 64 = 0) (outside : (ctxOf d n).pass = none)
    (read : cxRead n frontLane (k.addr 1) 128 d = (some b, f))
    (width : 1 ≤ leNat ((b.drop 0).take 2) ∧ leNat ((b.drop 0).take 2) ≤ 8192)
    (height : 1 ≤ leNat ((b.drop 2).take 2) ∧ leNat ((b.drop 2).take 2) ≤ 8192)
    (samples : leNat ((b.drop 4).take 1) = 1 ∨ leNat ((b.drop 4).take 1) = 4) (count : leNat ((b.drop 5).take 1) ≤ 4)
    (depth : attOk false (attOf (b.drop 8)) = true)
    (colours : ((List.range (min 4 (leNat ((b.drop 5).take 1)))).map
      (fun i => attOf (b.drop (0x20 + 24 * i)))).all (attOk true) = true) :
    pktPassBegin n k d =
      sb (.ctx n) Reg.Ctx.CTX_STAT 12 true (modCtx n (fun c => { c with pass := some {
        w := leNat ((b.drop 0).take 2), h := leNat ((b.drop 2).take 2), samples := leNat ((b.drop 4).take 1)
        colour := (List.range (min 4 (leNat ((b.drop 5).take 1)))).map (fun i => attOf (b.drop (0x20 + 24 * i)))
        depth := attOf (b.drop 8) } }) f) := by
  have begins : ¬ (k.addr 1 % 64 ≠ 0 ∨ (ctxOf d n).pass.isSome = true) := by rw [aligned, outside]; decide
  simp only [pktPassBegin, if_neg begins, read, depth, colours, Bool.not_true, Bool.false_eq_true, or_false]
  exact if_neg (by omega)

/-- PASS_END of a pass whose tiles and headers are all stored (R276, R277). -/
theorem pktPassEnd_ends {ps : GPass} {t0 t1 t2 : Nat} (inside : (ctxOf d n).pass = some ps)
    (tiles : renderPass n ps false (countTiles ps t0 t1 t2 (finishWork n d)) = (true, f))
    (headers : storeHeaders n ps (ps.colour.filter (fun a => a.store == 0)) f = (true, x)) :
    pktPassEnd n t0 t1 t2 k d =
      showPens n (freePens n (sb (.ctx n) Reg.Ctx.CTX_STAT 12 false (modCtx n (fun c => { c with pass := none }) x))) := by
  simp only [pktPassEnd, inside, tiles, headers, Bool.not_true, Bool.false_eq_true, if_false, if_true]

/-! ## Draws (R265, R267, R278) -/

section
variable {run : ShaderRun} {pens need : Nat} {ps qs : GPass} {g h : GPipe}

/-- A draw of something inside a pass, with a graphics pipeline of its samples, whose waves end without a fault. -/
theorem drawWork_draws (inside : (ctxOf d n).pass = some ps) (bound : (ctxOf d n).bound = some g) (graphics : g.kind = 0)
    (samples : g.samples = ps.samples) (runs : runShader n run (wakeFlocks d) = (true, f)) :
    drawWork n k run pens need true d =
      bin n need (modCtx n (fun c => { c with work := true, want := pens, pass := some (touchTiles g run ps)
                                              waves := c.waves ++ run.waves.map (fun w => (w.1.val, w.2)) }) f) := by
  simp only [drawWork, inside, bound, graphics, samples, runs, ne_eq, not_true_eq_false, or_self, Bool.not_true,
    Bool.false_eq_true, if_false]

/-- A draw is of something when neither of its two counts is 0. -/
theorem draws_something (vertices : k.w 1 ≠ 0) (repeats : k.w 2 ≠ 0) : (k.w 1 != 0 && k.w 2 != 0) = true := by
  rw [bne_iff_ne.mpr vertices, bne_iff_ne.mpr repeats, Bool.and_self]

/-- DRAW_INDEXED inside a pass with a pipeline bound draws once its indices are read. -/
theorem pktDrawIndexed_read (inside : (ctxOf d n).pass = some qs) (bound : (ctxOf d n).bound = some h)
    (read : cxRead n frontLane (k.addr 6 + k.w 3 * (if k.flags = 1 then 4 else 2)) (k.w 1 * (if k.flags = 1 then 4 else 2)) d =
      (some b, x)) :
    pktDrawIndexed n run pens need k d = drawWork n k run pens need (k.w 1 != 0 && k.w 2 != 0) x := by
  simp only [pktDrawIndexed, inside, bound, read, Option.isNone_some, Bool.false_eq_true, or_self, if_false]

/-- DRAW_INDIRECT inside a pass with a pipeline bound draws once its arguments are read. -/
theorem pktDrawIndirect_read (aligned : k.addr 1 % 4 = 0) (inside : (ctxOf d n).pass = some qs)
    (bound : (ctxOf d n).bound = some h) (read : cxRead n frontLane (k.addr 1) (16 * k.w 3) d = (some b, x)) :
    pktDrawIndirect n run pens need k d =
      drawWork n k run pens need ((List.range (k.w 3)).any (fun i =>
        (wordsOf (4 * k.w 3) b).getD (4 * i) 0 != 0 && (wordsOf (4 * k.w 3) b).getD (4 * i + 1) 0 != 0)) x := by
  simp only [pktDrawIndirect, aligned, inside, bound, read, Option.isNone_some, Bool.false_eq_true, ne_eq, not_true_eq_false,
    or_self, if_false]

/-! ## Dispatches (R265) -/

/-- A dispatch outside a pass with a compute pipeline, whose size is within its limits and whose waves end without a fault. -/
theorem dispatchWork_dispatches {gx gy gz : Nat} (outside : (ctxOf d n).pass = none) (bound : (ctxOf d n).bound = some g)
    (compute : g.kind = 1) (sizeX : 1 ≤ gx ∧ gx ≤ 65535) (sizeY : 1 ≤ gy ∧ gy ≤ 65535) (sizeZ : 1 ≤ gz ∧ gz ≤ 65535)
    (runs : runShader n run (wakeFlocks d) = (true, f)) :
    dispatchWork n k run gx gy gz d =
      modCtx n (fun c => { c with work := true, waves := c.waves ++ run.waves.map (fun w => (w.1.val, w.2)) }) f := by
  have within {m : Nat} (size : 1 ≤ m ∧ m ≤ 65535) : decide (m < 1 ∨ 65535 < m) = false := decide_eq_false (by omega)
  simp only [dispatchWork, outside, bound, compute, within sizeX, within sizeY, within sizeZ, runs, Option.isSome_none,
    Option.any_some, beq_self_eq_true, Bool.not_true, Bool.false_eq_true, or_self, if_false]

/-- DISPATCH_INDIRECT outside a pass with a compute pipeline dispatches once its size is read. -/
theorem pktDispatchIndirect_read (outside : (ctxOf d n).pass = none) (bound : (ctxOf d n).bound = some h)
    (compute : h.kind = 1) (read : cxRead n frontLane (k.addr 1) 12 d = (some b, x)) :
    pktDispatchIndirect n run k d =
      dispatchWork n k run ((wordsOf 3 b).getD 0 0) ((wordsOf 3 b).getD 1 0) ((wordsOf 3 b).getD 2 0) x := by
  simp only [pktDispatchIndirect, outside, bound, compute, read, Option.isSome_none, Option.any_some, beq_self_eq_true,
    Bool.not_true, Bool.false_eq_true, or_self, if_false]

end

/-! ## Fences, calls and commits (R265, R266, R283) -/

/-- FENCE_SIGNAL whose write passes: the fences that wait are read again (R265). -/
theorem pktFenceSignal_written (aligned : k.addr 1 % 8 = 0)
    (written : cxWrite n frontLane (k.addr 1) (leBytes 8 (k.addr 3)) (finishWork n d) = (true, f)) :
    pktFenceSignal n k d = doFenceRecheck (if k.flags % 2 = 1 then event (.ctx n) Reg.Ctx.EV_FENCE f else f) := by
  simp only [pktFenceSignal, aligned, written, ne_eq, not_true_eq_false, Bool.not_true, Bool.false_eq_true, if_false]

/-- FENCE_WAIT whose fence is read: the context waits where the value is not reached (R265). -/
theorem pktFenceWait_read {v : Nat} (aligned : k.addr 1 % 8 = 0) (read : fenceValue n (k.addr 1) d = (some v, f)) :
    pktFenceWait n k d =
      if k.addr 3 ≤ v then f
      else ctxState n 4 1 (modCtx n (fun c => { c with fence := some (k.addr 1, k.addr 3) }) f) := by
  simp only [pktFenceWait, aligned, read, ne_eq, not_true_eq_false, if_false]

/-- WAIT_CALL in a Bellwether context passes over a call that stands noted, and waits for the next one otherwise (R283). -/
theorem pktWaitCall_bellwether (bellwether : cxBw d n = true) :
    pktWaitCall n k d =
      if rb d (.ctx n) Reg.Ctx.CTX_STAT 11 then sb (.ctx n) Reg.Ctx.CTX_STAT 11 false d
      else ctxState n 4 2 (modCtx n (fun c => { c with callWait := true }) (sb (.ctx n) Reg.Ctx.CTX_STAT 10 false d)) :=
  if_neg (by rw [bellwether]; decide)

/-- LAYER_COMMIT by the owner of the pipe, with staged registers alone: the writes, and then the commit (R266). -/
theorem pktLayerCommit_commits {count pipe : Nat} {owner : Party} {pairs : List (Nat × Word)}
    (counted : k.w 1 / 256 % 256 = count) (named : k.w 1 % 64 = pipe) (own : ownerParty d (.ctx n) = owner) (most : count ≤ 32)
    (whole : k.words.length = 1 + 2 * count)
    (listed : (List.range count).map (fun i => (k.w (2 + 2 * i), BitVec.ofNat 32 (k.w (3 + 2 * i)))) = pairs)
    (owns : isOwner (finishWork n d) (.pipe pipe) owner = true)
    (staged : pairs.all (fun x =>
      (stagedOffsets pipe).contains x.1 || (x.1 == Reg.Pipe.COEF_DATA && decide (48 ≤ pipe))) = true)
    (written : pairs.foldl (fun d x => onWrite owner (.pipe pipe) x.1 (pipeRegWrite pipe x.1 x.2) d) (finishWork n d) = f)
    (granted : Granted f owner (.pipe pipe) Reg.Pipe.COMMIT true) (takes : takesWork (gpIntervene (.pipe pipe) f) owner = true) :
    pktLayerCommit n k d =
      let e := gpIntervene (.pipe pipe) f
      commitPipes (rf e (.pipe pipe) Reg.Pipe.CTRL 14 12) (ownerCode (partyKind owner) (partyTag owner))
        (commitSet e (ownerCode (partyKind owner) (partyTag owner)) (rf e (.pipe pipe) Reg.Pipe.CTRL 14 12)) none (some n) e := by
  have fits : ¬ (32 < count ∨ k.words.length ≠ 1 + 2 * count) := by omega
  simp only [pktLayerCommit, counted, named, own, listed, if_neg fits, owns, staged, written, onWrite_granted granted,
    intake_takes takes, Bool.not_true, Bool.false_eq_true, or_self, if_false]

end

/-! ## The commands -/

/-- Settles O39: a packet whole at the read pointer takes its effect (`onDev_doPkt_eq`), which one lemma for each packet gives. -/
theorem packetCommandsAnswer : Obligations.PacketCommandsAnswer := by
  unfold Obligations.PacketCommandsAnswer
  refine ⟨?nop, ?ahead, ?hit, ?miss, ?bind, ?binds, ?push, ?begin, ?begins, ?end_, ?ends, ?draw, ?draws, ?indexed, ?drawsIndexed,
    ?indirect, ?drawsIndirect, ?dispatch, ?dispatches, ?dispatchIndirect, ?dispatchesIndirect, ?barrier, ?signal, ?signals,
    ?wait, ?reached, ?waits, ?recheck, ?ring, ?rings, ?call, ?noted, ?callWaits, ?commit, ?commits⟩
  case nop => exact fun n k e s front => onDev_doPkt_eq front rfl
  case ahead => exact fun n s waits call runs => onDev_eq_of (if_pos ⟨waits, call, runs⟩)
  case hit =>
    intro n k g f e s front packet aligned found kind ready
    have bound := (pktPipeline_found aligned found kind).trans (if_pos ready)
    exact onDev_eq_of ((doPipeline_packet packet).trans ((doPkt_front front).trans (congrArg (cxSettle n.val) bound)))
  case miss =>
    intro n k g f e s front packet aligned found kind absent served
    have bound := (pktPipeline_found aligned found kind).trans (if_neg (by rw [absent, served]; decide))
    exact onDev_eq_of ((doPipeline_packet packet).trans ((doPkt_front front).trans (congrArg (cxSettle n.val) bound)))
  case bind => exact fun n k e s front => onDev_doPkt_eq front rfl
  case binds => exact fun n k e s front aligned => onDev_doPkt_eq front (if_neg (not_not_intro aligned))
  case push => exact fun n k e s front => onDev_doPkt_eq front rfl
  case begin => exact fun n k e s front => onDev_doPkt_eq front rfl
  case begins =>
    exact fun n k b f e s front aligned outside read width height samples count depth colours =>
      onDev_doPkt_eq front (pktPassBegin_begins aligned outside read width height samples count depth colours)
  case end_ => exact fun n t0 t1 t2 k e s front => onDev_doPkt_eq front rfl
  case ends =>
    exact fun n t0 t1 t2 k ps f h e s front inside tiles headers =>
      onDev_doPkt_eq front (pktPassEnd_ends inside tiles headers)
  case draw => exact fun n run pens need k e s issues front => onDev_whenIssued_eq issues front rfl
  case draws =>
    intro n run pens need k ps g f e s issues front inside bound graphics samples vertices repeats runs
    refine onDev_whenIssued_eq issues front ?_
    rw [pktDraw, draws_something vertices repeats, drawWork_draws inside bound graphics samples runs]
  case indexed => exact fun n run pens need k e s issues front => onDev_whenIssued_eq issues front rfl
  case drawsIndexed =>
    intro n run pens need k ps qs g h b x f e s issues front pass pipe read inside bound graphics samples vertices repeats runs
    refine onDev_whenIssued_eq issues front ?_
    rw [pktDrawIndexed_read pass pipe read, draws_something vertices repeats, drawWork_draws inside bound graphics samples runs]
  case indirect => exact fun n run pens need k e s issues front => onDev_whenIssued_eq issues front rfl
  case drawsIndirect =>
    intro n run pens need k ps qs g h b x f e s issues front aligned pass pipe read inside bound graphics samples some_ runs
    refine onDev_whenIssued_eq issues front ?_
    rw [pktDrawIndirect_read aligned pass pipe read, some_, drawWork_draws inside bound graphics samples runs]
  case dispatch => exact fun n run k e s issues front => onDev_whenIssued_eq issues front rfl
  case dispatches =>
    exact fun n run k g f e s issues front outside bound compute sizeX sizeY sizeZ runs =>
      onDev_whenIssued_eq issues front (dispatchWork_dispatches outside bound compute sizeX sizeY sizeZ runs)
  case dispatchIndirect => exact fun n run k e s issues front => onDev_whenIssued_eq issues front rfl
  case dispatchesIndirect =>
    intro n run k g h b x f e s issues front pass pipe kind read outside bound compute sizeX sizeY sizeZ runs
    exact onDev_whenIssued_eq issues front ((pktDispatchIndirect_read pass pipe kind read).trans
      (dispatchWork_dispatches outside bound compute sizeX sizeY sizeZ runs))
  case barrier => exact fun n k e s front => onDev_doPkt_eq front rfl
  case signal => exact fun n k e s front => onDev_doPkt_eq front rfl
  case signals =>
    exact fun n k f e s front aligned written => onDev_doPkt_eq front (pktFenceSignal_written aligned written)
  case wait => exact fun n k e s front => onDev_doPkt_eq front rfl
  case reached =>
    exact fun n k v f e s front aligned read reached =>
      onDev_doPkt_eq front ((pktFenceWait_read aligned read).trans (if_pos reached))
  case waits =>
    exact fun n k v f e s front aligned read below =>
      onDev_doPkt_eq front ((pktFenceWait_read aligned read).trans (if_neg (Nat.not_le.mpr below)))
  case recheck => exact fun s => onDev_eq _ s
  case ring => exact fun n k e s front => onDev_doPkt_eq front rfl
  case rings =>
    exact fun n k e s front outside aligned => onDev_doPkt_eq front (if_neg (by rw [outside, aligned]; decide))
  case call => exact fun n k e s front => onDev_doPkt_eq front rfl
  case noted =>
    exact fun n k e s front bellwether noted =>
      onDev_doPkt_eq front ((pktWaitCall_bellwether bellwether).trans (if_pos noted))
  case callWaits =>
    exact fun n k e s front bellwether none_yet =>
      onDev_doPkt_eq front ((pktWaitCall_bellwether bellwether).trans (if_neg (by rw [none_yet]; decide)))
  case commit => exact fun n k e s front => onDev_doPkt_eq front rfl
  case commits =>
    exact fun n k c pipe owner pairs f e s front counted named own most whole listed owns staged written granted takes =>
      onDev_doPkt_eq front (pktLayerCommit_commits counted named own most whole listed owns staged written granted takes)

end Sys2Proof.Machine
end

section
/-! The family `07_nuroton_gpu.md`: what the commands of the GPU as a whole answer (R272, R274, R292–R294, R296, R297, R606). -/
namespace Sys2Proof.Machine

/-! ## Translations (R272) -/

/-- TRANSLATION_DONE of a request that is served, is not refused and breaks no limit: the translation enters the cache, and a
context that waits for it goes on (R272). -/
theorem doTranslationDone_serves {n evict : Nat} {r : TransReq} {d : Dev}
    (served : (d.gpu.reqs.take 2).find? (fun r => r.ctx == n) = some r) (ready : d.wld.fieldReady = true)
    (sound : r.pipe.bad = false) :
    doTranslationDone n evict none d =
      let d := modGpu (fun g => { g with reqs := g.reqs.filter (fun x => x != r) }) d
      let kept := evictKeys evict d.gpu.cache
      let d := addTo .gpu Reg.Gpu.TCACHE_STAT 15 0 (d.gpu.cache.length - kept.length)
        (modGpu (fun g => { g with cache := kept ++ [(r.pipe.key, false)] }) d)
      let d := bump .gpu Reg.Gpu.TRANS_COUNT 31 16 (showCache d)
      let d := sg (.ctx n) Reg.Ctx.TRANS_WAIT (BitVec.ofNat 32 (d.us - r.since)) d
      if (ctxOf d n).bound.any (fun g => g.key == r.pipe.key) then
        cxWake n (modCtx n (fun c => { c with transWait := false }) d)
      else d := by
  simp only [doTranslationDone, served, ready, sound, Option.isSome_none, Bool.not_true, Bool.false_eq_true, or_self, if_false]

/-! ## Raises of the level (R292, R606) -/

section
variable {l : Nat} {d : Dev}

/-- VOLTAGE_RAMP_DONE of a raise under a fixed regulator switches the clock (R292). -/
theorem doRampDone_fixed (raising : d.gpu.raising = some l) (fixed : rb d (.sys 2) Reg.Sys2.SUP_CFG 0 = false) :
    doRampDone d = setLevel l (modGpu (fun g => { g with raising := none }) d) := by
  rw [doRampDone, raising]
  exact if_neg (by rw [fixed]; decide)

/-- VFG_SETTLE of a raise in MODE 1 switches the clock where the measured voltage is in reach of the setpoint, and falls back to
the present level's code otherwise (R606). -/
theorem doVfgSettle_driven (raising : d.gpu.raising = some l) (driven : rb d (.sys 2) Reg.Sys2.SUP_CFG 0 = true) (mv : Nat) :
    doVfgSettle mv d =
      let e := { modGpu (fun g => { g with raising := none }) d with pwr := { d.pwr with masked1 := false } }
      if codeMv (levelCode l) ≤ mv + 25 then setLevel l e
      else
        raiseFault (.sys 2) Reg.Sys2.SRC_VFG_RAISE Reg.Sys2.EV_VFG_RAISE
          (bump (.sys 2) Reg.Sys2.SUP_STAT 15 8
            (driveCode (gLevel e) { e with pwr := { e.pwr with raiseUs := some (e.us + 1000) } })) := by
  rw [doVfgSettle, raising]
  exact if_neg (by rw [driven]; decide)

end

/-! ## The commands -/

/-- Settles O40: what turns each command away is its first condition, and a raise or a request that the command names stands in
the device. -/
theorem gpuCommandsAnswer : Obligations.GpuCommandsAnswer := by
  unfold Obligations.GpuCommandsAnswer
  refine ⟨?done, ?timeout, ?window, ?deferral, ?ramp, ?settle, ?throttle, ?rise, ?trip, ?down, ?wake, ?core, ?restart, ?clear⟩
  case done => exact fun n evict r s served ready sound => onDev_eq_of (doTranslationDone_serves served ready sound)
  case timeout => exact fun n s waits => onDev_eq_of (if_pos waits)
  case window => exact fun busy slots s runs cool => onDev_eq_of (if_neg (by rw [runs, cool]; decide))
  case deferral => exact fun s => onDev_eq _ s
  case ramp => exact fun l s raising fixed => onDev_eq_of (doRampDone_fixed raising fixed)
  case settle => exact fun mv l s raising driven => onDev_eq_of (doVfgSettle_driven raising driven mv)
  case throttle => exact fun temp s => onDev_eq _ s
  case rise => exact fun temp s => onDev_eq _ s
  case trip => exact fun temp s => onDev_eq _ s
  case down => exact fun f s free => onDev_eq_of (if_neg free)
  case wake => exact fun f s waking => onDev_eq_of (if_pos waking)
  case core => exact fun n fail s => onDev_eq _ s
  case restart => exact fun who s granted => onDev_onWrite_granted granted
  case clear => exact fun temp s => onDev_eq _ s

end Sys2Proof.Machine
end

section
/-! The family `08_picture_integrity.md`: what the commands of the check windows answer (R312–R315, R317, R325). -/
namespace Sys2Proof.Machine

section
variable {h : Nat} {d : Dev}

/-- A commit of the windows of a disabled head, which has no frame start to wait for, applies at once (R317). -/
theorem chkWrite_commit_disabled (off : headDisabled d h = true) : chkWrite h 1 d = chkApply h (winStaged d h) d :=
  if_pos off

/-- A commit of the windows of an enabled head waits for its commit window to close (R317). -/
theorem chkWrite_commit_enabled (on : headDisabled d h = false) :
    chkWrite h 1 d = modHead h (fun x => { x with wins := some (winStaged d h) }) d :=
  if_neg (Bool.eq_false_iff.mp on)

/-- WINDOW_EVAL of a configured window that is enabled and not suspended, in the frame in which its rectangle is complete: the
result is shown and compared, and the window fails where its run of bad frames reaches the threshold (R312–R315). -/
theorem doWindowEval_complete {w : Nat} {t : Tab Word} (configured : (winOf d (winKey h w)).cfg = some t)
    (full : (winOf d (winKey h w)).full = true) (on : wOn t = true) (runs : winSuspended d h w = false) :
    doWindowEval h w d =
      let s := winOf d (winKey h w)
      let r := winResult t s
      let bad := winBad t s
      let run := rf d (.chk h) (Reg.Chk.WIN_STAT w) 15 8
      let run' := if bad then min 255 (run + 1) else 0
      let d := sg (.chk h) (Reg.Chk.LAST_CRC w) r (sg (.chk h) Reg.Chk.CHK_FRAME (rg d (.head h) Reg.Head.FRAME_COUNT) d)
      let d := modWin (winKey h w) (fun s => { s with full := false, prev := some r }) d
      let d := sf (.chk h) (Reg.Chk.WIN_STAT w) 15 8 run' d
      let d := match winMatch t r with
        | some k => if wLive t then d else sf (.chk h) (Reg.Chk.WIN_STAT w) 26 24 k d
        | none => d
      let d := when bad (bump (.chk h) (Reg.Chk.WIN_COUNT w) 31 16) d
      if run < wThreshold t ∧ wThreshold t ≤ run' then winFail h w t d else d := by
  have evaluates : ¬ (!(winOf d (winKey h w)).full || !wOn t || winSuspended d h w) = true := by rw [full, on, runs]; decide
  simp only [doWindowEval, configured]
  exact if_neg evaluates

end

/-- Settles O41: each of the three register writes is granted (`onDev_onWrite_granted`), a commit waits for the head's commit
window or has none to wait for, and the window that WINDOW_EVAL names is complete (`doWindowEval_complete`). -/
theorem checkCommandsAnswer : Obligations.CheckCommandsAnswer := by
  unfold Obligations.CheckCommandsAnswer
  refine ⟨?commit, ?applies, ?waits, ?restart, ?eval, ?clear⟩
  case commit => exact fun who h s granted => onDev_onWrite_granted granted
  case applies =>
    exact fun who h d s granted pair off => onDev_onWrite_eq granted pair (chkWrite_commit_disabled off)
  case waits =>
    exact fun who h d s granted pair on => onDev_onWrite_eq granted pair (chkWrite_commit_enabled on)
  case restart => exact fun who h s granted => onDev_onWrite_granted granted
  case eval =>
    exact fun h w t s configured ⟨full, on, runs⟩ => onDev_eq_of (doWindowEval_complete configured full on runs)
  case clear => exact fun who h v s granted => onDev_onWrite_granted granted

end Sys2Proof.Machine
end

section
/-! The family `09_touch.md`: what the commands of the glass links, the panels, the regions and the rings answer (R330, R331,
R335–R339, R347, R353, R356). -/
namespace Sys2Proof.Machine

/-! ## Glass links and their scans (R331, R335, R337) -/

section
variable {n : Nat} {v : Word} {d e : Dev}

/-- A write of LG_CTRL that enables a port which is OFF and stands in no isolation takes it to ALIGN (R331). -/
theorem lgCtrl_enables (restart : bitOf v 31 = false) (enable : bitOf v 0 = true)
    (stored : plainWrite (.lg n) Reg.Lg.LG_CTRL v d = e) (runs : stands e (.lg n) = false) (off : lgState e n = 0) :
    lgCtrl n v d = setLg n 1 e := by
  simp only [lgCtrl, when, restart, enable, stored, runs, off, Bool.false_and, Bool.false_eq_true, if_false, if_true]

/-- HELLO_RETRY of a HELLO or CONFIG that waits on a link in HELLO or UP: it goes again until it has gone three times, and then
the link is lost (R331, R335). -/
theorem doHelloRetry_waiting {c : LgCmd} (waits : (tpOf d n).cmd = some c) (noScan : c.cmd ≠ 3)
    (live : ¬ (lgState d n ≠ 2 ∧ lgState d n ≠ 3)) :
    doHelloRetry n d = if (tpOf d n).tries < 3 then lgSend n c.cmd ((tpOf d n).tries + 1) d else linkLost n d := by
  have retries : ¬ (c.cmd = 3 ∨ (lgState d n ≠ 2 ∧ lgState d n ≠ 3)) := not_or.mpr ⟨noScan, live⟩
  simp only [doHelloRetry, waits]
  exact if_neg retries

/-- SCAN_TICK of a panel that scans over a link that is UP, with no HELLO or CONFIG waiting: CONFIG where the front end lost its
own, and the next SCAN otherwise (R336, R337). -/
theorem doScanTick_scans (scans : (tpOf d n).scanning = true) (up : lgState d n = 3) (runs : stands d (.panel n) = false)
    (free : (tpOf d n).cmd.any (fun c => c.cmd != 3) = false) :
    doScanTick n d = if (tpOf d n).recfg then lgSend n 2 1 d else sendScan n d :=
  if_neg (by rw [scans, up, runs, free]; decide)

end

/-! ## Panels and regions (R338, R347, R353) -/

section
variable {n : Nat} {v : Word} {d e : Dev}

/-- FORCED_LIFT of a track of a ready panel, in a region that has a limit (R347). -/
theorem doForcedLift_limited {id : Nat} {k : TrackS} (tracked : (tpOf d n).tracks.find? (fun t => t.id == id) = some k)
    (ready : panelReady d n = true) (limited : k.region.any (fun r => fld (regOf d n r).ctrl 15 8 != 0) = true) :
    doForcedLift n id d = liftTrack n k d := by
  simp only [doForcedLift, tracked, ready, limited, Bool.and_self, if_true]

/-- A panel enable that no check of R338 refuses starts the panel, its electrodes unjudged. -/
theorem panelEnable_starts (accepted : panelRefuse d n = 0) :
    panelEnable n d =
      panelStart n (sf (.panel n) Reg.Panel.ELEC_STAT 9 0 0 (modTp n (fun t => { t with elec := [], dead := [] })
        (sf (.panel n) Reg.Panel.PANEL_STAT 3 0 0 d))) :=
  if_neg (not_not_intro accepted)

/-- A write of PANEL_CTRL that enables a disabled panel outside isolation makes the checks of R338. -/
theorem panelCtrl_enables (restart : bitOf v 31 = false) (enable : bitOf v 0 = true) (off : panelOn d n = false)
    (stored : plainWrite (.panel n) Reg.Panel.PANEL_CTRL v d = e) (free : isoOf e (.panel n) = false) :
    panelCtrl n v d = panelEnable n e := by
  simp only [panelCtrl, when, restart, enable, off, stored, free, Bool.false_and, Bool.not_true, Bool.not_false, Bool.true_or,
    Bool.false_eq_true, if_false, if_true]

/-- The Fold world may write every region, and is refused only what is invalid (R353, R355). -/
theorem regionWrite_fold {r reg : Nat} (valid : regionValid (plainWrite (.panel n) (regionOff r reg) v d) n r = true) :
    regionWrite .fold n r reg v d = plainWrite (.panel n) (regionOff r reg) v d := by
  have same : (Party.fold != .fold) = false := by decide
  simp only [regionWrite, valid, same, ne_eq, not_true_eq_false, false_and, Bool.not_true, Bool.false_and, Bool.or_self,
    Bool.false_eq_true, if_false]

end

/-! ## Rings (R356) -/

/-- A write of RING_CFG that leaves the ring disabled is never refused (R356). -/
theorem ringCfg_disabled {k : Nat} {v : Word} (off : bitOf v 31 = false) (d : Dev) :
    ringCfg k v d = plainWrite (ringPage k) (ringBase k + Reg.Ring.RING_CFG) v d := by
  simp only [ringCfg, off, Bool.false_and, Bool.false_eq_true, if_false]

/-! ## The commands -/

/-- Settles O42: the register writes act once they are granted, a frame from the front end goes to `lgReceive` in every state, and
what turns each of the others away is its first condition. -/
theorem touchCommandsAnswer : Obligations.TouchCommandsAnswer := by
  unfold Obligations.TouchCommandsAnswer
  refine ⟨?link, ?linkUp, ?linkRestart, ?aligned, ?retry, ?reply, ?tick, ?mutualFrame, ?selfFrame, ?listenFrame, ?suspect, ?lift,
    ?loss, ?realign, ?panel, ?panelUp, ?rebase, ?panelRestart, ?region, ?foldRegion, ?ring, ?ringOff, ?rptr, ?tchRestart⟩
  case link => exact fun who n v s granted => onDev_onWrite_granted granted
  case linkUp =>
    exact fun who n v e d s granted pair restart enable stored runs off =>
      onDev_onWrite_eq granted pair (lgCtrl_enables restart enable stored runs off)
  case linkRestart => exact fun who n v s granted => onDev_onWrite_granted granted
  case aligned => exact fun n inverted s aligns => onDev_eq_of (if_neg (not_not_intro aligns))
  case retry => exact fun n c s waits noScan live => onDev_eq_of (doHelloRetry_waiting waits noScan live)
  case reply => exact fun n bytes codeErr s => onDev_eq _ s
  case tick => exact fun n s ⟨scans, up, runs, free⟩ => onDev_eq_of (doScanTick_scans scans up runs free)
  case mutualFrame => exact fun n bytes codeErr late s => onDev_eq _ s
  case selfFrame => exact fun n bytes codeErr late s => onDev_eq _ s
  case listenFrame => exact fun n bytes codeErr late s => onDev_eq _ s
  case suspect => exact fun n i s ready => onDev_eq_of (if_neg (by rw [ready]; decide))
  case lift =>
    exact fun n track k s tracked ready limited => onDev_eq_of (doForcedLift_limited tracked ready limited)
  case loss => exact fun n s up => onDev_eq_of (if_neg (not_not_intro up))
  case realign => exact fun n s lost => onDev_eq_of (if_pos lost)
  case panel => exact fun who n v s granted => onDev_onWrite_granted granted
  case panelUp =>
    exact fun who n v e d s granted pair restart enable off stored free accepted =>
      onDev_onWrite_eq granted pair ((panelCtrl_enables restart enable off stored free).trans (panelEnable_starts accepted))
  case rebase => exact fun who n s granted => onDev_onWrite_granted granted
  case panelRestart => exact fun who n s granted => onDev_onWrite_granted granted
  case region => exact fun who n r reg v s granted => onDev_onWrite_granted granted
  case foldRegion =>
    rintro _ n r reg v d s granted pair rfl valid
    exact onDev_onWrite_eq granted pair (regionWrite_fold valid)
  case ring => exact fun who k v s granted => onDev_onWrite_granted granted
  case ringOff => exact fun who k v d s granted pair off => onDev_onWrite_eq granted pair (ringCfg_disabled off d)
  case rptr => exact fun who k v s granted => onDev_onWrite_granted granted
  case tchRestart => exact fun who s granted => onDev_onWrite_granted granted

end Sys2Proof.Machine
end

section
/-! The family `09_touch.md`: what the commands of the keys answer (R362–R367, R371). -/
namespace Sys2Proof.Machine

/-- KEY_SHORT_TEST of keys that run with the test enabled: each key that saturates alone and not in normal samples is shorted
to another (R366). -/
theorem doKeyShortTest_tests {d : Dev} (runs : keysRun d = true) (enabled : rb d (.key 0) Reg.Key0.KEY_TEST 0 = true)
    (sat : List Nat) :
    doKeyShortTest sat d = sat.foldl (fun d k =>
      if (keyOf d k).sat ≠ 0 then d
      else if keyState d k = 5 then modKey k (fun s => { s with good := 0 }) d
      else keyFault k 3 d) d :=
  if_neg (by rw [runs, enabled]; decide)

/-- Settles O43: the writes of KEY_CTRL are granted, and the keys that the other commands act on run. -/
theorem keyCommandsAnswer : Obligations.KeyCommandsAnswer := by
  unfold Obligations.KeyCommandsAnswer
  refine ⟨?sample, ?short, ?lift, ?rebase, ?restart⟩
  case sample => exact fun raw s runs => onDev_eq_of (if_neg (by rw [runs]; decide))
  case short => exact fun sat s runs enabled => onDev_eq_of (doKeyShortTest_tests runs enabled _)
  case lift => exact fun k s down limited runs => onDev_eq_of (if_pos ⟨down, limited, runs⟩)
  case rebase => exact fun who s granted => onDev_onWrite_granted granted
  case restart => exact fun who s granted => onDev_onWrite_granted granted

end Sys2Proof.Machine
end

section
/-! The family `10_haptics.md`: what the commands of the boosts, the channels, the triggers and the protection answer (R373, R377,
R383, R384, R386, R387, R389–R391, R396). -/
namespace Sys2Proof.Machine

section
variable {who : Party} {pad : Option Nat} {n c : Nat} {v : Word} {d : Dev}

/-! ## Channels (R377, R386) -/

/-- A write of CH_CFG that enables a disabled channel probes its load (R377). -/
theorem chCfg_enables (enable : bitOf v 0 = true) (off : rb d (.hap 0) (Reg.Hap.CH_CFG n) 0 = false) (nF : Nat) :
    chCfg n v nF d = chRest n (measureCap n nF (plainWrite (.hap 0) (Reg.Hap.CH_CFG n) v d)) := by
  simp only [chCfg, enable, off, Bool.not_false, Bool.and_self, if_true]

/-- PEND_TIMEOUT of a trigger as old as PEND_MAX drops it (R386). -/
theorem doPendTimeout_aged {t : HapTrig} (waits : slotOf d n c = some t)
    (aged : 48 * rf d (.hap 0) (Reg.Hap.CH_LIM n) 23 16 ≠ 0 ∧
      ¬ d.hap.now < t.taken + 48 * rf d (.hap 0) (Reg.Hap.CH_LIM n) 23 16) :
    doPendTimeout n c d = chShow n (hapDrop n t (setSlot n c none d)) := by
  simp only [doPendTimeout, waits]
  exact if_neg (not_or.mpr aged)

/-! ## Triggers (R383, R384, R387, R397) -/

/-- A write of TRIG without STOP, on a page that stands in no isolation and with no reason to refuse it, queues the trigger for
the next boundary (R383, R384). -/
theorem trigWrite_accepts (free : isoOf d (trigPage pad) = false) (noStop : bitOf v 31 = false) (cls : trigClass d v = c)
    (accepted : trigRefuse d who pad n (fld v 7 0) c = 0) :
    trigWrite who pad n v d =
      modHap (fun h => { h with queue := h.queue ++ [(n,
          { effect := fld v 7 0, cls := c, level := max 1 (fld v 23 16), rep := fld v 27 24, pad := pad })] })
        (bump (trigPage pad) Reg.Trig.TRIG_COUNT 15 0 d) := by
  simp only [trigWrite, free, noStop, cls, submit, accepted, ne_eq, not_true_eq_false, Bool.false_eq_true, if_false]

/-- A STOP that none of the reasons 1, 3 and 7 refuses empties the slot of its class, and a running effect of that class
brakes (R387). -/
theorem trigStop_accepted (cls : fld v 9 8 = c) (enabled : chState d n ≠ 0) (sound : chState d n ≠ 5)
    (leased : notLeased d pad n = false) (may : who = .fold ∨ c ≠ 0)
    (runs : pad.any (fun p => padState d p != 1) = false) :
    trigStop who pad n v d =
      (let e := setSlot n c none d
       chShow n (if (hapChOf e n).run.any (fun r => r.trig.cls == c) then goBrake n e else e)) := by
  have usable : ¬ (chState d n = 0 ∨ chState d n = 5 ∨ notLeased d pad n = true) := by
    simp only [enabled, sound, leased, Bool.false_eq_true, or_self, not_false_eq_true]
  have allowed : ¬ (c = 0 ∧ who ≠ .fold) := fun ⟨safety, other⟩ => may.elim other (· safety)
  simp only [trigStop, cls, usable, allowed, runs, ne_eq, not_true_eq_false, Bool.false_eq_true, if_false]

/-- A write of TRIG with STOP, on a page that stands in no isolation. -/
theorem trigWrite_stop (free : isoOf d (trigPage pad) = false) (stop : bitOf v 31 = true) :
    trigWrite who pad n v d = trigStop who pad n v d := by
  simp only [trigWrite, free, stop, Bool.false_eq_true, if_false, if_true]

end

/-! ## The commands -/

/-- Settles O44: the register writes act once they are granted, a measurement of the boost or of the temperature and the periodic
commands act in every state, and what turns each of the others away is its first condition. -/
theorem hapticCommandsAnswer : Obligations.HapticCommandsAnswer := by
  unfold Obligations.HapticCommandsAnswer
  refine ⟨?boost, ?vhvOk, ?channel, ?channelUp, ?trigger, ?triggers, ?stop, ?stops, ?sample, ?timeout, ?onLimit, ?duty, ?warm,
    ?trip, ?probe, ?short, ?shortRetry, ?boostFault, ?boostRetry, ?restart, ?whData, ?tripClear, ?warmClear⟩
  case boost => exact fun who b v s granted => onDev_onWrite_granted granted
  case vhvOk => exact fun b tenths s => onDev_eq _ s
  case channel => exact fun who n v nF s granted => onDev_onWrite_granted granted
  case channelUp =>
    exact fun who n v nF d s granted pair enable off => onDev_onWrite_eq granted pair (chCfg_enables enable off nF)
  case trigger => exact fun who page n v s granted => onDev_onWrite_granted granted
  case triggers =>
    exact fun who page n v c d s granted pair free cls accepted noStop =>
      onDev_onWrite_eq granted pair (trigWrite_accepts free noStop cls accepted)
  case stop => exact fun who page n v s granted => onDev_onWrite_granted granted
  case stops =>
    exact fun who page n v c d s granted pair free stop cls enabled sound leased may runs =>
      onDev_onWrite_eq granted pair
        ((trigWrite_stop free stop).trans (trigStop_accepted cls enabled sound leased may runs))
  case sample => exact fun nF s => onDev_eq _ s
  case timeout => exact fun n cls t s waits aged => onDev_eq_of (doPendTimeout_aged waits aged)
  case onLimit => exact fun n s driven => onDev_eq_of (if_pos driven)
  case duty => exact fun s => onDev_eq _ s
  case warm => exact fun temp s => onDev_eq _ s
  case trip => exact fun temp s => onDev_eq _ s
  case probe => exact fun n nF s probed => onDev_eq_of (if_pos probed)
  case short => exact fun n kind s drives => onDev_eq_of (if_neg (by rw [drives]; decide))
  case shortRetry => exact fun n s shorted => onDev_eq_of (if_pos shorted)
  case boostFault => exact fun b kind s on known => onDev_eq_of (if_neg (not_or.mpr ⟨on, known⟩))
  case boostRetry => exact fun b s failed ready => onDev_eq_of (if_neg (not_or.mpr ⟨failed, ready⟩))
  case restart => exact fun who s granted => onDev_onWrite_granted granted
  case whData => exact fun who s granted => onDev_eq_of (onRead_granted granted)
  case tripClear => exact fun temp s => onDev_eq _ s
  case warmClear => exact fun temp s => onDev_eq _ s

end Sys2Proof.Machine
end

section
/-! The family `11_audio.md`: what the commands of the routes, the domains, the side-tones, the headsets, the speakers and the
streams answer (R401, R404, R409, R411, R413, R416–R426, R430). -/
namespace Sys2Proof.Machine

section
variable {v : Word} {d e : Dev}

/-! ## Routes and domains (R401, R404) -/

/-- A write of ROUTE_COMMIT with its bit set commits every route (R404). -/
theorem routeCommit_commits (commit : bitOf v 0 = true) (who : Party) :
    routeCommit who v d =
      event (.aud 1) Reg.Aud1.EV_ROUTE_APPLIED
        (busShow (forN (commitRoute who) 256 (bump (.aud 1) Reg.Aud1.ROUTE_COUNT 15 0 d))) :=
  if_neg (by rw [commit]; decide)

/-- DOMAIN_BACK of an enabled domain whose slave clock, lost until now, is within 1,000 ppm again (R401). -/
theorem doDomainBack_returns {dom : Nat} {ppm : BitVec 16} (near : ppm.toInt.natAbs ≤ 1000) (on : domOn d dom = true)
    (slave : rf d (.aud 0) (Reg.Aud0.DOMAIN_CFG dom) 18 16 ≠ 0) (lost : rb d (.aud 0) (Reg.Aud0.DOMAIN_STAT dom) 31 = false) :
    doDomainBack dom ppm d =
      event (.aud 0) Reg.Aud0.EV_DOMAIN_BACK
        (forN tdmShow 4 (sg (.aud 0) (Reg.Aud0.DOMAIN_STAT dom) (0x80000000 ||| ppm.setWidth 32) d)) :=
  if_pos (by rw [decide_eq_true near, on, bne_iff_ne.mpr slave, lost]; decide)

/-! ## Side-tones (R416, R430) -/

/-- A write of ST_APPLY with its bit set, where no side-tone register names a reserved code, gives each route its target; the
write has taken effect where no element is left to wait (R416, R430). -/
theorem stApply_applies (apply : bitOf v 0 = true)
    (sound : (List.range 4).any (fun k => stBad (rg d (.afe 1) (Reg.Afe1.ST_CFG k))) = false) :
    stApply v d =
      (let e := forN (fun k d =>
          let w := rg d (.afe 1) (Reg.Afe1.ST_CFG k)
          stShow k (modSt k (fun s => { s with
            tgt := w, pend := if s.ramp.isSome ∧ stElems s.act w = [] then [] else stElems s.act w
            ramp := if s.ramp.isSome ∧ s.tgt ≠ w then some d.us else s.ramp }) d)) 4 d
       if (List.range 4).all (fun j => (stOf e j).pend == []) then event (.afe 1) Reg.Afe1.EV_ST_APPLIED e else e) :=
  if_neg (by rw [apply, sound]; decide)

/-! ## Headsets and speakers (R419–R421) -/

/-- HS_MIC_FAULT of a plugged headset whose bias is on and has not failed since the plug (R419). -/
theorem doHsMicFault_fails {h : Nat} (plugged : rb d (.afe 0) (Reg.Afe0.HS_STAT h) 31 = true)
    (bias : rb d (.afe 0) (Reg.Afe0.HS_CFG h) 1 = true) (sound : rb d (.afe 0) (Reg.Afe0.HS_STAT h) 29 = false) :
    doHsMicFault h d = fireSource (.afe 0) Reg.Afe0.SRC_HS_MIC_FAULT (setHs h 30 false (setHs h 29 true d)) :=
  if_pos (by rw [plugged, bias, sound]; decide)

/-- A write of SPK_CFG that enables a disabled speaker, on a page that stands in no isolation, starts its load check (R420). -/
theorem spkCfg_enables {o : Nat} (enable : bitOf v 31 = true) (off : rb d (.afe 0) (Reg.Afe0.SPK_CFG o) 31 = false)
    (free : isoOf (plainWrite (.afe 0) (Reg.Afe0.SPK_CFG o) v d) (.afe 0) = false) :
    spkCfg o v d =
      setSpk o 1 (sf (.afe 0) (Reg.Afe0.SPK_STAT o) 26 24 0
        (modSpk o (fun _ => {}) (plainWrite (.afe 0) (Reg.Afe0.SPK_CFG o) v d))) := by
  simp only [spkCfg, enable, off, free, Bool.not_false, Bool.and_self, Bool.false_eq_true, if_true, if_false]

/-! ## Streams (R21, R423) -/

/-- A write through the page of no paddock reaches the stream where the Fold world makes it, and otherwise where the stream is
neither leased nor of the Fold part (R21, R422, R428). -/
theorem asReach_unleased {who : Party} {n : Nat}
    (may : who = .fold ∨ (asPad d n).isSome = false ∧ asFoldS d n = false) (act : Dev → Dev) :
    asReach who none n act d = act d := by
  obtain rfl | ⟨unleased, notFold⟩ := may
  · simp only [asReach, reduceCtorEq, ne_eq, not_true_eq_false, false_and, if_false]
  · simp only [asReach, unleased, notFold, Bool.false_eq_true, and_false, if_false]

/-- A write of AS_CFG by the Fold world that enables a disabled stream, where none of the reasons of R423 refuses it, starts the
stream. -/
theorem asCfg_starts {n : Nat} {w : Word} (enable : bitOf v 31 = true) (off : bitOf (asOf d n).cfg 31 = false)
    (stored : maskIn (asOf d n).cfg v 0x9F033330 = w) (accepted : asRefuse d .fold (asOf d n) w = 0) :
    asCfg .fold n v d =
      modAs n (fun x => { x with cfg := w, running := true, stopping := false, hold := false, under := false, fault := false
                                 quiesced := false, refuse := 0, by_ := 0, gain := { from_ := amp1, dest := amp1 } }) d := by
  simp only [asCfg, enable, off, stored, accepted, ne_eq, not_true_eq_false, Bool.not_true, Bool.false_eq_true, if_false, if_true]

end

/-! ## The commands -/

/-- Settles O45: the register writes act once they are granted, the plug events, MIC_FAULT_CLEAR and FELL_AUDIO_LOSS act in every
state, and what turns each of the others away is its first condition. -/
theorem audioCommandsAnswer : Obligations.AudioCommandsAnswer := by
  unfold Obligations.AudioCommandsAnswer
  refine ⟨?commit, ?commits, ?deferred, ?frame, ?duckOff, ?lost, ?back, ?slip, ?apply, ?applies, ?zero, ?forced, ?mic, ?micClear,
    ?plug, ?unplug, ?hsMic, ?speaker, ?speakerUp, ?load, ?spkFault, ?recovery, ?stream, ?streamUp, ?ptr, ?ptrTaken, ?loss,
    ?audRestart, ?afeRestart⟩
  case commit => exact fun who v s granted => onDev_onWrite_granted granted
  case commits =>
    exact fun who v d s granted pair commit => onDev_onWrite_eq granted pair (routeCommit_commits commit who)
  case deferred => exact fun r s _ => onDev_eq _ s
  case frame => exact fun dom inputs s runs on => onDev_eq_of (if_pos (by rw [runs, on]; decide))
  case duckOff =>
    exact fun s idle ducked => onDev_eq_of (if_neg (not_or.mpr ⟨not_not_intro idle, by rw [ducked]; decide⟩))
  case lost => exact fun dom ppm s locked => onDev_eq_of (if_pos locked)
  case back => exact fun dom ppm s near on slave lost => onDev_eq_of (doDomainBack_returns near on slave lost)
  case slip => exact fun p s slave => onDev_eq_of (if_pos slave)
  case apply => exact fun who v s granted => onDev_onWrite_granted granted
  case applies =>
    exact fun who v d s granted pair apply sound => onDev_onWrite_eq granted pair (stApply_applies apply sound)
  case zero => exact fun k element s waits => onDev_eq_of (if_pos waits)
  case forced => exact fun k element s waits => onDev_eq_of (if_pos waits)
  case mic => exact fun m s on sound => onDev_eq_of (if_pos (by rw [on, sound]; decide))
  case micClear => exact fun m s => onDev_eq _ s
  case plug => exact fun h microamps s => onDev_eq _ s
  case unplug => exact fun h s => onDev_eq _ s
  case hsMic => exact fun h s plugged bias sound => onDev_eq_of (doHsMicFault_fails plugged bias sound)
  case speaker => exact fun who o v s granted => onDev_onWrite_granted granted
  case speakerUp =>
    exact fun who o v d s granted pair enable off free => onDev_onWrite_eq granted pair (spkCfg_enables enable off free)
  case load => exact fun o tenthOhms toGround toVspk s tests => onDev_eq_of (if_neg (not_not_intro tests))
  case spkFault => exact fun o kind s plays => onDev_eq_of (if_neg (not_not_intro plays))
  case recovery =>
    exact fun o s ⟨failed, gone, unstuck⟩ =>
      onDev_eq_of (if_pos ⟨failed, fun still => Bool.false_ne_true (gone.mp still), unstuck⟩)
  case stream => exact fun who page v s granted => onDev_onWrite_granted granted
  case streamUp =>
    rintro _ _ v k w d s granted pair rfl rfl rfl enable off stored accepted
    exact onDev_onWrite_eq granted pair
      ((asReach_unleased (.inl rfl) _).trans (asCfg_starts enable off stored accepted))
  case ptr => exact fun who page n v s granted => onDev_onWrite_granted granted
  case ptrTaken =>
    rintro who _ n v d s granted pair rfl may
    exact onDev_onWrite_eq granted pair (asReach_unleased may _)
  case loss => exact fun s => onDev_eq _ s
  case audRestart => exact fun who s granted => onDev_onWrite_granted granted
  case afeRestart => exact fun who s granted => onDev_onWrite_granted granted

end Sys2Proof.Machine
end

section
/-! The family `12_paddocks.md`: The managers, the host ports, the gates and the frames (R432–R470). -/
namespace Sys2Proof.Machine

section
variable {who : Party} {u op st p f i n kind : Nat} {s : State} {d e : Dev}

/-! ## Manager commands (R456) -/

/-- What a manager whose command runs is left with: MGR_RESULT shows it busy, and MGR_CMD_DONE will bring its status. -/
def mgrBusy (u op st : Nat) (e : Dev) : Dev :=
  modUp u (fun x => { x with cmd := some (op, st) })
    (sg (.padg u) Reg.Mgr.MGR_RESULT (BitVec.ofNat 32 (0x80000000 + op % 256 * 65536)) e)

/-- A manager with no command in progress, whose page stands in no isolation, runs the command. -/
theorem mgrCmd_runs (free : isoOf d (.padg u) = false) (idle : (upOf d u).cmd = none) (run : mgrRun u op d = (st, e)) :
    mgrCmd u op d = mgrBusy u op st e := by
  simp only [mgrBusy, mgrCmd, free, idle, run, Option.isSome_none, Bool.false_eq_true, if_false]

/-- A granted write of MGR_CMD of a command that runs. -/
theorem onDev_mgrCmd_runs (granted : Granted s.dev who (.padg u) Reg.Mgr.MGR_CMD true) (pair : gpIntervene (.padg u) s.dev = d)
    (free : isoOf d (.padg u) = false) (idle : (upOf d u).cmd = none) (run : mgrRun u op d = (st, e)) :
    onDev (doMgrCmd who u op) s = .next (s.on fun _ => mgrBusy u op st e) :=
  onDev_onWrite_eq granted pair (mgrCmd_runs free idle run)

/-! ## The life of a paddock (R457, R459) -/

/-- A paddock that CREATE opens: its cause clears, and its pages take the fault classes of the image (R457). -/
def created (p : Nat) (d : Dev) : Dev := sf (.pset p 0) Reg.Pad.PAD_STAT 9 8 0 (modPad p (fun _ => {}) (padClasses p d))

theorem cmdCreate_opens (arg : mgrArg d u 0 = p) (full : d.pad.full = true) (check : padCheck d u p [0] = 0)
    (live : vfLive d p = true) :
    cmdCreate u d = (0, padTo p 1 (created p d)) := by
  simp only [created, cmdCreate, arg, full, check, live, Bool.not_true, Bool.false_eq_true, ne_eq, not_true_eq_false, if_false]

theorem cmdQuiesce_starts (arg : mgrArg d u 0 = p) (check : padCheck d u p [1] = 0) (mode : mgrArg d u 1 ≤ 1) :
    cmdQuiesce u d = (0, startQuiesce p (mgrArg d u 1) d) := by
  simp only [cmdQuiesce, arg, check, Nat.not_lt.mpr mode, ne_eq, not_true_eq_false, if_false]

theorem cmdResume_opens (arg : mgrArg d u 0 = p) (check : padCheck d u p [3] = 0) (live : vfLive d p = true)
    (master : (fnOf d (2 + p)).bme = true) : cmdResume u d = (0, padTo p 1 (asResume p (leavePenned p d))) := by
  simp only [cmdResume, arg, check, live, master, Bool.not_true, Bool.or_self, Bool.false_eq_true, ne_eq, not_true_eq_false, if_false]

/-- RESET needs the VF of the paddock, and REMOVE does not. -/
theorem cmdClear_clears {removing : Bool} (arg : mgrArg d u 0 = p) (check : padCheck d u p [3] = 0)
    (live : removing = true ∨ vfLive d p = true) : cmdClear u removing d = (0, startClearing p u removing d) := by
  have there : (!removing && !vfLive d p) = false := by rcases live with h | h <;> simp only [h, Bool.not_true, Bool.false_and, Bool.and_false]
  simp only [cmdClear, arg, check, there, Bool.false_eq_true, ne_eq, not_true_eq_false, if_false]

/-! ## Frames (R435, R445) -/

theorem cmdClaim_takes (first : mgrArg d u 0 = f) (count : mgrArg d u 1 = n) (full : d.pad.full = true)
    (inside : spanOk f n 16384 = true) (allFree : (span f n).any (fun k => fotKind d k != fkFree) = false)
    (quota : heldFrames d u + n ≤ d.pad.quota) :
    cmdClaim u d = (0, (span f n).foldl (fun d k => fotSet k (fotWord fkManager u 0) d) d) := by
  simp only [cmdClaim, first, count, full, inside, allFree, Nat.not_lt.mpr quota, Bool.not_true, Bool.false_eq_true, if_false]

theorem cmdRelease_scrubs (first : mgrArg d u 0 = f) (count : mgrArg d u 1 = n) (full : d.pad.full = true)
    (inside : spanOk f n 16384 = true) (own : (span f n).any (fun k => !ownFrame d u k) = false) :
    cmdRelease u d = (0, modUp u (fun x => { x with scrubbing := span f n }) (toScrub 0 (span f n) d)) := by
  simp only [cmdRelease, first, count, full, inside, own, Bool.not_true, Bool.false_eq_true, if_false]

/-- GRANT of frames and pages within their bounds to a paddock of the port that is not void: all of them, or none with status 5. -/
theorem cmdGrant_eq (pad : mgrArg d u 0 = p) (first : mgrArg d u 1 = f) (index : mgrArg d u 2 = i) (count : mgrArg d u 3 = n)
    (full : d.pad.full = true) (port : portOf d p = some u) (frames : spanOk f n 16384 = true) (pages : spanOk i n 8192 = true)
    (check : padCheck d u p [1, 2, 3, 4] = 0) :
    cmdGrant u d =
      if (List.range n).any (fun k => !ownFrame d u (f + k) || bitOf (pmapGet d p (i + k)) 31) then (5, d)
      else (0, (List.range n).foldl (fun d k =>
        pmapSet p (i + k) (BitVec.ofNat 32 (0x80000000 + f + k)) (fotSet (f + k) (fotWord fkPaddock p (i + k)) d)) d) := by
  simp only [cmdGrant, pad, first, index, count, full, port, frames, pages, check, Bool.not_true, Bool.true_eq_false,
    Bool.false_eq_true, ne_eq, not_true_eq_false, or_self, if_false]

theorem cmdRevoke_scrubs (pad : mgrArg d u 0 = p) (index : mgrArg d u 1 = i) (count : mgrArg d u 2 = n)
    (full : d.pad.full = true) (port : portOf d p = some u) (pages : spanOk i n 8192 = true)
    (check : padCheck d u p [1, 2, 3, 4] = 0) (mapped : (span i n).any (fun k => !bitOf (pmapGet d p k) 31) = false) :
    cmdRevoke u d =
      (0, modUp u (fun x => { x with scrubbing := (span i n).map (fun k => fld (pmapGet d p k) 13 0) })
        (toScrub (fotWord fkManager u 0) ((span i n).map (fun k => fld (pmapGet d p k) 13 0))
          ((span i n).foldl (fun d k => pmapSet p k 0 d) d))) := by
  simp only [cmdRevoke, pad, index, count, full, port, pages, check, mapped, Bool.not_true, Bool.true_eq_false,
    Bool.false_eq_true, ne_eq, not_true_eq_false, or_self, if_false]

/-! ## Leases (R446–R448) -/

theorem cmdLease_leases (pad : mgrArg d u 0 = p) (res : argRes d u = (kind, n)) (port : portOf d p = some u)
    (exists_ : n < resCount kind) (level : kind ≠ 2 ∨ mgrArg d u 2 / 16 % 4 ≠ 0) (check : padCheck d u p [1, 3] = 0)
    (pool : inPool d u kind n = true) (free : leasable d kind n = true) (window : windowFull d p kind (mgrArg d u 2 % 4) = false) :
    cmdLease u d = (0, leaseNow p kind n (mgrArg d u 2 % 4) (mgrArg d u 2 / 16 % 4) d) := by
  have noLevel : ¬ (kind = 2 ∧ mgrArg d u 2 / 16 % 4 = 0) := fun ⟨ctx, zero⟩ => level.elim (· ctx) (· zero)
  simp only [cmdLease, pad, res, port, Nat.not_le.mpr exists_, noLevel, check, pool, free, window, Bool.not_true, Bool.or_self,
    Bool.false_eq_true, ne_eq, not_true_eq_false, or_self, if_false]

/-- UNLEASE of a resource that nothing of the paddock uses any more moves the lease at once. -/
theorem cmdUnlease_moves (pad : mgrArg d u 0 = p) (res : argRes d u = (kind, n)) (port : portOf d p = some u)
    (exists_ : n < resCount kind) (leased : leasee d kind n = some p) (quiet : padState d p ≠ 2) (clear : padState d p ≠ 5)
    (off : kind ≠ 1 ∨ padState d p = 3 ∨ cEnable n (pipeOf d n).act = false) (start : startUnlease kind n d = (false, e)) :
    cmdUnlease u d = (0, unleaseNow p kind n e) := by
  have stopped : ¬ (kind = 1 ∧ cEnable n (pipeOf d n).act = true ∧ padState d p ≠ 3) := by
    rintro ⟨pipe, on, open_⟩
    rcases off with h | h | h
    · exact h pipe
    · exact open_ h
    · rw [h] at on; cases on
  have here : ¬ (portOf d p ≠ some u ∨ resCount kind ≤ n ∨ leasee d kind n ≠ some p) := by
    simp only [port, leased, Nat.not_le.mpr exists_, ne_eq, not_true_eq_false, or_self, not_false_eq_true]
  simp only [cmdUnlease, pad, res, if_neg here, quiet, clear, stopped, start, or_self, Bool.false_eq_true, if_false]

end

/-- Settles O46: each of the manager's commands is a granted write of its opcode (`onDev_mgrCmd_runs`), and what turns each of the
other commands away is its first condition. -/
theorem managerCommandsAnswer : Obligations.ManagerCommandsAnswer := by
  unfold Obligations.ManagerCommandsAnswer
  have writes (op : Nat) (who : Party) (u : Fin 2) (s : State) (granted : Granted s.dev who (.padg u.val) Reg.Mgr.MGR_CMD true) :
      onDev (doMgrCmd who u.val op) s = .next (s.on fun d => mgrCmd u.val op (gpIntervene (.padg u.val) d)) :=
    onDev_onWrite_granted granted
  refine ⟨writes 0x01, ?create, writes 0x02, ?quiesce, writes 0x03, ?resume, writes 0x04, ?reset, writes 0x05, ?remove,
    writes 0x10, ?claim, writes 0x11, ?release, writes 0x12, ?grant, writes 0x13, ?revoke, writes 0x20, ?lease, writes 0x21,
    ?unlease, ?done, ?frame, ?quiesced, ?timeout, ?forced, ?cleared⟩
  case create =>
    exact fun who u p d s granted pair free idle arg full check live =>
      onDev_mgrCmd_runs granted pair free idle (cmdCreate_opens arg full check live)
  case quiesce =>
    exact fun who u p d s granted pair free idle arg check mode =>
      onDev_mgrCmd_runs granted pair free idle (cmdQuiesce_starts arg check mode)
  case resume =>
    exact fun who u p d s granted pair free idle arg check live master =>
      onDev_mgrCmd_runs granted pair free idle (cmdResume_opens arg check live master)
  case reset =>
    exact fun who u p d s granted pair free idle arg check live =>
      onDev_mgrCmd_runs granted pair free idle (cmdClear_clears arg check (.inr live))
  case remove =>
    exact fun who u p d s granted pair free idle arg check =>
      onDev_mgrCmd_runs granted pair free idle (cmdClear_clears arg check (.inl rfl))
  case claim =>
    exact fun who u f n d s granted pair free idle first count full inside allFree quota =>
      onDev_mgrCmd_runs granted pair free idle (cmdClaim_takes first count full inside allFree quota)
  case release =>
    exact fun who u f n d s granted pair free idle first count full inside own =>
      onDev_mgrCmd_runs granted pair free idle (cmdRelease_scrubs first count full inside own)
  case grant =>
    exact fun who u p f i n d s granted pair free idle pad first index count full port frames pages check own =>
      onDev_mgrCmd_runs granted pair free idle
        ((cmdGrant_eq pad first index count full port frames pages check).trans (if_neg (by rw [own]; decide)))
  case revoke =>
    exact fun who u p i n d s granted pair free idle pad index count full port pages check mapped =>
      onDev_mgrCmd_runs granted pair free idle (cmdRevoke_scrubs pad index count full port pages check mapped)
  case lease =>
    exact fun who u p kind n d s granted pair free idle pad res port exists_ level check pool leasable window =>
      onDev_mgrCmd_runs granted pair free idle (cmdLease_leases pad res port exists_ level check pool leasable window)
  case unlease =>
    exact fun who u p kind n e d s granted pair free idle pad res port exists_ leased quiet clear off start =>
      onDev_mgrCmd_runs granted pair free idle (cmdUnlease_moves pad res port exists_ leased quiet clear off start)
  case done =>
    rintro u op st s work ⟨free, scrubbed, moved⟩
    refine onDev_eq_of ?_
    simp only [doMgrCmdDone, work, free, scrubbed, moved, Bool.false_eq_true, ne_eq, not_true_eq_false, or_self, if_false] <;> rfl
  case frame =>
    exact fun i p s leased off => onDev_eq_of (by simp only [doUnleaseFrameStart, leased, off, Bool.false_eq_true, if_false])
  case quiesced => exact fun p s quiescing done => onDev_eq_of (if_pos ⟨quiescing, done⟩)
  case timeout => exact fun p s quiescing => onDev_eq_of (if_pos quiescing)
  case forced => exact fun p s forced silent => onDev_eq_of (if_pos ⟨forced, silent⟩)
  case cleared =>
    exact fun p s ⟨clearing, scrubbed, moved⟩ =>
      onDev_eq_of (if_neg (by simp only [clearing, scrubbed, moved, ne_eq, not_true_eq_false, Bool.false_eq_true, or_self, not_false_eq_true]))

section
variable {u p q st : Nat} {d : Dev}

/-- Memories that are the same as those that are the same. -/
theorem SameMemories.trans {a b c : Dev} (h : SameMemories a b) (k : SameMemories b c) : SameMemories a c := by
  obtain ⟨past, dram, nvm⟩ := h
  obtain ⟨past', dram', nvm'⟩ := k
  exact ⟨past'.trans past, dram'.trans dram, nvm'.trans nvm⟩

/-! ## Entering a state (R458, R467) -/

/-- The ports are two (R432). -/
theorem portOf_lt (h : portOf d p = some u) : u < 2 := by
  unfold portOf at h
  split at h
  · cases h; decide
  · split at h
    · cases h; decide
    · cases h

/-- The bits that a manager's page shows of its paddocks are no register of a page set. -/
theorem rg_pendBit_pset (small : p < 512) {o : Nat} (inside : o < 0x1000) (header : o ≠ Reg.PBA) (vec : Nat) (b : Bool) :
    rg (pendBit Reg.Mgr.STATE_PEND vec p b d) (.pset q 0) o = rg d (.pset q 0) o := by
  obtain ⟨R, O, form, keeps⟩ := pendBit_eq Reg.Mgr.STATE_PEND vec p b d
  rw [form]
  exact keeps _ (not_pba inside header) fun u port => pset_ne_padg (portOf_lt port) (by simp only [Reg.Mgr.STATE_PEND]; omega)

/-- A paddock that enters a state changes registers and messages alone. -/
theorem padTo_form (p st : Nat) (d : Dev) : ∃ R O, padTo p st d = { d with regs := R, out := O } := by
  obtain ⟨R, O, told⟩ := event_eq (.pset p 0) Reg.Pad.EV_STATE (sf (.pset p 0) Reg.Pad.PAD_STAT 2 0 st d)
  obtain ⟨S, Q, pends, -⟩ := pendBit_eq Reg.Mgr.STATE_PEND 2 p true
    (event (.pset p 0) Reg.Pad.EV_STATE (sf (.pset p 0) Reg.Pad.PAD_STAT 2 0 st d))
  obtain ⟨T, stored⟩ : ∃ T, sf (.pset p 0) Reg.Pad.PAD_STAT 2 0 st d = { d with regs := T } := ⟨_, rfl⟩
  exact ⟨S, Q, pends.trans (by rw [told, stored])⟩

/-- The frames, the maps and the memories stay. -/
theorem padTo_keeps (p st : Nat) (d : Dev) :
    (padTo p st d).pad.fot = d.pad.fot ∧ (padTo p st d).pad.maps = d.pad.maps ∧ SameMemories d (padTo p st d) := by
  obtain ⟨R, O, form⟩ := padTo_form p st d
  simp only [SameMemories, form, and_self]

/-- PAD_STAT of every paddock after paddock `p` has entered a state. -/
theorem rg_padTo_stat (small : p < 512) :
    rg (padTo p st d) (.pset q 0) Reg.Pad.PAD_STAT =
      if q = p then setFld (rg d (.pset p 0) Reg.Pad.PAD_STAT) 2 0 st else rg d (.pset q 0) Reg.Pad.PAD_STAT := by
  have off : (Page.pset q 0).base + Reg.Pad.PAD_STAT ≠ (Page.pset p 0).base + Reg.EVENT := base_ne (by decide) (by decide) (by decide)
  unfold padTo
  rw [rg_pendBit_pset small (by decide) (by decide), rg_event off (not_pba (by decide) (by decide))]
  by_cases same : q = p
  · rw [if_pos same, same, rg_sf_same]
  · rw [if_neg same]
    exact rg_sg_ne (by simp only [Page.base]; omega)

/-- The state that a paddock has entered (R458). -/
theorem padState_padTo_same (small : p < 512) : padState (padTo p st d) p = st % 8 := by
  unfold padState
  rw [rf_eq_fld, rg_padTo_stat small, if_pos rfl, fld_setFld_same _ _ (by decide) (by decide)]; rfl

/-- Every other paddock stays in its own. -/
theorem padState_padTo_ne (small : p < 512) (h : q ≠ p) : padState (padTo p st d) q = padState d q := by
  unfold padState
  rw [rf_eq_fld, rg_padTo_stat small, if_neg h, rf_eq_fld]

/-- A paddock that enters a state tells it by EVENT.STATE. -/
theorem padTo_event (small : p < 512) : rb (padTo p st d) (.pset p 0) Reg.EVENT Reg.Pad.EV_STATE = true := by
  unfold padTo
  rw [rb_eq_bitOf, rg_pendBit_pset small (by decide) (by decide), rg_event_same]
  exact (sqEvent_bits _ (by decide)).1

/-! ## CREATE and GRANT (R445, R457, R459) -/

/-- The state that a command needs of a paddock of the port (R457). -/
theorem padCheck_ok {ok : List Nat} (port : portOf d p = some u) (state : padState d p ∈ ok) : padCheck d u p ok = 0 := by
  simp only [padCheck, port, List.contains_iff_mem.mpr state, ne_eq, not_true_eq_false, if_false, if_true]

/-- PAD_STAT beside the cause. -/
theorem padState_created (p q : Nat) (d : Dev) : padState (created p d) q = padState d q := by
  obtain ⟨R, -, classes⟩ := padClasses_eq p d
  have stat (q : Nat) : rg (modPad p (fun _ => {}) (padClasses p d)) (.pset q 0) Reg.Pad.PAD_STAT = rg d (.pset q 0) Reg.Pad.PAD_STAT :=
    by rw [rg_modPad, classes _ _ (by decide) (by decide)]
  unfold padState created sf
  rw [rf_eq_fld, rg_sg]
  split
  · next same =>
    have : q = p := by simp only [Page.base] at same; omega
    rw [fld_setFld_ne _ _ (by decide) (by decide) (.inl (by decide)), this, stat, rf_eq_fld]
  · rw [stat, rf_eq_fld]

/-- The cause of the paddock is 0. -/
theorem created_cause (p : Nat) (d : Dev) : rf (created p d) (.pset p 0) Reg.Pad.PAD_STAT 9 8 = 0 := by
  unfold created
  rw [rf_eq_fld, rg_sf_same, fld_setFld_same _ _ (by decide) (by decide)]; rfl

/-- The frames, the maps and the memories stay. -/
theorem created_keeps (p : Nat) (d : Dev) :
    (created p d).pad.fot = d.pad.fot ∧ (created p d).pad.maps = d.pad.maps ∧ SameMemories d (created p d) := by
  obtain ⟨R, form, -⟩ := padClasses_eq p d
  simp only [SameMemories, created, sf_keeps, modPad, form, and_self]

/-! ## The end of the cycle -/

@[simp] theorem padState_cycleEnd (d : Dev) (p : Nat) : padState (cycleEnd d) p = padState d p := rf_cycleEnd _ _ _ _ _

theorem rg_cycleEnd (d : Dev) (p : Page) (o : Nat) : rg (cycleEnd d) p o = rg d p o := by simp only [cycleEnd_keeps]

theorem pad_cycleEnd (d : Dev) : (cycleEnd d).pad = d.pad := by simp only [cycleEnd_keeps]

theorem sameMemories_cycleEnd (d : Dev) : SameMemories d (cycleEnd d) := by simp only [SameMemories, cycleEnd_keeps, and_self]

theorem upOf_cycleEnd (d : Dev) (u : Nat) : upOf (cycleEnd d) u = upOf d u := by rw [upOf, pad_cycleEnd, upOf]

/-! ## The manager while its command runs -/

/-- The record of a port is no register. -/
theorem rg_modUp (u : Nat) (f : UpS → UpS) (d : Dev) (p : Page) (o : Nat) : rg (modUp u f d) p o = rg d p o := rfl

/-- A register of a page set is none of a manager's page. -/
theorem rg_mgrBusy_pset (port : u < 2) (op : Nat) (o : Nat) : rg (mgrBusy u op st d) (.pset q 0) o = rg d (.pset q 0) o :=
  (rg_modUp _ _ _ _ _).trans (rg_sg_ne (pset_ne_padg port (by decide)))

theorem padState_mgrBusy (port : u < 2) (op : Nat) : padState (mgrBusy u op st d) q = padState d q := by
  unfold padState
  rw [rf_eq_fld, rg_mgrBusy_pset port, rf_eq_fld]

/-- MGR_RESULT and the status to come (R456). -/
theorem mgrBusy_shows (u op st : Nat) (d : Dev) :
    rg (mgrBusy u op st d) (.padg u) Reg.Mgr.MGR_RESULT = BitVec.ofNat 32 (0x80000000 + op % 256 * 65536) ∧
      (upOf (mgrBusy u op st d) u).cmd = some (op, st) := by
  unfold mgrBusy
  exact ⟨by rw [rg_modUp, rg_sg_same], by rw [upOf_modUp]⟩

/-- The frames, the maps and the memories stay. -/
theorem mgrBusy_keeps (u op st : Nat) (d : Dev) :
    (mgrBusy u op st d).pad.fot = d.pad.fot ∧ (mgrBusy u op st d).pad.maps = d.pad.maps ∧ SameMemories d (mgrBusy u op st d) := by
  simp only [SameMemories, mgrBusy, modUp, sg_keeps, and_self]

/-- What the end of a cycle leaves of a manager whose command runs. -/
theorem mgrBusy_ends (u op st : Nat) (d : Dev) :
    (upOf (cycleEnd (mgrBusy u op st d)) u).cmd = some (op, st) ∧ (cycleEnd (mgrBusy u op st d)).pad.fot = d.pad.fot ∧
      (cycleEnd (mgrBusy u op st d)).pad.maps = d.pad.maps ∧ SameMemories d (cycleEnd (mgrBusy u op st d)) := by
  obtain ⟨fot, maps, memories⟩ := mgrBusy_keeps u op st d
  rw [upOf_cycleEnd, pad_cycleEnd]
  exact ⟨(mgrBusy_shows u op st d).2, fot, maps, memories.trans (sameMemories_cycleEnd _)⟩

end

/-- Settles O29: CREATE runs (`onDev_mgrCmd_runs`), and the paddock enters OPEN (`padTo`) from what it was created as (`created`). -/
theorem createOpensAVoidPaddock : Obligations.CreateOpensAVoidPaddock := by
  unfold Obligations.CreateOpensAVoidPaddock
  intro who u s d p granted idle free full port void live small
  have check : padCheck d u.val p [0] = 0 := padCheck_ok port (by rw [void]; exact List.mem_singleton.mpr rfl)
  refine ⟨_, onDev_mgrCmd_runs granted rfl free idle (cmdCreate_opens rfl full check live), on_fuses _ _, on_pending _ _, ?_⟩
  rw [on_dev]
  obtain ⟨cmd, fot, maps, memories⟩ := mgrBusy_ends u.val 1 0 (padTo p 1 (created p d))
  obtain ⟨opensFot, opensMaps, opens⟩ := padTo_keeps p 1 (created p d)
  obtain ⟨createdFot, createdMaps, creates⟩ := created_keeps p d
  obtain ⟨past, dram, nvm⟩ := (creates.trans opens).trans memories
  have two := u.isLt
  simp only [padState_cycleEnd, rb_cycleEnd, rf_cycleEnd, rg_cycleEnd]
  refine ⟨?state, ?event, ?cause, (mgrBusy_shows u.val 1 0 _).1, cmd, fun q other => ?others,
    fot.trans (opensFot.trans createdFot), maps.trans (opensMaps.trans createdMaps), past, dram, nvm⟩
  case state => exact (padState_mgrBusy two 1).trans (padState_padTo_same small)
  case event => exact (congrArg (bitOf · _) (rg_mgrBusy_pset two 1 _)).trans (padTo_event small)
  case cause =>
    rw [rf_eq_fld, rg_mgrBusy_pset two, rg_padTo_stat small, if_pos rfl, fld_setFld_ne _ _ (by decide) (by decide) (.inr (by decide))]
    exact created_cause p d
  case others => exact ((padState_mgrBusy two 1).trans (padState_padTo_ne small other)).trans (padState_created p q d)

section
variable {u p f i n : Nat} {d e : Dev}

/-! ## GRANT (R445) -/

/-- The frames of GRANT are the manager's own, and the pages map nothing yet. -/
theorem grant_admits_iff :
    (List.range n).any (fun k => !ownFrame d u (f + k) || bitOf (pmapGet d p (i + k)) 31) = false ↔
      ∀ k, k < n → fotKind d (f + k) = fkManager ∧ fotTag d (f + k) = u ∧ bitOf (pmapGet d p (i + k)) 31 = false := by
  simp only [List.any_eq_false, List.mem_range, ownFrame, Bool.or_eq_true, Bool.not_eq_true', Bool.and_eq_false_iff, beq_eq_false_iff_ne,
    not_or, not_not, Bool.not_eq_true, ne_eq, and_assoc]

/-- The frames and the maps read as the command left them. -/
theorem mgrBusy_ends_frames (u op st : Nat) (d : Dev) :
    (∀ g, fotGet (cycleEnd (mgrBusy u op st d)) g = fotGet d g) ∧
      ∀ q j, pmapGet (cycleEnd (mgrBusy u op st d)) q j = pmapGet d q j := by
  simp only [fotGet, pmapGet, pad_cycleEnd, mgrBusy, modUp, sg_keeps, implies_true, and_self]

end

/-- Settles O30: GRANT runs either way (`cmdGrant_eq`); where every frame and page is as it must be, it moves them one by one
(`grantFrames_facts`). -/
theorem grantMovesOwnFramesOnly : Obligations.GrantMovesOwnFramesOnly := by
  unfold Obligations.GrantMovesOwnFramesOnly
  intro who u s d p f i n granted idle free full port least most some_ count frames pages
  have check : padCheck d u.val p [1, 2, 3, 4] = 0 := by
    refine padCheck_ok port ?_
    simp only [List.mem_cons, List.not_mem_nil, or_false]
    omega
  have eq := cmdGrant_eq (d := d) (u := u.val) rfl rfl rfl rfl full port (decide_eq_true ⟨some_, count, frames⟩)
    (decide_eq_true ⟨some_, count, pages⟩) check
  by_cases bad : (List.range n).any (fun k => !ownFrame d u.val (f + k) || bitOf (pmapGet d p (i + k)) 31) = true
  · refine ⟨_, onDev_mgrCmd_runs granted rfl free idle (eq.trans (if_pos bad)), on_fuses _ _, on_pending _ _, ?_⟩
    obtain ⟨cmd, fot, maps, past, dram, nvm⟩ := mgrBusy_ends u.val 0x12 5 d
    rw [on_dev]
    refine ⟨past, dram, nvm, fun all => ?_, fun _ => ⟨cmd, fot, maps⟩⟩
    rw [grant_admits_iff.mpr all] at bad
    cases bad
  · have good := Bool.eq_false_iff.mpr bad
    refine ⟨_, onDev_mgrCmd_runs granted rfl free idle (eq.trans (if_neg bad)), on_fuses _ _, on_pending _ _, ?_⟩
    obtain ⟨⟨F, M, form⟩, moved, mapped⟩ := grantFrames_facts p f i n d frames pages
    generalize (List.range n).foldl _ d = e at form moved mapped ⊢
    obtain ⟨cmd, -, -, past, dram, nvm⟩ := mgrBusy_ends u.val 0x12 0 e
    obtain ⟨fot, maps⟩ := mgrBusy_ends_frames u.val 0x12 0 e
    rw [on_dev]
    refine ⟨past.trans (by rw [form]), dram.trans (by rw [form]), nvm.trans (by rw [form]), fun _ => ⟨cmd, ?_, ?_⟩, ?_⟩
    · exact fun g => (fot g).trans (moved g)
    · exact fun q j inside => (maps q j).trans (mapped q j inside)
    · rintro ⟨k, inside, other⟩
      exact absurd (grant_admits_iff.mp good k inside) other

section
variable {p off n u : Nat} {r : MemAns} {d e : Dev}

/-! ## The host ports (R432, R434, R444) -/

theorem doSriov_configures {en : Bool} (up : ¬ d.boot.stage < 8) (enough : ¬ (padsOf d u).length < n) :
    doSriov u n en d =
      ((padsOf d u).filter fun p => vfLive d p &&
          !vfLive (modUp u (fun s => { s with numVfs := n, vfEnable := en && (padsOf d u).length != 0 }) d) p).foldl
        (fun d p => fnReset (2 + p) (padCause p 2 d)) (modUp u (fun s => { s with numVfs := n, vfEnable := en && (padsOf d u).length != 0 }) d) :=
  if_neg (not_or.mpr ⟨up, enough⟩)

/-- A host reads through the aperture of a VF that is there, its page in no isolation. -/
theorem doAperture_reads (live : vfLive d p = true) (free : isoOf d (.pset p 0) = false)
    (read : memRead (.party (.paddock (Fin.ofNat 512 p))) { tier := 1, port := 14 + (portOf d p).getD 0 }
      (rf d (.pset p 0) Reg.Pad.APERTURE 5 0 * 2 ^ 28 + off) n d = (r, e)) (ok : r.ok = true) :
    doAperture p off n none d = { e with resp := BitVec.ofNat 64 (leNat r.bytes), poisoned := r.poison } := by
  unfold doAperture
  rw [if_neg (by rw [live]; decide), if_neg (by rw [free]; decide), read]
  exact if_pos ok

theorem doAperture_writes {v : BitVec 64} (live : vfLive d p = true) (free : isoOf d (.pset p 0) = false)
    (write : memWrite (.party (.paddock (Fin.ofNat 512 p))) { tier := 1, port := 14 + (portOf d p).getD 0 }
      (rf d (.pset p 0) Reg.Pad.APERTURE 5 0 * 2 ^ 28 + off) (leBytes n v.toNat) d = (true, e)) :
    doAperture p off n (some v) d = e := by
  unfold doAperture
  rw [if_neg (by rw [live]; decide), if_neg (by rw [free]; decide)]
  simp only [write, if_true]

end

/-- Settles O47: what turns each of the commands away is its first condition. -/
theorem hostPortCommandsAnswer : Obligations.HostPortCommandsAnswer := by
  unfold Obligations.HostPortCommandsAnswer
  refine ⟨?sriov, ?flr, ?clear, ?pfFlr, ?d3hot, ?hot, ?down, ?perst, ?enable, ?up, ?release, ?unmask, ?reads, ?writes, ?stat⟩
  case sriov => exact fun u numVfs vfEnable s ⟨up, enough⟩ => onDev_eq_of (doSriov_configures up enough)
  case flr => exact fun p s live => onDev_eq_of (if_pos live)
  case clear => exact fun fn s master => onDev_eq_of (if_pos master)
  case pfFlr => exact fun u s => onDev_eq _ s
  case d3hot => exact fun u s => onDev_eq _ s
  case hot => exact fun u s => onDev_eq _ s
  case down => exact fun u s => onDev_eq _ s
  case perst => exact fun u s => onDev_eq _ s
  case enable => exact fun fn msixEn mask s there => onDev_eq_of (if_neg there)
  case up => exact fun u s => onDev_eq _ s
  case release => exact fun u s => onDev_eq _ s
  case unmask => exact fun who fn k s granted => onDev_onWrite_granted granted
  case reads => exact fun p off w r e s live free read ok => onDev_eq_of (doAperture_reads live free read ok)
  case writes => exact fun p off w x e s live free write => onDev_eq_of (doAperture_writes live free write)
  case stat => exact fun who p s granted => onDev_eq_of (onRead_granted granted)

section
variable {who : Party} {p q f k w : Nat} {g : GateDir} {v : Word} {r : MemAns} {d e : Dev}

/-! ## Gates, copy queues and frames (R435, R451–R455) -/

/-- A doorbell of a gate that works, with room for the messages. -/
theorem gateBell_checks (points : fld v 2 0 = w) (works : gateWorks d p = true) (room : (w + 8 - gateCtr d p g.rptr) % 8 ≤ 4)
    (new : (w + 8 - gateCtr d p g.vptr) % 8 = k) :
    gateBell p g v d =
      if g.bit = 0 then gatePend p (gateCheck p g k (sf (.pset p 1) g.wptr 2 0 w d)) else gateCheck p g k (sf (.pset p 1) g.wptr 2 0 w d) := by
  simp only [gateBell, points, works, new, Nat.not_lt.mpr room, Bool.not_true, decide_false, Bool.or_self, Bool.false_eq_true, if_false]

/-- The receiver frees no more slots than hold messages. -/
theorem gateFree_frees (free : isoOf d (.pset p 1) = false)
    (held : (fld v 2 0 + 8 - gateCtr d p g.rptr) % 8 ≤ (gateCtr d p g.vptr + 8 - gateCtr d p g.rptr) % 8) :
    gateFree p g v d =
      if g.bit = 0 then gatePend p (sf (.pset p 1) g.rptr 2 0 (fld v 2 0) d) else sf (.pset p 1) g.rptr 2 0 (fld v 2 0) d := by
  simp only [gateFree, free, Nat.not_lt.mpr held, decide_false, Bool.or_self, Bool.false_eq_true, if_false]

/-- A write of CQ_CFG that enables a queue whose ring is aligned to its size. -/
theorem cqCfg_enables (off : cqOn d q = false) (least : 4 ≤ fld v 3 0) (most : fld v 3 0 ≤ 12)
    (aligned : cqRing d q % (32 * 2 ^ fld v 3 0) = 0) (enable : bitOf v 31 = true) :
    cqCfg q v d =
      sg (cqPage q) (cqBase q + Reg.Cq.CQ_WPTR) 0 (sg (cqPage q) (cqBase q + Reg.Cq.CQ_RPTR) 0
        (sf (cqPage q) (cqBase q + Reg.Cq.CQ_STAT) 31 24 0 (plainWrite (cqPage q) (cqBase q + Reg.Cq.CQ_CFG) v d))) := by
  simp only [cqCfg, off, enable, aligned, Nat.not_lt.mpr least, Nat.not_lt.mpr most, ne_eq, not_true_eq_false, and_false, or_self,
    Bool.false_eq_true, if_false, if_true]

/-- TAKE of a free frame, no GIVE being in progress. -/
theorem fotCmd_takes (free : isoOf d (.padg 2) = false) (index : rf d (.padg 2) Reg.Pool.FOT_INDEX 13 0 = f) (idle : d.pad.giving = none)
    (kind : fotKind d f = fkFree) : fotCmd 1 d = sg (.padg 2) Reg.Pool.FOT_RESULT 0 (fotSet f (fotWord fkField 0 0) d) := by
  simp only [fotCmd, free, index, idle, kind, Option.isSome_none, Bool.false_eq_true, ne_eq, not_true_eq_false, false_and, or_self, if_false,
    if_true, and_self]

/-- GIVE of a frame of the Field, no GIVE being in progress. -/
theorem fotCmd_gives (free : isoOf d (.padg 2) = false) (index : rf d (.padg 2) Reg.Pool.FOT_INDEX 13 0 = f) (idle : d.pad.giving = none)
    (kind : fotKind d f = fkField) :
    fotCmd 2 d = sg (.padg 2) Reg.Pool.FOT_RESULT 0x80000000 (modMach (fun m => { m with giving := some f }) (toScrub 0 [f] d)) := by
  have notTake : ¬ ((2 : Word) = 1 ∧ fkField = fkFree) := by decide
  simp only [fotCmd, free, index, idle, kind, notTake, Option.isSome_none, Bool.false_eq_true, ne_eq, not_true_eq_false, and_false, or_self,
    if_false, if_true, and_self]

/-- The descriptor at CQ_RPTR, read without an error, is sound and moves all its chunks. -/
theorem doCqDesc_completes {host : List Byte} {l : Lane} (lane : l = { tier := 1, port := 6 + Config.freeNat d.free 0x453 % 8 })
    (runs : cqRuns d q = true) (read : memRead (cqRingWho q) l (cqRing d q + 32 * cqRptr d q) 32 (tick d) = (r, e)) (ok : r.ok = true)
    (sound : r.poison = false) (good : cqBad (cqDesc r.bytes) = false) {m : Dev} (move : cqMove q l (cqDesc r.bytes) host 257 0 e = (0, m)) :
    doCqDesc q host d =
      let c := cqDesc r.bytes
      let d := sf (cqPage q) (cqBase q + Reg.Cq.CQ_RPTR) 11 0 ((cqRptr m q + 1) % cqSize m q) m
      let d := sf (cqPage q) (cqBase q + Reg.Cq.CQ_STAT) 23 0 c.cookie (bump (cqPage q) (cqBase q + Reg.Cq.CQ_DONE) 15 0 d)
      let d := if q < 2 then d else modPad (q - 2) (fun s => { s with cqLast := false }) d
      if c.flags.testBit 3 then event (cqPage q) (if q < 2 then Reg.Mgr.EV_COPY_DONE else Reg.Pad.EV_COPY_DONE) d else d := by
  subst lane
  simp only [doCqDesc, runs, read, ok, sound, good, move, Bool.not_true, Bool.false_eq_true, ne_eq, not_true_eq_false, if_false]

end

/-- Settles O48: a pointer or command register is written by a granted write, and a queue or a frame moves on of itself. -/
theorem gateAndCopyCommandsAnswer : Obligations.GateAndCopyCommandsAnswer := by
  unfold Obligations.GateAndCopyCommandsAnswer
  refine ⟨?upBell, ?upChecks, ?downBell, ?downChecks, ?upFree, ?upFrees, ?downFree, ?downFrees, ?cfg, ?enables, ?bell, ?rings, ?desc,
    ?scrub, ?take, ?takes, ?give, ?gives⟩
  case upBell => exact fun who p v s granted => onDev_onWrite_granted granted
  case upChecks =>
    exact fun who p v w k d s granted pair points works room new =>
      onDev_onWrite_eq granted pair ((gateBell_checks points works room new).trans (if_pos rfl))
  case downBell => exact fun who p v s granted => onDev_onWrite_granted granted
  case downChecks =>
    exact fun who p v w k d s granted pair points works room new =>
      onDev_onWrite_eq granted pair ((gateBell_checks points works room new).trans (if_neg (by decide)))
  case upFree => exact fun who p v s granted => onDev_onWrite_granted granted
  case upFrees =>
    exact fun who p v d s granted pair free held => onDev_onWrite_eq granted pair ((gateFree_frees free held).trans (if_pos rfl))
  case downFree => exact fun who p v s granted => onDev_onWrite_granted granted
  case downFrees =>
    exact fun who p v d s granted pair free held => onDev_onWrite_eq granted pair ((gateFree_frees free held).trans (if_neg (by decide)))
  case cfg => exact fun who q v s granted => onDev_onWrite_granted granted
  case enables =>
    exact fun who q v d s granted pair off least most aligned enable =>
      onDev_onWrite_eq granted pair (cqCfg_enables off least most aligned enable)
  case bell => exact fun who q v s granted => onDev_onWrite_granted granted
  case rings => exact fun who q v d s granted pair work => onDev_onWrite_eq granted pair (intake_takes work _)
  case desc =>
    exact fun q host r e f s runs read ok sound good move => onDev_eq_of (doCqDesc_completes rfl runs read ok sound good move)
  case scrub => exact fun f s scrubbing => onDev_eq_of (if_neg (not_not.mpr scrubbing))
  case take => exact fun who s granted => onDev_onWrite_granted granted
  case takes =>
    exact fun who f d s granted pair free index idle kind => onDev_onWrite_eq granted pair (fotCmd_takes free index idle kind)
  case give => exact fun who s granted => onDev_onWrite_granted granted
  case gives =>
    exact fun who f d s granted pair free index idle kind => onDev_onWrite_eq granted pair (fotCmd_gives free index idle kind)

end Sys2Proof.Machine
end

section
/-! The family `13_fold_and_field.md`: The worlds, the cores and tamper (R474–R505). -/
namespace Sys2Proof.Machine

section
variable {n a en kind bytes : Nat} {file : CoreFile} {ret : BitVec 64} {mode : Fin 4} {p : Page} {r : MemAns} {d e : Dev}

/-! ## Switches (R477, R478) -/

/-- The device with the registers that a core brings to a switch. -/
def atSwitch (n : Nat) (file : CoreFile) (d : Dev) : Dev := modCore n (fun c => { c with regs := file }) d

/-- A core that a call brings into the Fold world, at the address of CALL_VEC. -/
def called (file : CoreFile) (vec : BitVec 64) (c : CoreS) : CoreS :=
  { c with fold := true, entry := some (.call (file.pc + 4) file.mode), shadow := (List.range 4).map (regAt file.x)
           regs := { file with pc := vec, mode := 1 } }

/-- A core enters the Fold world. -/
def entersFold (n : Nat) (file : CoreFile) (d : Dev) : Dev :=
  haltNow n (modCore n (called file (rg d (.wld 0) Reg.Wld0.CALL_VEC_HI ++ rg d (.wld 0) Reg.Wld0.CALL_VEC_LO))
    (bump (.wld 0) (Reg.Wld0.SWITCH_COUNT n) 31 16 d))

/-- FOLD.CALL of a core that runs in the Field world outside mode 0. -/
theorem doFoldCall_enters (goes : coreGoes d n = true) (field : (coreOf (atSwitch n file d) n).fold = false) (inMode : file.mode ≠ 0)
    (free : isoOf (atSwitch n file d) (.wld 0) = false) : doFoldCall n file d = entersFold n file (atSwitch n file d) := by
  unfold doFoldCall
  rw [if_neg (by rw [goes]; decide)]
  unfold atSwitch at field free
  exact if_neg (by rw [field, free, beq_false_of_ne inMode]; decide)

/-- FOLD.RET of a core that a call brought into the Fold world. -/
theorem doFoldRet_returns (goes : coreGoes d n = true) (fold : (coreOf (atSwitch n file d) n).fold = true)
    (entry : (coreOf (atSwitch n file d) n).entry = some (.call ret mode)) (inMode : file.mode ≠ 0) :
    doFoldRet n file d =
      toField n (scrubbed file (coreOf (atSwitch n file d) n).shadow ret mode) (atSwitch n file d) := by
  unfold doFoldRet atSwitch at *
  rw [if_neg (by rw [goes]; decide)]
  simp only [fold, entry, beq_false_of_ne inMode, Bool.not_true, Bool.or_self, Bool.false_eq_true, if_false]

/-! ## Interrupts (R483) -/

theorem doInterrupt_fold (at_ : pageOf a = some p) (up : irqOn d p = true) (owner : ownedByFold d p = true)
    (core : coreOfMask (rf d (.wld 0) Reg.Wld0.FOLD_INT_MASK 3 0)
      (fun n => (coreOf d n).fold && !(coreOf d n).stopped && !(coreOf d n).halted && en.testBit n) = some n) :
    doInterrupt a en file d = coreTrap n (causeExt false) d := by
  simp only [doInterrupt, at_, up, owner, core, Bool.not_true, Bool.false_eq_true, if_false, if_true]

theorem doInterrupt_field (at_ : pageOf a = some p) (up : irqOn d p = true) (notFold : ownedByFold d p = false)
    (owner : ownedByField d p = true)
    (core : coreOfMask (rf d (.wld 1) Reg.Wld1.FIELD_INT_MASK 3 0) (fun n => !(coreOf d n).fold && coreGoes d n && en.testBit n) = some n) :
    doInterrupt a en file d = coreTrap n (causeExt (file.mode == 3)) d := by
  simp only [doInterrupt, at_, up, notFold, owner, core, Bool.not_true, Bool.false_eq_true, if_false, if_true]

/-! ## Memory accesses of the cores (R441, R475) -/

/-- A core's access begins with no data to answer. -/
def noData (d : Dev) : Dev := { d with data := [], poisoned := false }

/-- The party of a core's accesses is its world. -/
def coreParty (d : Dev) (n : Nat) : Who := .party (if (coreOf d n).fold then .fold else .field)

/-- A fetch or a load that the core's world is allowed, of memory without an error. -/
theorem doCoreMem_reads (goes : coreGoes d n = true) (notStore : kind ≠ 2)
    (above : (!(coreOf d n).fold && belowLine (noData d) a bytes) = false) (inRange : rangeOk (noData d) (coreParty d n) a bytes = true)
    (read : memRead (coreParty d n) { tier := 2, port := 0 } a bytes (noData d) = (r, e)) (sound : r.poison = false) :
    doCoreMem n kind a bytes none d = { e with data := r.bytes } := by
  unfold doCoreMem coreParty noData at *
  rw [if_neg (by rw [goes]; decide)]
  simp only [above, inRange, Bool.not_true, Bool.or_self, Bool.false_eq_true, if_false]
  split
  · next none_ => cases none_
  · exact absurd rfl notStore
  · simp only [read, sound, Bool.false_eq_true, if_false]

/-- A store that the core's world is allowed. -/
theorem doCoreMem_stores {bs : List Byte} (goes : coreGoes d n = true)
    (above : (!(coreOf d n).fold && belowLine (noData d) a bs.length) = false)
    (inRange : rangeOk (noData d) (coreParty d n) a bs.length = true) :
    doCoreMem n 2 a bytes (some bs) d = (memWrite (coreParty d n) { tier := 2, port := 0 } a bs (noData d)).2 := by
  unfold doCoreMem coreParty noData at *
  rw [if_neg (by rw [goes]; decide)]
  simp only [above, inRange, Bool.not_true, Bool.or_self, Bool.false_eq_true, if_false]

end

/-- Settles O49: what turns each of the commands away is its first condition. -/
theorem worldCommandsAnswer : Obligations.WorldCommandsAnswer := by
  unfold Obligations.WorldCommandsAnswer
  refine ⟨?call, ?ret, ?foldInt, ?fieldInt, ?long, ?reads, ?stores, ?raised, ?restart, ?halt, ?jtag⟩
  case call => exact fun n file s goes field inMode free => onDev_eq_of (doFoldCall_enters goes field inMode free)
  case ret => exact fun n file ret mode s goes ⟨fold, entry⟩ inMode => onDev_eq_of (doFoldRet_returns goes fold entry inMode)
  case foldInt => exact fun a en file p n s at_ up owner core => onDev_eq_of (doInterrupt_fold at_ up owner core)
  case fieldInt =>
    exact fun a en file p n s at_ up notFold owner core => onDev_eq_of (doInterrupt_field at_ up notFold owner core)
  case long =>
    intro n s budget fold fresh mask some_
    exact onDev_eq_of (if_neg (by
      simp only [budget, fold, fresh, mask, some_, Bool.true_eq_false, Bool.false_eq_true, ne_eq, not_true_eq_false, or_self,
        not_false_eq_true]))
  case reads =>
    intro n kind a bytes v r e s goes notStore above inRange read sound
    refine onDev_eq_of ?_
    rw [if_neg notStore]
    exact doCoreMem_reads goes notStore above inRange read sound
  case stores => exact fun n a bytes bs s goes above inRange => onDev_eq_of (doCoreMem_stores goes above inRange)
  case raised => exact fun past lo hi s raising => onDev_eq_of (by simp only [doRaiseDone, raising])
  case restart => exact fun who s granted => onDev_onWrite_granted granted
  case halt =>
    exact fun n s runs debug => onDev_eq_of (if_neg (by rw [runs, debug]; decide))
  case jtag => exact fun k s => onDev_eq _ s

/-- Settles O50: the stage of the wipe, or an input that is not enabled, is what turns a command away. -/
theorem tamperCommandsAnswer : Obligations.TamperCommandsAnswer := by
  unfold Obligations.TamperCommandsAnswer
  refine ⟨?tamper, ?pasture, ?wiped, ?clear⟩
  case tamper => exact fun n s enabled => onDev_eq_of (if_neg (by rw [enabled]; decide))
  case pasture => exact fun s stage => onDev_eq_of (if_neg (not_not.mpr stage))
  case wiped => exact fun s stage => onDev_eq_of (if_neg (not_not.mpr stage))
  case clear => exact fun who v s granted => onDev_onWrite_granted granted

section
variable {n j : Nat} {file out : CoreFile} {r : CoreFile} {d : Dev}

/-! ## The cores at a switch -/

/-- A counter that goes up by one. -/
theorem rf_bump_same (p : Page) (o hi lo : Nat) (d : Dev) (order : lo ≤ hi) (small : hi < 32) :
    rf (bump p o hi lo d) p o hi lo = (rf d p o hi lo + 1) % 2 ^ (hi + 1 - lo) := by
  unfold bump addTo
  rw [rf_eq_fld, rg_sf_same, fld_setFld_same _ _ small order]

/-- The record of a core is no register. -/
theorem rg_modCore (n : Nat) (f : CoreS → CoreS) (d : Dev) (p : Page) (o : Nat) : rg (modCore n f d) p o = rg d p o := rfl

theorem coreOf_atSwitch_same (n : Nat) (file : CoreFile) (d : Dev) : coreOf (atSwitch n file d) n = { coreOf d n with regs := file } := by
  unfold atSwitch
  rw [coreOf_modCore, if_pos rfl]

theorem coreOf_atSwitch_ne (other : j ≠ n) : coreOf (atSwitch n file d) j = coreOf d j := by
  unfold atSwitch
  rw [coreOf_modCore, if_neg other]

/-- A core that changes and then halts where a halt waited for its world (R495). -/
theorem coreOf_haltNow_modCore_same (n : Nat) (f : CoreS → CoreS) (d : Dev) :
    ∃ a b, coreOf (haltNow n (modCore n f d)) n = { f (coreOf d n) with halted := a, haltAsked := b } := by
  obtain ⟨a, b, core, -⟩ := coreOf_haltNow n n (modCore n f d)
  exact ⟨a, b, by rw [core, coreOf_modCore, if_pos rfl]⟩

theorem coreOf_haltNow_modCore_ne (f : CoreS → CoreS) (other : j ≠ n) : coreOf (haltNow n (modCore n f d)) j = coreOf d j := by
  obtain ⟨-, -, -, stays⟩ := coreOf_haltNow n j (modCore n f d)
  rw [stays other, coreOf_modCore, if_neg other]

/-- The record of a core is no register, and a halt changes the cores alone. -/
theorem rg_haltNow (n : Nat) (d : Dev) (p : Page) (o : Nat) : rg (haltNow n d) p o = rg d p o := by
  rw [haltNow_wld]
  rfl

theorem modCore_form (n : Nat) (f : CoreS → CoreS) (d : Dev) : ∃ W, modCore n f d = { d with wld := W } := ⟨_, rfl⟩

/-- A core that changes and halts changes no more than the cores. -/
theorem haltNow_modCore_form (n : Nat) (f : CoreS → CoreS) (d : Dev) : ∃ W, haltNow n (modCore n f d) = { d with wld := W } := by
  obtain ⟨W, form⟩ := modCore_form n f d
  rw [haltNow_wld, form]
  exact ⟨_, rfl⟩

/-- A switch into the Fold world changes the cores and the register that counts it. -/
theorem entersFold_form (n : Nat) (file : CoreFile) (d : Dev) :
    ∃ W R, entersFold n file (atSwitch n file d) = { d with wld := W, regs := R } := by
  obtain ⟨V, before⟩ : ∃ W, atSwitch n file d = { d with wld := W } := modCore_form n _ d
  obtain ⟨R, counts⟩ : ∃ R, bump (.wld 0) (Reg.Wld0.SWITCH_COUNT n) 31 16 (atSwitch n file d) = { atSwitch n file d with regs := R } :=
    ⟨_, rfl⟩
  obtain ⟨W, form⟩ := haltNow_modCore_form n (called file
    (rg (atSwitch n file d) (.wld 0) Reg.Wld0.CALL_VEC_HI ++ rg (atSwitch n file d) (.wld 0) Reg.Wld0.CALL_VEC_LO))
    (bump (.wld 0) (Reg.Wld0.SWITCH_COUNT n) 31 16 (atSwitch n file d))
  exact ⟨W, R, form.trans (by rw [counts, before])⟩

/-- SWITCH_COUNT counts the switch. -/
theorem entersFold_counts (n : Nat) (file : CoreFile) (d : Dev) :
    rf (entersFold n file (atSwitch n file d)) (.wld 0) (Reg.Wld0.SWITCH_COUNT n) 31 16 =
      (rf d (.wld 0) (Reg.Wld0.SWITCH_COUNT n) 31 16 + 1) % 65536 := by
  have count := rf_bump_same (.wld 0) (Reg.Wld0.SWITCH_COUNT n) 31 16 (atSwitch n file d) (by decide) (by decide)
  simp only [rf_eq_fld, entersFold, rg_haltNow, rg_modCore, atSwitch] at count ⊢
  exact count

/-- A return changes the cores alone. -/
theorem toField_form (n : Nat) (file r : CoreFile) (d : Dev) : ∃ W, toField n r (atSwitch n file d) = { d with wld := W } := by
  obtain ⟨V, before⟩ : ∃ W, atSwitch n file d = { d with wld := W } := modCore_form n _ d
  obtain ⟨W, form⟩ : ∃ W, toField n r (atSwitch n file d) = { atSwitch n file d with wld := W } := haltNow_modCore_form n _ _
  exact ⟨W, form.trans (by rw [before])⟩

end

section
variable {n : Fin 4} {file : CoreFile} {ret : BitVec 64} {mode : Fin 4} {s : State}

/-- FOLD_CALL of a core that runs in the Field world outside mode 0 (R477). -/
theorem exec_foldCall (quiet : s.dev.firing = []) (goes : coreGoes s.dev n.val = true) (field : (coreOf s.dev n.val).fold = false)
    (inMode : file.mode ≠ 0) (free : isoOf s.dev (.wld 0) = false) :
    ∃ t, exec (.foldCall n file) s = .next t ∧
      (∃ a b, coreOf t.dev n.val =
        { called file (rg s.dev (.wld 0) Reg.Wld0.CALL_VEC_HI ++ rg s.dev (.wld 0) Reg.Wld0.CALL_VEC_LO) (coreOf s.dev n.val) with
          halted := a, haltAsked := b }) ∧
      (∀ j, j ≠ n.val → coreOf t.dev j = coreOf s.dev j) ∧
      rf t.dev (.wld 0) (Reg.Wld0.SWITCH_COUNT n.val) 31 16 = (rf s.dev (.wld 0) (Reg.Wld0.SWITCH_COUNT n.val) 31 16 + 1) % 65536 ∧
      ∃ W R, t.dev = { s.dev with wld := W, regs := R } := by
  have core := coreOf_atSwitch_same n.val file s.dev
  refine ⟨_, onDev_eq_of (g := fun d => entersFold n.val file (atSwitch n.val file d))
    (doFoldCall_enters goes (by rw [core]; exact field) inMode free), ?_⟩
  obtain ⟨W, R, form⟩ := entersFold_form n.val file s.dev
  rw [on_dev, cycleEnd_quiet (by rw [form]; exact quiet)]
  refine ⟨?_, fun j other => ?_, entersFold_counts n.val file s.dev, W, R, form⟩
  · obtain ⟨a, b, enters⟩ := coreOf_haltNow_modCore_same n.val
      (called file (rg s.dev (.wld 0) Reg.Wld0.CALL_VEC_HI ++ rg s.dev (.wld 0) Reg.Wld0.CALL_VEC_LO))
      (bump (.wld 0) (Reg.Wld0.SWITCH_COUNT n.val) 31 16 (atSwitch n.val file s.dev))
    refine ⟨a, b, enters.trans ?_⟩
    rw [coreOf_bump, core]
    rfl
  · exact (coreOf_haltNow_modCore_ne _ other).trans ((coreOf_bump _ _ _ _ _ j).trans (coreOf_atSwitch_ne other))

/-- FOLD_RET of a core that a call brought into the Fold world (R478). -/
theorem exec_foldRet (quiet : s.dev.firing = []) (goes : coreGoes s.dev n.val = true) (fold : (coreOf s.dev n.val).fold = true)
    (entry : (coreOf s.dev n.val).entry = some (.call ret mode)) (inMode : file.mode ≠ 0) :
    ∃ u, exec (.foldRet n file) s = .next u ∧ (coreOf u.dev n.val).fold = false ∧
      (coreOf u.dev n.val).regs = scrubbed file (coreOf s.dev n.val).shadow ret mode ∧
      (∀ j, j ≠ n.val → coreOf u.dev j = coreOf s.dev j) ∧ { u.dev with wld := s.dev.wld } = s.dev := by
  have core := coreOf_atSwitch_same n.val file s.dev
  refine ⟨_, onDev_eq_of (g := fun d => toField n.val (scrubbed file (coreOf (atSwitch n.val file d) n.val).shadow ret mode) (atSwitch n.val file d))
    (doFoldRet_returns goes (by rw [core]; exact fold) (by rw [core]; exact entry) inMode), ?_⟩
  obtain ⟨W, form⟩ := toField_form n.val file (scrubbed file (coreOf (atSwitch n.val file s.dev) n.val).shadow ret mode) s.dev
  obtain ⟨a, b, returns⟩ := coreOf_haltNow_modCore_same n.val (fun c => { c with
    fold := false, entry := none, shadow := [], regs := scrubbed file (coreOf (atSwitch n.val file s.dev) n.val).shadow ret mode, long := false })
    (atSwitch n.val file s.dev)
  rw [on_dev, cycleEnd_quiet (by rw [form]; exact quiet)]
  refine ⟨congrArg CoreS.fold returns, (congrArg CoreS.regs returns).trans (by rw [core]), fun j other => ?_, by rw [form]⟩
  exact (coreOf_haltNow_modCore_ne _ other).trans (coreOf_atSwitch_ne other)

end

/-- Settles O19: the call (`exec_foldCall`) leaves the core what its return (`exec_foldRet`) finds. -/
theorem foldCallReturnsWithScrubbedRegisters : Obligations.FoldCallReturnsWithScrubbedRegisters := by
  unfold Obligations.FoldCallReturnsWithScrubbedRegisters
  intro n file s quiet goes field inMode free
  obtain ⟨t, calls, ⟨a, b, core⟩, others, count, W, R, form⟩ := exec_foldCall quiet goes field inMode free
  refine ⟨t, calls, ?_, count, others, by rw [form], fun out outMode again => ?_⟩
  · rw [core]
    exact ⟨rfl, rfl, rfl, rfl⟩
  · obtain ⟨u, returns, world, regs, stay, keeps⟩ := exec_foldRet (s := t) (file := out) (ret := file.pc + 4) (mode := file.mode)
      (by rw [form]; exact quiet) again (by rw [core]; rfl) (by rw [core]; rfl) outMode
    refine ⟨u, returns, ?_, fun j other => (stay j other).trans (others j other), keeps⟩
    have left : (coreOf u.dev n.val).regs = scrubbed out ((List.range 4).map (regAt file.x)) (file.pc + 4) file.mode :=
      regs.trans (by rw [core]; rfl)
    dsimp only
    rw [left]
    refine ⟨world, rfl, rfl, fun i four => ?_, fun i least most => ?_, fun i least most other => ?_, rfl, rfl⟩
    · rw [scrubbed_x _ _ _ _ _ (by omega), if_pos four, regAt_map _ _ _ four]
    · rw [scrubbed_x _ _ _ _ _ (by omega), if_neg (by omega), if_pos ⟨least, most⟩]
    · rw [scrubbed_x _ _ _ _ _ most, if_neg (by omega), if_neg other]

section
variable {kind : Nat} {d : Dev}

/-! ## The CLAIM registers (R485) -/

theorem regRead_foldClaim (who : Party) (d : Dev) : regRead who (.wld 0) Reg.Wld0.FOLD_CLAIM d = (claim d 0, d) := rfl

theorem regRead_fieldClaim (who : Party) (d : Dev) : regRead who (.wld 1) Reg.Wld1.FIELD_CLAIM d = (claim d 1, d) := rfl

theorem asserted_cycleEnd (d : Dev) (kind : Nat) : asserted (cycleEnd d) kind = asserted d kind := by
  obtain ⟨S, T, form, -⟩ := cycleEnd_form d
  rw [form]
  rfl

/-- What CLAIM names: the lowest page whose interrupt is asserted, or 0 where none is. -/
theorem claim_names (d : Dev) (kind : Nat) :
    (∃ p : Page, (pageOf (p.base + Reg.EVENT) = some p ∧ irqOn d p = true ∧ rf d p Reg.OWNER 17 16 = kind) ∧
        (claim d kind).toNat = p.base ∧
        ∀ r : Page, pageOf (r.base + Reg.EVENT) = some r ∧ irqOn d r = true ∧ rf d r Reg.OWNER 17 16 = kind → p.base ≤ r.base) ∨
      (claim d kind = 0 ∧ ∀ r : Page, ¬ (pageOf (r.base + Reg.EVENT) = some r ∧ irqOn d r = true ∧ rf d r Reg.OWNER 17 16 = kind)) := by
  by_cases none_ : asserted d kind = []
  · refine .inr ⟨by rw [claim, none_]; rfl, fun r up => ?_⟩
    have listed := (mem_asserted d kind r.base).mpr ⟨r, up, rfl⟩
    rw [none_] at listed
    cases listed
  · obtain ⟨least, below⟩ := leastOf_mem none_
    obtain ⟨p, up, base⟩ := (mem_asserted d kind _).mp least
    have small := pageOf_lt up.1
    refine .inl ⟨p, up, ?_, fun r other => base ▸ below _ ((mem_asserted d kind _).mpr ⟨r, other, rfl⟩)⟩
    rw [claim, base, BitVec.toNat_ofNat, Nat.mod_eq_of_lt (by omega)]

end

/-- Settles O21: the register reads `claim`, which names the lowest asserted page (`claim_names`). -/
theorem claimNamesTheLowestAssertedPage : Obligations.ClaimNamesTheLowestAssertedPage := by
  unfold Obligations.ClaimNamesTheLowestAssertedPage
  intro who kind addr q s
  dsimp only
  intro land aim granted
  have reads : regRead who (.wld kind.val) (if kind.val = 0 then Reg.Wld0.FOLD_CLAIM else Reg.Wld1.FIELD_CLAIM)
      (gpIntervene (.wld kind.val) s.dev) = (claim (gpIntervene (.wld kind.val) s.dev) kind.val, gpIntervene (.wld kind.val) s.dev) := by
    by_cases fold : kind.val = 0
    · rw [if_pos fold, fold]
      exact regRead_foldClaim who _
    · rw [if_neg fold, show kind.val = 1 by omega]
      exact regRead_fieldClaim who _
  refine ⟨_, registerRead_granted land aim granted, on_fuses _ _, on_pending _ _, ?_⟩
  rw [on_dev, reads, cycleEnd_resp]
  have same : claim (gpIntervene (.wld kind.val) s.dev) kind.val = claim (cycleEnd (gpIntervene (.wld kind.val) s.dev)) kind.val := by
    rw [claim, claim, asserted_cycleEnd]
  rw [same]
  refine ⟨rfl, ?_⟩
  rcases claim_names (cycleEnd (gpIntervene (.wld kind.val) s.dev)) kind.val with ⟨p, up, names, lowest⟩ | ⟨zero, none_⟩
  · refine .inl ⟨p, up, ?_, lowest⟩
    rw [← names]
    exact BitVec.toNat_setWidth_of_le (by decide)
  · exact .inr ⟨by rw [zero]; rfl, none_⟩

section
variable {w : Who} {a n : Nat} {bs : List Byte} {d : Dev}

/-! ## A core's store (R475) -/

theorem coreParty_not_paddock (d : Dev) (n : Nat) (p : Fin 512) : coreParty d n ≠ .party (.paddock p) := by
  unfold coreParty
  split <;> exact nofun

/-- A write to DRAM that the check admits, of anyone whose memory no paddock maps. -/
theorem memWrite_stores (notPaddock : ∀ p, w ≠ .party (.paddock p)) (l : Lane) (inRange : rangeOk d w a bs.length = true)
    (below : a + bs.length ≤ pastBase) :
    ∃ m e, (memWrite w l a bs d).2 = { d with dram := m, drc := { d.drc with err := e } } ∧
      ∀ c, dramByte (memWrite w l a bs d).2 c = if a ≤ c ∧ c < a + bs.length then bs.getD (c - a) 0 else dramByte d c := by
  rw [memWrite, if_pos inRange]
  exact memWriteRuns_stores w notPaddock l _ a bs d (.inl (by omega)) (.inr below) (rangeOk_locs d w notPaddock a _ below inRange)

/-- The checks of an access do not see the data of the one before. -/
theorem belowLine_noData (d : Dev) (a n : Nat) : belowLine (noData d) a n = belowLine d a n := rfl

theorem rangeOk_noData (d : Dev) (w : Who) (a n : Nat) : rangeOk (noData d) w a n = rangeOk d w a n := rfl

end

/-- Settles O25: the store is one write (`doCoreMem_stores`), which leaves DRAM and its error marks (`memWrite_stores`). -/
theorem coreStoreWritesExactlyItsBytes : Obligations.CoreStoreWritesExactlyItsBytes := by
  unfold Obligations.CoreStoreWritesExactlyItsBytes
  intro n a bytes bs s quiet goes above inRange below
  refine ⟨_, onDev_eq_of (g := fun d => (memWrite (coreParty d n.val) { tier := 2, port := 0 } a.toNat bs (noData d)).2)
    (doCoreMem_stores goes (by rw [belowLine_noData]; exact above) (by rw [rangeOk_noData]; exact inRange)),
    on_fuses _ _, on_pending _ _, ?_⟩
  obtain ⟨m, e, form, bytes⟩ := memWrite_stores (d := noData s.dev) (coreParty_not_paddock s.dev n.val) { tier := 2, port := 0 }
    (by rw [rangeOk_noData]; exact inRange) below
  rw [on_dev, cycleEnd_quiet (by rw [form]; exact quiet)]
  refine ⟨bytes, ?_, ?_⟩ <;> rw [form] <;> rfl

section
variable {who : Party} {v : Word} {i j k b c : Nat} {d e : Dev}

/-! ## The banks below the fold line (R489) -/

/-- Field `j` of a BANK_MODE write asks a bank to go off or to retain that lies below the fold line. -/
def AsksBelow (v : Word) (i : Nat) (d : Dev) (j : Nat) : Prop :=
  2 ≤ fld v (2 * j + 1) (2 * j) ∧ ¬ (fld v (2 * j + 1) (2 * j) = 2 ∧ bankMode d (16 * i + j) = 2) ∧ (16 * i + j) * bankBytes < pastFold d

/-- What the device holds of a bank. -/
def SameBank (d e : Dev) (b : Nat) : Prop :=
  bankMode e b = bankMode d b ∧ bankState e b = bankState d b ∧
    tabGet (fun _ => none) e.pst.latched b = tabGet (fun _ => none) d.pst.latched b

theorem SameBank.trans {f : Dev} (h : SameBank d e b) (h' : SameBank e f b) : SameBank d f b := by
  obtain ⟨mode, state, latched⟩ := h
  obtain ⟨mode', state', latched'⟩ := h'
  exact ⟨mode'.trans mode, state'.trans state, latched'.trans latched⟩

theorem sameBank_cycleEnd (d : Dev) (b : Nat) : SameBank d (cycleEnd d) b :=
  ⟨rf_cycleEnd _ _ _ _ _, rf_cycleEnd _ _ _ _ _, by rw [show (cycleEnd d).pst = d.pst by simp only [cycleEnd_keeps]]⟩

/-- A request for bank `b` that is refused, shown and counted. -/
def denied (b : Nat) (d : Dev) : Dev :=
  event (.wld 0) Reg.Wld0.EV_PASTURE_OFF_REFUSED (bump (.wld 0) Reg.Wld0.DENY_COUNT 15 0 (pwrStat b 1 d))

/-- Of the registers that are neither PWR_STAT, DENY_COUNT nor EVENT, a refusal changes none. -/
theorem rg_denied {p : Page} {o : Nat} (pst : p.base + o ≠ (Page.pst 1).base + Reg.Pst1.PWR_STAT)
    (count : p.base + o ≠ (Page.wld 0).base + Reg.Wld0.DENY_COUNT) (ev : p.base + o ≠ (Page.wld 0).base + Reg.EVENT)
    (pba : ¬ pbaAt (p.base + o)) : rg (denied b d) p o = rg d p o := by
  unfold denied bump addTo sf pwrStat
  rw [rg_event ev pba, rg_sg_ne count, rg_sg_ne pst]

theorem pst_denied (b : Nat) (d : Dev) : (denied b d).pst = d.pst := by
  unfold denied
  rw [pst_event]
  simp only [bump_keeps, pwrStat, sg_keeps]

/-- No bank changes. -/
theorem sameBank_denied (b : Nat) (small : c < 64) : SameBank d (denied b d) c := by
  have stays (o : Nat) (least : 0x40 ≤ o) (most : o < 0x60) : rg (denied b d) (.pst 1) o = rg d (.pst 1) o := by
    refine rg_denied ?_ ?_ ?_ (not_pba (by omega) (by unfold Reg.PBA; omega)) <;>
      simp only [Page.base, Reg.Pst1.PWR_STAT, Reg.Wld0.DENY_COUNT, Reg.EVENT] <;> omega
  refine ⟨?_, ?_, by rw [pst_denied]⟩
  · unfold bankMode
    rw [rf_eq_fld, stays _ (by simp only [Reg.Pst1.BANK_MODE]; omega) (by simp only [Reg.Pst1.BANK_MODE]; omega), rf_eq_fld]
  · unfold bankState
    rw [rf_eq_fld, stays _ (by simp only [Reg.Pst1.BANK_STATE]; omega) (by simp only [Reg.Pst1.BANK_STATE]; omega), rf_eq_fld]

theorem pastFold_denied (b : Nat) (d : Dev) : pastFold (denied b d) = pastFold d := by
  unfold pastFold
  rw [rf_eq_fld, rg_denied (by decide) (by decide) (by decide) (not_pba (by decide) (by decide)), rf_eq_fld]

theorem denied_event (b : Nat) (d : Dev) : rb (denied b d) (.wld 0) Reg.EVENT Reg.Wld0.EV_PASTURE_OFF_REFUSED = true := by
  unfold denied
  rw [rb_eq_bitOf, rg_event_same]
  exact (sqEvent_bits _ (by decide)).1

theorem denied_counts (b : Nat) (d : Dev) :
    rf (denied b d) (.wld 0) Reg.Wld0.DENY_COUNT 15 0 = (rf d (.wld 0) Reg.Wld0.DENY_COUNT 15 0 + 1) % 65536 := by
  have count := rf_bump_same (.wld 0) Reg.Wld0.DENY_COUNT 15 0 (pwrStat b 1 d) (by decide) (by decide)
  unfold denied
  rw [rf_eq_fld, rg_event (by decide) (not_pba (by decide) (by decide)), ← rf_eq_fld, count, rf_eq_fld, pwrStat, rg_sg_ne (by decide)]
  rfl

/-- What the fields of a Field party's BANK_MODE write below field `k` have done: the banks that were asked too much, and those of
the fields to come, are as before, and the refusals are shown and counted. -/
structure FieldsTaken (v : Word) (i : Nat) (d : Dev) (k : Nat) (e : Dev) : Prop where
  line : pastFold e = pastFold d
  banks : ∀ j, j < 16 → k ≤ j ∨ AsksBelow v i d j → SameBank d e (16 * i + j)
  shown : ∀ j, j < k → AsksBelow v i d j → rb e (.wld 0) Reg.EVENT Reg.Wld0.EV_PASTURE_OFF_REFUSED = true
  counted : ∃ l : List Nat, l.Nodup ∧ (∀ j, j ∈ l ↔ j < k ∧ AsksBelow v i d j) ∧
    rf e (.wld 0) Reg.Wld0.DENY_COUNT 15 0 = (rf d (.wld 0) Reg.Wld0.DENY_COUNT 15 0 + l.length) % 65536

theorem FieldsTaken.zero (v : Word) (i : Nat) (d : Dev) : FieldsTaken v i d 0 d where
  line := rfl
  banks _ _ _ := ⟨rfl, rfl, rfl⟩
  shown _ none_ := absurd none_ (Nat.not_lt_zero _)
  counted := by
    refine ⟨[], List.nodup_nil, fun j => ⟨nofun, fun h => absurd h.1 (Nat.not_lt_zero _)⟩, ?_⟩
    have small : rf d (.wld 0) Reg.Wld0.DENY_COUNT 15 0 < 2 ^ 16 := Nat.mod_lt _ (by decide)
    exact (Nat.mod_eq_of_lt small).symm

/-- The next field: the bank it asks too much of is refused, and every other one may change its own bank alone. -/
theorem FieldsTaken.succ (h : FieldsTaken v i d k e) (field : who ≠ .fold) (page : i < 4) (small : k < 16) :
    FieldsTaken v i d (k + 1) (bankField who v i k e) := by
  obtain ⟨line, banks, shown, l, nodup, mem, count⟩ := h
  obtain ⟨mode, -, -⟩ := banks k small (.inl (Nat.le_refl k))
  have asks_iff : AsksBelow v i e k ↔ AsksBelow v i d k := by unfold AsksBelow; rw [line, mode]
  by_cases asks : AsksBelow v i d k
  · rw [show bankField who v i k e = denied (16 * i + k) e from bankField_denied field e (asks_iff.mpr asks)]
    refine ⟨(pastFold_denied _ e).trans line, fun j inside later => ?_, fun _ _ _ => denied_event _ e, k :: l, ?_, fun j => ?_, ?_⟩
    · exact (banks j inside (later.imp_left (by omega))).trans (sameBank_denied _ (by omega))
    · exact List.nodup_cons.mpr ⟨fun old => absurd ((mem k).mp old).1 (Nat.lt_irrefl k), nodup⟩
    · rw [List.mem_cons, mem j]
      constructor
      · rintro (rfl | ⟨before, asked⟩)
        · exact ⟨Nat.lt_succ_self _, asks⟩
        · exact ⟨by omega, asked⟩
      · rintro ⟨before, asked⟩
        by_cases this : j = k
        · exact .inl this
        · exact .inr ⟨by omega, asked⟩
    · rw [denied_counts, count, List.length_cons]
      omega
  · obtain ⟨regs, others⟩ := OneBank.other (who := who) (show 16 * i + k < 64 by omega) e (fun h => asks (asks_iff.mp h))
    refine ⟨?_, fun j inside later => ?_, fun j before asked => ?_, l, nodup, fun j => ?_, ?_⟩
    · rw [← line]
      unfold pastFold
      rw [rf_eq_fld, regs _ (.inl rfl), rf_eq_fld]
    · have other : j ≠ k := by
        rintro rfl
        exact later.elim (by omega) asks
      exact (banks j inside (later.imp_left (by omega))).trans (others _ (by omega) (by omega))
    · have earlier : j ≠ k := by
        rintro rfl
        exact asks asked
      rw [rb_eq_bitOf, regs _ (.inr (.inr rfl))]
      exact shown j (by omega) asked
    · rw [mem j]
      refine ⟨fun ⟨before, asked⟩ => ⟨by omega, asked⟩, fun ⟨before, asked⟩ => ⟨?_, asked⟩⟩
      have earlier : j ≠ k := by
        rintro rfl
        exact asks asked
      omega
    · rw [rf_eq_fld, regs _ (.inr (.inl rfl))]
      exact count

/-- All fields of the write. -/
theorem FieldsTaken.fields (field : who ≠ .fold) (page : i < 4) : ∀ k, k ≤ 16 → FieldsTaken v i d k (forN (bankField who v i) k d)
  | 0, _ => .zero v i d
  | k + 1, most => by
    have step : forN (bankField who v i) (k + 1) d = bankField who v i k (forN (bankField who v i) k d) := by
      unfold forN
      rw [List.range_succ, List.foldl_append, List.foldl_cons, List.foldl_nil]
    rw [step]
    exact (fields field page k (by omega)).succ field page most

end

/-- Settles O27: the write takes its sixteen fields one by one (`FieldsTaken.fields`). -/
theorem fieldCannotTurnOffBanksBelowTheFoldLine : Obligations.FieldCannotTurnOffBanksBelowTheFoldLine := by
  unfold Obligations.FieldCannotTurnOffBanksBelowTheFoldLine
  intro who i v s
  dsimp only
  intro granted field free
  obtain ⟨line, banks, shown, counted⟩ :=
    FieldsTaken.fields (v := v) (d := gpIntervene (.pst 1) s.dev) field i.isLt 16 (Nat.le_refl 16)
  refine ⟨_, onDev_onWrite_eq granted rfl (if_neg (by rw [free]; decide)), on_fuses _ _, on_pending _ _, ?_⟩
  rw [on_dev, rf_cycleEnd, rb_cycleEnd]
  refine ⟨fun j inside asks => ?_, counted⟩
  obtain ⟨mode, state, latched⟩ := (banks j inside (.inr asks)).trans (sameBank_cycleEnd _ _)
  exact ⟨mode, state, latched, shown j inside asks⟩

end Sys2Proof.Machine
end

section
/-! The family `14_two_dies_and_sheepdog.md`: The Tether, the Sheepdog, CAN and Cairn (R510–R542). -/
namespace Sys2Proof.Machine

/-- Settles O51: what turns each of the commands away is its first condition. -/
theorem tetherCommandsAnswer : Obligations.TetherCommandsAnswer := by
  unfold Obligations.TetherCommandsAnswer
  refine ⟨?frame, ?retrain, ?retry, ?send, ?answer, ?received, ?timeout, ?own, ?wire, ?release, ?lockstep, ?resetEnd, ?reloaded⟩
  case frame => exact fun toDale bytes s up out => onDev_eq_of (if_neg (by rw [up, out]; decide))
  case retrain => exact fun s up => onDev_eq_of (if_pos up)
  case retry => exact fun s failed out free => onDev_eq_of (if_pos ⟨failed, by rw [out]; rfl, by rw [free]; rfl⟩)
  case send => exact fun s out live loaded => onDev_eq_of (if_neg (by rw [out, live, loaded]; decide))
  case answer =>
    exact fun bytes s live up out good source => onDev_eq_of (if_pos (by rw [live, up, out, good, source]; decide))
  case received =>
    intro bytes x s open_ good source seq epoch
    refine onDev_eq_of ?_
    simp only [doChargeAnswerReceived, open_, good, source, seq, epoch, BEq.rfl, Bool.and_self, if_true]
  case timeout => exact fun x s open_ => onDev_eq_of (by simp only [doExchangeTimeout, open_])
  case own =>
    exact fun s started live not_ => onDev_eq_of (if_neg (by simp only [started, live, not_, Bool.false_eq_true, or_self, not_false_eq_true]))
  case wire => exact fun s driven => onDev_eq_of (if_neg (by rw [driven]; decide))
  case release => exact fun s released => onDev_eq_of (if_neg (by rw [released]; decide))
  case lockstep => exact fun syndrome s out => onDev_eq_of (if_neg (by rw [out]; decide))
  case resetEnd =>
    exact fun s inReset alive free vaux vao => onDev_eq_of (if_neg (by rw [inReset, alive, free, vaux, vao]; decide))
  case reloaded =>
    exact fun nF s loads out => onDev_eq_of (if_neg (not_or.mpr ⟨loads, by rw [out]; decide⟩))

section
variable {pos code entry : Nat} {a : ActiveEntry} {d : Dev}

/-! ## The Sheepdog (R523–R525) -/

/-- A request of the Fold part that an entry answers, or that waits for the table. -/
theorem foldRequest_granted {v : SdgEvent} (free : isoOf d .sdg = false)
    (event : v = { event := 4, block := 0xFF, source := code, cls := 0xFF, page := 0 })
    (answered : d.sdg.tableOn = false ∨ (matchEvent d v).isSome = true) :
    foldRequest code d = recordRequest code true (takeEvent v d) := by
  subst event
  have ok : (!d.sdg.tableOn || (matchEvent d { event := 4, block := 0xFF, source := code, cls := 0xFF, page := 0 }).isSome) = true := by
    rcases answered with h | h <;> rw [h]
    · rfl
    · exact Bool.or_true _
  simp only [foldRequest, free, ok, Bool.false_eq_true, if_false]

/-- A release that the Fold part may ask for. -/
theorem releaseRequest_granted (free : isoOf d .sdg = false)
    (named : d.sdg.active.any (fun a => a.key == releaseKey entry && (a.release == 2 || a.release == 3)) = true) :
    releaseRequest entry d =
      let e := modSdg (fun g => { g with active := g.active.map (fun a =>
          if a.key == releaseKey entry && (a.release == 2 || a.release == 3) then { a with asked := true } else a) })
        (recordRequest (entry + 2 ^ 31) true d)
      if e.sdg.active.any (·.mayGo) then releaseDue 2 e else e := by
  simp only [releaseRequest, free, named, Bool.false_eq_true, if_false]

end

/-- Settles O52: each command acts on what it finds waiting, an entry, a report or a restart. -/
theorem sheepdogCommandsAnswer : Obligations.SheepdogCommandsAnswer := by
  unfold Obligations.SheepdogCommandsAnswer
  refine ⟨?report, ?expiry, ?clear, ?request, ?requested, ?release, ?released, ?resetEnd, ?waitEnd⟩
  case report => exact fun r rs s out reports => onDev_eq_of (by simp only [doFaultReport, out, reports])
  case expiry => exact fun pos a s there => onDev_eq_of (by simp only [doEntryHoldExpiry, there])
  case clear => exact fun pos a s there quiet => onDev_eq_of (by simp only [doCauseClear, there, quiet, if_true])
  case request => exact fun who code s granted => onDev_onWrite_granted granted
  case requested =>
    exact fun who code v d s granted pair free event answered =>
      onDev_onWrite_eq granted pair (foldRequest_granted free event answered)
  case release => exact fun who entry s granted => onDev_onWrite_granted granted
  case released =>
    exact fun who entry d s granted pair free named => onDev_onWrite_eq granted pair (releaseRequest_granted free named)
  case resetEnd =>
    intro fails s start held out free rails clock waits normal safe
    exact onDev_eq_of (if_neg (by
      simp only [start, held, out, free, rails, clock, waits, normal, safe, ne_eq, not_true_eq_false, Bool.true_eq_false,
        Bool.false_eq_true, or_self, not_false_eq_true]))
  case waitEnd => exact fun s waits => onDev_eq_of (if_neg (by rw [waits]; decide))

section
variable {n : Nat} {v hdr : Word} {dlc : Nat} {bytes : List Byte} {f : CanFrame} {fs : List CanFrame} {d e : Dev}

/-! ## The CAN controllers (R527, R530, R541) -/

/-- The frame that the transmit registers hold. -/
def txFrame (d : Dev) (n : Nat) : CanFrame :=
  { hdr := rg d (.can n) Reg.Can.TX_HDR, dlc := rf d (.can n) Reg.Can.TX_LEN 3 0, bytes := txBytes d n, report := false }

/-- A write of TX_CMD that sends: no frame is being sent, and the controller sees its own start-of-frame. -/
theorem txCmd_sends (send : bitOf v 0 = true) (idle : rb d (.can n) Reg.Can.TX_STAT 31 = false) (may : txAllowed d n = true) :
    txCmd n v true d =
      modCan n (fun c => { c with txq := c.txq ++ [txFrame d n] }) (sb (.can n) Reg.Can.TX_STAT 31 true d) := by
  unfold txCmd txFrame
  rw [if_neg (by rw [send]; decide), if_neg (by rw [idle]; decide), if_neg (by rw [may]; decide)]
  exact if_pos rfl

/-- A frame that passes a filter finds room in the FIFO. -/
theorem doCanRx_receives (runs : canRuns d n = true) (kind : bitOf hdr 30 = false ∨ rb d (.can n) Reg.Can.CAN_CTRL 1 = true)
    (passes : (List.range 8).any (fun k => canFilter d n k hdr) = true) (room : (canOf d n).rx.length < 32) :
    doCanRx n hdr dlc bytes d =
      event (.can n) Reg.Can.EV_RX (canShowRx n (modCan n (fun c => { c with
        rx := c.rx ++ [{ hdr := hdr, dlc := dlc, bytes := bytes.take (dlcLen (bitOf hdr 30) dlc), report := false }] })
        (bump (.can n) Reg.Can.CAN_COUNT 15 0 d))) := by
  have known : (!canRuns d n || (bitOf hdr 30 && !rb d (.can n) Reg.Can.CAN_CTRL 1)) = false := by
    rcases kind with h | h <;> rw [runs, h]
    · rfl
    · exact Bool.and_false _
  unfold doCanRx
  rw [if_neg (by rw [known]; decide), if_neg (by rw [passes]; decide), if_neg (by omega)]

/-- A write of CAN_CTRL that enables a controller with settings within their limits. -/
theorem canCtrl_enables (on : bitOf v 0 = true) (noRestart : bitOf v 31 = false) (off : rb d (.can n) Reg.Can.CAN_CTRL 0 = false)
    (written : plainWrite (.can n) Reg.Can.CAN_CTRL v d = e) (limits : canInLimits e n = true) :
    canCtrl n v d =
      sg (.can n) Reg.Can.CAN_STAT 1 (sb (.can n) Reg.Can.CAN_CTRL 0 true (modCan n (fun c => { c with swapped := false }) e)) := by
  simp only [canCtrl, canStart, when, on, noRestart, off, written, limits, Bool.not_false, Bool.and_self, Bool.false_eq_true, if_false,
    if_true]

end

/-- Settles O53: a controller that is on the bus acts, and a granted write of its registers takes effect. -/
theorem canCommandsAnswer : Obligations.CanCommandsAnswer := by
  unfold Obligations.CanCommandsAnswer
  refine ⟨?tx, ?sends, ?sent, ?rx, ?pop, ?pops, ?busOff, ?recovery, ?enable, ?enables, ?period⟩
  case tx => exact fun who n v seen s granted => onDev_onWrite_granted granted
  case sends =>
    intro who n v seen d s granted pair send idle may sees
    subst sees
    exact onDev_onWrite_eq granted pair (txCmd_sends send idle may)
  case sent => exact fun n f fs s runs queue => onDev_eq_of (by simp only [doCanTxDone, runs, queue, if_true])
  case rx => exact fun n hdr dlc bytes s runs kind passes room => onDev_eq_of (doCanRx_receives runs kind passes room)
  case pop => exact fun who n v s granted => onDev_onWrite_granted granted
  case pops => exact fun who n v d s granted pair head => onDev_onWrite_eq granted pair (if_pos head)
  case busOff => exact fun n s runs => onDev_eq_of (if_pos runs)
  case recovery => exact fun n s off auto => onDev_eq_of (if_pos ⟨off, by rw [auto]; rfl⟩)
  case enable => exact fun who n v s granted => onDev_onWrite_granted granted
  case enables =>
    exact fun who n v e d s granted pair on noRestart off written limits =>
      onDev_onWrite_eq granted pair (canCtrl_enables on noRestart off written limits)
  case period =>
    intro k r s defined periodic sends out
    refine onDev_eq_of ?_
    simp only [doReportPeriod, defined]
    exact if_pos ⟨periodic, sends, by rw [out]; rfl⟩

section
variable {d : Dev}

/-! ## The Cairn recorder (R534, R535, R537) -/

/-- A command that CRN, standing in no isolation, takes. -/
theorem crnTakes_free (free : isoOf d (.crn 0) = false) (act : Dev → Dev) : crnTakes act d = act d := if_neg (by rw [free]; decide)

/-- A NOTE that follows none. -/
theorem cairnNote_first (first : d.cairn.noteTime = none) : cairnNote d = cairnNote.write d := by
  simp only [cairnNote, first]

/-- A NOTE within 100 µs of the last is dropped. -/
theorem cairnNote_drops {t : Nat} (last : d.cairn.noteTime = some t) (soon : d.us < t + 100) : cairnNote d = cairnLose false d := by
  simp only [cairnNote, last]
  exact if_pos soon

/-- A NOTE that follows no other within 100 µs is written. -/
theorem cairnNote_writes (late : ∀ t, d.cairn.noteTime = some t → t + 100 ≤ d.us) : cairnNote d = cairnNote.write d := by
  cases last : d.cairn.noteTime with
  | none => exact cairnNote_first last
  | some t =>
    simp only [cairnNote, last]
    exact if_neg (Nat.not_lt.mpr (late t last))

end

/-- Settles O54: the four commands are granted writes of CRN_CMD that CRN takes, and an export ends while one is running. -/
theorem cairnCommandsAnswer : Obligations.CairnCommandsAnswer := by
  unfold Obligations.CairnCommandsAnswer
  refine ⟨?freeze, ?freezes, ?unfreeze, ?exportC, ?exports, ?note, ?notes, ?exported⟩
  case freeze => exact fun who s granted => onDev_onWrite_granted granted
  case freezes =>
    exact fun who d s granted pair free running =>
      onDev_onWrite_eq granted pair ((crnTakes_free free _).trans (if_neg (by rw [running]; decide)))
  case unfreeze => exact fun who s granted => onDev_onWrite_granted granted
  case exportC => exact fun who s granted => onDev_onWrite_granted granted
  case exports =>
    exact fun who d s granted pair free none_ idle started =>
      onDev_onWrite_eq granted pair ((crnTakes_free free _).trans (if_neg (by
        simp only [none_, idle, Nat.not_lt.mpr started, Option.isSome_none, Bool.false_and, decide_false, Bool.or_self, Bool.false_eq_true,
          not_false_eq_true])))
  case note => exact fun who s granted => onDev_onWrite_granted granted
  case notes =>
    exact fun who d s granted pair free first => onDev_onWrite_eq granted pair ((crnTakes_free free _).trans (cairnNote_first first))
  case exported => exact fun failAt k rs s running => onDev_eq_of (by simp only [doExportDone, running])

section
variable {p : Page} {src : Nat} {r : CairnRec} {d e x : Dev}

/-! ## What Cairn's records leave (R532–R534) -/

theorem cairn_cycleEnd (d : Dev) : (cycleEnd d).cairn = d.cairn := by simp only [cycleEnd_keeps]

/-- CRN_STAT and CRN_NEXT show the recorder. -/
theorem cairnShow_form (d : Dev) : ∃ R, cairnShow d = { d with regs := R } := by
  unfold cairnShow sb sf sg
  exact ⟨_, rfl⟩

theorem cairnShow_lost (d : Dev) : rf (cairnShow d) (.crn 0) Reg.Crn0.CRN_STAT 15 0 = d.cairn.lost % 65536 := by
  unfold cairnShow
  rw [rf_eq_fld, rg_sf_same, fld_setFld_same _ _ (by decide) (by decide)]
  rfl

/-- The classes of CRN's sources are no part of what the recorder shows. -/
theorem classOf_cairnShow (src : Nat) (d : Dev) : classOf (cairnShow d) (.crn 0) src = classOf d (.crn 0) src := by
  unfold classOf cairnShow sb sf
  rw [rf_eq_fld, rg_sg_ne (by decide), rg_sg_ne (by decide), rg_sg_ne (by decide), rf_eq_fld]

/-- What fires after changes that are no report, no source and no class. -/
theorem Fires.of_before (h : Fires p src x e) (firing : x.firing = d.firing) (sdg : x.sdg = d.sdg) (tet : x.tet = d.tet)
    (cls : classOf x p src = classOf d p src) : Fires p src d e := by
  obtain ⟨r, b, l, block, source, class_, fired, toSdg, toTet⟩ := h
  exact ⟨r, b, l, block, source, class_.trans cls, fired.trans (by rw [firing]), toSdg.trans sdg, toTet.trans tet⟩

/-- A source of a page whose isolation fires no other. -/
theorem firing_fireSource (iso : ∀ e, (isolate p e).firing = e.firing) (src : Nat) (d : Dev) :
    ∃ r b, r.src = src ∧ (fireSource p src d).firing = d.firing ++ [(r, p.base, b)] := by
  unfold fireSource fireWith
  dsimp only
  split
  · rw [iso]
    exact ⟨_, _, rfl, rfl⟩
  · exact ⟨_, _, rfl, rfl⟩

/-- A pair that CRN breaks off fires no more than GUARD_FAIL. -/
theorem gpIntervene_crn_fires (quiet : d.firing = []) {y : FaultRep × Nat × Bool} (fired : y ∈ (gpIntervene (.crn 0) d).firing) :
    y.1.src = Reg.SRC_GUARD_FAIL := by
  unfold gpIntervene at fired
  split at fired
  · rw [quiet] at fired
    cases fired
  · obtain ⟨r, b, source, only⟩ := firing_fireSource (p := .crn 0) (fun _ => rfl) Reg.SRC_GUARD_FAIL (event (.crn 0) Reg.EV_GUARD_FAIL
      (bump (.crn 0) Reg.STAT_COUNT 15 0 { d with gp := tabSet (fun _ => none) d.gp (Page.crn 0).base none }))
    obtain ⟨R, O, told⟩ := event_eq (.crn 0) Reg.EV_GUARD_FAIL
      (bump (.crn 0) Reg.STAT_COUNT 15 0 { d with gp := tabSet (fun _ => none) d.gp (Page.crn 0).base none })
    unfold guardFail raiseFault at fired
    rw [only, told] at fired
    simp only [bump_keeps, quiet, List.nil_append, List.mem_singleton] at fired
    rw [fired]
    exact source

/-- The recorder after one more record is lost. -/
def lostOne (d : Dev) : Dev := cairnShow (modCairn (fun c => { c with lost := (c.lost + 1) % 65536 }) d)

theorem lostOne_form (d : Dev) :
    ∃ R, lostOne d = { d with regs := R, cairn := { d.cairn with lost := (d.cairn.lost + 1) % 65536 } } := by
  obtain ⟨R, form⟩ := cairnShow_form (modCairn (fun c => { c with lost := (c.lost + 1) % 65536 }) d)
  exact ⟨R, form⟩

theorem cairnLose_eq (d : Dev) : cairnLose false d = fireSource (.crn 0) Reg.Crn0.SRC_CRN_LOST (lostOne d) := rfl

/-- A record that is lost is counted, CRN_STAT shows the count, and CRN_LOST fires. -/
theorem cairnLose_facts (d : Dev) :
    (cairnLose false d).cairn = { d.cairn with lost := (d.cairn.lost + 1) % 65536 } ∧
      rf (cairnLose false d) (.crn 0) Reg.Crn0.CRN_STAT 15 0 = (d.cairn.lost + 1) % 65536 ∧
      Fires (.crn 0) Reg.Crn0.SRC_CRN_LOST d (cairnLose false d) := by
  obtain ⟨R, form⟩ := lostOne_form d
  have faults := FaultsOnly.fireSource (.crn 0) Reg.Crn0.SRC_CRN_LOST (lostOne d)
  have regs := rg_fire (p := .crn 0) (fun _ => rfl) Reg.Crn0.SRC_CRN_LOST (lostOne d)
  have fires := fires_fireSource (.crn 0) Reg.Crn0.SRC_CRN_LOST (lostOne d)
  rw [cairnLose_eq]
  refine ⟨by rw [faults, form], ?_, fires.of_before (by rw [form]) (by rw [form]) (by rw [form]) (classOf_cairnShow _ _)⟩
  have shows : rf (lostOne d) (.crn 0) Reg.Crn0.CRN_STAT 15 0 = (d.cairn.lost + 1) % 65536 % 65536 := cairnShow_lost _
  rw [Nat.mod_mod] at shows
  unfold rf rg at shows ⊢
  rw [regs]
  exact shows

/-- A record that is written is the newest, and drops the oldest where the ring is full. -/
theorem cairnPut_ring (accepted : d.cairn.post ≠ some 0) (r : CairnRec) :
    (cairnPut r d).cairn = { d.cairn with
      ring := (d.cairn.ring ++ [r]).drop (d.cairn.ring.length + 1 - 2048), next := cairnSucc d.cairn.next
      post := d.cairn.post.map (fun n => n - 1) } := by
  unfold cairnPut
  rw [if_neg accepted]
  obtain ⟨R, form⟩ := cairnShow_form (modCairn (fun c => { c with
    ring := (d.cairn.ring ++ [r]).drop ((d.cairn.ring ++ [r]).length - 2048), next := cairnSucc c.next, post := c.post.map (fun n => n - 1) }) d)
  refine (congrArg Dev.cairn form).trans ?_
  rw [List.length_append]
  rfl

/-- A NOTE that is written is the newest record, with the time and the words of CRN_NOTE0 and CRN_NOTE1. -/
theorem cairnNote_write_ring (accepted : d.cairn.post ≠ some 0) :
    ∃ r : CairnRec, r.kind = 9 ∧ r.time = d.us % 2 ^ 48 ∧ r.d0 = (rg d (.crn 0) Reg.Crn0.CRN_NOTE0).toNat ∧
      r.d1 = (rg d (.crn 0) Reg.Crn0.CRN_NOTE1).toNat ∧
      (cairnNote.write d).cairn = { d.cairn with
        noteTime := some d.us, ring := (d.cairn.ring ++ [r]).drop (d.cairn.ring.length + 1 - 2048), next := cairnSucc d.cairn.next
        post := d.cairn.post.map (fun n => n - 1) } :=
  ⟨_, rfl, rfl, rfl, rfl, cairnPut_ring (d := modCairn (fun c => { c with noteTime := some d.us }) d) accepted _⟩

end

/-- Settles O20: a NOTE too soon is lost (`cairnLose_facts`), and any other is written to the ring (`cairnPut_ring`). -/
theorem notesFollowAtOneHundredMicroseconds : Obligations.NotesFollowAtOneHundredMicroseconds := by
  unfold Obligations.NotesFollowAtOneHundredMicroseconds
  intro who s quiet granted free
  refine ⟨_, onDev_onWrite_eq granted rfl (crnTakes_free free cairnNote), on_fuses _ _, on_pending _ _, ?_⟩
  dsimp only
  rw [on_dev, rf_cycleEnd, cairn_cycleEnd]
  refine ⟨fun ⟨t, last, soon⟩ => ?_, fun late accepted => ?_⟩
  · obtain ⟨cairn, shows, fires⟩ := cairnLose_facts (gpIntervene (.crn 0) s.dev)
    rw [cairnNote_drops last soon]
    refine ⟨cairn, shows, reported_cycleEnd (fun y fired => ?_) fires⟩
    rintro ⟨-, source⟩
    rw [gpIntervene_crn_fires quiet fired] at source
    exact absurd source (by decide)
  · rw [cairnNote_writes late]
    obtain ⟨r, kind, time, d0, d1, cairn⟩ := cairnNote_write_ring accepted
    rw [cairn]
    obtain ⟨newest, rest⟩ := drop_getLast (gpIntervene (.crn 0) s.dev).cairn.ring r
      ((gpIntervene (.crn 0) s.dev).cairn.ring.length + 1 - 2048) (by omega)
    dsimp only
    exact ⟨rfl, rfl, ⟨r, newest, kind, time, d0, d1⟩, rest⟩

end Sys2Proof.Machine
end

section
/-! The family `15_pasture.md`: The memories in canonical form, Pasture and its banks (R544–R563). -/
namespace Sys2Proof.Machine

section
variable {r : PastReq} {bs : List Byte} {d e : Dev}

/-! ## A request alone in its cycle (R549) -/

theorem doPastAccess_alone (r : PastReq) (d : Dev) : doPastAccess [r] [] d = pastServe (noData d) r := rfl

theorem pastFold_noData (d : Dev) : pastFold (noData d) = pastFold d := rfl

/-- A request of the Fold world, or of bytes at or above the fold line. -/
theorem pastServe_may (may : r.fold = true ∨ pastFold d ≤ r.off.toNat) : (!r.fold && decide (r.off.toNat < pastFold d)) = false := by
  rcases may with h | h
  · rw [h]; rfl
  · rw [decide_eq_false (Nat.not_lt.mpr h), Bool.and_false]

theorem pastServe_writes (write : r.v = some bs) (inside : r.off.toNat + bs.length ≤ 0x2000000)
    (may : r.fold = true ∨ pastFold d ≤ r.off.toNat) :
    pastServe d r = pastWrite (bs.length / 64 + 2) r.tier.val r.off.toNat bs (arbWait r.tier.val r.waited d) := by
  simp only [pastServe, write, Nat.not_lt.mpr inside, pastServe_may may, Bool.false_eq_true, if_false]

theorem pastServe_reads (read : r.v = none) (inside : r.off.toNat + r.bytes ≤ 0x2000000)
    (may : r.fold = true ∨ pastFold d ≤ r.off.toNat) {x : List Byte × Bool × Dev}
    (gives : pastRead (r.bytes / 64 + 2) r.tier.val r.off.toNat r.bytes (arbWait r.tier.val r.waited d) = x) :
    pastServe d r = { x.2.2 with data := x.2.2.data ++ x.1, poisoned := x.2.2.poisoned || x.2.1 } := by
  simp only [pastServe, read, gives, Nat.not_lt.mpr inside, pastServe_may may, Bool.false_eq_true, if_false]

end

/-- Settles O55: what turns each of the commands away is its first condition; a request alone in its cycle is the only one served
(`doPastAccess_alone`). -/
theorem pastureCommandsAnswer : Obligations.PastureCommandsAnswer := by
  unfold Obligations.PastureCommandsAnswer
  refine ⟨?access, ?writes, ?reads, ?writeback, ?test, ?retention, ?wake, ?mode, ?modes, ?restart⟩
  case access => exact fun r others flips s => onDev_eq _ s
  case writes =>
    exact fun r bs s write inside may =>
      onDev_eq_of ((doPastAccess_alone r s.dev).trans (pastServe_writes write inside (by rw [pastFold_noData]; exact may)))
  case reads =>
    exact fun r x s read inside may gives =>
      onDev_eq_of ((doPastAccess_alone r s.dev).trans (pastServe_reads read inside (by rw [pastFold_noData]; exact may) gives))
  case writeback => exact fun b w s waits => onDev_eq_of (by simp only [doEccWriteback, waits])
  case test => exact fun fails s on free => onDev_eq_of (if_neg (by rw [on, free]; decide))
  case retention => exact fun b s on auto => onDev_eq_of (if_pos ⟨on, auto⟩)
  case wake => exact fun b s wakes => onDev_eq_of (if_neg (not_not.mpr wakes))
  case mode => exact fun who i v s granted => onDev_onWrite_granted granted
  case modes => exact fun who i v d s granted pair free => onDev_onWrite_eq granted pair (if_neg (by rw [free]; decide))
  case restart => exact fun who s granted => onDev_onWrite_granted granted

section
variable {tier waited : Nat} {d : Dev}

/-! ## A write (R544–R546) -/

/-- The arbiter's longest wait is no bank and no word. -/
theorem arbWait_stores (tier waited : Nat) (d : Dev) : StoresOnly d (arbWait tier waited d) ∧ (arbWait tier waited d).pasture = d.pasture := by
  have shows (hi lo x : Nat) : StoresOnly d (sf (.pst 2) Reg.Pst2.ARB_WAIT_MAX hi lo x d) := by
    refine ⟨rfl, fun _ h => h, fun b small on => ?_⟩
    unfold bankState sf
    rw [rf_eq_fld, rg_sg_ne (by simp only [Page.base, Reg.Pst1.BANK_STATE, Reg.Pst2.ARB_WAIT_MAX]; omega)]
    exact on
  unfold arbWait
  dsimp only
  split
  · exact ⟨shows _ _ _, rfl⟩
  · split
    · exact ⟨shows _ _ _, rfl⟩
    · exact ⟨.refl d, rfl⟩

end

/-- Settles O26: the write (`pastServe_writes`) stores its bytes row by row (`pastWrite_stores`). -/
theorem pastureWriteStoresExactlyItsBytes : Obligations.PastureWriteStoresExactlyItsBytes := by
  unfold Obligations.PastureWriteStoresExactlyItsBytes
  intro r bs s quiet write inside may sound on
  refine ⟨_, onDev_eq_of (g := fun d => pastWrite (bs.length / 64 + 2) r.tier.val r.off.toNat bs (arbWait r.tier.val r.waited (noData d)))
    ((doPastAccess_alone r s.dev).trans (pastServe_writes write inside (by rw [pastFold_noData]; exact may))),
    on_fuses _ _, on_pending _ _, ?_⟩
  obtain ⟨waits, same⟩ := arbWait_stores r.tier.val r.waited (noData s.dev)
  obtain ⟨stores, bytes⟩ := pastWrite_stores r.tier.val (bs.length / 64 + 2) r.off.toNat bs (arbWait r.tier.val r.waited (noData s.dev))
    (.inl (by omega)) (.inr inside) (fun w least most => waits.2.1 w (sound w least most))
    (fun b _ least most => waits.2.2 b (by simp only [bankBytes] at most; omega) (on b least most))
  rw [on_dev]
  generalize pastWrite _ _ _ _ _ = e at stores bytes ⊢
  obtain ⟨frame, -, -⟩ := waits.trans stores
  have before (c : Nat) : pastByte (arbWait r.tier.val r.waited (noData s.dev)) c = pastByte s.dev c := by
    unfold pastByte
    rw [same]
    rfl
  have dram := congrArg Dev.dram frame
  have nvm := congrArg Dev.nvm frame
  have drc := congrArg Dev.drc frame
  have still : e.firing = [] := (congrArg Dev.firing frame).trans quiet
  rw [cycleEnd_quiet still]
  refine ⟨fun c => (bytes c).trans (by rw [before]), dram, nvm, drc, ?_⟩
  exact congrArg (fun d : Dev => { d with data := s.dev.data, poisoned := s.dev.poisoned }) frame

section
variable {d : Dev} {s t : State} {f : Dev → Dev}

/-! ## The requests to the memories (R440, R475, R544, R577) -/

/-- A command whose effect leaves canonical memories leaves them canonical at the end of its cycle. -/
theorem memWf_onDev (keeps : (f s.dev).memWf = true) (next : onDev f s = .next t) : t.dev.memWf = true := by
  cases next
  exact (FaultsOnly.cycleEnd _).memWf.trans keeps

theorem memWf_doPastAccess (reqs : List PastReq) (flips : List (Nat × Bool)) (h : d.memWf = true) :
    (doPastAccess reqs flips d).memWf = true := by
  refine wf_foldl' (fun _ r => wf_pastServe r) _ _ ?_
  rw [wf_flips, wf_rec]
  exact h

/-- Bit errors come about in DRAM. -/
theorem memWf_flipDram (flips : List (Nat × Bool)) (d : Dev) :
    (flips.foldl (fun d f => setDramErr f.1 (if f.2 ∨ dramErr d f.1 ≠ 0 then 2 else 1) d) d).memWf = d.memWf :=
  wf_foldl (fun _ _ => wf_setDramErr _ _ _) _ _

theorem memWf_doDramRequest (who : Party) (src : Option IsoSrc) (port a n : Nat) (v : Option (List Byte)) (flips : List (Nat × Bool))
    (dt slots code : Nat) (h : d.memWf = true) : (doDramRequest who src port a n v flips dt slots code d).memWf = true := by
  unfold doDramRequest
  dsimp only
  rw [wf_showWaiting]
  refine wf_forN (fun _ _ => wf_dramSlot) slots ?_
  have waits (d : Dev) (h : d.memWf = true) : (modDrc (fun s => { s with now := s.now + dt }) d).memWf = true := (wf_modDrc _ _).trans h
  have flipped := waits _ ((memWf_flipDram flips { d with data := [], poisoned := false }).trans ((wf_rec _ _ _).trans h))
  split
  · exact wf_ite flipped (wf_arrive _ flipped)
  · exact flipped

theorem memWf_coreTrap (n cause : Nat) (d : Dev) : (coreTrap n cause d).memWf = d.memWf := wf_modCore _ _ _

theorem memWf_doCoreMem (n kind a bytes : Nat) (v : Option (List Byte)) (h : d.memWf = true) :
    (doCoreMem n kind a bytes v d).memWf = true := by
  have clear : ({ d with data := [], poisoned := false } : Dev).memWf = true := (wf_rec _ _ _).trans h
  unfold doCoreMem
  refine wf_ite h ?_
  dsimp only
  refine wf_ite ?_ ?_
  · rw [memWf_coreTrap]
    exact wf_when (wf_fieldDeny _) clear
  · split
    · exact memWf_memWrite _ _ _ _ clear
    · exact clear
    · refine wf_ite ?_ ?_
      · rw [memWf_coreTrap, memWf_memRead]
        exact clear
      · rw [wf_data, memWf_memRead]
        exact clear

/-- A miss of the aperture is counted and told. -/
theorem memWf_miss (p : Nat) (d : Dev) :
    (event (.pset p 0) Reg.Pad.EV_APERTURE_MISS (bump (.pset p 0) Reg.Pad.INTAKE_COUNT 31 16 d)).memWf = d.memWf :=
  ((FaultsOnly.bump _ _ _ _ _).trans (.event _ _ _)).memWf

/-- What a read answers is no memory. -/
theorem memWf_resp (x : BitVec 64) (d : Dev) : ({ d with resp := x } : Dev).memWf = d.memWf := rfl

theorem memWf_answer (x : BitVec 64) (b : Bool) (d : Dev) : ({ d with resp := x, poisoned := b } : Dev).memWf = d.memWf := rfl

theorem memWf_doAperture (p off n : Nat) (v : Option (BitVec 64)) (h : d.memWf = true) : (doAperture p off n v d).memWf = true := by
  unfold doAperture
  refine wf_ite h (wf_ite ?_ ?_)
  · rw [memWf_resp, memWf_miss]
    exact h
  · split
    · refine wf_ite ?_ ?_
      · rw [memWf_answer, memWf_memRead]
        exact h
      · rw [memWf_resp, memWf_miss, memWf_memRead]
        exact h
    · refine wf_ite (memWf_memWrite _ _ _ _ h) ?_
      rw [memWf_miss]
      exact memWf_memWrite _ _ _ _ h

end

/-- Settles O11: each of the four commands is an effect on the device that keeps the memories canonical. -/
theorem memoryCommandsKeepTheCanonicalForm : Obligations.MemoryCommandsKeepTheCanonicalForm := by
  unfold Obligations.MemoryCommandsKeepTheCanonicalForm
  intro s t h
  refine ⟨?pasture, ?dram, ?core, ?aperture⟩
  case pasture => exact fun tier fold off bytes v flips turn => memWf_onDev (memWf_doPastAccess _ _ h)
  case dram =>
    exact fun who src port a n v flips dt slots code => memWf_onDev (memWf_doDramRequest who src _ _ n v _ dt slots code h)
  case core => exact fun n kind a bytes v => memWf_onDev (memWf_doCoreMem _ _ _ bytes _ h)
  case aperture => exact fun p off w v => memWf_onDev (memWf_doAperture _ _ _ v h)

end Sys2Proof.Machine
end

section
/-! The family `16_dram_and_drover.md`: The DRAM controller and the Drover (R571–R598). -/
namespace Sys2Proof.Machine

section
variable {who : Party} {src : Option IsoSrc} {port a n len dt slots code x : Nat} {v : Option (List Byte)} {w : Who} {d e : Dev}

/-! ## Requests (R577) -/

/-- A request that the check admits, of bytes within the array, reaches its port. -/
theorem doDramRequest_arrives (later : modDrc (fun s => { s with now := s.now + dt }) { d with data := [], poisoned := false } = e)
    (accessor : dramWho who src.isSome port = w) (long : (match v with | some bs => bs.length | none => n) = len) (ready : drcState e = 2)
    (some_ : len ≠ 0) (inRange : rangeOk e w a len = true) (place : locOf e w a = some (.dram x)) (inside : x + len ≤ e.drc.capacity) :
    doDramRequest who src port a n v [] dt slots code d =
      showWaiting (forN (fun _ => dramSlot) slots (arrive
        { who := who, src := src, port := port, addr := a, x := x, len := n, v := v, stamp := e.drc.now
          code := if e.drc.inlineEcc then code else 0 } e)) := by
  cases v <;> dsimp only at long <;> subst long <;>
    simp only [doDramRequest, List.foldl_nil, later, accessor, ready, some_, inRange, place, Nat.not_lt.mpr inside, ne_eq, not_true_eq_false,
      Bool.true_eq_false, or_self, if_false]

/-- The first stage of a channel answers its density and ranks. -/
theorem doTrainStage_reads {c gbit ranks : Nat} (training : drcState d = 1) (first : tabGet (fun _ => 0) d.drc.stage c = 0) :
    doTrainStage c true gbit ranks d =
      trainReads (modDrc (fun s => { s with reads := tabSet (fun _ => none) s.reads c (some (gbit, ranks)) })
        (modDrc (fun s => { s with stage := tabSet (fun _ => 0) s.stage c 1 }) d)) := by
  have stages : ¬ (drcState d ≠ 1 ∨ 8 ≤ tabGet (fun _ => 0) d.drc.stage c) := by rw [training, first]; decide
  unfold doTrainStage
  rw [if_neg stages, if_neg (by decide), first]
  exact if_pos rfl

end

/-- Settles O56: the state of training turns a command away; a request arrives where the check admits it. -/
theorem dramCommandsAnswer : Obligations.DramCommandsAnswer := by
  unfold Obligations.DramCommandsAnswer
  refine ⟨?reads, ?retries, ?track, ?zq, ?refresh, ?mr, ?mrReads, ?request, ?backoff, ?window, ?sizing, ?starve, ?drcRestart, ?drvRestart⟩
  case reads =>
    exact fun c gbit ranks s training first => onDev_eq_of (doTrainStage_reads training first)
  case retries =>
    exact fun c gbit ranks s training stage again => onDev_eq_of (by
      simp only [doTrainStage, training, Nat.not_le.mpr stage, Nat.not_le.mpr again, ne_eq, not_true_eq_false, or_self, Bool.not_false,
        if_false, if_true])
  case track => exact fun c _ code drift hot s ready => onDev_eq_of (if_neg (not_not.mpr ready))
  case zq => exact fun c rank code s ready => onDev_eq_of (if_neg (not_not.mpr ready))
  case refresh => exact fun c rank bank atLimit mr s ready => onDev_eq_of (if_neg (not_not.mpr ready))
  case mr => exact fun who v s granted => onDev_onWrite_granted granted
  case mrReads => exact fun who v d s granted pair go => onDev_onWrite_eq granted pair (if_pos go)
  case request =>
    exact fun who src port a n len v dt slots code x w e s later accessor long ready some_ inRange place inside =>
      onDev_eq_of (doDramRequest_arrives later accessor long ready some_ inRange place inside)
  case backoff => exact fun port c s => onDev_eq _ s
  case window => exact fun s ready => onDev_eq_of (if_neg (not_not.mpr ready))
  case sizing => exact fun s ready => onDev_eq_of (if_neg (not_not.mpr ready))
  case starve =>
    exact fun port age r s oldest long => onDev_eq_of (by simp only [doDrvStarve, oldest, long, if_false])
  case drcRestart => exact fun who s granted => onDev_onWrite_granted granted
  case drvRestart => exact fun who s granted => onDev_onWrite_granted granted

end Sys2Proof.Machine
end

section
/-! The family `17_power_clocks_reset.md`: Supplies, clocks and the requests of blocks (R602–R623). -/
namespace Sys2Proof.Machine

/-- Settles O57: a wire or a monitor acts at once, or where its die is in no reset; a register acts by its granted access. -/
theorem supplyCommandsAnswer : Obligations.SupplyCommandsAnswer := by
  unfold Obligations.SupplyCommandsAnswer
  refine ⟨?sample, ?powerUp, ?rstN, ?xtalFell, ?xtalDale, ?restored, ?core, ?gpu, ?aux, ?dale, ?meas, ?cfg, ?cfgs⟩
  case sample => exact fun i mv s => onDev_eq _ s
  case powerUp => exact fun s => onDev_eq _ s
  case rstN => exact fun low s => onDev_eq _ s
  case xtalFell => exact fun s => onDev_eq _ s
  case xtalDale => exact fun s out => onDev_eq_of (if_neg (by rw [out]; decide))
  case restored => exact fun fell s => onDev_eq _ s
  case core => exact fun k s => onDev_eq _ s
  case gpu => exact fun s => onDev_eq _ s
  case aux => exact fun k s => onDev_eq _ s
  case dale => exact fun s out => onDev_eq_of (if_neg (by rw [out]; decide))
  case meas => exact fun who s granted => onDev_eq_of (onRead_granted granted)
  case cfg => exact fun who v s granted => onDev_onWrite_granted granted
  case cfgs => exact fun who v d s granted pair off => onDev_onWrite_eq granted pair (if_neg (by rw [off]; decide))

section
variable {who : Party} {c k : Nat} {v : Word} {s : State} {d : Dev}

/-! ## The requests of blocks (R609–R611) -/

/-- A request that is not refused acts, unless a party other than the Fold asks for a stop while HOLD is on. -/
theorem reqMake_acts {fold : Bool} (accepted : reqRefuse d fold c k = 0) (now : (!fold && k % 2 == 0 && holdOn d c) = false) :
    reqMake fold c k d = reqDone (reqAct c k (reqWithdraw c k d)) := by
  simp only [reqMake, accepted, now, ne_eq, not_true_eq_false, Bool.false_eq_true, if_false]

/-- A request of an even kind is latched by HOLD for every party but the Fold (R491). -/
theorem notHeld (free : who = .fold ∨ holdOn d c = false) : (!(who == .fold) && k % 2 == 0 && holdOn d c) = false := by
  rcases free with h | h <;> rw [h]
  · rfl
  · exact Bool.and_false _

/-- A request that runs a block is latched by nothing. -/
theorem notHeld_odd {fold : Bool} (odd : k % 2 = 1) : (!fold && k % 2 == 0 && holdOn d c) = false := by
  rw [odd]
  cases fold <;> rfl

/-- A granted write of BLK_REQ whose lowest bit is `k`, of a block's request that acts. -/
theorem onDev_blkReq_acts (lowest : (List.range 6).find? (fun k => bitOf v k) = some k)
    (granted : Granted s.dev who (.sys 1) Reg.Sys1.BLK_REQ true) (pair : gpIntervene (.sys 1) s.dev = d)
    (free : isoOf d (.sys 1) = false) (block : rf d (.sys 1) Reg.Sys1.BLK_SEL 7 0 = c) (accepted : reqRefuse d (who == .fold) c k = 0)
    (now : (!(who == .fold) && k % 2 == 0 && holdOn d c) = false) :
    onDev (doBlkReq who v) s = .next (s.on fun _ => reqDone (reqAct c k (reqWithdraw c k d))) := by
  refine onDev_onWrite_eq granted pair ?_
  simp only [blkReq, free, lowest, block, Bool.false_eq_true, if_false]
  exact reqMake_acts accepted now

end

/-- Settles O58: each request is a granted write of its bit of BLK_REQ (`onDev_blkReq_acts`). -/
theorem blockCommandsAnswer : Obligations.BlockCommandsAnswer := by
  unfold Obligations.BlockCommandsAnswer
  have writes (v : Word) (who : Party) (s : State) (granted : Granted s.dev who (.sys 1) Reg.Sys1.BLK_REQ true) :
      onDev (doBlkReq who v) s = .next (s.on fun d => blkReq who v (gpIntervene (.sys 1) d)) := onDev_onWrite_granted granted
  refine ⟨writes 0x01, ?stop, writes 0x02, ?run, writes 0x04, ?off, writes 0x08, ?on, writes 0x10, ?assert, writes 0x20, ?release, ?ended⟩
  case stop =>
    exact fun who c d s granted pair free block accepted now =>
      onDev_blkReq_acts (by decide) granted pair free block accepted (notHeld now)
  case run =>
    exact fun who c d s granted pair free block accepted =>
      onDev_blkReq_acts (by decide) granted pair free block accepted (notHeld_odd rfl)
  case off =>
    exact fun who c d s granted pair free block accepted now =>
      onDev_blkReq_acts (by decide) granted pair free block accepted (notHeld now)
  case on =>
    exact fun who c d s granted pair free block accepted =>
      onDev_blkReq_acts (by decide) granted pair free block accepted (notHeld_odd rfl)
  case assert =>
    exact fun who c d s granted pair free block accepted now =>
      onDev_blkReq_acts (by decide) granted pair free block accepted (notHeld now)
  case release =>
    exact fun who c d s granted pair free block accepted =>
      onDev_blkReq_acts (by decide) granted pair free block accepted (notHeld_odd rfl)
  case ended => exact fun s acted => onDev_eq_of (if_neg acted)

end Sys2Proof.Machine
end

section
/-! The family `18_tally.md`: Tally (R626–R638). -/
namespace Sys2Proof.Machine

/-- Settles O59: each command is a granted access of a Tally register, or counts for what it finds. -/
theorem tallyCommandsAnswer : Obligations.TallyCommandsAnswer := by
  unfold Obligations.TallyCommandsAnswer
  refine ⟨?run, ?clear, ?restart, ?count, ?loRead, ?loWrite, ?hiWrite, ?pop⟩
  case run => exact fun who on s granted => onDev_onWrite_granted granted
  case clear => exact fun who s granted => onDev_onWrite_granted granted
  case restart => exact fun who s granted => onDev_onWrite_granted granted
  case count => exact fun k x foldX d1 d2 s => onDev_eq _ s
  case loRead => exact fun who k s granted => onDev_eq_of (onRead_granted granted)
  case loWrite => exact fun who k v s granted => onDev_onWrite_granted granted
  case hiWrite => exact fun who k v s granted => onDev_onWrite_granted granted
  case pop => exact fun who s granted => onDev_onWrite_granted granted

section
variable {k n x fx : Nat} {c d1 d2 v : Word} {fold : Bool} {d e : Dev}

/-! ## What a count comes to (R626, R630) -/

/-- The counters' own state beside their registers. -/
theorem rg_modTly (f : TlyS → TlyS) (d : Dev) (p : Page) (o : Nat) : rg (modTly f d) p o = rg d p o := rfl

theorem tlyRuns_modTly (f : TlyS → TlyS) (d : Dev) : tlyRuns (modTly f d) = tlyRuns d := rfl

theorem tlyCount_congr (h : ∀ p o, rg e p o = rg d p o) (k : Nat) : tlyCount e k = tlyCount d k := by
  unfold tlyCount
  rw [rf_eq_fld, rf_eq_fld, h, h]

theorem tlyCount_cycleEnd (d : Dev) (k : Nat) : tlyCount (cycleEnd d) k = tlyCount d k := tlyCount_congr (rg_cycleEnd d) k

/-- The device when counter `k` comes to `n`: its count is the residue, and the passage of 2^48 overflows. -/
def counted (k n : Nat) (c : Word) (fold : Bool) (d1 d2 : Word) (d : Dev) : Dev :=
  if 2 ^ 48 ≤ n then tlyOverflow k c fold d1 d2 (setTly k (n % 2 ^ 48) d) else setTly k (n % 2 ^ 48) d

/-- A counter that is enabled and selects a listed event of a world that counts. -/
theorem doTallyCount_counts (cfg : rg d (.tly 0) (Reg.Tly0.CFG k) = c) (runs : tlyRuns d = true) (on : bitOf c 31 = true)
    (listed : tlyListed c = true) (world : (tlyWorld c && fld c 30 29 == 3) = false)
    (sum : tlyCount d k + tlyAdd (fld c 28 27) (rf d (.tly 3) (Reg.Tly3.THR (fld c 26 24)) 15 0) (tlyValue d c x fx)
      (tabGet (fun _ => 0) d.tly.prev k) = n) :
    ∃ fold, doTallyCount k x fx d1 d2 d = counted k n c fold d1 d2
        (modTly (fun t => { t with prev := tabSet (fun _ => 0) t.prev k (tlyValue d c x fx) }) d) := by
  unfold doTallyCount counted
  simp only [cfg, listed, tlyRuns_modTly, runs, on, world, tlyCount_congr (rg_modTly _ _), Bool.not_true, Bool.or_self,
    Bool.false_eq_true, if_false, if_true]
  rw [show rf (modTly _ d) (.tly 3) (Reg.Tly3.THR (fld c 26 24)) 15 0 = rf d (.tly 3) (Reg.Tly3.THR (fld c 26 24)) 15 0 from rfl, sum]
  exact ⟨_, rfl⟩

/-- A register below the sample FIFO's page, and neither EVENT nor a pending bit, after an overflow. -/
theorem counted_registers (k n : Nat) (c : Word) (fold : Bool) (d1 d2 : Word) (d : Dev) {p : Page} {o : Nat}
    (below : p.base + o < (Page.tly 3).base) (event : p.base + o ≠ (Page.tly 0).base + Reg.EVENT) (pba : ¬ pbaAt (p.base + o)) :
    rg (counted k n c fold d1 d2 d) p o =
      if 2 ^ 48 ≤ n then rg (setOvf k true (setTly k (n % 2 ^ 48) d)) p o else rg (setTly k (n % 2 ^ 48) d) p o := by
  unfold counted
  split
  · exact (tlyOverflow_facts k c fold d1 d2 _).1 p o below event pba
  · rfl

/-- The halves of a counter, and the word of its overflow bit, are none of EVENT, the pending bits and the sample FIFO. -/
theorem tly_counter_place (small : k < 128) :
    ((tHi k < (Page.tly 3).base ∧ tHi k ≠ (Page.tly 0).base + Reg.EVENT) ∧
      (tLo k < (Page.tly 3).base ∧ tLo k ≠ (Page.tly 0).base + Reg.EVENT)) ∧
      (Page.tly 0).base + Reg.Tly0.OVF_STAT (k / 32) < (Page.tly 3).base ∧
      (Page.tly 0).base + Reg.Tly0.OVF_STAT (k / 32) ≠ (Page.tly 0).base + Reg.EVENT := by
  simp only [tHi, tLo, tlyPage, Page.base, Reg.Tly1.COUNT_LO, Reg.Tly1.COUNT_HI, Reg.Tly0.OVF_STAT, Reg.EVENT]
  omega

theorem tly_counter_not_pba (small : k < 128) :
    ¬ pbaAt (tHi k) ∧ ¬ pbaAt (tLo k) ∧ ¬ pbaAt ((Page.tly 0).base + Reg.Tly0.OVF_STAT (k / 32)) := by
  refine ⟨not_pba ?_ ?_, not_pba ?_ ?_, not_pba ?_ ?_⟩ <;>
    simp only [Reg.Tly1.COUNT_LO, Reg.Tly1.COUNT_HI, Reg.Tly0.OVF_STAT, Reg.PBA] <;> omega

/-- The halves of the count and the overflow bits after a count that comes to `n`. -/
theorem counted_facts (small : k < 128) (n : Nat) (c : Word) (fold : Bool) (d1 d2 : Word) (d : Dev) :
    tlyCount (counted k n c fold d1 d2 d) k = n % 2 ^ 48 ∧
      rb (counted k n c fold d1 d2 d) (tlyPage k) (Reg.Tly1.COUNT_HI (k % 64)) 31 =
        (decide (2 ^ 48 ≤ n) || rb d (tlyPage k) (Reg.Tly1.COUNT_HI (k % 64)) 31) ∧
      (2 ^ 48 ≤ n → rb (counted k n c fold d1 d2 d) (.tly 0) (Reg.Tly0.OVF_STAT (k / 32)) (k % 32) = true) ∧
      (n < 2 ^ 48 → rg (counted k n c fold d1 d2 d) (.tly 0) (Reg.Tly0.OVF_STAT (k / 32)) = rg d (.tly 0) (Reg.Tly0.OVF_STAT (k / 32))) := by
  obtain ⟨⟨⟨hiBelow, hiEvent⟩, loBelow, loEvent⟩, ovfBelow, ovfEvent⟩ := tly_counter_place small
  obtain ⟨hiPba, loPba, ovfPba⟩ := tly_counter_not_pba small
  obtain ⟨ovfHi, ovfLo⟩ := tly_ovf_ne small (k / 32) (by omega)
  have hi := counted_registers k n c fold d1 d2 d hiBelow hiEvent hiPba
  have lo := counted_registers k n c fold d1 d2 d loBelow loEvent loPba
  have ovf := counted_registers k n c fold d1 d2 d ovfBelow ovfEvent ovfPba
  have residue := setTly_count small (n % 2 ^ 48) d
  rw [Nat.mod_mod] at residue
  simp only [rb_eq_bitOf]
  by_cases passes : 2 ^ 48 ≤ n
  · simp only [passes, if_true] at hi lo ovf
    refine ⟨?_, ?_, fun _ => ?_, fun below => absurd below (Nat.not_lt.mpr passes)⟩
    · rw [tlyCount, rf_eq_fld, lo, hi, ← rf_eq_fld]
      exact (setOvf_count small small true _).trans residue
    · rw [hi, setOvf_31 small small, if_pos rfl, decide_eq_true passes, Bool.true_or]
    · rw [ovf, setOvf_stat small small, if_pos rfl]
  · simp only [passes, if_false] at hi lo ovf
    refine ⟨?_, ?_, fun above => absurd above passes, fun _ => ?_⟩
    · rw [tlyCount, rf_eq_fld, lo, hi, ← rf_eq_fld]
      exact residue
    · rw [hi, setTly_hi31 small, decide_eq_false passes, Bool.false_or]
    · rw [ovf, setTly_other _ _ ovfHi ovfLo]

/-- EVENT.OVERFLOW of Tally after a count that comes to `n`. -/
theorem counted_event (small : k < 128) (n : Nat) (c : Word) (fold : Bool) (d1 d2 : Word) (d : Dev) :
    (2 ^ 48 ≤ n → rb (counted k n c fold d1 d2 d) (.tly 0) Reg.EVENT Reg.Tly0.EV_OVERFLOW = true) ∧
      (n < 2 ^ 48 → rg (counted k n c fold d1 d2 d) (.tly 0) Reg.EVENT = rg d (.tly 0) Reg.EVENT) := by
  obtain ⟨⟨⟨-, hiEvent⟩, -, loEvent⟩, -, -⟩ := tly_counter_place small
  unfold counted
  refine ⟨fun passes => ?_, fun below => ?_⟩
  · rw [if_pos passes]
    exact (tlyOverflow_facts k c fold d1 d2 _).2
  · rw [if_neg (Nat.not_le.mpr below)]
    exact setTly_other _ _ hiEvent.symm loEvent.symm

/-! ## What ends an overflow (R630) -/

theorem countHiLoad_clears (small : k < 128) (v : Word) (d : Dev) :
    rb (countHiLoad k v d) (tlyPage k) (Reg.Tly1.COUNT_HI (k % 64)) 31 = false ∧
      rb (countHiLoad k v d) (.tly 0) (Reg.Tly0.OVF_STAT (k / 32)) (k % 32) = false := by
  unfold countHiLoad
  simp only [rb_eq_bitOf, setOvf_31 small small, setOvf_stat small small, if_true, and_self]

/-- A write of GLB_CTRL with CLEAR. -/
theorem glbCtrl_clears (small : k < 128) (clear : bitOf v 1 = true) (d : Dev) :
    tlyCount (glbCtrl v d) k = 0 ∧ rb (glbCtrl v d) (tlyPage k) (Reg.Tly1.COUNT_HI (k % 64)) 31 = false ∧
      rb (glbCtrl v d) (.tly 0) (Reg.Tly0.OVF_STAT (k / 32)) (k % 32) = false := by
  unfold glbCtrl
  rw [clear]
  dsimp only
  rw [when_true]
  obtain ⟨count, hi, ovf⟩ := tlyClear_facts small (when (bitOf v 31) (forN (fun p d => if isoOf d (.tly p) then endIso (.tly p) d else d) 4) d)
  generalize forN (fun k d => setOvf k false (setTly k 0 d)) 128 _ = e at count hi ovf
  have hiGlb : tHi k ≠ (Page.tly 0).base + Reg.Tly0.GLB_CTRL := by
    simp only [tHi, tlyPage, Page.base, Reg.Tly1.COUNT_HI, Reg.Tly0.GLB_CTRL]
    omega
  have loGlb : tLo k ≠ (Page.tly 0).base + Reg.Tly0.GLB_CTRL := by
    simp only [tLo, tlyPage, Page.base, Reg.Tly1.COUNT_LO, Reg.Tly0.GLB_CTRL]
    omega
  have ovfGlb : (Page.tly 0).base + Reg.Tly0.OVF_STAT (k / 32) ≠ (Page.tly 0).base + Reg.Tly0.GLB_CTRL := by
    simp only [Reg.Tly0.OVF_STAT, Reg.Tly0.GLB_CTRL]
    omega
  unfold tlyCount at count ⊢
  rw [rb_eq_bitOf, rb_eq_bitOf, rf_eq_fld, rg_glbRun _ _ _ _ hiGlb, rg_glbRun _ _ _ _ loGlb, rg_glbRun _ _ _ _ ovfGlb]
  exact ⟨count, hi, ovf⟩

/-- GLB_CTRL as CLEAR writes it. -/
theorem glbWith_clear (d : Dev) : bitOf (glbWith d 2) 1 = true := by
  unfold glbWith bitOf
  rw [BitVec.getLsbD_or]
  exact Bool.true_or _

end

/-- Settles O22: the count and its overflow (`counted_facts`, `counted_event`), and the two writes that end it. -/
theorem tallyCountsPassToTheResidue : Obligations.TallyCountsPassToTheResidue := by
  unfold Obligations.TallyCountsPassToTheResidue
  intro k x fx d1 d2 s
  dsimp only
  intro runs on listed world
  have small := k.isLt
  obtain ⟨fold, counts⟩ := doTallyCount_counts (d := s.dev) (k := k.val) (x := x) (fx := fx) (d1 := d1) (d2 := d2) rfl runs on listed world rfl
  generalize tlyCount s.dev k.val + tlyAdd _ _ _ _ = n at counts ⊢
  refine ⟨_, onDev_eq_of (g := fun _ => _) counts, on_fuses _ _, on_pending _ _, ?_⟩
  rw [on_dev]
  simp only [tlyCount_cycleEnd, rb_cycleEnd, rg_cycleEnd]
  obtain ⟨count, hi, ovf, ovfStays⟩ := counted_facts small n (rg s.dev (.tly 0) (Reg.Tly0.CFG k.val)) fold d1 d2
    (modTly (fun t => { t with prev := tabSet (fun _ => 0) t.prev k.val (tlyValue s.dev (rg s.dev (.tly 0) (Reg.Tly0.CFG k.val)) x fx) }) s.dev)
  obtain ⟨event, eventStays⟩ := counted_event small n (rg s.dev (.tly 0) (Reg.Tly0.CFG k.val)) fold d1 d2
    (modTly (fun t => { t with prev := tabSet (fun _ => 0) t.prev k.val (tlyValue s.dev (rg s.dev (.tly 0) (Reg.Tly0.CFG k.val)) x fx) }) s.dev)
  refine ⟨count, fun passes => ⟨?_, ovf passes, event passes⟩, fun below => ⟨?_, ovfStays below, eventStays below⟩,
    fun who v granted => ⟨_, onDev_onWrite_granted granted, ?_⟩, fun who granted => ⟨_, onDev_onWrite_granted granted, ?_⟩⟩
  · rw [hi, decide_eq_true passes, Bool.true_or]
  · rw [hi, decide_eq_false (Nat.not_le.mpr below), Bool.false_or]
    rfl
  · rw [on_dev, rb_cycleEnd, rb_cycleEnd]
    exact countHiLoad_clears small v _
  · rw [on_dev, tlyCount_cycleEnd, rb_cycleEnd, rb_cycleEnd]
    exact glbCtrl_clears small (glbWith_clear _) _

section
variable {k n : Nat} {v w : Word} {d e : Dev}

/-! ## The halves of a count (R632) -/

theorem tlyCount_lt (d : Dev) (k : Nat) : tlyCount d k < 2 ^ 48 := by
  have lo : (rg d (tlyPage k) (Reg.Tly1.COUNT_LO (k % 64))).toNat < 2 ^ 32 := BitVec.isLt _
  have hi : rf d (tlyPage k) (Reg.Tly1.COUNT_HI (k % 64)) 15 0 < 2 ^ 16 := Nat.mod_lt _ (by decide)
  unfold tlyCount
  omega

theorem countLo_captures (k : Nat) (d : Dev) :
    tabGet (fun _ => none) (countLo k d).2.tly.cap (k / 64) = some (k, tlyCount d k) := by
  simp only [countLo, modTly, tabGet_set, if_true]

theorem countLoHold_holds (k : Nat) (v : Word) (d : Dev) : tabGet (fun _ => none) (countLoHold k v d).tly.held k = some v := by
  simp only [countLoHold, modTly, tabGet_set, if_true]

/-- A read of COUNT_HI of the counter that was captured. -/
theorem countHi_captured (capture : tabGet (fun _ => none) d.tly.cap (k / 64) = some (k, n)) :
    (countHi k d).1 = setFld (rg d (tlyPage k) (Reg.Tly1.COUNT_HI (k % 64))) 15 0 (n / 2 ^ 32) := by
  simp only [countHi, capture, if_true]

/-- The captured half, and the present OVF beside it. -/
theorem captured_halves (v : Word) (small : n < 2 ^ 48) :
    ((setFld v 15 0 (n / 2 ^ 32)).setWidth 64).toNat % 2 ^ 16 = n / 2 ^ 32 ∧
      ((setFld v 15 0 (n / 2 ^ 32)).setWidth 64).toNat.testBit 31 = bitOf v 31 := by
  have low := fld_setFld_same v (hi := 15) (lo := 0) (n / 2 ^ 32) (by decide) (by decide)
  have top := bitOf_setFld v (hi := 15) (lo := 0) (n / 2 ^ 32) 31 (by decide) (by decide)
  rw [BitVec.toNat_setWidth_of_le (by decide)]
  refine ⟨?_, top.trans (if_neg (by decide))⟩
  unfold fld at low
  omega

/-- A write of COUNT_HI loads the half that was held. -/
theorem countHiLoad_count (small : k < 128) (held : tabGet (fun _ => none) d.tly.held k = some v) :
    tlyCount (countHiLoad k w d) k = v.toNat + 2 ^ 32 * fld w 15 0 := by
  have lo : v.toNat < 2 ^ 32 := v.isLt
  have hi : fld w 15 0 < 2 ^ 16 := Nat.mod_lt _ (by decide)
  simp only [countHiLoad, held]
  rw [setOvf_count small small, setTly_count small]
  omega

theorem tly_cycleEnd (d : Dev) : (cycleEnd d).tly = d.tly := by simp only [cycleEnd_keeps]

/-- What a capture or a held half, and the answer of a read, leave at the end of the cycle. -/
theorem cycleEnd_modTly (f : TlyS → TlyS) (d : Dev) : { cycleEnd (modTly f d) with tly := (cycleEnd d).tly } = cycleEnd d := by
  obtain ⟨S, T, quiet, same⟩ := cycleEnd_form d
  rw [same (modTly f d) rfl rfl rfl, quiet]
  rfl

end

/-- Settles O23: a read of COUNT_LO captures what COUNT_HI gives (`captured_halves`), a write of it is held for COUNT_HI's
(`countHiLoad_count`). -/
theorem tallyHalvesMoveTogether : Obligations.TallyHalvesMoveTogether := by
  unfold Obligations.TallyHalvesMoveTogether
  intro who k s
  have small := k.isLt
  refine ⟨fun granted => ?_, fun v granted => ⟨_, onDev_onWrite_granted granted, ?_⟩⟩
  · have reads : exec (.countLoRead who k) s = .next (s.on fun d =>
        { (countLo k.val (gpIntervene (tlyPage k.val) d)).2 with
          resp := (countLo k.val (gpIntervene (tlyPage k.val) d)).1.setWidth 64 }) := onDev_eq_of (onRead_granted granted)
    refine ⟨_, reads, ?_⟩
    dsimp only
    rw [on_dev, cycleEnd_resp, tlyCount_cycleEnd]
    refine ⟨?_, ?_, fun r same addr q land aim granted' => ⟨_, registerRead_granted land aim granted', ?_⟩⟩
    · exact (BitVec.toNat_setWidth_of_le (by decide)).trans (BitVec.toNat_ofNat _ _)
    · exact congrArg (fun d : Dev => { d with resp := (cycleEnd (gpIntervene (tlyPage k.val) s.dev)).resp }) (cycleEnd_modTly _ _)
    · have capture : tabGet (fun _ => none) (gpIntervene (tlyPage k.val) r.dev).tly.cap (k.val / 64) =
          some (k.val, tlyCount (gpIntervene (tlyPage k.val) s.dev) k.val) := by
        rw [tly_gpIntervene, same, tly_cycleEnd]
        exact countLo_captures _ _
      rw [on_dev, cycleEnd_resp, tly_hi_read small, countHi_captured capture]
      exact captured_halves _ (tlyCount_lt _ _)
  · rw [on_dev]
    refine ⟨cycleEnd_modTly _ _, fun w r same granted' => ⟨_, onDev_onWrite_granted granted', ?_⟩⟩
    rw [on_dev, tlyCount_cycleEnd]
    refine countHiLoad_count small ?_
    rw [tly_gpIntervene, same, tly_cycleEnd]
    exact countLoHold_holds _ _ _

end Sys2Proof.Machine
end

section
/-! The family `19_balls_and_package.md`: The GPIO balls (R653). -/
namespace Sys2Proof.Machine

/-- Settles O60: an edge acts of itself, and the clearing write by its granted access. -/
theorem gpioCommandsAnswer : Obligations.GpioCommandsAnswer := by
  unfold Obligations.GpioCommandsAnswer
  exact ⟨fun n level s => onDev_eq _ s, fun who v s granted => onDev_onWrite_granted granted⟩

end Sys2Proof.Machine
end

section
/-! The family `95_what_each_step_holds.md`: The queue and its steps. -/
namespace Sys2Proof.Machine

/-- Settles O1. -/
theorem stepRunsTheFrontCommand : Obligations.StepRunsTheFrontCommand := by
  unfold Obligations.StepRunsTheFrontCommand
  exact fun c rest s h => step_cons c rest s h

/-- A step on an empty queue lets the device idle. -/
theorem step_nil (s : State) (h : s.pending = []) : step s = onDev idle s := by
  simp only [step, h]

/-- Settles O2. -/
theorem stepIdlesOnAnEmptyQueue : Obligations.StepIdlesOnAnEmptyQueue := by
  unfold Obligations.StepIdlesOnAnEmptyQueue
  intro s h
  rw [step_nil s h, onDev_eq]

/-- A run of one step more, where the first step answers a next state, is the run from that state. -/
theorem run_succ_of_step {s t : State} (n : Nat) (h : step s = .next t) :
    Host.Core.run core (n + 1) s = Host.Core.run core n t := by
  have hc : core.step s = .next t := h
  simp only [Host.Core.run, hc]

/-- Where the front command answers a next state, the rest of the list is taken from it. -/
theorem takenInOrder_cons {c : Instr} {cs : List Instr} {s t : State} (h : exec c { s with pending := cs } = .next t) :
    takenInOrder (c :: cs) s = takenInOrder cs t := by
  simp only [takenInOrder, h]

/-- Settles O4, by induction on the queue: no command faults and none touches the queue's rest (`exec_cases`), so each
step leaves the state the next command is taken on. -/
theorem queueIsTakenInOrder : Obligations.QueueIsTakenInOrder := by
  unfold Obligations.QueueIsTakenInOrder
  intro cs
  induction cs with
  | nil => exact fun s h => ⟨s, rfl, rfl, h⟩
  | cons c cs ih =>
    intro s h
    obtain ⟨t, hexec, hpending, -⟩ := exec_cases c { s with pending := cs }
    obtain ⟨u, htaken, hrun, hempty⟩ := ih t hpending
    have hstep : step s = .next t := (step_cons c cs s h).trans hexec
    exact ⟨u, (takenInOrder_cons hexec).trans htaken, (run_succ_of_step cs.length hstep).trans hrun, hempty⟩

/-- Settles O5. -/
theorem noWordSpellsACommand : Obligations.NoWordSpellsACommand := by
  unfold Obligations.NoWordSpellsACommand
  exact fun _ _ _ => ⟨rfl, rfl⟩

end Sys2Proof.Machine
end
